-- ==== Sys2Proof/Word.lean ====
section
/-! DEFINITION. Word.lean: the word types of the OD1 (00_scope.md R10: little-endian multi-byte fields,
bit 0 least significant). -/

namespace Sys2Proof

abbrev Byte := BitVec 8
abbrev W32 := BitVec 32
abbrev W64 := BitVec 64

/-- Bits `[hi:lo]` of a number, as a number. -/
def bits (v hi lo : Nat) : Nat := (v >>> lo) % 2 ^ (hi - lo + 1)

/-- Bit `i` of a number. -/
def bitAt (v i : Nat) : Bool := v.testBit i

end Sys2Proof
end

