-- ==== Sys2Proof/Syntax.lean ====
section
/-! DEFINITION. Syntax.lean: the commands of the OD1, one constructor for each row of spec/opcode_table.json,
with the operands that the row's rule gives it. What the outside decides (an arriving frame, a sensor reading,
data that another device or the host returns) comes as an operand. -/

namespace Sys2Proof

/-- Who makes a register access (15_reliability_and_records.md Table 15.10; 17_register_reference.md Table 17.12). -/
inductive Origin where
  | pf0
  | vf (n : Nat)
  | core (n : Nat)
  | link
  | debug
  | island
  deriving DecidableEq, Repr

/-- Bit errors found in one tile-store word (03_engines_and_formats.md R61, R65), by what the SEC-DED syndrome over its 65 bits
says: none; a single bit (of the 73 stored), which is corrected; a single bit where three or more are wrong, so that the
correction leaves the word changed by `flips` (64 data bits, then the full/empty bit); or any other syndrome, where the word is
read with `flips`. -/
inductive TileErr where
  | none
  | single (bit : Nat)
  | miss (flips : BitVec 65)
  | other (flips : BitVec 65)
  deriving DecidableEq, Repr

/-- What another device answers to one read of an instruction: its data, the blocks of 256 bytes that are poisoned, or the error
code with which the read ends (04_engine_instruction_set.md Table 4.17; 0 for none). -/
structure Remote where
  data : List Byte := []
  bad : List Nat := []
  code : Nat := 0
  deriving DecidableEq, Repr

/-- What an instruction meets as it executes: bit errors that its reads find in words of its tile store, which of its transfers
over the router (counted from 0) are discarded for a parity error (03 R68), the pages whose table walk finds no answer in time (08
R225), and what other devices answer, in the order of the reads. -/
structure Met where
  upsets : List (Nat × TileErr) := []
  lost : List Nat := []
  slow : List Nat := []
  remote : List Remote := []
  deriving DecidableEq, Repr

/-- The fields of one Berkoem instruction word but for its opcode, which the constructor gives
(04_engine_instruction_set.md Table 4.1), and what the instruction meets, which is no part of the word. -/
structure Fields where
  pg : Nat := 0
  pn : Bool := false
  rnd : Nat := 0
  rsvLo : Nat := 0
  d : Nat := 0
  a : Nat := 0
  b : Nat := 0
  c : Nat := 0
  cg : Nat := 0
  fence : Bool := false
  feSet : Bool := false
  feWait : Bool := false
  feClear : Bool := false
  sub : Nat := 0
  rsvHi : Nat := 0
  imm : W64 := 0
  met : Met := {}
  deriving DecidableEq, Repr

/-- The seal field of a sealed frame (09_phisal_wire_and_connections.md R267). -/
structure Seal where
  dev : Nat
  port : Nat
  boot : Nat
  count : Nat
  epoch : Nat
  tag : List Byte
  deriving DecidableEq, Repr

/-- A Phisal frame as it arrives (09 Tables 9.1 to 9.4): the outer fields the checks read, the header, the
extension words, the payload as on the wire and the integrity check. The opcode is the constructor's. -/
structure Pkt where
  port : Nat := 0
  encap : Nat := 0
  srcIp : Nat := 0
  dstIp : Nat := 0
  udpPort : Nat := 0
  srcMac : Nat := 0
  ce : Bool := false
  udpSumOk : Bool := true
  version : Nat := 1
  flags : Nat := 0
  path : Nat := 0
  pkey : Nat := 0
  msgSeq : Nat := 0
  dstConn : Nat := 0
  extLen : Nat := 0
  psn : Nat := 0
  raddr : Nat := 0
  msgOff : Nat := 0
  mkey : Nat := 0
  ext : List W32 := []
  sealed : Option Seal := none
  payload : List Byte := []
  icrc : W32 := 0
  deriving DecidableEq, Repr

/-- An Ethernet frame as a port receives it (11_ethernet_ports.md R307, R309, R310), with the codewords that RS-FEC corrected and gave
up, and the symbols it corrected on a lane, since the frame before it (R317). -/
structure EthFrame where
  bytes : Nat
  codeErr : Bool := false
  fcsOk : Bool := true
  dst : Nat
  src : Nat := 0
  pcp : Option Nat := none
  dscp : Option Nat := none
  control : Option Nat := none
  lldp : Bool := false
  phisal : Bool := false
  body : List Byte := []
  fecCe : Nat := 0
  fecUe : Nat := 0
  symErr : List (Nat × Nat) := []
  deriving DecidableEq, Repr

/-- A collective chunk header (06_fused_collectives.md Table 6.7). -/
structure ChunkHdr where
  inst : Nat
  seq : Nat
  opcode : Nat
  redOp : Nat
  compressed : Bool
  root : Nat
  src : Nat
  index : Nat
  bytes : Nat
  total : Nat
  digest : W32
  deriving DecidableEq, Repr

/-- What the Scrim saw in one product instruction (15 R387 to R389): no mismatch, or a mismatch at an output
tile whose re-run gives one of the three outcomes of Table 15.1, or whose re-run is still pending: the instruction then issues
again. `slice` is 255 for the checksum path. -/
inductive Scrim where
  | clean
  | pending (tile slice : Nat)
  | samePass (tile slice : Nat)
  | otherPass (tile slice : Nat)
  | again (tile slice : Nat)
  deriving DecidableEq, Repr

/-- A disturbed stored symbol seen by one read of a line (07_hbm_memory.md R193). -/
structure Noise where
  pos : Nat
  code : Nat
  xor : Byte
  deriving DecidableEq, Repr

/-- Who makes a line access (07 Table 7.3, 17 Table 17.20 HBM 0x01). -/
inductive Requester where
  | engine (e x : Nat)
  | remote
  | hostDma
  | core (n : Nat)
  | walker
  | ctxFill
  | sander
  deriving DecidableEq, Repr

/-- A bit error that a core's access meets in the L2 or the L3 (14 R369): corrected, uncorrectable in a clean line, or uncorrectable in
a modified line, whose 64 bytes are as they were written. -/
inductive CacheErr where
  | none
  | corrected
  | clean
  | modified (data : List Byte)
  deriving DecidableEq, Repr

/-- The commands of the OD1, in the order of spec/opcode_table.json; each docstring names the row's rule. -/
inductive Instr where
  /-- R44: TICK_BOUNDARY. -/
  | tickBoundary
  /-- R42: TICK_LENGTH_APPLY. -/
  | tickLengthApply
  /-- R46: LAUNCH_START. -/
  | launchStart (e x : Nat)
  /-- R84: CONTEXT_SWITCH_COMPLETE. -/
  | contextSwitchComplete (e : Nat)
  /-- R86: MIGRATION_COPY_COMPLETE. -/
  | migrationCopyComplete (e : Nat)
  /-- R37: PLUMB_MARK_SEND. -/
  | plumbMarkSend (i : Nat)
  /-- R36: PLUMB_ENTRY_SILENT. -/
  | plumbEntrySilent (i : Nat)
  /-- R37: PLUMB_MARK. -/
  | plumbMark (p : Pkt)
  /-- R38: PLUMB_ANSWER. -/
  | plumbAnswer (p : Pkt)
  /-- R37: PLUMB_PARTNER_EXPIRE. -/
  | plumbPartnerExpire (port dev : Nat)
  /-- R39: HOLDOVER_EVENT. -/
  | holdoverEvent
  /-- R35: PLUMB_LOAD. -/
  | plumbLoad (o : Origin) (v : W64)
  /-- R25: PLANE_RETIRE. -/
  | planeRetire (p : Nat)
  /-- R26: PLANE_RETURN. -/
  | planeReturn (p : Nat)
  /-- R25: PLANE_FINAL_MARKER. -/
  | planeFinalMarker (src dst : Nat)
  /-- R25: PLANE_FAIL_TIMEOUT. -/
  | planeFailTimeout
  /-- R24: NOC_FENCE_MARKER. -/
  | nocFenceMarker (src dst p : Nat)
  /-- R67: ROUTER_INBOUND_TRANSFER. -/
  | routerInboundTransfer (src p e x off : Nat) (fn : Option Nat) (data : List Byte) (fence poison parityErr : Bool)
  /-- R66: TILE_SCRUB. -/
  | tileScrub (t w : Nat) (err : TileErr)
  /-- R66: FORCED_SCRUB_CYCLE. -/
  | forcedScrubCycle (t w : Nat) (err : TileErr)
  /-- R98: NOP. -/
  | nop (e x : Nat) (f : Fields)
  /-- R124: SLICE_END. -/
  | sliceEnd (e x : Nat) (f : Fields)
  /-- R124: HALT. -/
  | halt (e x : Nat) (f : Fields)
  /-- R124: LAUNCH_COMPLETE. -/
  | launchComplete (e x : Nat)
  /-- R99: BR. -/
  | br (e x : Nat) (f : Fields)
  /-- R98: LOOP. -/
  | loop (e x : Nat) (f : Fields)
  /-- R99: PLUMB_RD. -/
  | plumbRd (e x : Nat) (f : Fields)
  /-- R98: FLAGS_RD. -/
  | flagsRd (e x : Nat) (f : Fields)
  /-- R98: FLAGS_CLR. -/
  | flagsClr (e x : Nat) (f : Fields)
  /-- R99: EVENT. -/
  | event (e x : Nat) (f : Fields)
  /-- R100: REGROUP. -/
  | regroup (e x : Nat) (f : Fields)
  /-- R101: MBX_RD. -/
  | mbxRd (e x : Nat) (f : Fields)
  /-- R98: S_LI. -/
  | sLi (e x : Nat) (f : Fields)
  /-- R98: S_ADD. -/
  | sAdd (e x : Nat) (f : Fields)
  /-- R98: S_SUB. -/
  | sSub (e x : Nat) (f : Fields)
  /-- R98: S_MUL. -/
  | sMul (e x : Nat) (f : Fields)
  /-- R98: S_AND. -/
  | sAnd (e x : Nat) (f : Fields)
  /-- R98: S_OR. -/
  | sOr (e x : Nat) (f : Fields)
  /-- R98: S_XOR. -/
  | sXor (e x : Nat) (f : Fields)
  /-- R98: S_SHL. -/
  | sShl (e x : Nat) (f : Fields)
  /-- R98: S_SHR. -/
  | sShr (e x : Nat) (f : Fields)
  /-- R98: S_SAR. -/
  | sSar (e x : Nat) (f : Fields)
  /-- R102: S_CMP. -/
  | sCmp (e x : Nat) (f : Fields)
  /-- R102: S_LD. -/
  | sLd (e x : Nat) (f : Fields)
  /-- R102: S_ST. -/
  | sSt (e x : Nat) (f : Fields)
  /-- R102: P_OP. -/
  | pOp (e x : Nat) (f : Fields)
  /-- R103: TD_LD. -/
  | tdLd (e x : Nat) (f : Fields)
  /-- R103: TD_ST. -/
  | tdSt (e x : Nat) (f : Fields)
  /-- R103: TD_SETF. -/
  | tdSetf (e x : Nat) (f : Fields)
  /-- R103: TD_GETF. -/
  | tdGetf (e x : Nat) (f : Fields)
  /-- R103: TD_ADDB. -/
  | tdAddb (e x : Nat) (f : Fields)
  /-- R98: TD_COPY. -/
  | tdCopy (e x : Nat) (f : Fields)
  /-- R105: MOV. -/
  | mov (e x : Nat) (f : Fields)
  /-- R105: FILL. -/
  | fill (e x : Nat) (f : Fields)
  /-- R109: MMA. -/
  | mma (e x : Nat) (f : Fields) (sc : Scrim)
  /-- R109: MMA_T. -/
  | mmaT (e x : Nat) (f : Fields) (sc : Scrim)
  /-- R98: ACC_ZERO. -/
  | accZero (e x : Nat) (f : Fields)
  /-- R110: ACC_ST. -/
  | accSt (e x : Nat) (f : Fields)
  /-- R110: ACC_LD. -/
  | accLd (e x : Nat) (f : Fields)
  /-- R111: V_ADD. -/
  | vAdd (e x : Nat) (f : Fields)
  /-- R111: V_SUB. -/
  | vSub (e x : Nat) (f : Fields)
  /-- R111: V_MUL. -/
  | vMul (e x : Nat) (f : Fields)
  /-- R111: V_FMA. -/
  | vFma (e x : Nat) (f : Fields)
  /-- R111: V_MIN. -/
  | vMin (e x : Nat) (f : Fields)
  /-- R111: V_MAX. -/
  | vMax (e x : Nat) (f : Fields)
  /-- R102: V_CMP. -/
  | vCmp (e x : Nat) (f : Fields)
  /-- R112: V_FN. -/
  | vFn (e x : Nat) (f : Fields)
  /-- R112: V_CVT. -/
  | vCvt (e x : Nat) (f : Fields)
  /-- R112: V_RED. -/
  | vRed (e x : Nat) (f : Fields)
  /-- R111: V_SEL. -/
  | vSel (e x : Nat) (f : Fields)
  /-- R107: TOPK. -/
  | topk (e x : Nat) (f : Fields)
  /-- R106: GATHER. -/
  | gather (e x : Nat) (f : Fields)
  /-- R106: SCATTER. -/
  | scatter (e x : Nat) (f : Fields)
  /-- R106: SCATTER_ADD. -/
  | scatterAdd (e x : Nat) (f : Fields)
  /-- R106: COMPACT. -/
  | compact (e x : Nat) (f : Fields)
  /-- R118: FE_WAIT. -/
  | feWait (e x : Nat) (f : Fields)
  /-- R118: FE_WAITE. -/
  | feWaite (e x : Nat) (f : Fields)
  /-- R118: FE_WAIT_COMPLETE. -/
  | feWaitComplete (e x : Nat)
  /-- R212: SYNC_WAIT_RETRY. -/
  | syncWaitRetry (e x : Nat)
  /-- R119: FE_WAIT_STALL. -/
  | feWaitStall (e x : Nat)
  /-- R116: FE_SET. -/
  | feSet (e x : Nat) (f : Fields)
  /-- R116: FE_CLR. -/
  | feClr (e x : Nat) (f : Fields)
  /-- R120: FE_TEST. -/
  | feTest (e x : Nat) (f : Fields)
  /-- R122: FENCE. -/
  | fence (e x : Nat) (f : Fields)
  /-- R122: FENCE_COMPLETE. -/
  | fenceComplete (e x : Nat)
  /-- R129: CONTEXT_FAULT_HALT. -/
  | contextFaultHalt (e x : Nat)
  /-- R160: MMA_REDUCE. -/
  | mmaReduce (e x : Nat) (f : Fields) (sc : Scrim)
  /-- R160: BCAST_MMA. -/
  | bcastMma (e x : Nat) (f : Fields)
  /-- R175: REDUCE. -/
  | reduce (e x : Nat) (f : Fields)
  /-- R170: BCAST. -/
  | bcast (e x : Nat) (f : Fields)
  /-- R176: LSE_REDUCE. -/
  | lseReduce (e x : Nat) (f : Fields)
  /-- R156: ATTN_BLOCK. -/
  | attnBlock (e x : Nat) (f : Fields)
  /-- R147: DISPATCH. -/
  | dispatch (e x : Nat) (f : Fields)
  /-- R152: DISPATCH_COMPLETE. -/
  | dispatchComplete (e x : Nat)
  /-- R153: COMBINE. -/
  | combine (e x : Nat) (f : Fields)
  /-- R153: COMBINE_COMPUTE. -/
  | combineCompute (e x : Nat)
  /-- R169: CHUNK_PLACED. -/
  | chunkPlaced (g r j : Nat) (h : ChunkHdr) (data : List Byte) (bad : List Nat)
  /-- R169: CHUNK_COMBINE. -/
  | chunkCombine (g r : Nat)
  /-- R169: CHUNK_SEND. -/
  | chunkSend (g r : Nat)
  /-- R170: READY_WORD_PLACED. -/
  | readyWordPlaced (g r j seq : Nat)
  /-- R170: BCAST_CHUNK_FORWARD. -/
  | bcastChunkForward (g r : Nat)
  /-- R172: ABANDON_WORD_PLACED. -/
  | abandonWordPlaced (g r src seq code : Nat)
  /-- R171: INSTANCE_COMPLETE. -/
  | instanceComplete (g r : Nat) (sc : Scrim)
  /-- R180: COLLECTIVE_STALL. -/
  | collectiveStall (g r : Nat)
  /-- R181: CG_CANCEL. -/
  | cgCancel (o : Origin) (g : Nat)
  /-- R184: SNAPSHOT_ARM. -/
  | snapshotArm (o : Origin) (tick : W64)
  /-- R453: SNAPSHOT_CAPTURE. -/
  | snapshotCapture
  /-- R185: DOMAIN_RESET_START. -/
  | domainResetStart (o : Origin) (g : Nat)
  /-- R265: DOMRST. -/
  | domrst (p : Pkt)
  /-- R185: DOMRST_ACK. -/
  | domrstAck (p : Pkt)
  /-- R185: DOMRST_ACK_TIMEOUT. -/
  | domrstAckTimeout
  /-- R54: RECORD_START. -/
  | recordStart (r : Nat)
  /-- R58: REPLAY_START. -/
  | replayStart (r : Nat)
  /-- R458: REPLAY_STOP. -/
  | replayStop (r : Nat)
  /-- R59: REPLAY_INPUT_TIMEOUT. -/
  | replayInputTimeout (r : Nat)
  /-- R458: CONTEXT_HOLD. -/
  | contextHold (o : Origin) (e x : Nat)
  /-- R458: CONTEXT_RELEASE. -/
  | contextRelease (o : Origin) (e x : Nat)
  /-- R121: DBG_FE_READ. -/
  | dbgFeRead (o : Origin)
  /-- R121: DBG_FE_WRITE_KEEP. -/
  | dbgFeWriteKeep (o : Origin)
  /-- R121: DBG_FE_WRITE_FULL. -/
  | dbgFeWriteFull (o : Origin)
  /-- R121: DBG_FE_WRITE_EMPTY. -/
  | dbgFeWriteEmpty (o : Origin)
  /-- R121: DBG_FE_SET_FULL. -/
  | dbgFeSetFull (o : Origin)
  /-- R121: DBG_FE_SET_EMPTY. -/
  | dbgFeSetEmpty (o : Origin)
  /-- R194: HBM_READ. -/
  | hbmRead (r : Requester) (off : Nat) (noise : List Noise)
  /-- R194: HBM_WRITE. -/
  | hbmWrite (r : Requester) (off : Nat) (data : List Byte) (poison : Bool)
  /-- R197: HBM_PARTIAL_WRITE. -/
  | hbmPartialWrite (r : Requester) (off : Nat) (parts : List (Nat × List Byte)) (noise : List Noise)
  /-- R199: SANDER_SCRUB. -/
  | sanderScrub (m lam : Nat) (noise : List Noise)
  /-- R200: SANDER_INIT. -/
  | sanderInit (m : Nat)
  /-- R201: DIE_RETIRE. -/
  | dieRetire (m : Nat) (lost : Option Nat)
  /-- R201: HBM_DIE_RETIRE. -/
  | hbmDieRetire (o : Origin) (m die : Nat)
  /-- R202: SANDER_REBUILD_STEP. -/
  | sanderRebuildStep (m : Nat) (noise : List Noise)
  /-- R206: HBM_REPAIR_CMD. -/
  | hbmRepairCmd (o : Origin) (m pc bank row : Nat)
  /-- R206: ROW_REPAIR_START. -/
  | rowRepairStart (m : Nat)
  /-- R206: ROW_REPAIR_COMPLETE. -/
  | rowRepairComplete (m : Nat)
  /-- R208: DIAG_RAW_READ. -/
  | diagRawRead (o : Origin)
  /-- R208: DIAG_RAW_WRITE. -/
  | diagRawWrite (o : Origin)
  /-- R209: DIAG_ARM_FLIP. -/
  | diagArmFlip (o : Origin)
  /-- R209: DIAG_DISARM. -/
  | diagDisarm (o : Origin)
  /-- R229: WALK_START. -/
  | walkStart (w : Nat)
  /-- R229: WALK_COMPLETE. -/
  | walkComplete (w : Nat)
  /-- R225: WALK_TIMEOUT. -/
  | walkTimeout (w : Nat)
  /-- R228: XLT_SWEEP_VISIT. -/
  | xltSweepVisit (set : Nat)
  /-- R231: INV_TAG. -/
  | invTag (o : Origin) (fn tag : Nat) (notify : Bool)
  /-- R231: INV_FUNCTION. -/
  | invFunction (o : Origin) (fn : Nat) (notify : Bool)
  /-- R231: INV_FUNCTION_RELOAD. -/
  | invFunctionReload (o : Origin) (fn : Nat) (notify : Bool)
  /-- R231: INV_COMPLETE. -/
  | invComplete (win : Nat)
  /-- R230: XLT_FAULT_ACK. -/
  | xltFaultAck (o : Origin)
  /-- R235: ATS_COMPLETION. -/
  | atsCompletion (fn va xlated log2 : Nat) (ok rd wr : Bool)
  /-- R235: ATS_TIMEOUT. -/
  | atsTimeout (fn va : Nat)
  /-- R236: ATS_INVALIDATE. -/
  | atsInvalidate (fn : Nat)
  /-- R236: ATS_INV_COMPLETE. -/
  | atsInvComplete (fn : Nat)
  /-- R278: WRITE. -/
  | write (p : Pkt)
  /-- R249: READ_REQ. -/
  | readReq (p : Pkt)
  /-- R285: READ_RESP. -/
  | readResp (p : Pkt)
  /-- R283: FLUSH. -/
  | flush (p : Pkt)
  /-- R249: DISPATCH_PACKET. -/
  | dispatchPacket (p : Pkt)
  /-- R287: ACK. -/
  | ack (p : Pkt)
  /-- R286: NAK. -/
  | nak (p : Pkt)
  /-- R262: CONN_REQ. -/
  | connReq (p : Pkt)
  /-- R262: CONN_ACCEPT. -/
  | connAccept (p : Pkt)
  /-- R262: CONN_REJECT. -/
  | connReject (p : Pkt)
  /-- R263: CONN_CLOSE. -/
  | connClose (p : Pkt)
  /-- R263: CONN_CLOSED. -/
  | connClosed (p : Pkt)
  /-- R276: PACKET_SEND. -/
  | packetSend (c : Nat)
  /-- R287: GAP_TIMER_EXPIRY. -/
  | gapTimerExpiry (c : Nat)
  /-- R287: RETRANSMIT_TIMEOUT. -/
  | retransmitTimeout (c : Nat)
  /-- R288: REORDER_DEADLINE. -/
  | reorderDeadline (c : Nat)
  /-- R289: BUSY_RESEND. -/
  | busyResend (c : Nat)
  /-- R262: CONN_REQ_RESEND. -/
  | connReqResend (c : Nat)
  /-- R262: CONN_OPEN_TIMEOUT. -/
  | connOpenTimeout (c : Nat)
  /-- R263: CLOSING_TIMEOUT. -/
  | closingTimeout (c : Nat)
  /-- R261: CONN_CMD_OPEN. -/
  | connCmdOpen (o : Origin) (c : Nat)
  /-- R263: CONN_CMD_CLOSE. -/
  | connCmdClose (o : Origin) (c : Nat)
  /-- R264: CONN_CMD_FORCE_CLOSE. -/
  | connCmdForceClose (o : Origin) (c : Nat)
  /-- R271: CONN_CMD_VIEW. -/
  | connCmdView (o : Origin) (c : Nat)
  /-- R257: MR_INVALIDATE. -/
  | mrInvalidate (o : Origin) (i : Nat)
  /-- R257: MR_INV_COMPLETE. -/
  | mrInvComplete
  /-- R268: SEAL_EPOCH_STAGE. -/
  | sealEpochStage (o : Origin) (n : Nat) (epoch : W32)
  /-- R268: KEY_DERIVATION_COMPLETE. -/
  | keyDerivationComplete (n : Nat)
  /-- R297: CTX_FILL_COMPLETE. -/
  | ctxFillComplete (c : Nat) (bad : Bool)
  /-- R296: CTX_SWEEP_VISIT. -/
  | ctxSweepVisit (slice set way : Nat)
  /-- R300: FRAME_RECEIVE. -/
  | frameReceive (q : Nat) (f : EthFrame)
  /-- R300: FRAME_DELIVER. -/
  | frameDeliver (q p : Nat)
  /-- R311: PFC_REPEAT. -/
  | pfcRepeat (q p : Nat)
  /-- R312: PFC_RECEIVE. -/
  | pfcReceive (q en : Nat) (quanta : List Nat)
  /-- R312: PAUSE_EXPIRY. -/
  | pauseExpiry (q p : Nat)
  /-- R313: PAUSE_LIMIT. -/
  | pauseLimit (q p : Nat)
  /-- R314: PAUSE_WATCHDOG. -/
  | pauseWatchdog (q p : Nat)
  /-- R314: STALL_END. -/
  | stallEnd (q p : Nat)
  /-- R301: FRAME_TRANSMIT. -/
  | frameTransmit (q : Nat)
  /-- R315: LPI_ENTER. -/
  | lpiEnter (q : Nat)
  /-- R315: LPI_WAKE. -/
  | lpiWake (q : Nat)
  /-- R315: LPI_NEGOTIATION_COMPLETE. -/
  | lpiNegotiationComplete (q wakeUs : Nat)
  /-- R318: LOCAL_FAULT. -/
  | localFault (q : Nat)
  /-- R318: LINK_DOWN. -/
  | linkDown (q : Nat)
  /-- R318: FAULT_CLEAR. -/
  | faultClear (q : Nat)
  /-- R318: LINK_UP. -/
  | linkUp (q : Nat)
  /-- R319: HOLD_EXPIRY. -/
  | holdExpiry (q : Nat)
  /-- R306: PORT_MODE_CHANGE. -/
  | portModeChange (q : Nat)
  /-- R323: DESCRIPTOR_ISSUE. -/
  | descriptorIssue
  /-- R347: WQ_DOORBELL. -/
  | wqDoorbell (fn slot : Nat) (v : W32)
  /-- R349: CQ_CONSUMER_WRITE. -/
  | cqConsumerWrite (fn slot : Nat) (v : W32)
  /-- R356: EVQ_DOORBELL. -/
  | evqDoorbell (fn slot count : Nat) (arm : Bool)
  /-- R346: DESCRIPTOR_FETCH. -/
  | descriptorFetch (q : Nat) (host : List Byte)
  /-- R344: WD_NOP. -/
  | wdNop (q n : Nat)
  /-- R344: WD_COPY. -/
  | wdCopy (q n : Nat) (src : List Byte) (bad : Bool)
  /-- R344: WD_WRITE. -/
  | wdWrite (q n : Nat) (src : List Byte)
  /-- R344: WD_READ. -/
  | wdRead (q n : Nat)
  /-- R283: WD_FLUSH. -/
  | wdFlush (q n : Nat)
  /-- R351: LAUNCH. -/
  | launch (q n : Nat)
  /-- R343: WQ_LOAD. -/
  | wqLoad (q n : Nat)
  /-- R350: WQ_DISABLE. -/
  | wqDisable (q n : Nat)
  /-- R354: EVQ_LOAD. -/
  | evqLoad (q n : Nat)
  /-- R362: FN_REMOVE. -/
  | fnRemove (q n : Nat)
  /-- R349: DESCRIPTOR_COMPLETE. -/
  | descriptorComplete (q n : Nat)
  /-- R356: MSIX_SEND. -/
  | msixSend (v : Nat)
  /-- R356: MSIX_VECTOR_UNMASK. -/
  | msixVectorUnmask (fn v : Nat)
  /-- R340: PCIE_COMPLETION. -/
  | pcieCompletion (ctl tag : Nat) (data : List Byte) (bad : Bool)
  /-- R340: COMPLETION_TIMEOUT. -/
  | completionTimeout (ctl tag : Nat)
  /-- R363: FLR. -/
  | flr (fn : Nat)
  /-- R363: FLR_BOUND. -/
  | flrBound (fn : Nat)
  /-- R338: VF_ENABLE. -/
  | vfEnable (num : Nat) (en : Bool)
  /-- R410: CONTROLLER_RESET. -/
  | controllerReset (ctl : Nat)
  /-- R339: ROOT_PORT_INBOUND. -/
  | rootPortInbound (ctl addr len : Nat) (data : Option (List Byte)) (xl : Bool)
  /-- R358: MBX_SEND. -/
  | mbxSend (o : Origin) (vf : Nat) (control : Bool)
  /-- R358: MBX_DELIVER. -/
  | mbxDeliver (vf : Nat) (fromPf : Bool)
  /-- R358: MBX_ACK. -/
  | mbxAck (o : Origin) (vf : Nat)
  /-- R358: MBX_CANCEL. -/
  | mbxCancel (o : Origin) (vf : Nat)
  /-- R358: MBX_TIMEOUT. -/
  | mbxTimeout (vf : Nat) (fromPf : Bool)
  /-- R361: FN_MASK. -/
  | fnMask (o : Origin) (fn : Nat)
  /-- R361: FN_UNMASK. -/
  | fnUnmask (o : Origin) (fn : Nat)
  /-- R364: WQ_VIEW. -/
  | wqView (o : Origin) (q : Nat)
  /-- R456: EVQ_VIEW. -/
  | evqView (o : Origin) (q : Nat)
  /-- R368: OWNERSHIP_REQUEST. -/
  | ownershipRequest (line : Nat) (reqs : List Nat) (err : CacheErr)
  /-- R370: CORE_OFFLINE. -/
  | coreOffline (n : Nat)
  /-- R374: CORE_RX_POST. -/
  | coreRxPost (o : Origin) (h : Nat) (v : W32)
  /-- R374: CORE_TX_POST. -/
  | coreTxPost (o : Origin) (h : Nat) (v : W32)
  /-- R375: NB_INVALIDATE. -/
  | nbInvalidate (o : Origin) (dev : Nat)
  /-- R375: NB_SWEEP_VISIT. -/
  | nbSweepVisit (set : Nat)
  /-- R392: STIPPLE_COMPARE. -/
  | stippleCompare (e x : Nat) (equal : Bool) (sc : Scrim)
  /-- R392: STIPPLE_SECOND_CHECK. -/
  | stippleSecondCheck (e x : Nat) (eqPrimary eqFirst : Bool) (sc : Scrim)
  /-- R392: STIPPLE_UNDECIDED_TIMEOUT. -/
  | stippleUndecidedTimeout (e x : Nat)
  /-- R395: OBSERVATION_END. -/
  | observationEnd (t : Nat)
  /-- R397: TEST_DUE. -/
  | testDue (t : Nat)
  /-- R397: TEST_START. -/
  | testStart (t : Nat)
  /-- R398: TEST_COMPLETE. -/
  | testComplete (kind i : Nat) (pass : Bool) (locus : Nat)
  /-- R397: TEST_DEFER_TIMEOUT. -/
  | testDeferTimeout (t : Nat)
  /-- R396: TILE_RETIRE. -/
  | tileRetire (t : Nat)
  /-- R400: HLTH_TEST_NOW. -/
  | hlthTestNow (o : Origin) (kind i : Nat)
  /-- R396: HLTH_RETIRE. -/
  | hlthRetire (o : Origin) (i : Nat)
  /-- R403: EVR_FREEZE. -/
  | evrFreeze (o : Origin)
  /-- R403: EVR_UNFREEZE. -/
  | evrUnfreeze (o : Origin)
  /-- R403: FREEZE_LIMIT. -/
  | freezeLimit
  /-- R405: EVR_FLUSH. -/
  | evrFlush (o : Origin)
  /-- R405: FLUSH_COMPLETE. -/
  | flushComplete
  /-- R408: AUDIT_HOLD_END. -/
  | auditHoldEnd (us : Nat)
  /-- R417: POWER_SAMPLE. -/
  | powerSample (eng rest : Nat)
  /-- R422: THERMAL_READING. -/
  | thermalReading (n : Nat) (q : Int)
  /-- R421: THERMAL_CAP_STEP. -/
  | thermalCapStep
  /-- R421: THERMAL_TRIP_RECOVER. -/
  | thermalTripRecover
  /-- R425: HB_KICK_LINK. -/
  | hbKickLink (o : Origin) (tok : Nat)
  /-- R425: HB_KICK_CORE. -/
  | hbKickCore (o : Origin) (tok : Nat)
  /-- R425: HEARTBEAT_MISS. -/
  | heartbeatMiss (core : Bool)
  /-- R425: SILENCE_END. -/
  | silenceEnd
  /-- R466: POWER_ON. -/
  | powerOn
  /-- R411: DEVRST_N_ASSERT. -/
  | devrstNAssert (cause : Nat)
  /-- R467: RESET_RELEASE. -/
  | resetRelease (s0 s1 s2 : Nat)
  /-- R412: PRIMER_SERVICE_START. -/
  | primerServiceStart (bad : List (Nat × Nat))
  /-- R384: IMAGE_VERIFY_COMPLETE. -/
  | imageVerifyComplete (kind ver : Nat) (okFirst okOther : Bool)
  /-- R412: ENGINE_SELF_TEST_COMPLETE. -/
  | engineSelfTestComplete (failed : List Nat)
  /-- R412: PORT_CALIBRATION_COMPLETE. -/
  | portCalibrationComplete (q : Nat) (ok : Bool)
  /-- R412: STACK_RETRAIN_COMPLETE. -/
  | stackRetrainComplete (m : Nat) (ok : Bool)
  /-- R412: FINISH_SERVICE_START. -/
  | finishServiceStart
  /-- R433: TRIAL_CONFIRM. -/
  | trialConfirm
  /-- R433: TRIAL_FAIL. -/
  | trialFail
  /-- R468: SUPPLY_FAULT. -/
  | supplyFault
  /-- R471: SYSREF_LOSS. -/
  | sysrefLoss
  /-- R406: PWRFAIL_WARNING. -/
  | pwrfailWarning
  /-- R429: PWRFAIL_CLEAR. -/
  | pwrfailClear
  /-- R428: PLDM_EVENT_SEND. -/
  | pldmEventSend
  /-- R428: PLDM_EVENT_RETRY. -/
  | pldmEventRetry
  /-- R426: SET_ENDPOINT_ID. -/
  | setEndpointId (eid : Nat)
  /-- R426: GET_ENDPOINT_ID. -/
  | getEndpointId
  /-- R426: GET_MCTP_VERSION_SUPPORT. -/
  | getMctpVersionSupport (ty : Nat)
  /-- R426: GET_MESSAGE_TYPE_SUPPORT. -/
  | getMessageTypeSupport
  /-- R426: SET_TID. -/
  | setTid (tid : Nat)
  /-- R426: GET_TID. -/
  | getTid
  /-- R426: GET_PLDM_VERSION. -/
  | getPldmVersion (ty : Nat)
  /-- R426: GET_PLDM_TYPES. -/
  | getPldmTypes
  /-- R426: GET_PLDM_COMMANDS. -/
  | getPldmCommands (ty : Nat)
  /-- R428: SET_EVENT_RECEIVER. -/
  | setEventReceiver (en : Bool) (addr : Nat)
  /-- R426: GET_SENSOR_READING. -/
  | getSensorReading (id : Nat)
  /-- R426: GET_STATE_SENSOR_READINGS. -/
  | getStateSensorReadings (id : Nat)
  /-- R426: GET_PDR. -/
  | getPdr (handle : Nat)
  /-- R426: POLL_FOR_PLATFORM_EVENT_MESSAGE. -/
  | pollForPlatformEventMessage
  /-- R426: GET_FRU_RECORD_TABLE_METADATA. -/
  | getFruRecordTableMetadata
  /-- R426: GET_FRU_RECORD_TABLE. -/
  | getFruRecordTable
  /-- R431: QUERY_DEVICE_IDENTIFIERS. -/
  | queryDeviceIdentifiers
  /-- R431: GET_FIRMWARE_PARAMETERS. -/
  | getFirmwareParameters
  /-- R431: REQUEST_UPDATE. -/
  | requestUpdate
  /-- R431: PASS_COMPONENT_TABLE. -/
  | passComponentTable (kind : Nat) (ver : W32)
  /-- R431: UPDATE_COMPONENT. -/
  | updateComponent (kind : Nat) (ver : W32) (image : List Byte)
  /-- R431: TRANSFER_COMPLETE. -/
  | transferComplete (ok : Bool)
  /-- R431: VERIFY_COMPLETE. -/
  | verifyComplete
  /-- R431: APPLY_COMPLETE. -/
  | applyComplete
  /-- R431: ACTIVATE_FIRMWARE. -/
  | activateFirmware (selfContained : Bool)
  /-- R431: GET_STATUS. -/
  | getStatus
  /-- R431: CANCEL_UPDATE_COMPONENT. -/
  | cancelUpdateComponent
  /-- R431: CANCEL_UPDATE. -/
  | cancelUpdate
  /-- R427: REG_READ. -/
  | regRead (off : Nat) (wide : Bool)
  /-- R427: REG_WRITE. -/
  | regWrite (off : Nat) (wide : Bool) (v : W64)
  /-- R427: BBOX_READ. -/
  | bboxRead (area cyclesBack i count : Nat)
  /-- R434: BOOTCFG_WRITE. -/
  | bootcfgWrite (rec : List Byte) (session : Option Nat)
  /-- R379: OWNER_KEY_WRITE. -/
  | ownerKeyWrite (slot : Nat) (key : List Byte) (session : Option Nat)
  /-- R379: OWNER_KEY_REVOKE. -/
  | ownerKeyRevoke (slot : Nat) (session : Option Nat)
  /-- R427: DEVICE_RESET. -/
  | deviceReset
  /-- R427: GET_STATE. -/
  | getState
  /-- R385: GET_VERSION. -/
  | getVersion
  /-- R385: GET_CAPABILITIES. -/
  | getCapabilities (ver : Nat)
  /-- R385: NEGOTIATE_ALGORITHMS. -/
  | negotiateAlgorithms
  /-- R385: PSK_EXCHANGE. -/
  | pskExchange (reqSession : Nat) (req : List Byte)
  /-- R385: PSK_FINISH. -/
  | pskFinish (session : Nat) (mac : List Byte)
  /-- R385: GET_MEASUREMENTS. -/
  | getMeasurements (session : Option Nat) (i : Nat)
  /-- R385: KEY_UPDATE. -/
  | keyUpdate (session op tag : Nat)
  /-- R385: HEARTBEAT. -/
  | heartbeat (session : Nat)
  /-- R385: END_SESSION. -/
  | endSession (session : Nat)
  /-- R45: BLK_COMMIT. -/
  | blkCommit (o : Origin) (pg : Nat) (v : W32)
  /-- R443: BLK_LOCK. -/
  | blkLock (o : Origin) (pg : Nat)
  /-- R442: BLK_IRQ_STAT_CLEAR. -/
  | blkIrqStatClear (o : Origin) (pg : Nat) (v : W32)
  /-- R440: BLK_IRQ_FORCE. -/
  | blkIrqForce (o : Origin) (pg : Nat) (v : W32)
  /-- R13: COUNTER_READ. -/
  | counterRead (o : Origin) (off : Nat) (wide : Bool)
  /-- R14: REGISTER_WRITE. -/
  | registerWrite (o : Origin) (off : Nat) (wide : Bool) (v : W64)
  /-- R337: PCIE_LINK_DOWN. -/
  | pcieLinkDown (c : Nat)
  /-- R337: PCIE_LINK_UP. -/
  | pcieLinkUp (c speed width : Nat) (flit : Bool)
  /-- R461: DEBUG_PORT_ATTACHED. -/
  | debugPortAttached
  /-- R461: DEBUG_PORT_DETACHED. -/
  | debugPortDetached
  /-- R415: MCTP_ASSEMBLY_TIMEOUT. -/
  | mctpAssemblyTimeout
  /-- R316: PARTNER_LPI. -/
  | partnerLpi (q : Nat) (enter : Bool)
  /-- R420: HBM_TEMPERATURE_READOUT. -/
  | hbmTemperatureReadout (m : Nat) (temp : Int)
  /-- R204: HBM_STACK_LOST. -/
  | hbmStackLost (m : Nat)
  deriving DecidableEq, Repr

end Sys2Proof
end

