-- ==== Sys2Proof/Decode.lean ====
section
/-! DEFINITION. Decode.lean: the command that a word spells. No row of spec/opcode_table.json gives bits, so no word
spells a command to the host; the word of an engine instruction in the tile store is that of 04_engine_instruction_set.md Table 4.1. -/

namespace Sys2Proof

/-- The command that the `nbits` low bits of `w` spell by the table's bits: none, since no row gives bits. -/
def decodeTableWord (_nbits _w : Nat) : Option Instr := none

/-! ## Instruction words (04 R88, R98) -/

/-- The opcode field of a 128-bit instruction word. -/
def insOp (w : Nat) : Nat := bits w 7 0

/-- The other fields of an instruction word (Table 4.1). -/
def insFields (w : Nat) : Fields :=
  { pg := bits w 10 8, pn := bitAt w 11, rnd := bits w 13 12, rsvLo := bits w 15 14, d := bits w 21 16, a := bits w 27 22, b := bits w 33 28
    c := bits w 39 34, cg := bits w 43 40, fence := bitAt w 44, feSet := bitAt w 45, feWait := bitAt w 46, feClear := bitAt w 47
    sub := bits w 55 48, rsvHi := bits w 63 56, imm := BitVec.ofNat 64 (w / 2 ^ 64) }

/-- The word of an opcode and fields within their widths. -/
def insWord (op : Nat) (f : Fields) : Nat :=
  op + 2 ^ 8 * f.pg + 2 ^ 11 * f.pn.toNat + 2 ^ 12 * f.rnd + 2 ^ 14 * f.rsvLo + 2 ^ 16 * f.d + 2 ^ 22 * f.a + 2 ^ 28 * f.b + 2 ^ 34 * f.c
  + 2 ^ 40 * f.cg + 2 ^ 44 * f.fence.toNat + 2 ^ 45 * f.feSet.toNat + 2 ^ 46 * f.feWait.toNat + 2 ^ 47 * f.feClear.toNat + 2 ^ 48 * f.sub
  + 2 ^ 56 * f.rsvHi + 2 ^ 64 * f.imm.toNat

/-- The instruction of a word for context `x` of engine `e` (Table 4.7), `sc` being what Scrim finds in the products of a matrix
instruction; none for a reserved opcode. -/
def insCommand (e x w : Nat) (sc : Scrim := .clean) : Option Instr :=
  let f := insFields w
  match insOp w with
  | 0x00 => some (.nop e x f)
  | 0x01 => some (.sliceEnd e x f)
  | 0x02 => some (.halt e x f)
  | 0x03 => some (.br e x f)
  | 0x04 => some (.loop e x f)
  | 0x05 => some (.plumbRd e x f)
  | 0x06 => some (.flagsRd e x f)
  | 0x07 => some (.flagsClr e x f)
  | 0x08 => some (.event e x f)
  | 0x09 => some (.regroup e x f)
  | 0x0A => some (.mbxRd e x f)
  | 0x10 => some (.sLi e x f)
  | 0x11 => some (.sAdd e x f)
  | 0x12 => some (.sSub e x f)
  | 0x13 => some (.sMul e x f)
  | 0x14 => some (.sAnd e x f)
  | 0x15 => some (.sOr e x f)
  | 0x16 => some (.sXor e x f)
  | 0x17 => some (.sShl e x f)
  | 0x18 => some (.sShr e x f)
  | 0x19 => some (.sSar e x f)
  | 0x1A => some (.sCmp e x f)
  | 0x1B => some (.sLd e x f)
  | 0x1C => some (.sSt e x f)
  | 0x1D => some (.pOp e x f)
  | 0x20 => some (.tdLd e x f)
  | 0x21 => some (.tdSt e x f)
  | 0x22 => some (.tdSetf e x f)
  | 0x23 => some (.tdGetf e x f)
  | 0x24 => some (.tdAddb e x f)
  | 0x25 => some (.tdCopy e x f)
  | 0x30 => some (.mov e x f)
  | 0x31 => some (.fill e x f)
  | 0x40 => some (.mma e x f sc)
  | 0x41 => some (.mmaT e x f sc)
  | 0x42 => some (.accZero e x f)
  | 0x43 => some (.accSt e x f)
  | 0x44 => some (.accLd e x f)
  | 0x50 => some (.vAdd e x f)
  | 0x51 => some (.vSub e x f)
  | 0x52 => some (.vMul e x f)
  | 0x53 => some (.vFma e x f)
  | 0x54 => some (.vMin e x f)
  | 0x55 => some (.vMax e x f)
  | 0x56 => some (.vCmp e x f)
  | 0x57 => some (.vFn e x f)
  | 0x58 => some (.vCvt e x f)
  | 0x59 => some (.vRed e x f)
  | 0x5A => some (.vSel e x f)
  | 0x60 => some (.topk e x f)
  | 0x61 => some (.gather e x f)
  | 0x62 => some (.scatter e x f)
  | 0x63 => some (.scatterAdd e x f)
  | 0x64 => some (.compact e x f)
  | 0x70 => some (.feWait e x f)
  | 0x71 => some (.feWaite e x f)
  | 0x72 => some (.feSet e x f)
  | 0x73 => some (.feClr e x f)
  | 0x74 => some (.feTest e x f)
  | 0x75 => some (.fence e x f)
  | 0x80 => some (.mmaReduce e x f sc)
  | 0x81 => some (.bcastMma e x f)
  | 0x82 => some (.reduce e x f)
  | 0x83 => some (.bcast e x f)
  | 0x84 => some (.dispatch e x f)
  | 0x85 => some (.combine e x f)
  | 0x86 => some (.attnBlock e x f)
  | 0x87 => some (.lseReduce e x f)
  | _ => none

end Sys2Proof
end

