-- ==== Sys2Proof/Machine/Gf.lean ====
section
/-! DEFINITION. Machine/Gf.lean: the (10, 8) code over GF(2^8) that protects a line (07_hbm_memory.md R192, R193). -/

namespace Sys2Proof.Machine

/-- Multiplication by α = 0x02 modulo x^8 + x^4 + x^3 + x^2 + 1. -/
def gfX (a : Byte) : Byte := (a <<< 1) ^^^ (if a.getLsbD 7 then 0x1D#8 else 0#8)

/-- The product of `a` with the `n` low bits of `b`, lowest bit first. -/
def gfMulGo : Nat → Byte → Byte → Byte
  | 0, _, _ => 0
  | n + 1, a, b => (if b.getLsbD 0 then a else 0#8) ^^^ gfMulGo n (gfX a) (b >>> 1)

/-- The product in GF(2^8). -/
def gfMul (a b : Byte) : Byte := gfMulGo 8 a b

/-- `a` to the power `n`. -/
def gfPow (a : Byte) : Nat → Byte
  | 0 => 1
  | n + 1 => gfMul a (gfPow a n)

/-- The inverse, a^254. -/
def gfInv (a : Byte) : Byte := gfPow a 254

/-- α^p. -/
def alpha (p : Nat) : Byte := gfPow 2 p

/-- The syndromes (S0, S1) of the symbols of one code from position `p` on. -/
def synd : Nat → List Byte → Byte × Byte
  | _, [] => (0, 0)
  | p, c :: cs => let r := synd (p + 1) cs; (c ^^^ r.1, gfMul c (alpha p) ^^^ r.2)

/-- The check symbols that give 8 data symbols the syndromes (`s0`, `s1`): (0, 0) for a clean code (R192),
(0x01, 0x74) for a poisoned one (R196). -/
def checks (d : List Byte) (s0 s1 : Byte) : Byte × Byte :=
  let r := synd 0 d
  let t0 := r.1 ^^^ s0
  let t1 := r.2 ^^^ s1
  let c8 := gfMul (t1 ^^^ gfMul (alpha 9) t0) 0x8A#8
  (c8, t0 ^^^ c8)

/-- The verdict on one code (R193, Table 7.2). -/
inductive Verdict where
  | clean
  | fixed (pos : Nat)
  | poison
  | bad
  deriving DecidableEq, Repr

/-- Decode one code: ten symbols, none where the position is erased. The symbols after correction and the verdict.
With one erasure the erased symbol is solved and a further error is detected; with two both are solved and nothing
is detected; with more nothing can be corrected. -/
def decodeCode (c : List (Option Byte)) : List Byte × Verdict :=
  let v := c.map (·.getD 0)
  let s := synd 0 v
  match (List.range 10).filter fun p => (c.getD p none) == none with
  | [] =>
    if s.1 = 0 ∧ s.2 = 0 then (v, .clean)
    else if s.1 ≠ 0 then
      match (List.range 10).find? fun p => gfMul s.1 (alpha p) == s.2 with
      | some p => (v.set p (v.getD p 0 ^^^ s.1), .fixed p)
      | none => (v, if s.1 = 0x01#8 ∧ s.2 = 0x74#8 then .poison else .bad)
    else (v, .bad)
  | [e] =>
    if gfMul s.1 (alpha e) = s.2 then (v.set e s.1, .clean) else (v.set e s.1, .bad)
  | [e, g] =>
    let x := gfMul (s.2 ^^^ gfMul (alpha e) s.1) (gfInv (alpha e ^^^ alpha g))
    ((v.set g x).set e (s.1 ^^^ x), .clean)
  | _ => (v, .bad)

end Sys2Proof.Machine
end

