-- ==== Sys2Proof/Config.lean ====
section
/-! DEFINITION. Config.lean: what the spec leaves open or to keys that no one can observe, as constants without a
body: a claim about them holds whatever they are. -/

namespace Sys2Proof.Config

/-- A value that the spec does not state, numbered by the state's counter of free values (log entry 1). -/
opaque free : Nat → BitVec 64

/-- Which of the FP32 codes within 2 units in the last place of the value function `fn` of V.FN gives on operand bits `x` (03 R73:
fixed for each operand). -/
opaque ulpOffset : Nat → BitVec 32 → Nat

/-- The memory key of an engine access to another device (04 R96: the spec names none; log entry 2). -/
opaque engineMkey : Nat

/-- Does the IEEE 802.3 clause of a PHY type (row index of 11 Table 11.2 × 3 + medium) define low-power idle (11 R315)? -/
opaque phyLpi : Nat → Bool

/-- Does the partner of a port signal a remote fault at a Plumb count (11 Table 11.10)? No command tells (log entry 34). -/
opaque remoteFault : Nat → Nat → Bool

/-- The answer of the link core, in Primer service, to an ARP or Neighbor Solicitation frame (16 Table 16.3); none for
any other frame. -/
opaque linkAnswer : List (BitVec 8) → Option (List (BitVec 8))

/-- The board position and size that an LLDP frame carries in the Yareg TLV, whose layout the spec does not give
(18 R473). -/
opaque boardTlv : List (BitVec 8) → Option Nat

/-- The outer header bytes of a frame that turns out not to be Phisal (09 R251 check 2), which the command does not
carry: encapsulation, source, destination, UDP port. -/
opaque outerHeader : Nat → Nat → Nat → Nat → List (BitVec 8)

/-- Bytes that the vendor fixes and the spec does not give (versions, identifiers, record contents): by the name of
the field and its index (log entry 3). -/
opaque vendor : Nat → Nat → Nat

/-- The images that the flash holds from manufacture, by 8 × bank + kind, and for 0 the boot ROM (log entry 3). -/
opaque factoryImage : Nat → List (BitVec 8)

/-- The device root key, fused at manufacture (14 R379). -/
opaque deviceRoot : BitVec 256

/-- The authentication code of a session's messages so far under its pre-shared key, by the key schedule of SPDM (14 R385). -/
opaque spdmMac : List (BitVec 8) → List (BitVec 8) → List (BitVec 8)

end Sys2Proof.Config
end

