-- ==== Sys2Proof/Machine/RegTable.lean ====
section
/-! DEFINITION. Machine/RegTable.lean: the register pages of PF0's window (17_register_reference.md Table 17.1)
and every register of every page with its fields, access codes, reset values and legal ranges, as the register
tables of the chapters give them. Bits that no field of a register names are reserved. -/

namespace Sys2Proof.Machine

/-- The register blocks of Table 17.1. -/
inductive Blk where
  | glb | plumb | pwr | thm | dust | mgmt | evr | aud | hlth | stip | sch | xlt | psl | ctx | cc | seal
  | kdf | cmac | core | fuse | dbg | evq | eng | hbm | sand | wlk | arb | pcie | fn | mac | pcs | shp | mbx
  deriving DecidableEq, Repr

/-- The type code of a block (Table 17.1). -/
def Blk.code : Blk → Nat
  | .glb => 0x01 | .plumb => 0x02 | .pwr => 0x03 | .thm => 0x04 | .dust => 0x05 | .mgmt => 0x06 | .evr => 0x07
  | .aud => 0x08 | .hlth => 0x09 | .stip => 0x0A | .sch => 0x0B | .xlt => 0x0C | .psl => 0x0D | .ctx => 0x0E
  | .cc => 0x0F | .seal => 0x10 | .kdf => 0x11 | .cmac => 0x12 | .core => 0x13 | .fuse => 0x14 | .dbg => 0x15
  | .evq => 0x16 | .eng => 0x17 | .hbm => 0x18 | .sand => 0x19 | .wlk => 0x1A | .arb => 0x1B | .pcie => 0x1C
  | .fn => 0x1D | .mac => 0x1E | .pcs => 0x1F | .shp => 0x20 | .mbx => 0x21

/-- The first page number of a block (Table 17.1, offset / 0x1000). -/
def Blk.page : Blk → Nat
  | .eng => 0x20 | .hbm => 0x60 | .sand => 0x70 | .wlk => 0x80 | .arb => 0x90 | .pcie => 0xA0 | .fn => 0xB0
  | .mac => 0xC0 | .pcs => 0xE0 | .shp => 0x100 | .mbx => 0x200 | b => b.code - 1

/-- The number of instances of a block (Table 17.1); MBX instance 0 is the reserved page. -/
def Blk.count : Blk → Nat
  | .eng => 48 | .hbm => 9 | .sand => 8 | .wlk => 4 | .arb => 4 | .pcie => 4 | .fn => 4 | .mac => 24
  | .pcs => 24 | .shp => 38 | .mbx => 512 | _ => 1

/-- Every block, in the order of Table 17.1. -/
def Blk.all : List Blk :=
  [.glb, .plumb, .pwr, .thm, .dust, .mgmt, .evr, .aud, .hlth, .stip, .sch, .xlt, .psl, .ctx, .cc, .seal, .kdf,
   .cmac, .core, .fuse, .dbg, .evq, .eng, .hbm, .sand, .wlk, .arb, .pcie, .fn, .mac, .pcs, .shp, .mbx]

/-- The block and instance whose page has this number; none for a reserved page (R436, R437). -/
def pageOf (pg : Nat) : Option (Blk × Nat) :=
  (Blk.all.find? fun b => decide (b.page ≤ pg) && decide (pg < b.page + b.count)
      && !(decide (b = .mbx) && decide (pg = b.page))).map fun b => (b, pg - b.page)

/-- The byte offset in PF0's window of offset `off` in instance `i` of a block. -/
def Blk.at (b : Blk) (i off : Nat) : Nat := 0x1000 * (b.page + i) + off

/-- Access codes of Table 0.6 (00 R12). -/
inductive Acc where
  | ro | rw | rwT | rwL | w1c | w1s | rc | wo
  deriving DecidableEq, Repr

/-- The legal values of a field. -/
inductive Rng where
  | any
  | span (lo hi : Nat)
  | oneOf (vs : List Nat)
  | mult (m : Nat)
  deriving DecidableEq, Repr

/-- Does a value lie in a field's legal range? -/
def Rng.ok : Rng → Nat → Bool
  | .any, _ => true
  | .span lo hi, v => decide (lo ≤ v) && decide (v ≤ hi)
  | .oneOf vs, v => vs.contains v
  | .mult m, v => v % m == 0

/-- One field of a register. -/
structure Fld where
  lo : Nat
  hi : Nat
  acc : Acc
  reset : Nat := 0
  rng : Rng := .any
  deriving DecidableEq, Repr

/-- A register, or an array of `n` registers `stride` bytes apart. `size` is its bytes, 4 or 8; a part of a
register wider than 64 bits is `wide` (each access to it applies by itself, 15 R407). -/
structure Reg where
  off : Nat
  flds : List Fld
  size : Nat := 4
  n : Nat := 1
  stride : Nat := 0
  wide : Bool := false
  deriving DecidableEq, Repr

/-- One field that fills a 32-bit register. -/
def r32 (off : Nat) (acc : Acc) (reset : Nat := 0) : Reg := { off, flds := [{ lo := 0, hi := 31, acc, reset }] }

/-- One field that fills a 64-bit register. -/
def r64 (off : Nat) (acc : Acc) (reset : Nat := 0) : Reg :=
  { off, size := 8, flds := [{ lo := 0, hi := 63, acc, reset }] }

/-- `n` consecutive 64-bit RC counters. -/
def rcs (off n : Nat) : Reg := { off, size := 8, n, stride := 8, flds := [{ lo := 0, hi := 63, acc := .rc }] }

/-- `n` parts of 8 bytes of a register wider than 64 bits. -/
def wideReg (off n : Nat) (acc : Acc) (reset : Nat := 0) : Reg :=
  { off, size := 8, n, stride := 8, wide := true, flds := [{ lo := 0, hi := 63, acc, reset }] }

/-- A local-offset base register: bits `[49:lo]`, other bits zero. -/
def baseReg (off lo : Nat) (acc : Acc) : Reg := { off, size := 8, flds := [{ lo, hi := 49, acc }] }

/-- A field. -/
def f (lo hi : Nat) (acc : Acc) (reset : Nat := 0) (rng : Rng := .any) : Fld := { lo, hi, acc, reset, rng }

/-- GLB, Tables 17.9, 17.10, 17.19. -/
def glbRegs : List Reg :=
  [ r32 0x040 .ro, r32 0x044 .ro,
    { off := 0x048, flds := [f 0 13 .rwL, f 31 31 .rwL] },
    r32 0x04C .ro, r32 0x050 .ro, r32 0x054 .ro, r64 0x058 .ro, r32 0x060 .ro,
    { off := 0x064, flds := [f 0 0 .rwT, f 1 1 .rwT, f 8 9 .ro, f 10 11 .ro] },
    wideReg 0x080 2 .rwT, wideReg 0x0A0 2 .rwT, wideReg 0x0C0 2 .rwT, wideReg 0x0E0 2 .rwT,
    { off := 0x090, n := 4, stride := 0x20, flds := [f 0 0 .rwT, f 1 1 .rwT] } ]

/-- PLUMB, Tables 2.2 and 2.3. -/
def plumbRegs : List Reg :=
  [ r64 0x040 .ro,
    { off := 0x048, flds := [f 0 4 .rwT 13 (.span 11 16), f 5 6 .rwL 0 (.span 0 1), f 16 23 .rw 100 (.span 1 200)] },
    r32 0x04C .ro,
    { off := 0x050, n := 4, stride := 4, flds := [f 0 4 .rw, f 8 21 .rw, f 31 31 .rw] },
    r32 0x060 .ro, r64 0x068 .rwL, rcs 0x070 2 ]

/-- PWR, Tables 16.16, 16.17. -/
def pwrRegs : List Reg :=
  [ { off := 0x040, flds := [f 0 1 .rwT, f 2 7 .rwT 2 (.span 1 50), f 8 15 .rwT 16 (.span 1 255), f 16 19 .rwT 8 (.span 1 15)] },
    r32 0x044 .ro, r32 0x048 .ro, r32 0x04C .ro, rcs 0x050 3 ]

/-- THM, Table 16.16. -/
def thmRegs : List Reg :=
  [ r32 0x040 .ro, rcs 0x060 1, { r32 0x080 .ro with n := 36, stride := 4 }, { r32 0x120 .ro with n := 8, stride := 4 } ]

/-- DUST, Tables 16.13 to 16.15. -/
def dustRegs : List Reg :=
  [ { off := 0x040, flds := [f 0 9 .rwL 850 (.span 600 850)] },
    { off := 0x044, flds := [f 0 23 .rwL 0xFFFFFF] },
    { off := 0x048, n := 3, stride := 4, flds := [f 0 3 .rwL 5 (.span 0 5), f 4 7 .rwL 5 (.span 0 5), f 8 11 .rwL 5 (.span 0 5),
        f 12 15 .rwL 5 (.span 0 5), f 16 19 .rwL 5 (.span 0 5), f 20 23 .rwL 5 (.span 0 5), f 24 27 .rwL 5 (.span 0 5),
        f 28 31 .rwL 5 (.span 0 5)] },
    { off := 0x054, flds := [f 0 5 .rwL 10 (.span 1 50)] },
    { off := 0x058, flds := [f 0 6 .rwL 16 (.span 4 64), f 7 7 .rwL 1] },
    { off := 0x05C, flds := [f 0 0 .rwL, f 1 1 .rwL 1 (.span 1 1)] },
    { off := 0x060, flds := [f 0 7 .wo] }, { off := 0x064, flds := [f 0 7 .wo] },
    r32 0x068 .ro, rcs 0x070 2 ]

/-- MGMT, Table 16.16. -/
def mgmtRegs : List Reg := [r32 0x040 .ro, r32 0x044 .ro, rcs 0x048 1]

/-- EVR, Tables 15.9, 15.13. -/
def evrRegs : List Reg :=
  [ { off := 0x040, flds := [f 0 0 .rw, f 8 12 .rw 20 (.span 10 24)] },
    { off := 0x044, flds := [f 0 0 .wo] },
    r32 0x048 .ro, r32 0x04C .ro, r32 0x050 .ro,
    { off := 0x054, flds := [f 0 1 .rw, f 2 4 .rw] },
    { off := 0x058, flds := [f 0 17 .rw] },
    r32 0x05C .ro, r64 0x060 .ro, rcs 0x068 5, wideReg 0x100 4 .ro ]

/-- AUD, Table 15.9. -/
def audRegs : List Reg :=
  [ baseReg 0x040 25 .rwL, r32 0x048 .ro, r32 0x04C .ro, { off := 0x050, flds := [f 0 15 .rw] }, r32 0x054 .ro,
    rcs 0x058 3, wideReg 0x100 4 .ro ]

/-- HLTH, Tables 15.9, 15.12. -/
def hlthRegs : List Reg :=
  [ { off := 0x040, flds := [f 0 7 .rwT 24 (.span 1 255), f 8 11 .rwT 7 (.span 1 15), f 12 14 .rwT 1 (.span 1 4)] },
    { off := 0x044, flds := [f 0 5 .wo, f 8 9 .wo, f 10 11 .wo 0 (.span 0 1), f 31 31 .wo] },
    r32 0x048 .ro, baseReg 0x050 24 .rwL, rcs 0x058 5, { r32 0x100 .ro with n := 52, stride := 4 } ]

/-- STIP, Tables 15.9, 15.11. -/
def stipRegs : List Reg :=
  [ { off := 0x040, flds := [f 0 4 .rwT 10 (.oneOf [0, 4, 5, 6, 7, 8, 9, 10, 11, 12, 13, 14, 15, 16]), f 8 8 .rwT] },
    r32 0x044 .rwT, r32 0x048 .ro, rcs 0x050 5 ]

/-- SCH, Tables 6.2 to 6.4, 17.13. -/
def schRegs : List Reg :=
  [ r32 0x040 .ro, rcs 0x048 2,
    { off := 0x400, n := 16, stride := 0x40, flds := [f 0 0 .rwT, f 1 9 .rwT, f 10 14 .rwT 16 (.span 2 16), f 16 29 .rwT] },
    { off := 0x404, n := 16, stride := 0x40, flds := [f 0 6 .rwT, f 8 15 .rwT 0 (.span 0 128)] },
    { off := 0x408, n := 16, stride := 0x40, size := 8, flds := [f 12 49 .rwT] },
    { off := 0x410, n := 16, stride := 0x40, flds := [f 0 20 .rwT 4096 (.span 64 1048576)] },
    { off := 0x414, n := 16, stride := 0x40, flds := [f 0 15 .rwT] },
    { r32 0x418 .ro with n := 16, stride := 0x40 }, { r32 0x41C .ro with n := 16, stride := 0x40 },
    { r32 0x420 .ro with n := 16, stride := 0x40 },
    { off := 0x424, n := 16, stride := 0x40, flds := [f 0 0 .wo] },
    { r64 0x428 .rc with n := 16, stride := 0x40 },
    r64 0x800 .rw, { off := 0x808, size := 8, flds := [f 16 49 .rw] }, r32 0x810 .ro,
    { off := 0x814, flds := [f 0 3 .wo, f 31 31 .wo] } ]

/-- XLT, Tables 8.6 to 8.8. -/
def xltRegs : List Reg :=
  [ { off := 0x040, flds := [f 0 3 .rwT 7 (.span 0 10), f 4 6 .rwT 7, f 8 15 .rwT 16 (.span 1 255), f 16 23 .rwT 128 (.span 1 255)] },
    baseReg 0x048 12 .rwL,
    { off := 0x050, flds := [f 0 15 .wo, f 16 24 .wo, f 25 26 .wo 0 (.span 0 2), f 30 30 .wo, f 31 31 .wo] },
    r32 0x054 .ro,
    { off := 0x058, n := 3, stride := 4, flds := [f 0 8 .rwT, f 9 24 .rwT, f 31 31 .rwT] },
    r32 0x064 .ro, r64 0x068 .ro, { off := 0x070, flds := [f 0 0 .wo] }, rcs 0x078 7 ]

/-- PSL, Tables 9.9, 9.14, 9.15. -/
def pslRegs : List Reg :=
  [ { off := 0x040, flds := [f 0 15 .rwL 0x5A17 (.span 1024 65535), f 16 23 .rwT 64 (.span 1 255)] },
    { off := 0x044, flds := [f 0 19 .wo, f 24 26 .wo 0 (.span 0 4), f 31 31 .wo] },
    r32 0x048 .ro, baseReg 0x050 21 .rwL, baseReg 0x058 28 .rwL,
    { off := 0x060, flds := [f 0 15 .wo, f 31 31 .wo] }, r32 0x064 .ro,
    rcs 0x080 8, wideReg 0x100 8 .rw, wideReg 0x140 32 .ro,
    { off := 0x800, n := 512, stride := 4, flds := [f 0 14 .rwT, f 15 15 .rwT, f 16 24 .rwT, f 25 25 .rwT, f 31 31 .rwT] } ]

/-- CTX, Table 10.5. -/
def ctxRegs : List Reg :=
  [ { off := 0x040, flds := [f 0 3 .rwT 7 (.span 0 10), f 4 6 .rwT 7] }, r32 0x044 .ro, r32 0x048 .ro, rcs 0x050 6,
    { off := 0x800, n := 512, stride := 4, flds := [f 0 12 .rwT 0 (.span 0 4096)] } ]

/-- CC, Tables 10.6, 10.7. -/
def ccRegs : List Reg :=
  [ { off := 0x040, n := 16, stride := 0x10, flds := [f 0 23 .rwT 800000 (.span 1000 16000000)] },
    { off := 0x044, n := 16, stride := 0x10, flds := [f 0 23 .rwT 1000 (.span 1 16000000)] },
    { off := 0x048, n := 16, stride := 0x10, flds := [f 0 23 .rwT 2000 (.span 0 1000000)] },
    { off := 0x04C, n := 16, stride := 0x10, flds := [f 0 2 .rwT 1 (.span 1 4), f 8 14 .rwT 16 (.span 1 64)] },
    rcs 0x180 9 ]

/-- SEAL, Table 9.16. -/
def sealRegs : List Reg :=
  [ { off := 0x040, flds := [f 0 7 .rwT 128 (.span 1 255)] }, r32 0x044 .ro, rcs 0x048 2,
    { r32 0x800 .rwT with n := 512, stride := 4 } ]

/-- KDF, Table 14.11. -/
def kdfRegs : List Reg := [r32 0x040 .ro, r32 0x044 .ro, rcs 0x048 1]

/-- CMAC, Table 14.12. -/
def cmacRegs : List Reg := [r32 0x040 .ro, rcs 0x048 2]

/-- One of the two ring groups of the CORE page. -/
def ringRegs (b : Nat) : List Reg :=
  [ { off := b, n := 16, stride := 0x20, size := 8, flds := [f 12 49 .rw] },
    { off := b + 8, n := 16, stride := 0x20, flds := [f 0 4 .rw 4 (.span 4 16), f 31 31 .rw] },
    { r32 (b + 0xC) .rw with n := 16, stride := 0x20 }, { r32 (b + 0x10) .ro with n := 16, stride := 0x20 } ]

/-- CORE, Tables 14.9, 14.10. -/
def coreRegs : List Reg :=
  [ { off := 0x040, flds := [f 0 15 .rwT, f 16 19 .rwT 7 (.span 0 10), f 20 22 .rwT 7] }, r32 0x044 .ro,
    baseReg 0x048 19 .rwL, { off := 0x050, flds := [f 0 13 .wo, f 31 31 .wo] }, rcs 0x058 4 ]
  ++ ringRegs 0x100 ++ ringRegs 0x300

/-- FUSE, Table 17.16. -/
def fuseRegs : List Reg :=
  [ r32 0x040 .ro, r32 0x044 .ro, { r32 0x050 .ro with n := 4, stride := 4 }, r64 0x060 .ro, r64 0x068 .ro ]

/-- DBG, Tables 17.17, 4.12, 4.13. -/
def dbgRegs : List Reg :=
  [ r32 0x040 .ro, { off := 0x044, flds := [f 0 5 .wo, f 6 7 .wo, f 8 9 .wo 0 (.span 0 2), f 31 31 .wo] }, r32 0x048 .ro,
    { off := 0x100, n := 4, stride := 0x40, flds := [f 0 8 .rwT, f 9 10 .rwT 0 (.span 0 2)] },
    { off := 0x104, n := 4, stride := 0x40, flds := [f 0 8 .rwT 16 (.span 1 256)] },
    { off := 0x108, n := 4, stride := 0x40, size := 8, flds := [f 21 49 .rwT] } ]
  ++ ((List.range 4).map fun r => wideReg (0x110 + 0x40 * r) 3 .rwT)
  ++ [ { r32 0x128 .ro with n := 4, stride := 0x40 }, { r32 0x12C .ro with n := 4, stride := 0x40 },
    { r64 0x130 .ro with n := 4, stride := 0x40 },
    { off := 0x200, flds := [f 0 5 .rw, f 6 7 .rw, f 8 8 .rw] },
    { off := 0x204, flds := [f 0 2 .wo 0 (.span 0 5)] },
    { off := 0x208, size := 8, flds := [f 0 63 .rw 0 (.mult 8)] }, r64 0x210 .rw, r32 0x218 .ro ]

/-- EVQ, Table 17.15. -/
def evqRegs : List Reg :=
  [ { off := 0x040, flds := [f 0 11 .wo, f 31 31 .wo] }, r32 0x044 .ro, r32 0x048 .ro, r32 0x04C .ro, r32 0x050 .ro,
    r64 0x058 .ro ]

/-- ENG, Tables 3.9 to 3.11. -/
def engRegs : List Reg :=
  [ r32 0x040 .ro, r32 0x044 .ro,
    { off := 0x050, n := 4, stride := 0x10, flds := [f 0 8 .rwT, f 9 10 .rwT, f 11 11 .rwT] } ]
  ++ ((List.range 4).map fun n =>
      { off := 0x054 + 0x10 * n, flds := [f 0 6 .rwT (32 * n), f 8 15 .rwT 32 (.span 0 128)] })
  ++ [ { r32 0x058 .ro with n := 4, stride := 0x10 },
    { off := 0x05C, n := 4, stride := 0x10, flds := [f 0 0 .w1c, f 1 1 .w1c, f 2 2 .w1c, f 3 3 .w1c] },
    rcs 0x090 2 ]

/-- HBM instances 0 to 7, Table 7.7. -/
def hbmRegs : List Reg :=
  [ r32 0x040 .ro, r32 0x044 .ro, { off := 0x048, flds := [f 0 3 .wo, f 31 31 .wo] },
    { off := 0x04C, flds := [f 0 5 .wo 0 (.span 0 59), f 6 9 .wo, f 10 24 .wo, f 31 31 .wo] }, r32 0x050 .ro,
    rcs 0x058 5, rcs 0x080 16, rcs 0x100 1 ]

/-- A flip register (Table 7.8). -/
def flipReg (off : Nat) : Reg := { off, flds := [f 0 3 .rw 0 (.span 0 9), f 8 12 .rw, f 16 23 .rw] }

/-- HBM instance 8, Tables 7.8, 7.9. -/
def hbmWideRegs : List Reg :=
  [ { off := 0x040, flds := [f 0 6 .rwL 16 (.span 4 64), f 7 7 .rwL, f 8 12 .rwL 4 (.span 0 16), f 16 16 .rw, f 17 17 .rw 1] },
    { off := 0x044, flds := [f 0 1 .rw 0 (.span 0 2)] },
    { off := 0x048, size := 8, flds := [f 8 49 .rw] },
    { off := 0x050, flds := [f 0 2 .wo 0 (.span 0 4)] }, r32 0x054 .ro, flipReg 0x058, flipReg 0x05C,
    wideReg 0x100 32 .rw, wideReg 0x200 8 .rw ]

/-- SAND, Tables 7.10, 7.11. -/
def sandRegs : List Reg :=
  [ { off := 0x040, flds := [f 0 4 .rwT 24 (.span 20 28), f 8 11 .rwT 2 (.span 1 8), f 16 23 .rwT 16 (.span 1 255)] },
    { off := 0x044, flds := [f 0 15 .rwT 1024 (.span 16 65535)] }, r32 0x048 .ro, r32 0x04C .ro, r32 0x050 .ro, rcs 0x058 1 ]

/-- WLK, Table 17.14; the walker registers exist in instance 0. -/
def wlkRegs (i : Nat) : List Reg :=
  (if i = 0 then [r32 0x040 .ro, { r32 0x080 .ro with n := 32, stride := 4 }] else [])
  ++ [{ r32 0x800 .ro with n := 128, stride := 4 }]

/-- ARB, Tables 12.7 to 12.10; the device-wide registers exist in instance 0. -/
def arbRegs (i : Nat) : List Reg :=
  (if i = 0 then
    [ { off := 0x040, flds := [f 0 0 .rwT, f 1 1 .rwT 1, f 2 10 .rwT 0 (.span 0 256)] },
      baseReg 0x048 20 .rwL, baseReg 0x050 12 .rwT, r32 0x058 .ro, rcs 0x060 1,
      { off := 0x100, n := 24, stride := 8, size := 8, flds := (List.range 8).map fun p => f (8 * p) (8 * p + 7) .rwT 32 (.span 1 255) } ]
   else [])
  ++ [ { off := 0x800, n := 128, stride := 16, flds := [f 0 23 .rwT 16777215 (.span 1 16777215), f 24 26 .rwT 7] },
    { off := 0x804, n := 128, stride := 16, flds := [f 0 20 .rwT 1048576 (.span 1 1048576)] },
    { off := 0x808, n := 128, stride := 16, flds := [f 0 15 .rwT, f 16 23 .rwT] },
    { off := 0x80C, n := 128, stride := 16, flds := [f 0 12 .rwT 4096 (.span 0 4096)] } ]

/-- PCIE, Tables 13.18, 13.19; controller A's mode is read-only 0 and its fn is refused. -/
def pcieRegs (i : Nat) : List Reg :=
  [ { off := 0x040, flds := if i = 0 then [f 0 0 .ro, f 1 9 .rwL 0 (.span 0 0)] else [f 0 0 .rwL, f 1 9 .rwL] },
    r32 0x044 .ro, rcs 0x048 6 ]

/-- FN, Tables 13.15, 13.17; the device-wide registers exist in instance 0. -/
def fnRegs (i : Nat) : List Reg :=
  (if i = 0 then
    [ baseReg 0x040 22 .rwL, baseReg 0x048 17 .rwL, { off := 0x050, flds := [f 0 15 .wo, f 31 31 .wo] }, r32 0x054 .ro,
      { r32 0x080 .ro with n := 6, stride := 4 }, rcs 0x0A0 3 ]
   else [])
  ++ [ { r32 0x800 .ro with n := 128, stride := 16 },
    { off := 0x804, n := 128, stride := 16, flds := [f 0 11 .rwT, f 12 12 .rwT] },
    { off := 0x808, n := 128, stride := 16, flds := [f 0 0 .wo, f 1 1 .wo] } ]

/-- MAC, Tables 11.5 to 11.9. -/
def macRegs : List Reg :=
  [ { off := 0x040, flds := [f 0 2 .rwT 0 (.span 0 5), f 3 4 .rwT 0 (.span 0 2), f 5 5 .rw, f 6 6 .rw, f 7 7 .rwT, f 8 19 .rwT,
        f 20 26 .rwT 20 (.span 0 100), f 27 29 .rwT] },
    r32 0x044 .ro,
    { off := 0x048, flds := [f 0 7 .rwT 0x7F, f 8 15 .rwT 20 (.span 1 255), f 16 31 .rwT 0xFFFF (.span 0x100 0xFFFF)] },
    { off := 0x04C, flds := [f 0 9 .rwT 384 (.span 64 496), f 10 19 .rwT 256] },
    { off := 0x050, flds := [f 0 0 .rw, f 8 17 .rw 8 (.span 1 1000)] },
    r32 0x054 .ro,
    { off := 0x058, size := 8, flds := (List.range 8).map fun p => f (6 * p) (6 * p + 5) .rwT (8 * p) },
    { off := 0x060, size := 8, n := 1, wide := true, flds := [f 0 63 .rwT 0x2492249249000000 ] },
    { off := 0x068, size := 8, n := 1, wide := true, flds := [f 0 63 .rwT 0x6D9249246DB6DB49] },
    { off := 0x070, size := 8, n := 1, wide := true, flds := [f 0 63 .rwT 0xFFFFFFDB6DB6B6DB] },
    { off := 0x080, n := 8, stride := 8, size := 8, flds := [f 0 47 .rw, f 63 63 .rw] },
    rcs 0x100 26, rcs 0x200 24 ]

/-- PCS, Table 11.10. -/
def pcsRegs : List Reg := [r32 0x040 .ro, rcs 0x048 10]

/-- SHP, Tables 12.11, 12.12. -/
def shpRegs : List Reg :=
  [ { off := 0x800, n := 128, stride := 16, flds := [f 0 23 .rwT 0 (.span 0 16000000), f 31 31 .rwT] },
    { off := 0x804, n := 128, stride := 16, flds := [f 0 15 .rwT 64 (.span 1 65535), f 16 23 .rwT] },
    { r64 0x808 .ro with n := 128, stride := 16 } ]

/-- MBX, Table 13.16. -/
def mbxRegs : List Reg :=
  [ { off := 0x040, flds := [f 0 0 .wo, f 1 1 .wo, f 2 2 .wo, f 3 3 .wo] }, r32 0x044 .ro,
    { off := 0x048, flds := [f 0 15 .rw 1024 (.span 16 65535)] }, r32 0x050 .ro, r32 0x054 .ro,
    wideReg 0x100 32 .rw, wideReg 0x200 32 .ro ]

/-- The registers after the common header of instance `i` of a block. -/
def regsOf (b : Blk) (i : Nat) : List Reg :=
  match b with
  | .glb => glbRegs | .plumb => plumbRegs | .pwr => pwrRegs | .thm => thmRegs | .dust => dustRegs
  | .mgmt => mgmtRegs | .evr => evrRegs | .aud => audRegs | .hlth => hlthRegs | .stip => stipRegs
  | .sch => schRegs | .xlt => xltRegs | .psl => pslRegs | .ctx => ctxRegs | .cc => ccRegs | .seal => sealRegs
  | .kdf => kdfRegs | .cmac => cmacRegs | .core => coreRegs | .fuse => fuseRegs | .dbg => dbgRegs
  | .evq => evqRegs | .eng => engRegs | .hbm => if i = 8 then hbmWideRegs else hbmRegs | .sand => sandRegs
  | .wlk => wlkRegs i | .arb => arbRegs i | .pcie => pcieRegs i | .fn => fnRegs i | .mac => macRegs
  | .pcs => pcsRegs | .shp => shpRegs | .mbx => mbxRegs

/-- The common header but for its status registers (Table 17.3). Bit 0 of BLK_IRQ_EN, for which there is no event and which the
table does not call reserved, takes a 1 (DESIGN CHOICE, log entry 96). -/
def headerRegs : List Reg :=
  [ r32 0x000 .ro, r32 0x004 .ro, { off := 0x008, flds := [f 0 0 .rwT] }, r32 0x00C .ro,
    { off := 0x010, flds := [f 1 31 .w1c] }, { off := 0x014, flds := [f 0 31 .rw 0xFFFFFFFE] },
    { off := 0x018, flds := [f 1 31 .w1s] }, r32 0x01C .ro, r32 0x020 .ro, { off := 0x024, flds := [f 0 0 .w1s] },
    r32 0x028 .ro, r32 0x02C .wo ]

/-- Does the array of registers cover a page offset? -/
def Reg.covers (r : Reg) (off : Nat) : Bool :=
  decide (r.off ≤ off) &&
    (if r.n ≤ 1 then decide (off < r.off + r.size)
     else decide ((off - r.off) / r.stride < r.n) && decide ((off - r.off) % r.stride < r.size))

/-- The register of a page at an offset, with its first offset in the page. -/
def findReg (b : Blk) (i off : Nat) : Option (Reg × Nat) :=
  ((headerRegs ++ regsOf b i).find? (·.covers off)).map fun r =>
    (r, if r.n ≤ 1 then r.off else r.off + (off - r.off) / r.stride * r.stride)

/-- The reset value of a register, from its fields. -/
def Reg.resetVal (r : Reg) : Nat := r.flds.foldl (fun a x => a ||| (x.reset <<< x.lo)) 0

/-- The bits of the fields with one of the given access codes. -/
def Reg.mask (r : Reg) (p : Acc → Bool) : Nat :=
  r.flds.foldl (fun a x => if p x.acc then a ||| ((2 ^ (x.hi - x.lo + 1) - 1) <<< x.lo) else a) 0

/-- Is every field of the register RO or RC (R12)? -/
def Reg.readOnly (r : Reg) : Bool := r.flds.all fun x => x.acc == .ro || x.acc == .rc

/-- Is a value offered to the bits `bm` of a register legal: no reserved bit set, each writable field that the
write touches within its range (R14)? `full` is the register's value after the write. -/
def Reg.legal (r : Reg) (bm v full : Nat) : Bool :=
  (v &&& bm &&& (2 ^ (8 * r.size) - 1 - r.mask fun _ => true)) == 0 &&
  r.flds.all fun x =>
    x.acc == .ro || x.acc == .rc || (bits bm x.hi x.lo == 0) || x.rng.ok (bits full x.hi x.lo)

/-- The reset value of the register at a byte offset of PF0's window; zero where there is none. -/
def resetAt (a : Nat) : Nat :=
  match pageOf (a / 0x1000) with
  | none => 0
  | some (b, i) => match findReg b i (a % 0x1000) with
    | none => 0
    | some (r, _) => r.resetVal

end Sys2Proof.Machine
end

