-- ==== Sys2Proof/Machine/Tab.lean ====
section
/-! DEFINITION. Machine/Tab.lean: sparse tables in one canonical form. A table lists (index, value) pairs with
strictly rising indexes and lists no value equal to its default, so that equal tables are equal data. -/

namespace Sys2Proof.Machine

/-- A sparse table: an index that is not listed holds the table's default. -/
abbrev Tab (α : Type) := List (Nat × α)

/-- The value listed at `k`, if any. -/
def Tab.find {α : Type} : Tab α → Nat → Option α
  | [], _ => none
  | (i, v) :: t, k => if i = k then some v else if k < i then none else Tab.find t k

/-- The value at `k` of a table with default `d`. -/
def Tab.get {α : Type} (t : Tab α) (d : α) (k : Nat) : α := (t.find k).getD d

/-- The table without an entry at `k`. -/
def Tab.erase {α : Type} : Tab α → Nat → Tab α
  | [], _ => []
  | (i, v) :: t, k => if i = k then t else if k < i then (i, v) :: t else (i, v) :: Tab.erase t k

/-- The table with `v` listed at `k`. -/
def Tab.insert {α : Type} : Tab α → Nat → α → Tab α
  | [], k, v => [(k, v)]
  | (i, w) :: t, k, v =>
    if i = k then (k, v) :: t
    else if k < i then (k, v) :: (i, w) :: t
    else (i, w) :: Tab.insert t k v

/-- Write `v` at `k` of a table with default `d`; writing the default removes the entry. -/
def Tab.set {α : Type} [DecidableEq α] (t : Tab α) (d : α) (k : Nat) (v : α) : Tab α :=
  if v = d then t.erase k else t.insert k v

/-- Change the value at `k`. -/
def Tab.upd {α : Type} [DecidableEq α] (t : Tab α) (d : α) (k : Nat) (f : α → α) : Tab α :=
  t.set d k (f (t.get d k))

/-- Every listed index lies above `b`, the indexes rise strictly, and no value is the default. -/
def Tab.wfFrom {α : Type} [DecidableEq α] (d : α) : Nat → Tab α → Bool
  | _, [] => true
  | b, (i, v) :: t => decide (b ≤ i) && decide (v ≠ d) && Tab.wfFrom d (i + 1) t

/-- The canonical form of a table with default `d`. -/
def Tab.wf {α : Type} [DecidableEq α] (d : α) (t : Tab α) : Bool := Tab.wfFrom d 0 t

/-- The table with every entry for which `p` holds removed. -/
def Tab.drop {α : Type} (t : Tab α) (p : Nat → α → Bool) : Tab α := t.filter fun e => !p e.1 e.2

/-- Write consecutive values starting at `k`. -/
def Tab.putList {α : Type} [DecidableEq α] (t : Tab α) (d : α) : Nat → List α → Tab α
  | _, [] => t
  | k, v :: vs => Tab.putList (t.set d k v) d (k + 1) vs

/-- Read `n` consecutive values starting at `k`. -/
def Tab.getList {α : Type} (t : Tab α) (d : α) (k n : Nat) : List α := (List.range n).map fun i => t.get d (k + i)

/-- The listed indexes. -/
def Tab.keys {α : Type} (t : Tab α) : List Nat := t.map Prod.fst

end Sys2Proof.Machine
end

