-- ==== Sys2Proof/Machine/Types.lean ====
section
/-! DEFINITION. Machine/Types.lean: the parts of the state, one structure for each unit the spec describes. -/

namespace Sys2Proof.Machine

/-! ## Records (15_reliability_and_records.md) -/

/-- An event raised by a page (15 R401): `addr` is the address captured in BLK_ERR_CAPT (17 R442). -/
structure Ev where
  blk : Blk
  inst : Nat := 0
  num : Nat
  fn : Nat := 0
  p0 : Nat := 0
  p1 : Nat := 0
  p2 : Nat := 0
  p3 : Nat := 0
  addr : Option Nat := none
  deriving DecidableEq, Repr

/-- A stored event record (15 Table 15.6). -/
structure EvRec where
  ev : Ev
  fault : Bool
  lostBefore : Bool
  seconds : Nat
  cycles : Nat
  plumb10 : Nat
  deriving DecidableEq, Repr

/-- A record of a tagged area: its tag state (15 R404 to R406). -/
inductive TagState where
  | untagged | verified | invalid
  deriving DecidableEq, Repr

/-- A change of configuration as the audit trail describes it (15 Table 15.10); `kind` is 0 immediate write,
1 staged commit, 2 table load, 3 refused; `space` is bits [29:26] of the address word. -/
structure Aud where
  org : Origin
  kind : Nat
  sec : Bool := false
  wide : Bool := false
  oldFull : Bool := false
  newFull : Bool := false
  target : Nat := 0
  space : Nat := 0
  addr : Nat := 0
  old : Nat := 0
  new : Nat := 0
  deriving DecidableEq, Repr

/-- A written audit record with its Plumb count. -/
structure AudRec where
  time : Nat
  entry : Aud
  deriving DecidableEq, Repr

/-- A record for an event queue (13 Table 13.12), without its ownership and overflow bits. -/
structure EvqRec where
  kind : Nat
  forced : Bool := false
  code : Nat := 0
  src : Nat := 0
  p0 : Nat := 0
  p1 : Nat := 0
  deriving DecidableEq, Repr

/-- Work that a command leaves for the end of the same command: records are written in the order in which
they were raised (15 R402). The list is empty between commands. -/
inductive Todo where
  | event (e : Ev)
  | audit (a : Aud)
  | evq (q : Nat) (r : EvqRec)
  deriving DecidableEq, Repr

/-- A register write that waits: staged (17 R446), or held for the audit queue (15 R408). -/
structure Staged where
  org : Origin
  off : Nat
  wide : Bool
  val : Nat
  deriving DecidableEq, Repr

/-- The event ring, the black box and the audit rings (15 R402 to R408). Ring records are kept by index; the rolling and health
areas, the first-failure area of a power cycle and both audit rings are newest first, with how many records ever entered
them; `lost` counts records lost since the last flush. -/
structure Recs where
  ring : Tab (Option EvRec) := []
  prod : Nat := 0
  flushIdx : Nat := 0
  lost : Nat := 0
  frozen : Bool := false
  freezeTick : Nat := 0
  freezeLim : Nat := 0
  freezeCount : Nat := 0
  freezeFirst : Option Ev := none
  flushing : Bool := false
  flushFault : Option Nat := none
  flushPower : Bool := false
  flushTo : Nat := 0
  ffWritten : Bool := false
  rolling : List (EvRec × TagState) := []
  rollProd : Nat := 0
  firstFail : List (Nat × List (EvRec × TagState)) := []
  health : List (EvRec × TagState) := []
  healthProd : Nat := 0
  untagged : Nat := 0
  audit : List AudRec := []
  audProd : Nat := 0
  audMram : List (AudRec × TagState) := []
  audMramProd : Nat := 0
  audQueue : List AudRec := []
  heldWrites : List Staged := []
  deriving DecidableEq, Repr

/-! ## The device as a whole (17 Table 17.9) -/

/-- What the GLB page reports: variant 1 H8P8, 2 H6P16, 3 H4P24 (00 R3); service 0 booting, 1 Primer, 2 Finish,
3 halted; halt cause, queue and entry (13 R359); operating seconds and power cycles (15 Table 15.6). -/
structure Glb where
  variant : Nat := 2
  service : Nat := 0
  heldImage : Option Nat := none
  trial : Bool := false
  tripped : Bool := false
  haltCause : Nat := 0
  haltQ : Nat := 0
  haltEntry : Nat := 0
  opSec : Nat := 0
  opNs : Nat := 0
  cycles : Nat := 0
  deriving DecidableEq, Repr

/-! ## Register pages (17_register_reference.md) -/

/-- The header state of one page (17 R439 to R447). `armed` holds the low 31 bits of the named tick, or none for
the next boundary. -/
structure Page where
  irqStat : W32 := 0
  captEvent : Nat := 0
  captValid : Bool := false
  captAddr : Nat := 0
  lock : Bool := false
  chgSeq : W32 := 0
  armed : Option (Option Nat) := none
  staged : List Staged := []
  deriving DecidableEq, Repr

/-- A held low half of a 64-bit register (17 R444). -/
structure Half where
  off : Nat
  org : Origin
  lo : Nat
  deriving DecidableEq, Repr

/-! ## Plumb time (02_plumb_time_and_determinism.md) -/

/-- One upstream entry (02 R36, R37): the outstanding mark (sequence number and t1), marks unanswered in a row,
whether it is silent, what its last used answer reported, and when its last mark was sent. -/
structure UpEntry where
  out : Option (Nat × Nat) := none
  nextSeq : Nat := 0
  unanswered : Nat := 0
  silent : Bool := false
  lastGood : Bool := false
  hop : Nat := 0
  sentAt : Option Nat := none
  deriving DecidableEq, Repr

/-- A downstream partner (02 R37): receiving port, sender device, count of its last mark. -/
structure Partner where
  port : Nat
  dev : Nat
  last : Nat
  deriving DecidableEq, Repr

/-- The Plumb counter and its alignment (02 R34 to R43). Rates are in units of 2^-32; `st` is 0 unlocked,
1 acquiring, 2 locked, 3 holdover. `highest` is the count of the last boundary produced, below which none is produced again,
and `count` how many have been; `waiting` is a tick length that has been committed and the count at which it applies. -/
structure Plumb where
  now : Nat := 0
  frac : Nat := 0
  st : Nat := 0
  use : Option Nat := none
  hop : Nat := 0
  offset : Int := 0
  c : Int := 0
  f : Int := 0
  good : Nat := 0
  holdAt : Option Nat := none
  ups : Tab UpEntry := []
  partners : List Partner := []
  dropCount : Nat := 0
  dropFirst : Option (Nat × Nat) := none
  highest : Nat := 0
  count : Nat := 0
  waiting : Option (Nat × Nat) := none
  deriving DecidableEq, Repr

/-- A snapshot latched at a boundary and not yet written (06 R184, 17 R453): count, tick, and values by register offset. -/
structure Snap where
  time : Nat
  tick : Nat
  vals : List (Nat × Nat)
  deriving DecidableEq, Repr

/-! ## Memory stacks (07_hbm_memory.md) -/

/-- A row repair (07 R206, Table 7.6): 1 accepted, 2 running, 3 complete and waiting for the boundary. -/
structure Repair where
  pc : Nat
  bank : Nat
  row : Nat
  stage : Nat
  tick : Nat
  deriving DecidableEq, Repr

/-- One entry of the side-poison store (07 R213): a side-table line and the words whose bits are set. -/
structure SidePoison where
  line : Nat
  words : List Nat
  deriving DecidableEq, Repr

/-- The controller and the Sander of one memory stack. `retired` has bit d for each retired die; `spareFor` is the
die that the spare die replaces; its groups rebuild one after another. `pendDie` holds the dies declared failed (die, cause, boundary
count); `scrubAt` is the line from which the scrub pass goes on. -/
structure Stack where
  st : Nat := 0
  half : Bool := true
  retired : BitVec 16 := 0
  spareFor : Option Nat := none
  rebuilt : Bool := false
  rebuildGrp : Nat := 0
  rebuildPtr : Nat := 0
  rebuildFrom : Nat := 0
  lostProtection : Bool := false
  initPtr : Nat := 0
  initMore : List Nat := []
  window : Nat := 0
  dieWin : Tab Nat := []
  rowWin : List (Nat × Nat × Nat × Nat) := []
  pendDie : List (Nat × Nat × Nat) := []
  repair : Option Repair := none
  repairOut : Nat := 0
  held : List Instr := []
  waits : List (Nat × Nat) := []
  sidePoison : List SidePoison := []
  sideDead : List Nat := []
  scrubAt : Nat := 0
  temp : Int := 0
  tempPresent : Bool := false
  hot : Bool := false
  deriving DecidableEq, Repr

/-- A field-repair entry in MRAM (07 R205). -/
structure RepairEntry where
  stack : Nat
  die : Nat
  pc : Nat
  bank : Nat
  row : Nat
  time : Nat
  deriving DecidableEq, Repr

/-- Memory-wide state: the stacks in service at the end of training (07 R191) and the boundaries fixed at boot
(08 R216), field repairs in MRAM, the diagnostic flip (07 R209), and the stack at whose fenced bank the command in execution
waits (07 R206; none between commands). -/
structure MemMap where
  order : List Nat := []
  flip : Option Nat := none
  diagRefused : Bool := false
  repairs : List RepairEntry := []
  stalled : Option Nat := none
  deriving DecidableEq, Repr

/-! ## Collective groups (06_fused_collectives.md) -/

/-- A rank-table entry (06 Table 6.5). -/
structure RankEnt where
  dev : Nat
  eng : Nat
  ctx : Nat
  conn : Nat
  gen : Nat
  deriving DecidableEq, Repr

/-- A group as committed (06 R162 to R165): the register values in force, the table, the sequence numbers issued and
completed by each local rank, and whether a stall was raised. -/
structure Grp where
  valid : Bool := false
  cfg : Nat := 0x4000
  stage : Nat := 0
  tbl : Nat := 0
  wdog : Nat := 4096
  pkey : Nat := 0
  digest : Nat := 0
  table : List RankEnt := []
  seq : Tab Nat := []
  fin : Tab Nat := []
  stall : Bool := false
  deriving DecidableEq, Repr

/-- A collective instance at a local member (06 R168 to R175), kept with the context that issued it: `comb` chunks
combined (or, in a broadcast, placed), `sent` chunks sent, `ready` chunks of the result that may be sent, `fwd` chunks
forwarded to each child, `acks` messages not yet acknowledged, `total` bytes of its stream (0 while unknown), `need`
total bytes of each child's stream, `streams` and `bads` what children have sent where rows or blocks straddle chunks,
with its poisoned lines (position 16 is the own contribution), `lost` that a chunk it sent ended without being placed. -/
structure Coll where
  g : Nat
  rank : Nat
  v : Nat
  op : Nat
  seq : Nat
  imm : Nat
  root : Nat
  f : Fields
  total : Nat := 0
  comb : Nat := 0
  ready : Nat := 0
  sent : Nat := 0
  fwd : Tab Nat := []
  acks : List (Nat × Nat) := []
  last : Nat := 0
  poison : Bool := false
  need : Tab Nat := []
  streams : List (Nat × List Byte) := []
  bads : List (Nat × Nat) := []
  lost : Bool := false
  nv : Bool := false
  of : Bool := false
  uf : Bool := false
  deriving DecidableEq, Repr

/-- What travels between two members on this device: a chunk, a ready word or an abandon word, by destination rank,
source rank and child position. -/
structure Flight where
  kind : Nat
  g : Nat
  dest : Nat
  src : Nat
  j : Nat
  hdr : Option ChunkHdr := none
  data : List Byte := []
  bad : List Nat := []
  seq : Nat := 0
  code : Nat := 0
  deriving DecidableEq, Repr

/-! ## Expert dispatch (05_sparsity_and_conditional_compute.md) -/

/-- An expert-table entry (05 Table 5.4). -/
structure Expert where
  rank : Nat
  loc : Nat
  off : Bool
  cap : Nat
  deriving DecidableEq, Repr

/-- The dispatch or combine of one context: the instance, the expert table that its DISPATCH read, which kind waits
(0 none, 1 DISPATCH, 2 COMBINE), rows announced and placed by local expert and source (index l G + s), rows sent and
choices dropped for capacity or by R146, returned rows placed, the segments (source, local expert) whose digest differs, and what
it still awaits; `lost` says that a message of it ended without being placed. -/
structure Moe where
  g : Nat := 0
  rank : Nat := 0
  inst : Nat := 0
  wait : Nat := 0
  f : Fields := {}
  table : List Expert := []
  digest : Nat := 0
  announced : Tab (Option Nat) := []
  placed : Tab Nat := []
  sent : Nat := 0
  dropCap : Nat := 0
  dropNan : Nat := 0
  rows : Nat := 0
  badSegs : List (Nat × Nat) := []
  acks : List (Nat × Nat) := []
  lost : Bool := false
  poison : Bool := false
  fail : Option Nat := none
  nv : Bool := false
  of : Bool := false
  uf : Bool := false
  deriving DecidableEq, Repr

/-- A part of a dispatch message to rank `dst`: a segment header (`hdr` with the announced rows) or rows from `slot`; `far` says that
it came from another device, whose packets name no rank of this one. -/
structure Seg where
  g : Nat
  src : Nat
  dst : Nat
  inst : Nat
  loc : Nat
  combine : Bool
  hdr : Bool
  n : Nat := 0
  slot : Nat := 0
  last : Bool := false
  digest : Nat := 0
  data : List Byte := []
  poison : Bool := false
  far : Bool := false
  deriving DecidableEq, Repr

/-- The expert table of a DISPATCH that a rank of this device has issued, for the COMBINE of the same instance (05 R153). -/
structure MoeTab where
  g : Nat
  rank : Nat
  inst : Nat
  table : List Expert
  digest : Nat
  deriving DecidableEq, Repr

/-- Parts held for an instance not yet issued, the instances that a rank has completed (group, rank, instance, combine), the
segments dropped for them (05 R151), and the tables of the instances dispatched. -/
structure MoeHub where
  held : List Seg := []
  fin : List (Nat × Nat × Nat × Bool) := []
  dropped : Nat := 0
  tabs : List MoeTab := []
  deriving DecidableEq, Repr

/-! ## Engines (03_engines_and_formats.md, 04_engine_instruction_set.md) -/

/-- A tensor descriptor, 256 bits (04 Table 4.3). -/
abbrev TdWord := BitVec 256

/-- A launch accepted for a context (13 R351, 02 R46, R47): the queue and entry that carry it, or the group of a
launch broadcast (13 R352). -/
structure Launch where
  e : Nat
  x : Nat
  tick : Nat
  asked : Nat
  clear : Bool := false
  entry : Nat := 0
  arg : Nat := 0
  tag : Nat := 0
  queue : Option (Nat × Nat) := none
  group : Option Nat := none
  late : Bool := false
  ticksLate : Nat := 0
  first : Bool := true
  deriving DecidableEq, Repr

/-- Why a context waits: a wait for full or for empty on a list of word ranges (space, start, bytes), with the tick at
which it began; `op` says whether the instruction is the wait itself (FE.WAIT, FE.WAITE) or carries fe_wait; `retry` that the
controller had no room for it when it was sent (07 R212). -/
structure Wait where
  op : Bool
  empty : Bool
  ranges : List (Nat × Nat × Nat)
  since : Nat
  stalled : Bool := false
  retry : Bool := false
  sentAt : Nat := 0
  deriving DecidableEq, Repr

/-- One resident context (03 Table 3.1, Table 3.9; 04 Table 4.2). `st` is 0 empty, 1 parked, 2 running, 3 held;
`dbgHold` says that the debug page, and not only a mask, holds it;
`acc` holds element (k, row, column) at 4096 k + 64 row + column; `rerun` is the output tile and slice of a Scrim mismatch whose
re-run is pending (15 R389). -/
structure Ctx where
  st : Nat := 0
  heldFrom : Nat := 0
  holdReq : Bool := false
  dbgHold : Bool := false
  faulted : Bool := false
  err : Nat := 0
  slices : Nat := 0
  overrun : Bool := false
  mid : Bool := false
  nv : Bool := false
  of : Bool := false
  uf : Bool := false
  pz : Bool := false
  pc : Nat := 0
  td : Tab TdWord := []
  sr : Tab W64 := []
  pr : Tab Bool := []
  acc : Tab W32 := []
  launch : Option Launch := none
  wait : Option Wait := none
  fence : Option Nat := none
  halting : Bool := false
  failing : Option Nat := none
  heldErr : Option Nat := none
  heldMore : Nat := 0
  heldLocal : Option Nat := none
  pendingOps : List (Nat × Nat) := []
  evTick : Option Nat := none
  evDrop : Nat := 0
  plan : Nat := 0
  tag : Nat := 0
  coll : Option Coll := none
  moe : Moe := {}
  rerun : Option (Nat × Nat) := none
  deriving DecidableEq, Repr

/-- Who asked for a message on a connection: an engine context, a work-queue entry, or the device itself. -/
inductive MsgSrc where
  | engine (k : Nat)
  | wq (q n : Nat)
  | device
  deriving DecidableEq, Repr

/-- The result of a translation: the fabric physical address with the page size class and permissions, or a cause
and whether stage 2 found it (08 Table 8.5). -/
inductive XRes where
  | ok (pa size : Nat) (rd wr : Bool)
  | fault (cause : Nat) (stage2 : Bool)
  deriving DecidableEq, Repr

/-- What a lookup or a walk found for a 4 KiB page (08 R225): a fault, the size class and permissions of stage 1 with what stage 2
made of the page, or the host's translation of it (08 R234). -/
inductive Got where
  | fault (cause : Nat) (stage2 : Bool)
  | walked (size : Nat) (rd wr : Bool) (r : XRes)
  | host (page : Nat) (rd wr : Bool)
  deriving DecidableEq, Repr

/-- A page that a command translates, for one kind of access; `tag` is none for a host page. -/
structure Want where
  fn : Nat
  tag : Option Nat
  page : Nat
  wr : Bool
  deriving DecidableEq, Repr

/-- A page that a command has translated. -/
structure Given where
  want : Want
  got : Got
  deriving DecidableEq, Repr

/-- One end of a DMA transfer (13 Table 13.7): space, function, address-space tag, address, whether Relaxed Ordering
is clear, and the pages that its command has translated. -/
structure DmaEnd where
  space : Nat
  fn : Nat
  tag : Nat
  addr : Nat
  strict : Bool := false
  given : List Given := []
  deriving DecidableEq, Repr

/-- A message on a connection (10 R272 to R285): kind 0 write, 1 read, 2 flush, 3 dispatch (`raddr` is then the group), 4 read
response (`seq` is its request's), 5 domain reset. FENCE goes with its first packet (`fence`), its last (`fenceLast`) or all of them
(`fenceAll`). `bad` lists its poisoned blocks of 256 bytes; `done` that its end was reported. For a read, `rd` says where its response goes: function, address-space tag, space, address, and whether
Relaxed Ordering is clear. -/
structure Msg where
  id : Nat
  kind : Nat
  raddr : Nat := 0
  mkey : Nat := 0
  len : Nat := 0
  data : List Byte := []
  fence : Bool := false
  fenceLast : Bool := false
  fenceAll : Bool := false
  bad : List Nat := []
  seq : Option Nat := none
  rd : Option DmaEnd := none
  done : Bool := false
  src : MsgSrc := .device
  deriving DecidableEq, Repr

/-- What the hub holds for an engine that is being copied (03 R86): a command of so many payload bytes, or bytes placed at an offset
of its tile store, with the full/empty state and the poison that they carry. -/
inductive Held where
  | cmd (bytes : Nat) (i : Instr)
  | put (off : Nat) (data : List Byte) (fe : Option Bool) (poison : Bool)
  deriving DecidableEq, Repr

/-- A logical engine (03 R85, R86, Table 3.9): its tile, the context that holds the interval and whether its slice or launch has yet
to start (02 R44: at B + 256), a switch in progress, the rotating pointer for ties, a migration with its copy, the inbound transfers
that the hub holds (at most 1 MiB) and those that wait at their sources, and the owner that last used each granule of 64 KiB. -/
structure Eng where
  tile : Option Nat := none
  noTile : Bool := false
  moved : Nat := 0
  interval : Option Nat := none
  ovr : Bool := false
  switching : Option Nat := none
  tie : Nat := 0
  migrTo : Option Nat := none
  copying : Bool := false
  gran : Tab Nat := []
  heldIn : List Held := []
  waitIn : List Held := []
  underTest : Bool := false
  deriving DecidableEq, Repr

/-- A fenced inbound transfer that waits at its destination for markers (01 R24, R25): the pair of agents, the plane on which it
came, and whether its fence marker has arrived on the other plane. -/
structure Fenced where
  src : Nat
  dst : Nat
  plane : Nat
  marked : Bool := false
  cmd : Instr
  deriving DecidableEq, Repr

/-- The network-on-chip planes (01 R24 to R26; 17 Table 17.19): states 0 in service, 1 draining, 2 out, 3 failed; when one
was retired; the final markers awaited by source and destination; the pairs used in this tick and in the last; fence markers
that arrived before their transfer (source, destination, plane); fenced transfers held, in the order in which they came; whether a
failed plane has passed a test. Agents: tile t is t, stack m is 64 + m, the hub is 72. -/
structure Noc where
  st0 : Nat := 0
  st1 : Nat := 0
  retiredAt : Nat := 0
  awaiting : List (Nat × Nat) := []
  used : List (Nat × Nat) := []
  lastUsed : List (Nat × Nat) := []
  markers : List (Nat × Nat × Nat) := []
  fenced : List Fenced := []
  passed0 : Bool := false
  passed1 : Bool := false
  deriving DecidableEq, Repr

/-! ## Health (15_reliability_and_records.md R393 to R400) -/

/-- The summary of a physical tile: role 0 engine, 1 spare, 2 under test, 3 checking, 4 retired. `due` is the
operating second of its next test, `dueNow` the cause of a test that has fallen due (0 scheduled, 1 booking,
2 command) with the tick since which it waits. -/
structure Tile where
  role : Nat := 0
  observing : Bool := false
  obsFrom : Nat := 0
  perm : Nat := 0
  transients : Nat := 0
  loci : List (Nat × Nat) := []
  due : Nat := 0
  dueNow : Option (Nat × Nat) := none
  testTick : Nat := 0
  inPlace : Bool := false
  retire : Bool := false
  deriving DecidableEq, Repr

/-- What the primary mirrors to the checker of a sampled slice (15 R391): its bank at slice start; the bytes, full words and
poisoned words of its region at slice start; the 128-byte lines of the region that the slice has read or written (program lines
included) and those that it has written; the values from outside its tile store, in the order of their use, each with its kind (0 a
read of memory or another store, 1 a placement, 2 a Plumb read, 3 a mailbox message, 4 the end of a wait) and place, and the transfers
that it has sent;
its bank and the lines it wrote at SLICE.END. -/
structure Mirror where
  bank : Ctx := {}
  bytes : List (Nat × Byte) := []
  full : List Nat := []
  poison : List Nat := []
  touched : List Nat := []
  written : List Nat := []
  ins : List (Nat × Nat × List Byte) := []
  outs : List (Nat × List Byte) := []
  final : Option (Ctx × List (Nat × List Byte)) := none
  deriving DecidableEq, Repr

/-- A Stipple check (15 R390 to R392): the sampled slice, its checker, the second checker, since when a mismatch waits for one, the
mirror, and whether the primary's slice has failed a Scrim check (01 Table 1.10 entry L). -/
structure Check where
  k : Nat
  slice : Nat
  checker : Nat
  second : Option Nat := none
  missing : Option Nat := none
  mirror : Mirror := {}
  scrimBad : Bool := false
  deriving DecidableEq, Repr

/-- Unit tests in progress (kind, index, start tick) and the result of HLTH_CMD (15 R400): outcome 0 passed or done, 1
failed, 2 refused, 3 waiting for a spare; `cmd` is the unit whose test the command awaits. -/
structure Hlth where
  tests : List (Nat × Nat × Nat) := []
  cmd : Option (Nat × Nat) := none
  outcome : Nat := 0
  checks : List Check := []
  deriving DecidableEq, Repr

/-! ## Host functions and rings (13_host_functions_and_rings.md) -/

/-- A work-queue table entry in force (13 Table 13.3), with its first 8 bytes as loaded. -/
structure WqCfg where
  priv : Bool := false
  infra : Bool := false
  wqLog : Nat := 4
  cqLog : Nat := 4
  owner : Nat := 0
  slot : Nat := 0
  weight : Nat := 1
  burst : Nat := 1
  cls : Nat := 0
  shaped : Bool := false
  shaper : Nat := 0
  evq : Nat := 0
  evqValid : Bool := false
  tag : Nat := 0
  wqBase : Nat := 0
  cqBase : Nat := 0
  raw : Nat := 0
  deriving DecidableEq, Repr

/-- A work descriptor (13 Tables 13.4 and 13.6), operands by offset. -/
structure Desc where
  ctl : Nat := 0
  op : Nat := 0
  rsv : Nat := 0
  cookie : Nat := 0
  o8 : Nat := 0
  o16 : Nat := 0
  o24 : Nat := 0
  o32 : Nat := 0
  o36 : Nat := 0
  o40 : Nat := 0
  rest : Nat := 0
  deriving DecidableEq, Repr

/-- Where a descriptor stands: fetched, issued (its effect may run), running (effect done, waiting for its end),
or finished with what its completion will say (13 R348, R349); `parts` counts the messages that carry it. While it reads over PCIe:
the pages that it has translated, the bytes that have come by offset, and whether a read failed. -/
structure Job where
  entry : Nat
  d : Desc
  stage : Nat := 0
  status : Nat := 0
  detail : Nat := 0
  late : Bool := false
  extra : Nat := 0
  bytes : Nat := 0
  parts : Nat := 1
  given : List Given := []
  src : List (Nat × List Byte) := []
  srcFault : Option Nat := none
  srcBad : Bool := false
  deriving DecidableEq, Repr

/-- A work queue (13 R343 to R350): state 0 disabled, 1 enabled, 2 draining, 3 faulted; its jobs, those finished last and
in the order in which they finished; the WQ.DISABLEs that drain it; doorbells not yet used up (count, time), the last samples
and the largest head delay of this tick (12 R331). -/
structure Wq where
  st : Nat := 0
  cfg : WqCfg := {}
  p : Nat := 0
  c : Nat := 0
  cqProd : Nat := 0
  cqCons : Nat := 0
  jobs : List Job := []
  disabler : List (Nat × Nat) := []
  doors : List (Nat × Nat) := []
  depth : Nat := 0
  delay : Nat := 0
  maxDelay : Nat := 0
  deriving DecidableEq, Repr

/-- A child of a tag-order arbiter of the issue tiers: its start tag in steps of 2^-32, its age, and whether it is eligible
(12 R323, R324). -/
structure ArbKid where
  tag : Nat := 0
  age : Nat := 0
  elig : Bool := false
  deriving DecidableEq, Repr

/-- The issue arbiter (12 Table 12.1): virtual times of the function tier by class and of the queue tiers by 512 class +
function, and their children by 512 class + function and by 16 queue + class. Class 8 stands for the privileged
rings. `watch` is the watch list as read at the last commit of ARB_SAMP_CFG (12 R332). -/
structure Arb where
  fnV : Tab Nat := []
  fns : Tab ArbKid := []
  qV : Tab Nat := []
  qs : Tab ArbKid := []
  sampProd : Nat := 0
  watch : List Nat := []
  deriving DecidableEq, Repr

/-- An event queue (13 R353 to R356, Table 13.11). -/
structure Evq where
  valid : Bool := false
  owner : Nat := 0
  log2 : Nat := 4
  vector : Nat := 0
  slot : Nat := 0
  moderation : Nat := 0
  infra : Bool := false
  base : Nat := 0
  prod : Nat := 0
  cons : Nat := 0
  armed : Bool := false
  overflow : Bool := false
  lost : Nat := 0
  msgDue : Bool := false
  lastMsg : Option Nat := none
  deriving DecidableEq, Repr

/-- A function (13 Table 13.10): state 0 disabled, 1 active, 2 masked, 3 resetting; reason 0 none, 1 held,
2 faulted, 3 FLR; a reset since `flrAt`, whether its contexts are emptied and its operations flushed; whether the host enabled
ATS; the MSI-X vectors unmasked and pending; the FN.REMOVE that removes it with the operations flushed (13 R362). -/
structure Fn where
  st : Nat := 0
  reason : Nat := 0
  bound : Bool := false
  flrAt : Option Nat := none
  emptied : Bool := false
  flushed : Nat := 0
  atsOn : Bool := false
  unmasked : BitVec 32 := 0
  pba : BitVec 32 := 0
  removal : Option (Nat × Nat × Nat) := none
  deriving DecidableEq, Repr

/-- One direction of a mailbox pair (13 R357, R358). `out` is the outbound box and `inbox` what was delivered. -/
structure Mbx where
  out : Tab W64 := []
  inbox : Tab W64 := []
  control : Bool := false
  busy : Bool := false
  sent : Bool := false
  full : Bool := false
  verified : Bool := false
  timedOut : Bool := false
  seq : Nat := 0
  inSeq : Nat := 0
  sendTick : Nat := 0
  deriving DecidableEq, Repr

/-- A view command's result (13 R364, 17 R456). -/
structure View where
  refused : Bool := false
  w : List Nat := []
  deriving DecidableEq, Repr

/-- A read that the device has issued on a PCIe controller (13 R340), at byte `off` of the range that its descriptor reads; `at_`
where its address is translated (AT set; 08 R234). -/
structure PcieRd where
  ctl : Nat
  tag : Nat
  q : Nat
  n : Nat
  addr : Nat
  len : Nat
  off : Nat := 0
  at_ : Bool := false
  since : Nat := 0
  deriving DecidableEq, Repr

/-! ## Translation (08_address_translation.md) -/

/-- A function record in force (08 Table 8.3). -/
structure FnRec where
  valid : Bool := false
  s2on : Bool := false
  s2root : Nat := 0
  tagBase : Nat := 0
  tags : Nat := 0
  cap : Nat := 1
  minEntries : Nat := 0
  deriving DecidableEq, Repr

/-- An entry of the translation cache (08 R226): `tag` is none for the ATS kind; `size` 0 to 3 stands for 4 KiB,
64 KiB, 2 MiB, 1 GiB; `page` is the output page's first address. -/
structure XltEnt where
  fn : Nat
  tag : Option Nat
  size : Nat
  vpn : Nat
  page : Nat
  rd : Bool
  wr : Bool
  age : Nat := 0
  deriving DecidableEq, Repr

/-- An entry of the walk cache (08 R226): kind 0 a tag-table entry, 1 a stage-2 translation of the page `key`,
2 and 3 pointers to the stage-1 PT1 and PT0 tables of the region `key`. -/
structure WalkEnt where
  kind : Nat
  fn : Nat
  tag : Nat
  key : Nat
  val : Nat
  age : Nat := 0
  deriving DecidableEq, Repr

/-- A queued miss, and a walk in progress (08 R229). -/
structure Miss where
  fn : Nat
  tag : Nat
  page : Nat
  since : Nat := 0
  deriving DecidableEq, Repr

/-- A command that waits for translations: the pages still missing, and those that it has. -/
structure XltWait where
  cmd : Instr
  left : List Want
  given : List Given
  deriving DecidableEq, Repr

/-- A fault capture (08 R230). -/
structure XltCap where
  cause : Nat
  stage2 : Bool
  write : Bool
  fn : Nat
  tag : Nat
  va : Nat
  overflow : Bool := false
  deriving DecidableEq, Repr

/-- The invalidation command of one window (08 R231): its word, whether it runs, refusal and reload flags, the connections and
messages that must still be acknowledged, and the jobs that must still end. -/
structure InvCmd where
  word : Nat := 0
  busy : Bool := false
  refused : Bool := false
  reloadFailed : Bool := false
  fn : Nat := 0
  awaits : List (Nat × Nat) := []
  jobs : List (Nat × Nat) := []
  deriving DecidableEq, Repr

/-- An outstanding translation request to the host (08 R234, R235). -/
structure AtsReq where
  fn : Nat
  page : Nat
  since : Nat
  deriving DecidableEq, Repr

/-- The translation unit: function records, both caches, the sweep's pointer and the tick at which its pass began, misses, walkers,
captures, per-function counters (index 8 f + i), invalidations, ATS requests and ATS invalidations in progress with the reads they
await, the commands that wait, and the pages (function, tag, page) whose walk by the instruction in execution finds no answer in
time (none between commands). -/
structure Xlt where
  recs : Tab FnRec := []
  cache : Tab (Option XltEnt) := []
  walk : Tab (Option WalkEnt) := []
  sweepPtr : Nat := 0
  sweepFrom : Nat := 0
  misses : List Miss := []
  walkers : Tab (Option Miss) := []
  turn : Nat := 0
  devCap : Option XltCap := none
  fnCap : Tab (Option XltCap) := []
  fnCnt : Tab Nat := []
  inv : Tab InvCmd := []
  ats : List AtsReq := []
  atsInv : List (Nat × List (Nat × Nat)) := []
  waits : List XltWait := []
  slow : List (Nat × Nat × Nat) := []
  deriving DecidableEq, Repr

/-! ## Record and replay (02 R54 to R59, 17 R458) -/

/-- A replay group: mode in force 0 off, 1 record, 2 replay; whether it ended and why; the start tick; the last
sequence number; the end of the trace written so far; for each consumer the tick and count of its consumptions; the
trace offsets consumed; inputs dropped while replaying. -/
structure Rep where
  mode : Nat := 0
  ended : Bool := false
  reason : Nat := 0
  start : Option Nat := none
  seq : Nat := 0
  next : Nat := 0
  pos : Nat := 0
  order : Tab (Nat × Nat) := []
  used : List Nat := []
  dropped : Nat := 0
  stopAt : Bool := false
  plan : Option Nat := none
  deriving DecidableEq, Repr

/-! ## Frames and ports (11_ethernet_ports.md, 12_arbitration_shaping_and_isolation.md) -/

/-- A frame to send, of `bytes` bytes from destination address to FCS. `op` is the Phisal opcode of `pkt`; `first` names
the message whose last packet this is, on connection `conn` (for a Plumb mark, its upstream entry); `pfc` gives the priority and quanta of a PFC frame; `vlan`
the VID of its tag (R308); `held` that it was queued when the link fell (R319); `at_` when it became ready; `ecn` the codepoint (2 is ECT(0), 0 Not-ECT), `df` and
`udpSum` the outer fields of 09 R239 (an IPv4 frame's UDP checksum is zero). -/
structure Frame where
  prio : Nat
  fn : Nat := 0
  bytes : Nat
  plumb : Bool := false
  lldp : Bool := false
  held : Bool := false
  pfc : Option (Nat × Nat) := none
  vlan : Option Nat := none
  dscp : Nat := 0
  conn : Option Nat := none
  dst : Nat := 0
  ttl : Nat := 0
  ecn : Nat := 0
  df : Bool := false
  udpSum : Nat := 0
  sport : Nat := 0
  op : Nat := 0
  pkt : Option Pkt := none
  body : List Byte := []
  first : Option Nat := none
  at_ : Nat := 0
  deriving DecidableEq, Repr

/-- One priority of a port: pause by the partner until `until_`, since `pausedAt`; stalled; the partner unpaused since
`freeAt`; our own pause of the partner, since `ourAt`, last sent `sentAt`; pause limit in force; bytes held in its
receive part, and the tags of the transmit arbiters. -/
structure Prio where
  until_ : Option Nat := none
  pausedAt : Option Nat := none
  freeAt : Nat := 0
  stalled : Bool := false
  ours : Bool := false
  ourAt : Nat := 0
  sentAt : Nat := 0
  limit : Bool := false
  rx : List EthFrame := []
  tag : Nat := 0
  age : Nat := 0
  wasElig : Bool := false
  vt : Nat := 0
  streams : List (Nat × Nat × Nat) := []
  maxWait : Nat := 0
  deriving DecidableEq, Repr

/-- A port: link state 0 down, 1 debouncing, 2 up; local fault since `faultAt`; when alignment returned; frames held since
`holdAt`; frames queued, and the one in transmission with the count at which it ends; low-power idle; mode and medium in
force; the board position that the partner's LLDP reports. -/
structure Port where
  link : Nat := 0
  fault : Bool := false
  faultAt : Nat := 0
  alignAt : Nat := 0
  training : Bool := false
  holding : Bool := false
  holdAt : Nat := 0
  silenced : Bool := false
  tx : List Frame := []
  cur : Option (Nat × Frame) := none
  rxPart : Tab Prio := []
  vt : Nat := 0
  lpiTx : Bool := false
  lpiRx : Bool := false
  lpiAt : Nat := 0
  lpiRxAt : Nat := 0
  lpiDef : Bool := false
  lpiDone : Bool := false
  lpiWake : Nat := 0
  idleAt : Nat := 0
  wakeAt : Option Nat := none
  mode : Nat := 0
  medium : Nat := 0
  ueTick : Option Nat := none
  failed : Bool := false
  board : Option Nat := none
  deriving DecidableEq, Repr

/-! ## Application cores (14_infrastructure_cores_and_security.md R365 to R375) -/

/-- A line in the directory of its home slice (14 R365): modified in an L2 or shared, with its sharer vector. -/
structure DirEnt where
  modified : Bool := false
  exclusive : Bool := false
  sharers : BitVec 16 := 0
  deriving DecidableEq, Repr

/-- An entry of the neighbour cache (14 R375, Table 14.4). -/
structure NbEnt where
  dev : Nat
  valid : Bool
  ipv6 : Bool
  port : Nat
  mac : Nat
  ip : Nat
  age : Nat := 0
  deriving DecidableEq, Repr

/-- A command of a queue pair, as its capsule names it: its identifier, where its data lie at the initiator, under which memory key,
and the status that the device has set for it (14 R377: 1 Transient Transport Error). -/
structure NvmCmd where
  cid : Nat
  addr : Nat := 0
  len : Nat := 0
  key : Nat := 0
  status : Nat := 0
  deriving DecidableEq, Repr

/-- An NVMe-oF queue pair on a connection (14 R376): which end this is, its depth, its own ring as a local range (of capsules at the
target, of responses at the initiator), the other end's ring as a fabric range with its memory key, the commands that are not yet
answered, the last data message started, and whether a FLUSH has completed since. -/
structure NvmPair where
  target : Bool
  depth : Nat
  ring : Nat
  ringLen : Nat
  peerRing : Nat
  peerLen : Nat
  peerKey : Nat
  cmds : List NvmCmd := []
  lastData : Nat := 0
  flushed : Bool := true
  deriving DecidableEq, Repr

/-- The core cluster: cores taken offline, whether the cores run (their image verified, 14 R384), the
directory by line, the rotating pointer of each home slice, the neighbour cache by set and way with its sweep (next set, and the tick
from which the sweep runs), and the NVMe-oF queue pairs by connection. -/
structure Cores where
  offline : BitVec 16 := 0
  running : Bool := false
  dir : Tab DirEnt := []
  ptr : Tab Nat := []
  nb : Tab (Option NbEnt) := []
  nbSweep : Nat := 0
  nbFrom : Nat := 0
  pairs : Tab NvmPair := []
  deriving DecidableEq, Repr

/-! ## Connections (09_phisal_wire_and_connections.md, 10_phisal_delivery_and_congestion.md) -/

/-- A packet sent and not yet acknowledged: its PSN, message, opcode, offset in the message and payload bytes. -/
structure SentPkt where
  psn : Nat
  msg : Nat
  op : Nat
  seq : Nat
  off : Nat
  len : Nat
  last : Bool
  deriving DecidableEq, Repr

/-- A read that this end asked for: where its response goes and how much has been placed; whether poison or a fault was
met in placing it. -/
structure ReadRec where
  seq : Nat
  msg : Nat
  dest : DmaEnd
  len : Nat
  got : Nat := 0
  bad : Nat := 0
  src : MsgSrc
  deriving DecidableEq, Repr

/-- A connection context (09 Tables 9.11 and 9.12, 10 Tables 10.1 and 10.2) and the work of the connection: messages
queued or in flight, the bytes of the first queued message already sent, packets outstanding, FENCE packets held,
reads outstanding, busy packets to re-send, and what opening and closing have done. -/
structure Conn where
  st : Nat := 0
  gen : Nat := 0
  encap : Nat := 0
  prio : Nat := 0
  owner : Nat := 0
  pkey : Nat := 0
  window : Nat := 0
  peerConn : Nat := 0
  peerDev : Nat := 0
  udpDport : Nat := 0
  peerIp : Nat := 0
  peerMac : Nat := 0
  sportBase : Nat := 0
  portMask : Nat := 0
  pathsM1 : Nat := 0
  retryMax : Nat := 0
  pktLog2 : Nat := 0
  reorderTo : Nat := 0
  rexmitTo : Nat := 0
  ccProf : Nat := 0
  cookie : Nat := 0
  nextPsn : Nat := 0
  una : Nat := 0
  gapPsn : Nat := 0
  rate : Nat := 0
  round : Nat := 0
  gapTimer : Bool := false
  gbn : Bool := false
  credit : Int := 0
  nextMsg : Nat := 0
  gapTick : Nat := 0
  rtoTick : Nat := 0
  ceEcho : Nat := 0
  acked : Nat := 0
  updTick : Nat := 0
  epsn : Nat := 0
  highPsn : Nat := 0
  lastPsn : Nat := 0
  lastSeq : Nat := 0
  doneSeq : Nat := 0
  ceCnt : Nat := 0
  sinceAck : Nat := 0
  reorderDl : Nat := 0
  gapOpen : Bool := false
  lastValid : Bool := false
  ackDue : Bool := false
  dupAck : Bool := false
  arrived : List Nat := []
  queue : List Msg := []
  cur : Option Msg := none
  curSeq : Nat := 0
  curOff : Nat := 0
  flying : List Msg := []
  sent : List SentPkt := []
  held : List (Instr × List Byte) := []
  reads : List ReadRec := []
  busy : List (Nat × Nat) := []
  acks : Nat := 0
  reqs : Nat := 0
  reqTick : Nat := 0
  closeTick : Option Nat := none
  closeOwn : Bool := false
  closePeer : Bool := false
  closeSent : Bool := false
  closedSent : Bool := false
  peerKnown : Bool := false
  peerRetry : Nat := 0
  peerRexmit : Nat := 0
  quarantine : Nat := 0
  cmdWin : Option Nat := none
  deriving DecidableEq, Repr

/-- An entry of the context cache (10 R294, R295). -/
structure CtxEnt where
  conn : Nat
  age : Nat := 0
  changed : Bool := false
  aged : Nat := 0
  deriving DecidableEq, Repr

/-- A context-cache fill in progress, whether it has found its set full, and the arrivals that wait for it (10 R297). -/
structure CtxFill where
  conn : Nat
  waited : Bool := false
  cmds : List Instr := []
  deriving DecidableEq, Repr

/-- The state of the transport that belongs to no single connection: cache entries by slice, set and way, fills,
connection commands by window (outcome, generation and reject reason), the view image, cached region entries, the entry
invalidated with the accesses still awaited (connection, and 2 × PSN of a held packet or 2 × message + 1), sealing keys
held by the port dies (entry, epoch), keys being derived, previous epochs with the tick at which their grace ends, boot
count and the sealed-packet counts of the ports, and the drop counters that already raised an event in this tick. -/
structure Psl where
  cache : Tab (Option CtxEnt) := []
  fills : List CtxFill := []
  stat : Tab (Nat × Nat × Nat) := []
  busy : List (Nat × Nat) := []
  view : Tab (List Byte) := []
  mrCache : List (Nat × List Byte) := []
  mrInv : Option (Nat × List (Nat × Nat)) := none
  keys : List (Nat × Nat) := []
  deriving_ : List (Nat × Nat × Bool) := []
  prevEpoch : Tab (Nat × Nat) := []
  boot : Nat := 0
  sealCnt : Tab Nat := []
  dropTick : Tab Nat := []
  deriving DecidableEq, Repr

/-! ## Resets (06 R185; 16_bringup_power_and_management.md R410 to R412) -/

/-- A domain reset under way: group, reset sequence, child devices that have not acknowledged, and since when. -/
structure Dom where
  g : Nat
  seq : Nat
  wait : List Nat
  since : Nat
  deriving DecidableEq, Repr

/-- Reset and boot: stage 0 unpowered, 1 reset asserted, 2 booting, 3 Primer service, 4 Finish service; the cause of the
last reset (17 Table 17.11 GLB 0x03); whether the next boot records a power-on; SYSREF missing; a power-fail warning not
cleared; straps as sampled (18 R472, R473); whether only the ROM answers (16 R413); kinds of image that run, with the bank and
version of each; a trial image that failed; the steps of the boot that have ended; when release and Finish service were. -/
structure Boot where
  stage : Nat := 1
  cause : Nat := 0
  dom : Option Dom := none
  powerUp : Bool := true
  noSysref : Bool := false
  warning : Bool := false
  primerPort : Nat := 0
  primerMed : Nat := 0
  smbAddr : Nat := 0
  bpos : Nat := 0
  bsize : Nat := 0
  romOnly : Bool := false
  running : List (Nat × Nat × Nat) := []
  trialBad : Bool := false
  selfTested : Bool := false
  calibrated : List (Nat × Bool) := []
  retrained : List Nat := []
  releaseAt : Nat := 0
  finishAt : Nat := 0
  trialClean : Bool := true
  confirmed : Bool := false
  mac : Tab Nat := []
  deriving DecidableEq, Repr

/-- What a reset keeps besides the records (16 R410): fuses (14 R379, R383; 17 Table 17.16) with the owner keys by slot and the
slots revoked; the boot record (active bank, trial pending, a confirmed trial whose versions may be fused at the next boot);
the boot configuration with its tag, none standing for one that gives the reset values; images of the flash by 8 × bank + kind,
where an update has replaced those that were there; and the bookings of ports and cores, by 64 × kind + index, which are counts only (15
R393). -/
structure Nv where
  policy : Nat := 0
  owner : List (List Byte) := []
  revoked : BitVec 4 := 0
  minVer : Tab Nat := []
  tileEn : BitVec 52 := BitVec.allOnes 52
  active : Nat := 0
  trial : Bool := false
  raise : List (Nat × Nat) := []
  cfg : Option (List Byte) := none
  flash : Tab (List Byte) := []
  booked : Tab Nat := []
  deriving DecidableEq, Repr

/-! ## Power and temperature (16 R416 to R422) -/

/-- The governor and the clamp (16 R417 to R419), in units of 0.1 W: the last 100 samples (engine, other), newest first; the
highest 10 µs averages of package and other power in this tick (as sums of 100 samples); engine power summed and the samples
counted in this tick; the same of the tick that has ended; the tick averages of the last ticks as sum, samples, full-load figure
and plan; the governor's choice, boundaries at which the next faster plan fitted; clamp duty and whether it is engaged, with
ns not yet counted; the duty ceiling. -/
structure Pwr where
  win : List (Nat × Nat) := []
  pkgMax : Nat := 0
  restMax : Nat := 0
  engSum : Nat := 0
  engN : Nat := 0
  lastPkg : Nat := 0
  lastEng : Nat := 0
  hist : List (Nat × Nat × Nat) := []
  choice : Nat := 0
  plan : Nat := 0
  up : Nat := 0
  duty : Nat := 16
  clamp : Bool := false
  clampNs : Nat := 0
  ceil : Nat := 16
  deriving DecidableEq, Repr

/-- A junction sensor (16 R422): its last plausible reading in units of 0.25 °C, implausible readings in a row, failed, and
when it last gave a reading. -/
structure Sensor where
  q : Option Int := none
  bad : Nat := 0
  failed : Bool := false
  at_ : Nat := 0
  deriving DecidableEq, Repr

/-- Temperature (16 R421): sensors, the thermal cap, the ceiling it puts on the duty, ticks of its last fall and last rise, the
row of Table 16.7 last entered (0 below 100 °C, 1 from 100, 2 from 105, 3 tripped), and whether a trip holds the reset. -/
structure Thm where
  sens : Tab Sensor := []
  cap : Nat := 0
  duty : Nat := 16
  fell : Option Nat := none
  rose : Nat := 0
  row : Nat := 0
  hold : Bool := false
  deriving DecidableEq, Repr

/-- The heartbeats of the DUST page (16 R425): for the link core and the application cores the last token, when the last valid
kick came, whether armed and whether missed; transmit silence with its start, the period of hb_ms now running, what it has
seen, and how many good periods ended before it. -/
structure Dust where
  linkTok : Option Nat := none
  coreTok : Option Nat := none
  linkAt : Nat := 0
  coreAt : Nat := 0
  linkArmed : Bool := false
  coreArmed : Bool := false
  linkMiss : Bool := false
  coreMiss : Bool := false
  silent : Bool := false
  since : Nat := 0
  period : Nat := 0
  linkIn : Bool := false
  coreIn : Bool := false
  run : Nat := 0
  deriving DecidableEq, Repr

/-! ## Management (16_bringup_power_and_management.md R426 to R435) -/

/-- A platform event (16 R428): 1 change of service, 2 halt, 3 dust-sheet action, 4 thermal row, 5 power-fail warning, 6
trial outcome, 7 image missing. -/
structure PldmEv where
  what : Nat
  p0 : Nat := 0
  p1 : Nat := 0
  deriving DecidableEq, Repr

/-- A session of the attestation protocol (14 R385): identifiers, whether it is established, key updates of each direction, and
what was said in it so far. -/
structure Session where
  id : Nat
  req : Nat
  up : Bool := false
  reqKeys : Nat := 0
  rspKeys : Nat := 0
  transcript : List Byte := []
  deriving DecidableEq, Repr

/-- A firmware update (16 R431): state 0 idle, 1 learning components, 2 ready to transfer, 3 downloading, 4 verifying, 5
applying; the components announced and verified; the component in hand. -/
structure Upd where
  st : Nat := 0
  comps : List (Nat × Nat) := []
  cur : Option (Nat × Nat) := none
  applied : List Nat := []
  deriving DecidableEq, Repr

/-- The management endpoint: events that wait, and since when the first was sent and how often; EID, terminus, event receiver;
the update; the protocol version and algorithms agreed, and sessions. -/
structure Mgmt where
  evts : List PldmEv := []
  sentAt : Option Nat := none
  tries : Nat := 0
  eid : Nat := 0
  tid : Nat := 0
  receiver : Option Nat := none
  upd : Upd := {}
  spdmVer : Option Nat := none
  spdmAlg : Bool := false
  sessions : List Session := []
  nextSession : Nat := 0
  deriving DecidableEq, Repr

end Sys2Proof.Machine
end

