-- ==== Sys2Proof/Machine/State.lean ====
section
/-! DEFINITION. Machine/State.lean: the state of an OD1, the reasons a step can stop, and the state after reset. -/

namespace Sys2Proof.Machine

/-- Why a command stops with a fault. -/
inductive Fault where
  /-- Raised by a command that stands for an event whose cause the state does not hold (a timer that does not run,
  a transfer that is not outstanding): the spec has no such event then. Safe: no behaviour is claimed. -/
  | notDue
  deriving DecidableEq, Repr

/-- Why a command is refused. -/
inductive Refusal where
  /-- Raised by an arm of `exec` whose meaning is not written. Safe: no behaviour is claimed. -/
  | notModelled (mnemonic : String)
  deriving DecidableEq, Repr

/-- What the device sends out, newest first in the state. -/
inductive Out where
  /-- The value that a register read returns. -/
  | read (o : Origin) (off : Nat) (v : Nat)
  /-- A write to host memory of a function; `ro` where Relaxed Ordering is set once the host enables it (13 R348), `at_` where the
  address is translated (AT set; 08 R234). -/
  | hostWrite (fn addr : Nat) (data : List Byte) (ro : Bool) (at_ : Bool := false)
  /-- A poisoned write to host memory of a function (EP set; 07 Table 7.3). -/
  | hostPoisoned (fn addr : Nat) (data : List Byte) (at_ : Bool := false)
  /-- A write on a bus behind a root-port controller (13 Table 13.7), poisoned where `poison` (07 Table 7.3). -/
  | busWrite (ctl addr : Nat) (data : List Byte) (poison : Bool := false)
  /-- The answer to an inbound read of a root port: status 0 data, 1 poisoned data, 2 Unsupported Request (13 R339). -/
  | completion (ctl addr status : Nat) (data : List Byte)
  /-- An inbound transfer for context `x` of engine `e` that is not placed, reported to its source as a bus error (03 R67, 01
  R25). -/
  | bounced (e x off : Nat)
  /-- An ATS Invalidate Completion of a function (08 R236). -/
  | invDone (fn : Nat)
  /-- An MSI-X message of a function (13 R356). -/
  | msix (fn vector : Nat)
  /-- A line access answered to its requester: data and report (0 data, 1 stored poison, 2 fresh uncorrectable or not
  applied, 3 bus error; 07 Table 7.3). -/
  | line (r : Requester) (off : Nat) (kind : Nat) (data : List Byte)
  /-- A request to set words of another device full (04 R117); the spec gives it no wire form (log entry 13). -/
  | feSet (dev off bytes : Nat)
  /-- The answer to a management or attestation request: 0 success, 1 refused, 2 ERROR_INVALID_DATA, 3
  ERROR_UNSUPPORTED_PLDM_CMD, 4 another error, and its content. -/
  | answer (status : Nat) (data : List Byte)
  /-- A PlatformEventMessage to the event receiver (16 R428). -/
  | platformEvent (dest : Nat) (e : PldmEv)
  /-- THERMTRIP_N is asserted (16 R421). -/
  | thermtrip
  /-- A frame that leaves a port (11 R301). -/
  | frame (port : Nat) (f : Frame)
  deriving DecidableEq, Repr

/-- The state of the device. -/
structure State where
  glb : Glb
  plumb : Plumb
  regs : Tab W64
  pages : Tab Page
  halves : List Half
  snaps : Tab W64
  snap : Option Snap
  recs : Recs
  todo : List Todo
  hbm : List Host.Cell
  stackTab : Tab Stack
  mem : MemMap
  xlt : Xlt
  noc : Noc
  tileMem : List Host.Cell
  tileFull : Tab Bool
  tilePoison : Tab Bool
  engs : Tab Eng
  ctxs : Tab Ctx
  tiles : Tab Tile
  hlth : Hlth
  sched : List Launch
  reps : Tab Rep
  conns : Tab Conn
  msgId : Nat
  psl : Psl
  ports : Tab Port
  cores : Cores
  keySlots : List Nat
  boot : Boot
  nv : Nv
  pwr : Pwr
  thm : Thm
  dust : Dust
  dbgPort : Bool
  grps : Tab Grp
  flights : List Flight
  moeHub : MoeHub
  fns : Tab Fn
  wqs : Tab Wq
  evqs : Tab Evq
  arb : Arb
  mgmt : Mgmt
  mbx : Tab Mbx
  wqViews : Tab View
  evqViews : Tab View
  pcieRds : List PcieRd
  freeCtr : Nat
  out : List Out
  pending : List Instr
  deriving DecidableEq, Repr

/-- The device right after reset. -/
def State.reset : State :=
  { glb := {}, plumb := {}, regs := [], pages := [], halves := [], snaps := [], snap := none, recs := {}, todo := [], hbm := [], stackTab := [],
    mem := {}, xlt := {}, noc := {}, tileMem := [], tileFull := [], tilePoison := [], engs := [], ctxs := [],
    tiles := [(12, { role := 1 }), (25, { role := 1 }), (38, { role := 1 }), (51, { role := 1 })], hlth := {}, sched := [], reps := [], conns := [], msgId := 0, psl := {}, ports := [], cores := {}, keySlots := [], boot := {}, nv := {}, pwr := {}, thm := {}, dust := {}, dbgPort := false, grps := [], flights := [], moeHub := {}, fns := [(0, { st := 1 })], wqs := [], evqs := [], arb := {}, mgmt := {}, mbx := [], wqViews := [], evqViews := [], pcieRds := [], freeCtr := 0, out := [],
    pending := [] }

end Sys2Proof.Machine
end

