-- ==== Sys2Proof/Machine/Ops.lean ====
section
/-! DEFINITION. Machine/Ops.lean: the named operations over registers, counters, records to be written and what is
sent out; every meaning uses these. -/

namespace Sys2Proof.Machine

/-- The outcome of a command. -/
abbrev Res := Host.Outcome State Fault Refusal

/-- The canonical form of a memory: addresses strictly rising, and no byte listed that an unlisted address reads as, which is zero
(03 R64, 07 R200). -/
def Memory.wf (m : List Host.Cell) : Bool := Tab.wf (0 : Byte) m

/-- The value in force of the register at a byte offset of PF0's window. -/
def State.reg (s : State) (a : Nat) : Nat := ((s.regs.find a).map BitVec.toNat).getD (resetAt a)

/-- Bits `[hi:lo]` of the register at a byte offset of PF0's window. -/
def State.fld (s : State) (a hi lo : Nat) : Nat := bits (s.reg a) hi lo

/-- Set the value in force of a register. A value equal to the reset value is not listed. -/
def State.setReg (s : State) (a v : Nat) : State :=
  { s with regs := s.regs.set (BitVec.ofNat 64 (resetAt a)) a (BitVec.ofNat 64 v) }

/-- The header state of page `pg`. -/
def State.page (s : State) (pg : Nat) : Page := s.pages.get {} pg

/-- Change the header state of page `pg`. -/
def State.updPage (s : State) (pg : Nat) (g : Page → Page) : State := { s with pages := s.pages.upd {} pg g }

/-- Count `n` in the RC counter at offset `a`, unless its page's cnt_stop is 1 (17 Table 17.6). -/
def State.inc (s : State) (a : Nat) (n : Nat := 1) : State :=
  if s.fld (0x1000 * (a / 0x1000) + 8) 0 0 = 1 then s else s.setReg a ((s.reg a + n) % 2 ^ 64)

/-- Leave an item for the end of the command. -/
def State.push (s : State) (t : Todo) : State := { s with todo := s.todo ++ [t] }

/-- Raise an event (15 R401). -/
def State.event (s : State) (e : Ev) : State := s.push (.event e)

/-- Write an audit record (15 R407). -/
def State.audit (s : State) (a : Aud) : State := s.push (.audit a)

/-- Write an event-queue record to queue `q` (13 R353). -/
def State.evqSend (s : State) (q : Nat) (r : EvqRec) : State := s.push (.evq q r)

/-- Send something out of the device. -/
def State.emit (s : State) (o : Out) : State := { s with out := o :: s.out }

/-- A value that the spec leaves open, and the state with its counter advanced (log entry 1). -/
def State.free (s : State) : BitVec 64 × State := (Config.free s.freeCtr, { s with freeCtr := s.freeCtr + 1 })

/-- The default event queue of a function, if it has one (13 Table 13.17). -/
def State.defEvq (s : State) (fn : Nat) : Option Nat :=
  let r := s.reg (Blk.fn.at (fn / 128) (0x804 + 16 * (fn % 128)))
  if bitAt r 12 then some (bits r 11 0) else none

/-- Write an event-queue record to the default event queue of a function, if it has one of its own. -/
def State.notify (s : State) (fn : Nat) (r : EvqRec) : State :=
  match s.defEvq fn with
  | none => s
  | some q => if (s.evqs.get {} q).owner = fn then s.evqSend q r else s

/-- An event sent to a function directly by a rule (17 R440): a kind 0x02 record of its default event queue. -/
def Ev.toEvq (e : Ev) (forced : Bool := false) : EvqRec :=
  { kind := 2, forced, code := 256 * e.blk.code + e.num, src := 6 * 2 ^ 24 + 2 ^ 16 * e.blk.code + e.inst,
    p0 := e.p0 + 2 ^ 32 * e.p1, p1 := e.p2 + 2 ^ 32 * e.p3 }

/-- Raise an event and send it to the owner it concerns, where that is not PF0. -/
def State.eventTo (s : State) (e : Ev) (fn : Nat) : State :=
  let s := s.event e
  if fn = 0 then s else s.notify fn e.toEvq

/-- The hub as an agent of the planes. -/
def hubAgent : Nat := 72

/-- A source has used a destination since the last boundary (01 R25). -/
def State.useNoc (s : State) (src dst : Nat) : State :=
  if s.noc.used.contains (src, dst) then s else { s with noc := { s.noc with used := s.noc.used ++ [(src, dst)] } }

/-- log2 of the tick length in force (02 R42). -/
def State.tickLog (s : State) : Nat := s.fld 0x1048 4 0

/-- Boundaries since reset: timers that are stated in ticks count these (02 R43). -/
def State.ticks (s : State) : Nat := s.plumb.count

/-- The current tick number (02 R42). -/
def State.tick (s : State) : Nat := s.plumb.now / 2 ^ s.tickLog

end Sys2Proof.Machine
end

