-- ==== Sys2Proof/Machine/Hbm.lean ====
section
/-! DEFINITION. Machine/Hbm.lean: memory stacks, their code, the Sander and the diagnostics (07_hbm_memory.md), and
the local map (08 R216). -/

namespace Sys2Proof.Machine

/-! ## Places -/

/-- The first cell of a burst: stack, pseudo-channel, bank, row and column (07 R187). -/
def cellKey (m pc bank row col : Nat) : Nat := 32 * (64 * (32768 * (16 * (64 * m + pc) + bank) + row) + col)

/-- The first cell of line `q` of a group on pseudo-channel `pc` of stack `m` (07 R191). -/
def burstKey (m pc q : Nat) : Nat := cellKey m pc (q % 16) (q / 1024) (q / 16 % 64)

/-- The byte that cell `k` stores; a cell never written since reset stores zero (07 R200). -/
def State.cell (s : State) (k : Nat) : Byte := Tab.get s.hbm 0 k

/-- Store bytes in consecutive cells. -/
def State.putCells (s : State) (k : Nat) (bs : List Byte) : State := { s with hbm := Tab.putList s.hbm 0 k bs }

/-- The stack of memory site `m`. -/
def State.stack (s : State) (m : Nat) : Stack := s.stackTab.get {} m

/-- Change a stack. -/
def State.updStack (s : State) (m : Nat) (g : Stack → Stack) : State := { s with stackTab := s.stackTab.upd {} m g }

/-- Lines of one stack (07 R191). -/
def stackLines : Nat := 201326592

/-- The stack and stack line λ of a local offset (07 R191); none at or above n × 48 GiB. -/
def State.locate (s : State) (off : Nat) : Option (Nat × Nat) :=
  let n := s.mem.order.length
  let l := off / 256
  if l < stackLines * n then
    if s.fld 0x68040 7 7 = 0 then some (s.mem.order.getD (l % n) 0, l / n)
    else some (s.mem.order.getD (l / stackLines) 0, l % stackLines)
  else none

/-- The local offset of line λ of stack `m` (07 R191). -/
def State.offsetOf (s : State) (m lam : Nat) : Nat :=
  let n := s.mem.order.length
  let rank := s.mem.order.findIdx (· == m)
  256 * (if s.fld 0x68040 7 7 = 0 then lam * n + rank else rank * stackLines + lam)

/-- The lock-step groups that die `d` appears in, ascending (07 R189). -/
def groupsOf (d : Nat) : List Nat := (List.range 6).filter fun g => (List.range 4).any fun i => (4 * d + i) % 6 == g

/-- Is line `q` of group `g` served from the spare die (07 R202)? -/
def Stack.rebuiltAt (k : Stack) (d g q : Nat) : Bool :=
  let i := (groupsOf d).findIdx (· == g)
  k.rebuilt || decide (i < k.rebuildGrp) || (i == k.rebuildGrp && decide (q < k.rebuildPtr))

/-- Does the spare die stand in for die `d`? -/
def Stack.hasSpare (k : Stack) (d : Nat) : Bool := k.spareFor == some d && !k.retired.getLsbD 15

/-- The pseudo-channel from which position `p` of line (`g`, `q`) is read; none when it is an erasure. -/
def Stack.readPc (k : Stack) (g q p : Nat) : Option Nat :=
  let pc := g + 6 * p
  if !k.retired.getLsbD (pc / 4) then some pc
  else if k.hasSpare (pc / 4) && k.rebuiltAt (pc / 4) g q then some (60 + pc % 4) else none

/-- The pseudo-channel to which position `p` of group `g` is written (07 R190, R201). -/
def Stack.writePc (k : Stack) (g p : Nat) : Option Nat :=
  let pc := g + 6 * p
  if !k.retired.getLsbD (pc / 4) then some pc else if k.hasSpare (pc / 4) then some (60 + pc % 4) else none

/-! ## Initialisation (07 R200) -/

/-- Is chunk `c` of the stack initialised? -/
def Stack.inited (k : Stack) (c : Nat) : Bool := decide (c < k.initPtr) || k.initMore.contains c

/-- The pointer moved past the initialised chunks that follow it. -/
def initAdvance : Nat → List Nat → Nat × List Nat
  | p, [] => (p, [])
  | p, c :: cs => if c = p then initAdvance (p + 1) cs else (p, c :: cs)

/-- Insert a number into a rising list. -/
def insNat (x : Nat) : List Nat → List Nat
  | [] => [x]
  | y :: ys => if x < y then x :: y :: ys else if x = y then y :: ys else y :: insNat x ys

/-- Mark chunk `c` initialised. -/
def Stack.markInit (k : Stack) (c : Nat) : Stack :=
  if k.inited c then k else
    let r := initAdvance k.initPtr (insNat c k.initMore)
    { k with initPtr := r.1, initMore := r.2 }

/-- Chunks not yet initialised. -/
def Stack.initLeft (k : Stack) : Nat := 24576 - k.initPtr - k.initMore.length

/-- The first initialised line at or after line `l`, in ascending order. -/
def Stack.nextLine (k : Stack) (l : Nat) : Option Nat :=
  if l / 8192 < k.initPtr then some l
  else (k.initMore.find? fun c => decide (l / 8192 ≤ c)).map fun c => max l (8192 * c)

/-- The chunk of a line is initialised before a write (07 R200): SAND event 0x03 when it was the last one. No access stores
anything in a chunk before that, so its cells are zero, which is a zero line with valid checks. -/
def State.initChunk (s : State) (m c : Nat) : State :=
  if (s.stack m).inited c then s else
    let t := s.updStack m (·.markInit c)
    if (t.stack m).initLeft = 0 then t.event { blk := .sand, inst := m, num := 3, p0 := 24576 } else t

/-! ## Raw symbols -/

/-- The ten positions of line (`g`, `q`) of stack `m` as stored, none where erased. -/
def State.rawLine (s : State) (m lam : Nat) : List (Option (List Byte)) :=
  let g := lam % 6
  let q := lam / 6
  (List.range 10).map fun p => ((s.stack m).readPc g q p).map fun pc => Tab.getList s.hbm 0 (burstKey m pc q) 32

/-- Store ten positions of line λ; a position on a retired die goes to the spare die or nowhere. -/
def State.storeLine (s : State) (m lam : Nat) (pos : List (List Byte)) : State :=
  let g := lam % 6
  let q := lam / 6
  (List.range 10).foldl (fun t p => match (s.stack m).writePc g p with
    | some pc => t.putCells (burstKey m pc q) (pos.getD p [])
    | none => t) s

/-- The eight data positions of 256 bytes. -/
def dataPos (d : List Byte) : List (List Byte) := (List.range 8).map fun p => slice d (32 * p) 32

/-- The ten positions of a line of data whose codes all have syndromes (`s0`, `s1`). -/
def encodePos (d : List Byte) (s0 s1 : Byte) : List (List Byte) :=
  let pos := dataPos d
  let ck := (List.range 32).map fun c => checks (pos.map (·.getD c 0)) s0 s1
  pos ++ [ck.map (·.1), ck.map (·.2)]

/-- Store a clean or a poisoned line (07 R192, R196). -/
def State.storeData (s : State) (m lam : Nat) (d : List Byte) (poison : Bool) : State :=
  s.storeLine m lam (if poison then encodePos d 0x01 0x74 else encodePos d 0 0)

/-! ## Counting (07 R195, R201, R206) -/

/-- The windows of 2^20 ticks in which corrections are counted start at multiples of 2^20 (07 R201). -/
def State.rollWindow (s : State) (m : Nat) : State :=
  let w := s.tick / 2 ^ 20
  if (s.stack m).window = w then s else s.updStack m fun k => { k with window := w, dieWin := [], rowWin := [] }

/-- A field repair left in a bank (07 R205): at most 2 per bank of a pseudo-channel. -/
def State.bankRepairs (s : State) (m pc bank : Nat) : Nat :=
  (s.mem.repairs.filter fun r => r.stack == m && r.die == pc / 4 && r.pc == pc % 4 && r.bank == bank).length

/-- The lock-step group of a pseudo-channel: one of the spare die has that of the pseudo-channel that it replaces (07 R189,
R190). -/
def Stack.pcGroup (k : Stack) (pc : Nat) : Nat := if pc < 60 then pc % 6 else (4 * k.spareFor.getD 0 + (pc - 60)) % 6

/-- A row repair is requested (07 R206): refused with HBM event 0x06 in four cases. -/
def State.requestRepair (s : State) (m pc bank row : Nat) : State :=
  let refuse (reason out : Nat) : State :=
    (s.updStack m ({ · with repairOut := out })).event
      { blk := .hbm, inst := m, num := 6, p0 := pc, p1 := bank, p2 := row, p3 := reason }
  if (s.stack m).retired.getLsbD (pc / 4) then refuse 1 1
  else if 2 ≤ s.bankRepairs m pc bank then refuse 2 2
  else if 1024 ≤ s.mem.repairs.length then refuse 3 3
  else if (s.stack m).repair.isSome then refuse 4 1
  else s.updStack m ({ · with repair := some { pc, bank, row, stage := 1, tick := s.ticks } })

/-- A correction counts against its die in the window; the die is declared failed when it reaches the threshold (07 R201). -/
def State.countDie (s : State) (m die : Nat) : State :=
  let n := (s.stack m).dieWin.get 0 die + 1
  let s := s.updStack m fun k => { k with dieWin := k.dieWin.set 0 die n }
  if s.fld (Blk.sand.at m 0x044) 15 0 ≤ n ∧ !(s.stack m).retired.getLsbD die
              ∧ !((s.stack m).pendDie.any fun e => e.1 == die) then
    (s.updStack m fun k => { k with pendDie := k.pendDie ++ [(die, 0, s.ticks)] }).event { blk := .sand, inst := m, num := 1, p0 := die, p1 := n }
  else s

/-- A correction counts against its row once for each column in the window; a row that reaches the threshold is to be repaired
(07 R206). -/
def State.countRow (s : State) (m q pc : Nat) : State :=
  let cell := (pc, q % 16, q / 1024, q / 16 % 64)
  if (s.stack m).rowWin.contains cell then s else
    let s := s.updStack m fun k => { k with rowWin := k.rowWin ++ [cell] }
    let cols := ((s.stack m).rowWin.filter fun e => e.1 == pc && e.2.1 == q % 16 && e.2.2.1 == q / 1024).length
    if s.fld 0x68040 17 17 = 1 ∧ s.fld (Blk.sand.at m 0x040) 23 16 ≤ cols then
      s.requestRepair m pc (q % 16) (q / 1024)
    else s

/-- A corrected symbol at position `p` of line λ, stored on pseudo-channel `pc` (07 R195, R201, R206). -/
def State.countFix (s : State) (m lam p pc : Nat) : State :=
  let s := (s.inc (Blk.hbm.at m (if p < 8 then 0x058 else 0x060))).inc (Blk.hbm.at m (0x080 + 8 * (pc / 4)))
  (s.countDie m (pc / 4)).countRow m (lam / 6) pc

/-! ## Reading a line -/

/-- The code of a requester in HBM event 0x01 (17 Table 17.20). -/
def reqCode : Requester → Nat
  | .engine _ _ => 0 | .remote => 1 | .hostDma => 2 | .core _ => 3 | .walker => 4 | .ctxFill => 5 | .sander => 6

/-- What a read of a line reports: 0 data, 1 stored poison, 2 fresh uncorrectable. -/
structure LineRes where
  data : List Byte
  kind : Nat
  deriving DecidableEq, Repr

/-- A fresh uncorrectable line is counted and reported by an event (07 R196). -/
def State.freshUe (s : State) (m lam rq : Nat) : State :=
  (s.inc (Blk.hbm.at m 0x068)).event { blk := .hbm, inst := m, num := 1, p0 := lam, p1 := rq, addr := some lam }

/-- A line of a group with two erasures is unchecked: its reads are counted (07 R204). -/
def State.noteUnchecked (s : State) (m : Nat) (u : Bool) : State := if u then s.inc (Blk.hbm.at m 0x100) else s

/-- A corrected line: each correction is counted, and the line is written back (07 R194, R195). -/
def State.fixLine (s : State) (m lam : Nat) (fixes : List Nat) (pos : List (List Byte)) : State :=
  let s := fixes.foldl (fun t p => match (s.stack m).readPc (lam % 6) (lam / 6) p with
    | some pc => t.countFix m lam p pc
    | none => t) s
  if fixes.isEmpty then s else s.storeLine m lam pos

/-- The decoder's verdict on the raw symbols of a line, acted on (07 R194 to R196, R204). The data bytes of an uncorrectable
line stay as read, but for those of an erased position, which are solved. -/
def State.decodeLine (s : State) (m lam rq : Nat) (raw : List (Option (List Byte))) : State × LineRes :=
  let dec := (List.range 32).map fun c => decodeCode (raw.map fun o => o.map (·.getD c 0))
  let pos := (List.range 10).map fun p => dec.map fun d => d.1.getD p 0
  let data := (pos.take 8).flatten
  let asRead := (((List.range 8).map fun p => (raw.getD p none).getD (pos.getD p [])).flatten)
  let unchecked := decide ((raw.filter (· == none)).length = 2)
  let s := s.noteUnchecked m unchecked
  if dec.all fun d => d.2 == .poison then (s.inc (Blk.hbm.at m 0x078), { data, kind := 1 })
  else if (dec.any fun d => d.2 == .bad || d.2 == .poison) || (unchecked && s.fld 0x68040 16 16 == 1) then
    ((s.storeData m lam asRead true).freshUe m lam rq, { data := asRead, kind := 2 })
  else
    let fixes := dec.filterMap fun d => match d.2 with | .fixed p => some p | _ => none
    (s.fixLine m lam fixes pos, { data, kind := 0 })

/-- A locked read of line λ of stack `m` (07 R194 to R196, R200, R204). -/
def State.readLine (s : State) (m lam rq : Nat) : State × LineRes :=
  if (s.stack m).st = 3 then (s.freshUe m lam rq, { data := zeros 256, kind := 2 })
  else if !(s.stack m).inited (lam / 8192) then (s, { data := zeros 256, kind := 0 })
  else (s.rollWindow m).decodeLine m lam rq ((s.rollWindow m).rawLine m lam)

/-- Stored symbols disturbed before a read (07 R193). -/
def State.disturb (s : State) (m lam : Nat) (ns : List Noise) : State :=
  ns.foldl (fun t n => match (s.stack m).readPc (lam % 6) (lam / 6) n.pos with
    | some pc => let k := burstKey m pc (lam / 6) + n.code % 32
                 t.putCells k [t.cell k ^^^ n.xor]
    | none => t) s

/-! ## Writing a line -/

/-- The XOR that an armed flip applies to code `c` of position `p` (07 R209, Table 7.8). -/
def flipXor (r p c : Nat) : Byte :=
  if bits r 3 0 = p ∧ bits r 12 8 = c then BitVec.ofNat 8 (bits r 23 16) else 0

/-- The flip disarms (07 R209). -/
def State.disarm (s : State) : State := { s with mem := { s.mem with flip := none } }

/-- The ten positions of a line as an armed flip stores them. -/
def State.flipped (s : State) (pos : List (List Byte)) : List (List Byte) :=
  (List.range 10).map fun p => (List.range 32).map fun c =>
    (pos.getD p []).getD c 0 ^^^ flipXor (s.reg 0x68058) p c ^^^ flipXor (s.reg 0x6805C) p c

/-- A locked write of a whole line (07 R192, R196, R200, R209). The report is 2 on a lost stack. -/
def State.writeLine (s : State) (off m lam rq : Nat) (d : List Byte) (poison : Bool) : State × Nat :=
  if (s.stack m).st = 3 then (s.freshUe m lam rq, 2) else
    let s := s.initChunk m (lam / 8192)
    let pos := if poison then encodePos d 0x01 0x74 else encodePos d 0 0
    if s.mem.flip = some (off / 256) then ((s.storeLine m lam (s.flipped pos)).disarm, 0)
    else (s.storeLine m lam pos, 0)

/-- Parts of a line laid over its data. -/
def overlay (d : List Byte) (parts : List (Nat × List Byte)) : List Byte := parts.foldl (fun a x => splice a x.1 x.2) d

/-- Do the parts together cover the whole line? -/
def coversLine (parts : List (Nat × List Byte)) : Bool :=
  (List.range 256).all fun i => parts.any fun x => decide (x.1 ≤ i) && decide (i < x.1 + x.2.length)

/-- Writes narrower than a line, merged (07 R196, R197). -/
def State.writeParts (s : State) (off m lam rq : Nat) (parts : List (Nat × List Byte)) : State × Nat :=
  if coversLine parts then s.writeLine off m lam rq (overlay (zeros 256) parts) false else
    let (s, r) := s.readLine m lam rq
    let s := s.inc (Blk.hbm.at m 0x070)
    if r.kind = 0 then s.writeLine off m lam rq (overlay r.data parts) false else (s, 2)

/-! ## The local map (08 R216) -/

/-- The end of protected memory. -/
def State.memTop (s : State) : Nat := 48 * 2 ^ 30 * s.mem.order.length

/-- The start of the infrastructure partition. -/
def State.infraBase (s : State) : Nat := s.memTop - 2 ^ 30 * s.fld 0x68040 6 0

/-- The start of the sync region. -/
def State.syncBase (s : State) : Nat := s.infraBase - 2 ^ 26 * s.fld 0x68040 12 8

/-- The start of the side table, the end of the general region. -/
def State.sideBase (s : State) : Nat := s.syncBase - 2 ^ 20 * s.fld 0x68040 12 8

/-- Does the local offset lie in the sync region? -/
def State.inSync (s : State) (off : Nat) : Bool := decide (s.syncBase ≤ off) && decide (off < s.infraBase)

/-- Does the local offset lie in the infrastructure partition? -/
def State.inInfra (s : State) (off : Nat) : Bool := decide (s.infraBase ≤ off) && decide (off < s.memTop)

/-- Is the local offset a protected line that requesters may reach (general region, sync region, infrastructure)? -/
def State.inMem (s : State) (off : Nat) : Bool :=
  decide (off < s.memTop) && !(decide (s.sideBase ≤ off) && decide (off < s.syncBase))

/-- The first byte of the tile-store window of context `x` of engine `e`. -/
def windowBase (e x : Nat) : Nat := 0x3000000000000 + 0x800000 * (4 * e + x)

/-- The engine, context and region offset of a local offset in a tile-store window. -/
def windowOf (off : Nat) : Option (Nat × Nat × Nat) :=
  if 0x3000000000000 ≤ off ∧ off < 0x3000060000000 then
    let k := (off - 0x3000000000000) / 0x800000
    some (k / 4, k % 4, off % 0x800000)
  else none

/-- Is the bank of line λ fenced by a running row repair (07 Table 7.6)? -/
def Stack.fenced (k : Stack) (lam : Nat) : Bool :=
  match k.repair with
  | some r => decide (2 ≤ r.stage) && lam % 6 == k.pcGroup r.pc && lam / 6 % 16 == r.bank
  | none => false

/-- An access to a fenced bank waits until the bank reopens (07 R206): the command that makes it does not go on. -/
def State.meetBank (s : State) (m lam : Nat) : State :=
  if (s.stack m).fenced lam then { s with mem := { s.mem with stalled := some m } } else s

/-! ## The sync region (07 R210 to R213) -/

/-- The word index in the sync region of a local offset. -/
def State.syncWord (s : State) (off : Nat) : Nat := (off - s.syncBase) / 8

/-- The local offset of the side-table line that covers a word. -/
def State.sideLine (s : State) (w : Nat) : Nat := s.sideBase + 256 * (w / 2048)

/-- The poison entry of a side-table line, at the controller that holds the line. -/
def State.sideEntry (s : State) (line : Nat) : Option SidePoison :=
  match s.locate line with
  | none => none
  | some (m, _) => (s.stack m).sidePoison.find? (·.line == line)

/-- Is the side-table line dead until reset (no free entry when it failed)? -/
def State.sideDead (s : State) (line : Nat) : Bool :=
  match s.locate line with
  | none => false
  | some (m, _) => (s.stack m).sideDead.contains line

/-- Read a side-table line at its controller: its 256 bytes after the handling of 07 R213, and what the read found. -/
def State.readSideAt (s : State) (line rq : Nat) : State × LineRes :=
  let full := List.replicate 256 (0xFF : Byte)
  if s.sideDead line then (s, { data := full, kind := 1 }) else
    match s.locate line with
    | none => (s, { data := zeros 256, kind := 0 })
    | some (m, lam) =>
      let (s, r) := s.readLine m lam rq
      if r.kind = 0 then (s, r)
      else if (s.stack m).sidePoison.length < 64 then
        let s := s.updStack m fun k => { k with
          sidePoison := k.sidePoison ++ [{ line, words := List.range 2048 }] }
        (s.storeData m lam full false, { data := full, kind := r.kind })
      else
        let s := s.updStack m fun k => { k with sideDead := k.sideDead ++ [line] }
        (s.storeData m lam full true, { data := full, kind := r.kind })

/-- Read the side-table line of an access to the sync region; its bank may be fenced (07 R206). -/
def State.readSide (s : State) (line rq : Nat) : State × LineRes :=
  (match s.locate line with
    | some (m, lam) => s.meetBank m lam
    | none => s).readSideAt line rq

/-- Is a local offset in the side table? -/
def State.inSide (s : State) (off : Nat) : Bool := decide (s.sideBase ≤ off) && decide (off < s.syncBase)

/-- A read of a line by its stack's controller or Sander: one of the side table is handled as R213 states. -/
def State.readAny (s : State) (m lam rq : Nat) : State × LineRes :=
  if s.inSide (s.offsetOf m lam) then s.readSideAt (s.offsetOf m lam) rq else s.readLine m lam rq

/-- Is the line at a local offset stored poisoned? -/
def State.linePoison (s : State) (off : Nat) : Bool :=
  match s.locate off with
  | some (m, lam) => (s.readLine m lam 6).2.kind == 1
  | none => false

/-- Is word `w` of the sync region marked poisoned by its side-table line? -/
def State.sideBad (s : State) (w : Nat) : Bool :=
  let line := s.sideLine w
  s.sideDead line || (match s.sideEntry line with
    | some e => e.words.contains (w % 2048)
    | none => false)

/-- The full/empty state of word `w`; a word that its side-table line or its own line poisons reads full (R213; 04 R118). -/
def State.syncFull (s : State) (w rq : Nat) : State × Bool :=
  let (s, r) := s.readSide (s.sideLine w) rq
  (s, s.sideBad w || (r.data.getD (w / 8 % 256) 0).getLsbD (w % 8) || s.linePoison (s.syncBase + 8 * w))

/-- Set the full/empty bits of words `[w, w+n)` of one side-table line. -/
def State.setSide (s : State) (w n rq : Nat) (v : Bool) : State :=
  let line := s.sideLine w
  if s.sideDead line then s else
    let (s, r) := s.readSide line rq
    let d' := (List.range n).foldl (fun (a : List Byte) i =>
      let b := a.getD ((w + i) / 8 % 256) 0
      let bit : Byte := 1#8 <<< ((w + i) % 8)
      a.set ((w + i) / 8 % 256) (if v then b ||| bit else b &&& ~~~bit)) r.data
    match s.locate line with
    | none => s
    | some (m, lam) => s.storeData m lam d' false

/-- A full write of words clears their poison bits; an entry without bits is freed (07 R213). -/
def State.clearSide (s : State) (w n : Nat) : State :=
  let line := s.sideLine w
  match s.locate line with
  | none => s
  | some (m, _) => s.updStack m fun k => { k with
      sidePoison := (k.sidePoison.map fun e => if e.line = line
        then { e with words := e.words.filter fun i => !(decide (w % 2048 ≤ i) && decide (i < w % 2048 + n)) } else e).filter
          fun e => !e.words.isEmpty }

/-! ## Ranges of protected memory -/

/-- The pieces of `[off, off+n)` by line: (line offset, first byte in the line, bytes). -/
def linePieces (off n : Nat) : List (Nat × Nat × Nat) :=
  if n = 0 then [] else
    (List.range ((off + n - 1) / 256 - off / 256 + 1)).map fun i =>
      let line := 256 * (off / 256 + i)
      let a := max off line
      let b := min (off + n) (line + 256)
      (line, a - line, b - a)

/-- Read one piece of a line: its bytes and the report (R213 for words of the sync region). -/
def State.readPiece (s : State) (rq line a n : Nat) : State × LineRes :=
  match s.locate line with
  | none => (s, { data := zeros n, kind := 2 })
  | some (m, lam) =>
    let (s, r) := (s.meetBank m lam).readLine m lam rq
    let d := slice r.data a n
    if s.inSync line && decide (0 < n) then
      let (s, side) := s.readSide (s.sideLine (s.syncWord line)) rq
      let w0 := s.syncWord (line + a)
      let w1 := s.syncWord (line + a + n - 1)
      let bad := (List.range (w1 - w0 + 1)).any fun i => s.sideBad (w0 + i)
      if bad && r.kind == 0 then
        if side.kind = 2 then (s, { data := d, kind := 2 }) else (s.inc (Blk.hbm.at m 0x078), { data := d, kind := 1 })
      else (s, { data := d, kind := r.kind })
    else (s, { data := d, kind := r.kind })

/-- Read a range of protected memory piece by piece. -/
def State.readPieces (s : State) (rq off n : Nat) : State × List LineRes :=
  (linePieces off n).foldl (fun acc x =>
    let (t, r) := acc.1.readPiece rq x.1 x.2.1 x.2.2
    (t, acc.2 ++ [r])) (s, [])

/-- An agent's accesses to a range cross the planes to its stacks and back (01 R22, R25). -/
def State.nocMem (s : State) (src off n : Nat) : State :=
  (linePieces off n).foldl (fun t x => match t.locate x.1 with
    | some (m, _) => (t.useNoc src (64 + m)).useNoc (64 + m) src
    | none => t) s

/-- Read a range of protected memory: its bytes and the worst report (2 before 1 before 0). -/
def State.memRead (s : State) (rq off n : Nat) : State × LineRes :=
  let s := if rq = 0 then s else s.nocMem hubAgent off n
  let (s, rs) := s.readPieces rq off n
  (s, { data := (rs.map (·.data)).flatten, kind := rs.foldl (fun a r => max a r.kind) 0 })

/-- Bytes of one line are written: a poisoned transfer poisons the whole line (Table 7.3). -/
def State.putPart (s : State) (line m lam rq a : Nat) (d : List Byte) (poison : Bool) : State × Nat :=
  if poison then s.writeLine line m lam rq (overlay (zeros 256) [(a, d)]) true else s.writeParts line m lam rq [(a, d)]

/-- Whole words of the sync region are written, in parts of one line that are merged (07 R197, R211, R213). -/
def State.putWords (s : State) (line m lam rq : Nat) (parts : List (Nat × List Byte)) (poison : Bool) (fe : Option Bool) : State × Nat :=
  let side := s.sideLine (s.syncWord line)
  let (s, _) := s.readSide side rq
  if s.sideDead side then (s.freshUe m lam rq, 2) else
    let (s, r) := if poison then s.writeLine line m lam rq (overlay (zeros 256) parts) true else s.writeParts line m lam rq parts
    if r = 0 then
      (parts.foldl (fun s x =>
        let w := s.syncWord (line + x.1)
        let s := s.clearSide w (x.2.length / 8)
        match fe with
        | some v => s.setSide w (x.2.length / 8) rq v
        | none => s) s, 0)
    else (s, r)

/-- Write one piece of a line. The report is 0 applied, 2 not applied (fresh column of Table 7.3), 3 a write of part
of a word of the sync region (07 R211, a bus error). `fe` sets the words' full/empty bits where it is given. -/
def State.writePiece (s : State) (rq line a : Nat) (d : List Byte) (poison : Bool) (fe : Option Bool) : State × Nat :=
  match s.locate line with
  | none => (s, 2)
  | some (m, lam) =>
    let s := s.meetBank m lam
    if s.inSync line then
      if a % 8 ≠ 0 ∨ d.length % 8 ≠ 0 then (s, 3) else s.putWords line m lam rq [(a, d)] poison fe
    else s.putPart line m lam rq a d poison

/-- Write a range of protected memory: the worst report of its pieces. -/
def State.memWrite (s : State) (rq off : Nat) (d : List Byte) (fe : Option Bool := none) : State × Nat :=
  let s := if rq = 0 then s else s.nocMem hubAgent off d.length
  (linePieces off d.length).foldl (fun acc x =>
    let (t, r) := acc.1.writePiece rq x.1 x.2.1 ((d.drop (x.1 + x.2.1 - off)).take x.2.2) false fe
    (t, max acc.2 r)) (s, 0)

end Sys2Proof.Machine
end

