-- ==== Sys2Proof/Machine/Records.lean ====
section
/-! DEFINITION. Machine/Records.lean: event records, event-queue records and audit records are written at the end of
the command that raises them (13 R353 to R356, 15 R401 to R408, 17 R440, R442). -/

namespace Sys2Proof.Machine

/-- The events whose fault flag is set (15 Table 15.7, 17 Table 17.11). -/
def Ev.isFault (e : Ev) : Bool :=
  match e.blk, e.num with
  | .glb, 2 => true | .glb, 6 => true | .glb, 8 => true | .thm, 2 => true | .thm, 3 => true | .dust, 1 => true
  | .mgmt, 1 => true | .hbm, 2 => true | .hbm, 4 => true | .hbm, 5 => true | .mac, 6 => true
  | .hlth, 7 => true | .hlth, 8 => true | .hlth, 9 => true | .stip, 1 => true
  | _, _ => false

/-- The code of an event record (15 Table 15.6). -/
def Ev.code (e : Ev) : Nat := 256 * e.blk.code + e.num

/-- The source word of an event record (15 Table 15.6). -/
def Ev.source (e : Ev) : Nat := e.inst % 65536 + 65536 * (e.fn % 512)

/-- The 32 bytes of an event record (15 Table 15.6); `badTag` sets flag [2]. -/
def EvRec.bytes (r : EvRec) (badTag : Bool := false) : List Byte :=
  leBytes 2 r.ev.code ++ leBytes 2 (b2n r.fault + 2 * b2n r.lostBefore + 4 * b2n badTag) ++ leBytes 4 r.ev.source
  ++ leBytes 4 r.ev.p0 ++ leBytes 4 r.ev.p1 ++ leBytes 4 r.ev.p2 ++ leBytes 4 r.ev.p3
  ++ leBytes 4 r.seconds ++ leBytes 2 r.cycles ++ leBytes 2 r.plumb10

/-- The audit origin word (15 Table 15.10). -/
def Aud.origin (a : Aud) : Nat :=
  (match a.org with
    | .pf0 => 0
    | .vf n => 1 + (n % 512) * 8
    | .core n => 2 + 4096 * (n % 16)
    | .link => 3
    | .debug => 4
    | .island => 5)
  + 65536 * (a.kind % 4) + 2 ^ 18 * b2n a.sec + 2 ^ 19 * b2n a.wide + 2 ^ 20 * b2n a.oldFull + 2 ^ 21 * b2n a.newFull
  + 2 ^ 22 * (a.target % 512)

/-- The address word of an audit record (15 Table 15.10). -/
def Aud.address (a : Aud) : Nat :=
  a.addr % 2 ^ 26 + 2 ^ 26 * (a.space % 16) + (if a.space = 4 then 2 ^ 30 * bits a.addr 27 26 else 0)

/-- The 32 bytes of an audit record (15 Table 15.10). -/
def AudRec.bytes (r : AudRec) : List Byte :=
  leBytes 8 r.time ++ leBytes 4 r.entry.origin ++ leBytes 4 r.entry.address ++ leBytes 8 r.entry.old ++ leBytes 8 r.entry.new

/-- The 32 bytes of an event-queue record (13 Table 13.12). -/
def EvqRec.bytes (r : EvqRec) (overflow : Bool) (now : Nat) : List Byte :=
  leBytes 1 (1 + 2 * b2n overflow + 4 * b2n r.forced) ++ leBytes 1 r.kind ++ leBytes 2 r.code ++ leBytes 4 r.src
  ++ leBytes 8 r.p0 ++ leBytes 8 r.p1 ++ leBytes 8 now

/-- A flush of the event ring starts (15 R405); flushes that overlap run as one. -/
def State.startFlush (s : State) (faultAt : Option Nat) (power : Bool) : State :=
  let r := s.recs
  { s with recs := { r with
      flushing := true
      flushTo := r.prod
      flushFault := if r.flushFault.isSome then r.flushFault else faultAt
      flushPower := r.flushPower || power } }

/-- Store an event record in the on-die ring, or count it while the ring is frozen (15 R402, R403). -/
def storeEvent (s : State) (e : Ev) : State :=
  let r := s.recs
  if r.frozen then
    let s := s.inc 0x6078
    let s := { s with recs := { s.recs with
      freezeCount := r.freezeCount + 1, freezeFirst := if r.freezeFirst.isSome then r.freezeFirst else some e } }
    if e.isFault then s.startFlush none false else s
  else
    let ovr := decide (65536 ≤ r.prod - r.flushIdx)
    let rec' : EvRec := {
      ev := e, fault := e.isFault, lostBefore := ovr, seconds := s.glb.opSec,
      cycles := s.glb.cycles % 65536, plumb10 := s.plumb.now / 1024 % 65536 }
    let s := s.inc 0x6068
    let s := if ovr then s.inc 0x6070 else s
    let s := { s with recs := { s.recs with
      ring := r.ring.set none (r.prod % 65536) (some rec'), prod := r.prod + 1,
      flushIdx := if ovr then r.flushIdx + 1 else r.flushIdx, lost := if ovr then r.lost + 1 else r.lost } }
    if e.isFault then s.startFlush (some r.prod) false else s

/-- Raise an event in its page: the status bit, the interrupt of PF0, the first address (17 R440, R442), and its
record (15 R402). -/
def settleEvent (s : State) (e : Ev) : State :=
  let pg := e.blk.page + e.inst
  let g := s.page pg
  let rises := !g.irqStat.getLsbD e.num && bitAt (s.reg (0x1000 * pg + 0x14)) e.num
  let g := { g with irqStat := g.irqStat ||| (1#32 <<< e.num) }
  let g := match e.addr with
    | some a => if g.captValid then g else { g with captValid := true, captEvent := e.num, captAddr := a % 2 ^ 48 }
    | none => g
  let s := s.updPage pg fun _ => g
  let s := if rises then s.notify 0 e.toEvq else s
  storeEvent s e

/-- Records that software has not consumed: its count is modulo 2^31 (13 Table 13.2). -/
def Evq.unread (v : Evq) : Nat := (v.prod + 2 ^ 31 - v.cons % 2 ^ 31) % 2 ^ 31

/-- Write an event-queue record, or count it lost where the ring is full (13 R353 to R356). -/
def settleEvq (s : State) (q : Nat) (r : EvqRec) : State :=
  let v := s.evqs.get {} q
  if !v.valid then s
  else if 2 ^ v.log2 ≤ v.unread then
    let s := { s with evqs := s.evqs.set {} q { v with lost := v.lost + 1, overflow := true } }
    (s.inc 0xB00A8).event { blk := .evq, num := 1 }
  else
    let bs := r.bytes v.overflow s.plumb.now
    let a := v.base + 32 * (v.prod % 2 ^ v.log2)
    let s := { s with evqs := s.evqs.set {} q {
      v with prod := v.prod + 1, overflow := false, msgDue := v.msgDue || v.armed, armed := false } }
    if v.infra then (s.memWrite 3 a bs).1 else s.emit (.hostWrite v.owner a bs false)

/-- An audit record enters its rings: the ring in HBM, and for a security record the queue to MRAM (15 R407, R408). -/
def storeAudit (s : State) (rec' : AudRec) : State :=
  let s := s.inc 0x7058
  { s with recs := { s.recs with
      audit := (rec' :: s.recs.audit).take 1048576, audProd := s.recs.audProd + 1
      audQueue := if rec'.entry.sec then s.recs.audQueue ++ [rec'] else s.recs.audQueue } }

/-- Write an audit record (15 R407). The HBM ring is written where its base lies in the infrastructure partition. -/
def settleAudit (s : State) (a : Aud) : State :=
  let rec' : AudRec := { time := s.plumb.now, entry := a }
  let base := s.reg 0x7040
  let at_ := base + 32 * (s.recs.audProd % 1048576)
  let s := storeAudit s rec'
  if s.inInfra base && s.inInfra (at_ + 31) then (s.memWrite 3 at_ rec'.bytes).1 else s

/-- Write one item left by a command. -/
def settleOne (s : State) : Todo → State
  | .event e => settleEvent s e
  | .audit a => settleAudit s a
  | .evq q r => settleEvq s q r

/-- Put an event after those of its page and of lower ones. -/
def insertEv (e : Ev) : List Ev → List Ev
  | [] => [e]
  | x :: l => if 65536 * x.blk.code + x.inst ≤ 65536 * e.blk.code + e.inst then x :: insertEv e l else e :: x :: l

/-- The items in the order in which they are written: records raised in the same cycle, here by the same command, enter the event
ring in ascending block type and instance (15 R402); the other rings take theirs as they were raised. -/
def todoOrder (l : List Todo) : List Todo :=
  ((l.filterMap fun x => match x with
    | .event e => some e
    | _ => none).foldl (fun a e => insertEv e a) []).map Todo.event
  ++ l.filter fun x => match x with
    | .event _ => false
    | _ => true

/-- Write the items left so far, in order. -/
def settleRound (s : State) : State := (todoOrder s.todo).foldl settleOne { s with todo := [] }

/-- `n` rounds: what writing a record raises in turn is written after it. -/
def settleRounds : Nat → State → State
  | 0, s => s
  | n + 1, s => if s.todo = [] then s else settleRounds n (settleRound s)

/-- Everything a command raised is written before the command ends. A record raised by writing another is the first of its event in
its page since software last cleared that (17 R440), so that the chains are short and the last round leaves nothing (DEDUCED). -/
def settle (s : State) : State :=
  let t := settleRounds 64 s
  { t with todo := [], mem := { t.mem with stalled := none } }

/-- The next state of a command, with its records written. -/
def done (t : State) : Res := .next (settle t)

/-- A command that stands for an event: it runs only where its cause is held. -/
def due (c : Bool) (t : State) : Res := if c then .next (settle t) else .fault .notDue

/-- A command that stands for the end of accesses to memory, from state `s`: it does not come while one of them waits at a fenced
bank (07 R206). -/
def dueMem (s : State) (c : Bool) (t : State) : Res := due (c && t.mem.stalled == s.mem.stalled) t

/-- A device reset is asserted (16 R411): the device stops, and the event ring with a reset record that names the cause, and for a
domain reset the children that did not answer (log entry 102), is flushed. Registers, memory and time are cleared at RESET_RELEASE. -/
def State.beginReset (s : State) (cause : Nat) (missing : Nat := 0) : State :=
  let s := (s.event { blk := .glb, num := 3, p0 := cause, p1 := missing }).startFlush none false
  { s with boot := { s.boot with stage := 1, cause, dom := none }, glb := { s.glb with service := 0 } }

/-- Queue a platform event; a full queue drops its oldest (16 R428). -/
def State.pldm (s : State) (e : PldmEv) : State :=
  if s.mgmt.evts.length < 64 then { s with mgmt := { s.mgmt with evts := s.mgmt.evts ++ [e] } }
  else { (s.inc (Blk.mgmt.at 0 0x048)).event { blk := .mgmt, num := 4 } with
    mgmt := { s.mgmt with evts := s.mgmt.evts.drop 1 ++ [e], sentAt := none, tries := 0 } }

/-! ## Refused and audited accesses -/

/-- Does a change of the register at this offset carry the security bit (15 R408)? -/
def secReg (a v : Nat) : Bool :=
  let pg := a / 0x1000
  let off := a % 0x1000
  pg == Blk.dust.page || pg == Blk.fuse.page || pg == Blk.kdf.page || pg == Blk.seal.page || pg == Blk.cmac.page
  || pg == Blk.dbg.page
  || (pg == Blk.psl.page && (decide (0x800 ≤ off) || off == 0x060))
  || off == 0x024 || (pg == Blk.plumb.page && (off == 0x068 || off == 0x06C))
  || (decide (Blk.fn.page ≤ pg) && decide (pg < Blk.fn.page + 4) && decide (0x800 ≤ off) && off % 16 == 8)
  || (pg == Blk.xlt.page && off == 0x050 && bits v 26 25 == 2)
  || (pg == 0x68 && decide (0x044 ≤ off)) || (pg == Blk.hlth.page && off == 0x044) || (pg == Blk.evr.page && off == 0x040)

/-- The function that an origin word names. -/
def originFn : Origin → Nat
  | .vf n => n
  | _ => 0

/-- A write is refused under 00 R14: an audit record of kind refused and event 0x1F of the block (17 R452). `a` is
the offset in PF0's window of the access. -/
def State.refuse (s : State) (o : Origin) (a old v : Nat) (wide : Bool := false) : State :=
  let aud : Aud := { org := o, kind := 3, sec := secReg a v, wide, addr := a, old, new := v }
  let ow := aud.origin
  let ev : Ev := match pageOf (a / 0x1000) with
    | some (b, i) => { blk := b, inst := i, num := 0x1F, fn := originFn o, p0 := a, p1 := v % 2 ^ 32, p2 := v / 2 ^ 32 % 2 ^ 32, p3 := ow }
    | none => { blk := .glb, num := 0x1F, fn := originFn o, p0 := a, p1 := v % 2 ^ 32, p2 := v / 2 ^ 32 % 2 ^ 32, p3 := ow }
  (s.audit aud).event ev

/-- The audit record of a register write that applies (15 R407). -/
def State.auditWrite (s : State) (o : Origin) (a old v : Nat) (wide : Bool := false) (kind : Nat := 0) : State :=
  s.audit { org := o, kind, sec := secReg a v, wide, addr := a, old, new := v }

/-! ## Records that the device writes of itself -/

/-- A change of a register that the device makes itself (15 R407). -/
def State.auditDev (s : State) (a old new : Nat) (sec : Bool := false) : State :=
  if old = new then s else s.audit { org := .island, kind := 0, sec, addr := a, old, new }

/-- A record of the health ring, newest first (15 R393, R404). -/
def State.healthRec (s : State) (r : EvRec) : State :=
  { s with recs := { s.recs with health := ((r, .verified) :: s.recs.health).take 16384, healthProd := s.recs.healthProd + 1 } }

/-- The event record of an event raised now. -/
def State.evRecord (s : State) (ev : Ev) : EvRec :=
  { ev, fault := ev.isFault, lostBefore := false, seconds := s.glb.opSec, cycles := s.glb.cycles % 65536, plumb10 := s.plumb.now / 1024 % 65536 }

end Sys2Proof.Machine
end

