-- ==== Sys2Proof/Machine/Xlat.lean ====
section
/-! DEFINITION. Machine/Xlat.lean: the two stages of translation, its caches and its faults
(08_address_translation.md R216 to R230). -/

namespace Sys2Proof.Machine

/-- The device's own number (17 Table 17.9). -/
def State.devNum (s : State) : Nat := s.fld 0x48 13 0

/-- The function record in force of function `f`. -/
def State.fnRec (s : State) (f : Nat) : FnRec := s.xlt.recs.get {} f

/-- Count in a device-wide XLT counter and in that of the function's window (08 R237): counter `i` lies at
0x078 + 8i. -/
def State.xltCount (s : State) (f i : Nat) : State :=
  let s := s.inc (Blk.xlt.at 0 (0x078 + 8 * i))
  { s with xlt := { s.xlt with fnCnt := s.xlt.fnCnt.upd 0 (8 * f + i) fun n => (n + 1) % 2 ^ 64 } }

/-- log2 of the page size of class 0 to 3 (08 R234). -/
def pageLog : Nat → Nat
  | 0 => 12 | 1 => 16 | 2 => 21 | _ => 30

/-! ## Table reads -/

/-- Is a local offset a place that function `f` can be given (08 R217)? -/
def State.reachable (s : State) (f off : Nat) : Bool :=
  if off < s.memTop then s.inMem off && (f == 0 || !s.inInfra off) else (windowOf off).isSome

/-- Can function `f` be given every byte of `[off, off+n)` (08 R217)? -/
def State.spanOk (s : State) (f off n : Nat) : Bool :=
  s.reachable f off && s.reachable f (off + (n - 1))
  && !(decide (off < s.sideBase) && decide (s.sideBase < off + n) && decide (s.sideBase < s.syncBase))
  && !(decide (off < s.memTop) && decide (s.memTop < off + n))

/-- A walker's read of 8 bytes of a table in local memory; none on an uncorrectable or poisoned line. -/
def State.tableRead (s : State) (off : Nat) : State × Option Nat :=
  let (s, r) := s.memRead 4 off 8
  (s, if r.kind = 0 then some (leNat r.data) else none)

/-- The checks of one entry of level `l` but for its group (08 R223): the cause, or 0. -/
def pteCause (l e notValid : Nat) : Nat :=
  let leaf := bitAt e 1
  let c16 := bitAt e 4
  if !bitAt e 0 then notValid
  else if bits e 7 5 ≠ 0 then 5
  else if (leaf && decide (3 ≤ l)) || (!leaf && l == 0) || (c16 && l != 0) then 6
  else if leaf && !c16 && e / 4096 % 2 ^ (9 * l) ≠ 0 then 6
  else 0

/-- The 16 entries of an aligned group agree (08 R223). -/
def groupOk (es : List Nat) : Bool :=
  match es with
  | [] => false
  | e :: _ => es.all fun x => bitAt x 0 && x / 2 ^ 16 == e / 2 ^ 16 && x % 32 == e % 32 && bits x 15 12 == 0

/-- Read the 128-byte group of a PT0 entry. -/
def State.readGroup (s : State) (off : Nat) : State × Option (List Nat) :=
  let (s, r) := s.memRead 4 (128 * (off / 128)) 128
  (s, if r.kind = 0 then some ((List.range 16).map fun i => leAt r.data (8 * i) 8) else none)

/-- What an entry of level `l` says once checked: the next table, or a leaf with its size class. -/
inductive PteRes where
  | table (a : Nat)
  | leaf (a size : Nat) (rd wr : Bool)
  | bad (cause : Nat)
  deriving DecidableEq, Repr

/-- Read and check the entry of level `l` at a local offset. -/
def State.pte (s : State) (l off notValid : Nat) : State × PteRes :=
  match s.tableRead off with
  | (s, none) => (s, .bad 9)
  | (s, some e) =>
    let c := pteCause l e notValid
    if c ≠ 0 then (s, .bad c)
    else if bitAt e 4 then
      match s.readGroup off with
      | (s, none) => (s, .bad 9)
      | (s, some es) =>
        if groupOk es then (s, .leaf (4096 * (e / 4096)) 1 (bitAt e 2) (bitAt e 3)) else (s, .bad 7)
    else if bitAt e 1 then (s, .leaf (4096 * (e / 4096)) (if l = 0 then 0 else l + 1) (bitAt e 2) (bitAt e 3))
    else (s, .table (4096 * (e / 4096)))

/-- The stage-2 tables from level `l` downwards (08 R220, R223). -/
def State.walk2 : Nat → State → (tbl ipa : Nat) → State × XRes
  | l, s, tbl, ipa =>
    if 2 ^ 50 ≤ tbl then (s, .fault 5 true)
    else if !s.inMem tbl then (s, .fault 0xA true)
    else
      match s.pte l (tbl + 8 * bits ipa (20 + 9 * l) (12 + 9 * l)) 2 with
      | (s, .bad c) => (s, .fault c true)
      | (s, .leaf a sz rd wr) => (s, .ok (a + ipa % 2 ^ pageLog sz) sz rd wr)
      | (s, .table a) => match l with
        | 0 => (s, .fault 6 true)
        | l' + 1 => State.walk2 l' s a ipa

/-- Stage 2 of function `f` for an intermediate address (08 R221, R223). -/
def State.stage2 (s : State) (f ipa : Nat) : State × XRes :=
  let r := s.fnRec f
  if 2 ^ 57 ≤ ipa then (s, .fault 5 true)
  else if r.s2on then s.walk2 4 r.s2root ipa
  else if 2 ^ 50 ≤ ipa then (s, .fault 5 true)
  else (s, .ok (2 ^ 50 * s.devNum + ipa) 3 true true)

/-! ## The walk cache (08 R226): 512 sets of 8 ways (log entry 12) -/

/-- The set of a walk-cache entry. -/
def walkSet (kind key : Nat) : Nat := (key + kind) % 512

/-- Find a walk-cache entry; a hit resets its age. -/
def State.walkFind (s : State) (kind f tag key : Nat) : State × Option Nat :=
  let i0 := 8 * walkSet kind key
  let hit? (i : Nat) : Bool := match s.xlt.walk.get none (i0 + i) with
    | some e => e.kind == kind && e.fn == f && e.tag == tag && e.key == key
    | none => false
  match firstIdx 8 hit? with
  | none => (s, none)
  | some i => match s.xlt.walk.get none (i0 + i) with
    | none => (s, none)
    | some e => ({ s with xlt := { s.xlt with walk := s.xlt.walk.set none (i0 + i) (some { e with age := 0 }) } }, some e.val)

/-- The way with the highest age among those allowed, the lowest on ties. -/
def oldestWay (ages : List (Option Nat)) : Option Nat :=
  ((List.range ages.length).foldl (fun (acc : Option (Nat × Nat)) i =>
    match ages.getD i none, acc with
    | none, _ => acc
    | some a, none => some (i, a)
    | some a, some (_, b) => if b < a then some (i, a) else acc) none).map Prod.fst

/-- Fill the walk cache: an invalid way first, else the oldest. -/
def State.walkFill (s : State) (kind f tag key val : Nat) : State :=
  let i0 := 8 * walkSet kind key
  let way := match firstIdx 8 fun i => (s.xlt.walk.get none (i0 + i)).isNone with
    | some i => i
    | none => (oldestWay ((List.range 8).map fun i => (s.xlt.walk.get none (i0 + i)).map (·.age))).getD 0
  { s with xlt := { s.xlt with walk := s.xlt.walk.set none (i0 + way) (some { kind, fn := f, tag, key, val }) } }

/-- The local offset of an intermediate address that holds a table of the function (08 R222, R224): its page is
translated by stage 2 and must be readable local memory. -/
def State.tableAt (s : State) (f tag ipa : Nat) : State × (Nat ⊕ (Nat × Bool)) :=
  match s.walkFind 1 f tag (ipa / 4096) with
  | (s, some a) => (s, .inl (a + ipa % 4096))
  | (s, none) => match s.stage2 f ipa with
    | (s, .fault c g) => (s, .inr (c, g))
    | (s, .ok pa _ rd _) =>
      let off := pa % 2 ^ 50
      if !rd then (s, .inr (4, true))
      else if pa / 2 ^ 50 ≠ s.devNum then (s, .inr (0xA, true))
      else if !s.reachable f off then (s, .inr (0xB, true))
      else if !s.inMem off then (s, .inr (0xA, true))
      else (s.walkFill 1 f tag (ipa / 4096) (4096 * (off / 4096)), .inl off)

/-- The stage-1 tables from level `l` downwards: the intermediate address with size and permissions (08 R225). -/
def State.walk1 : Nat → State → (f tag tbl va : Nat) → State × XRes
  | l, s, f, tag, tbl, va =>
    match s.tableAt f tag (tbl + 8 * bits va (20 + 9 * l) (12 + 9 * l)) with
    | (s, .inr (c, g)) => (s, .fault c g)
    | (s, .inl off) => match s.pte l off 1 with
      | (s, .bad c) => (s, .fault c false)
      | (s, .leaf a sz rd wr) =>
        if 2 ^ 57 ≤ a then (s, .fault 5 false) else (s, .ok (a + va % 2 ^ pageLog sz) sz rd wr)
      | (s, .table a) =>
        if 2 ^ 57 ≤ a then (s, .fault 5 false) else
        match l with
        | 0 => (s, .fault 6 false)
        | l' + 1 =>
          let s := if l' = 1 then s.walkFill 2 f tag (va / 2 ^ 30) a else if l' = 0 then s.walkFill 3 f tag (va / 2 ^ 21) a else s
          State.walk1 l' s f tag a va

/-- The tag-table entry of a tag (08 R222); none faults with cause 0x8 but for a failed read. -/
def State.tagEntry (s : State) (f tag : Nat) : State × (Nat ⊕ (Nat × Bool)) :=
  let r := s.fnRec f
  if !r.valid || decide (r.tags ≤ tag) then (s, .inr (8, false)) else
    match s.walkFind 0 f tag tag with
    | (s, some e) => (s, .inl e)
    | (s, none) => match s.tableAt f tag (r.tagBase + 8 * tag) with
      | (s, .inr x) => (s, .inr x)
      | (s, .inl off) => match s.tableRead off with
        | (s, none) => (s, .inr (9, false))
        | (s, some e) =>
          if !bitAt e 0 then (s, .inr (8, false))
          else if bits e 11 2 ≠ 0 ∨ 2 ^ 57 ≤ e then (s, .inr (5, false))
          else (s.walkFill 0 f tag tag e, .inl e)

/-- Stage 1 of a guest virtual address: from the deepest pointer that the walk cache holds. -/
def State.stage1 (s : State) (f tag va : Nat) : State × XRes :=
  match s.tagEntry f tag with
  | (s, .inr (c, g)) => (s, .fault c g)
  | (s, .inl e) =>
    if !bitAt e 1 then (s, .ok va 3 true true)
    else match s.walkFind 3 f tag (va / 2 ^ 21) with
      | (s, some t) => s.walk1 0 f tag t va
      | (s, none) => match s.walkFind 2 f tag (va / 2 ^ 30) with
        | (s, some t) => s.walk1 1 f tag t va
        | (s, none) => s.walk1 4 f tag (4096 * (e / 4096)) va

/-- A whole walk for the page of a guest virtual address (08 R225). -/
def State.walkPage (s : State) (f tag va : Nat) : State × Got :=
  if 2 ^ 57 ≤ va then (s, .fault 5 false) else
  match s.stage1 f tag va with
  | (s, .fault c g) => (s, .fault c g)
  | (s, .ok ipa z rd wr) => match s.stage2 f ipa with
    | (s, .fault c g) => (s, .walked z rd wr (.fault c g))
    | (s, .ok pa z2 rd2 wr2) => (s, .walked z rd wr (.ok (pa - pa % 4096) z2 rd2 wr2))

/-- What a translated page gives an access of function `f` at `va`: the permissions of both stages and the check of 08 R217. -/
def State.useGot (s : State) (f va : Nat) (wr : Bool) : Got → XRes
  | .fault c g => .fault c g
  | .host page rd w => if (if wr then w else rd) then .ok (page + va % 4096) 0 rd w else .fault 0xC false
  | .walked z1 r1 w1 r =>
    if (if wr then !w1 else !r1) then .fault 3 false else
    match r with
    | .fault c g => .fault c g
    | .ok page z2 r2 w2 =>
      let pa := page + va % 4096
      if (if wr then !w2 else !r2) then .fault 4 true
      else if pa / 2 ^ 50 = s.devNum ∧ !s.reachable f (pa % 2 ^ 50) then .fault 0xB true
      else .ok pa (min z1 z2) (r1 && r2) (w1 && w2)

/-- A walk for one access; a page whose walk finds no answer in time faults with cause 0xD (R225). -/
def State.walkAll (s : State) (f tag va : Nat) (wr : Bool) : State × XRes :=
  if s.xlt.slow.contains (f, tag, va / 4096) then (s, .fault 0xD false) else
    let (s, g) := s.walkPage f tag va
    (s.xltCount f 2, s.useGot f va wr g)

/-! ## The translation cache (08 R226 to R228) -/

/-- The first entry index of the set that a page number of a size class selects. -/
def xltSet (vpn : Nat) : Nat := 8 * (vpn % 4096)

/-- The index and entry that translate `va` for a function and tag (none for ATS). -/
def State.xltFind (s : State) (f : Nat) (tag : Option Nat) (va : Nat) : Option (Nat × XltEnt) :=
  (List.range 32).findSome? fun i =>
    let z := i / 8
    let vpn := va / 2 ^ pageLog z
    let k := xltSet vpn + i % 8
    match s.xlt.cache.get none k with
    | some e => if e.fn = f ∧ e.tag = tag ∧ e.size = z ∧ e.vpn = vpn then some (k, e) else none
    | none => none

/-- Entries that a function holds. -/
def State.xltHeld (s : State) (f : Nat) : Nat :=
  (s.xlt.cache.filter fun x => match x.2 with
    | some e => e.fn == f
    | none => false).length

/-- Set an entry of the translation cache. -/
def State.xltPut (s : State) (k : Nat) (e : Option XltEnt) : State :=
  { s with xlt := { s.xlt with cache := s.xlt.cache.set none k e } }

/-- Fill the translation cache (08 R227). -/
def State.xltFill (s : State) (e : XltEnt) : State :=
  let k0 := xltSet e.vpn
  match firstIdx 8 fun i => (s.xlt.cache.get none (k0 + i)).isNone with
  | some i => s.xltPut (k0 + i) (some e)
  | none =>
    match oldestWay ((List.range 8).map fun i => match s.xlt.cache.get none (k0 + i) with
      | some x => if x.fn = e.fn ∨ (s.fnRec x.fn).minEntries < s.xltHeld x.fn then some x.age else none
      | none => none) with
    | some i => s.xltPut (k0 + i) (some e)
    | none => s.xltCount e.fn 5

/-- Record a translation fault (08 R230): event, event-queue record, counter and both captures. -/
def State.xltFault (s : State) (f tag va : Nat) (wr : Bool) (cause : Nat) (stage2 : Bool) : State :=
  let s := s.xltCount f 3
  let e : Ev := { blk := .xlt, num := 1, fn := f, addr := some va }
  let s := (s.event e).notify f e.toEvq
  let cap : XltCap := { cause, stage2, write := wr, fn := f, tag, va }
  let hold : Option XltCap → Option XltCap
    | none => some cap
    | some c => some { c with overflow := true }
  { s with xlt := { s.xlt with
    devCap := hold s.xlt.devCap, fnCap := if f = 0 then s.xlt.fnCap else s.xlt.fnCap.upd none f hold } }

/-- The entry that a finished walk fills for `va` and output `pa` at size class `z`. -/
def newEnt (f : Nat) (tag : Option Nat) (z va pa : Nat) (rd wr : Bool) : XltEnt :=
  { fn := f, tag, size := z, vpn := va / 2 ^ pageLog z, page := pa - pa % 2 ^ pageLog z, rd, wr }

/-- Walk for one access of an engine, a message or an arrival, and fill the cache (R227). -/
def State.walkFor (s : State) (f tag va : Nat) (wr : Bool) : State × (Nat ⊕ Nat) :=
  match s.walkAll f tag va wr with
  | (s, .fault c g) => (s.xltFault f tag va wr c g, .inr c)
  | (s, .ok pa z rd w) => (s.xltFill (newEnt f (some tag) z va pa rd w), .inl pa)

/-- Translate one access within a 4 KiB page (08 R219, R224 to R230): the fabric physical address, or a fault that
has been recorded. An entry that lacks the permission is walked again, for the stage that denies it, and replaced. -/
def State.translate (s : State) (f tag va : Nat) (wr : Bool) : State × (Nat ⊕ Nat) :=
  match s.xltFind f (some tag) va with
  | some (k, e) =>
    if (if wr then e.wr else e.rd) then
      let s := (s.xltPut k (some { e with age := 0 })).xltCount f 0
      let pa := e.page + va % 2 ^ pageLog e.size
      if pa / 2 ^ 50 = s.devNum ∧ !s.reachable f (pa % 2 ^ 50) then (s.xltFault f tag va wr 0xB true, .inr 0xB)
      else (s, .inl pa)
    else ((s.xltCount f 0).xltPut k none).walkFor f tag va wr
  | none => (s.xltCount f 1).walkFor f tag va wr

/-- Translate one access of a command that has translated its pages before it runs. -/
def State.translateIn (s : State) (gs : List Given) (f tag va : Nat) (wr : Bool) : State × (Nat ⊕ Nat) :=
  match gs.find? fun g => g.want.fn == f && g.want.tag == some tag && g.want.page == va / 4096 with
  | none => s.translate f tag va wr
  | some g => match s.useGot f va wr g.got with
    | .fault c g => (s.xltFault f tag va wr c g, .inr c)
    | .ok pa _ _ _ => (s, .inl pa)

/-- Look up a page for a command: what the cache gives it, or nothing. -/
def State.lookup (s : State) (w : Want) : State × Option Got :=
  let va := 4096 * w.page
  match s.xltFind w.fn w.tag va with
  | none => (s.xltCount w.fn 1, none)
  | some (k, e) =>
    let page := e.page + va % 2 ^ pageLog e.size
    let s := (s.xltPut k (some { e with age := 0 })).xltCount w.fn 0
    if w.tag.isNone then (s, some (.host page e.rd e.wr))
    else if if w.wr then e.wr else e.rd then (s, some (.walked e.size e.rd e.wr (.ok page e.size e.rd e.wr)))
    else (s.xltPut k none, none)

/-- The pieces of `[va, va+n)` by 4 KiB page: (first address, bytes). -/
def pagePieces (va n : Nat) : List (Nat × Nat) :=
  if n = 0 then [] else
    (List.range ((va + n - 1) / 4096 - va / 4096 + 1)).map fun i =>
      let p := 4096 * (va / 4096 + i)
      let a := max va p
      (a, min (va + n) (p + 4096) - a)

end Sys2Proof.Machine
end

