-- ==== Sys2Proof/Machine/Context.lean ====
section
/-! DEFINITION. Machine/Context.lean: contexts, logical engines and the tiles that carry them (03 R60, R63, Tables 3.9 to 3.11). -/

namespace Sys2Proof.Machine

/-! ## Contexts -/

/-- Context `k` = 4e + x. -/
def State.ctx (s : State) (k : Nat) : Ctx := s.ctxs.get {} k

/-- Change a context. -/
def State.updCtx (s : State) (k : Nat) (g : Ctx → Ctx) : State := { s with ctxs := s.ctxs.upd {} k g }

/-- A logical engine. -/
def State.eng (s : State) (e : Nat) : Eng := s.engs.get {} e

/-- Change an engine. -/
def State.updEng (s : State) (e : Nat) (g : Eng → Eng) : State := { s with engs := s.engs.upd {} e g }

/-- The offset of a register of context `k` whose first instance lies at `off`. -/
def ctxReg (k off : Nat) : Nat := Blk.eng.at (k / 4) (off + 0x10 * (k % 4))

/-- The owner function of a context (Table 3.10). -/
def State.owner (s : State) (k : Nat) : Nat := s.fld (ctxReg k 0x050) 8 0

/-- The scheduling class of a context. -/
def State.class (s : State) (k : Nat) : Nat := s.fld (ctxReg k 0x050) 10 9

/-- Does the context round toward zero by default? -/
def State.roundTz (s : State) (k : Nat) : Bool := bitAt (s.reg (ctxReg k 0x050)) 11

/-- First byte of the region of a context in its tile store (Table 3.11). -/
def State.regionBase (s : State) (k : Nat) : Nat := 65536 * s.fld (ctxReg k 0x054) 6 0

/-- Bytes of the region of a context. -/
def State.regionSize (s : State) (k : Nat) : Nat := 65536 * s.fld (ctxReg k 0x054) 15 8

/-- The physical tile of a logical engine; at reset engine e lies on tile e + e/12 (log entry 5). -/
def State.tileOf (s : State) (e : Nat) : Nat := ((s.eng e).tile).getD (e + e / 12)

/-- The tile-store byte index of offset `off` in the region of context `k`. -/
def State.tsAddr (s : State) (k off : Nat) : Nat := 0x800000 * s.tileOf (k / 4) + s.regionBase k + off

end Sys2Proof.Machine
end

