-- ==== Sys2Proof/Machine/Book.lean ====
section
/-! DEFINITION. Machine/Book.lean: tiles, bookings against them, and the mirrors of Stipple (15 R391, R393 to R397, 03 R87). -/

namespace Sys2Proof.Machine

/-! ## Tiles and bookings (15 R393 to R397) -/

/-- The summary of a physical tile. -/
def State.tile (s : State) (t : Nat) : Tile := s.tiles.get {} t

/-- Change a summary. -/
def State.updTile (s : State) (t : Nat) (g : Tile → Tile) : State := { s with tiles := s.tiles.upd {} t g }

/-- The logical engine on a physical tile. -/
def State.engineOn (s : State) (t : Nat) : Option Nat := firstIdx 48 fun e => s.tileOf e == t && !(s.eng e).noTile

/-- HLTH_TILE_n (15 Table 15.9). -/
def State.tileWord (s : State) (t : Nat) : Nat :=
  let x := s.tile t
  x.role + 8 * b2n x.observing + 16 * min x.perm 3 + (if x.role = 0 then 64 * (s.engineOn t).getD 0 else 0) + 65536 * sat 16 x.transients

/-- ENG_MAP (03 Table 3.9). -/
def State.engMap (s : State) (e : Nat) : Nat :=
  let g := s.eng e
  let t := s.tileOf e
  let st := if g.noTile then 3 else if g.migrTo.isSome then 1 else if (s.tile t).role = 2 then 2 else 0
  t + 64 * (t / 13) + 256 * st + 65536 * (g.moved % 65536)

/-- Run a change and audit the registers HLTH_TILE_t and ENG_MAP that it changes (15 R407). -/
def State.audited (s : State) (t : Nat) (e : Option Nat) (g : State → State) : State :=
  let s' := g s
  let s' := s'.auditDev (Blk.hlth.at 0 (0x100 + 4 * t)) (s.tileWord t) (s'.tileWord t)
  match e with
  | some e => s'.auditDev (Blk.eng.at e 0x040) (s.engMap e) (s'.engMap e)
  | none => s'

/-- The checksum path, a tile-store bank and the router as loci; a datapath slice is its own number (15 R394). -/
def locusChecksum : Nat := 256

/-- An HLTH event. -/
def State.hlthEvent (s : State) (num p0 : Nat) (p1 : Nat := 0) (p2 : Nat := 0) : State :=
  s.event { blk := .hlth, num, p0, p1, p2 }

/-- A test falls due at once (15 R397): 1 by a booking, 2 by command. -/
def State.dueNow (s : State) (t cause : Nat) : State :=
  if (s.tile t).dueNow.isSome ∨ (s.tile t).role = 2 ∨ (s.tile t).role = 4 then s
  else (s.updTile t ({ · with dueNow := some (cause, s.ticks) })).hlthEvent 4 t cause

/-- A booking against tile `t` (15 Table 15.3) by context `k`, with its record in the health ring (R393). A tile that enters
observation is tested within the hour (R395; DEDUCED, log entry 112). -/
def State.book (s : State) (t k kind locus : Nat) : State :=
  let now := s.glb.opSec
  let ev : Ev := {
    blk := .hlth, num := 1, p0 := (k / 4) % 64 + 64 * t + 4096 * (k % 4), p1 := min locus 255 + 256 * kind, p2 := (s.ctx k).slices % 65536 }
  let s := s.healthRec (s.evRecord ev)
  let transient := kind ∈ [0, 1, 2, 5, 7, 8]
  let observe := kind ∈ [0, 1, 2, 3, 5, 6, 7, 8]
  let x := s.tile t
  let n := ((x.loci.find? fun (y : Nat × Nat) => y.1 == locus).map (·.2)).getD 0 + 1
  let entered := observe && !x.observing
  let x := if observe then { x with
      observing := true, obsFrom := now, loci := if x.observing then x.loci else []
      due := if x.observing then x.due else min x.due (now + 3600) } else x
  let n := if entered then 1 else n
  let x := if transient then
      { x with transients := x.transients + 1, loci := (locus, n) :: x.loci.filter fun (y : Nat × Nat) => y.1 != locus } else x
  let perm : Bool := kind == 9 || (transient && n == 3)
  let x := if perm then { x with perm := min 3 (x.perm + 1), retire := x.retire || decide (2 ≤ x.perm) && x.role != 4 } else x
  let s := s.audited t none (·.updTile t fun _ => x)
  let s := if entered then s.hlthEvent 2 t else s
  let s := if transient && n == 3 then
      s.healthRec { s.evRecord ev with ev := { ev with p1 := min locus 255 + 10 * 256 } } else s
  if kind = 2 ∨ kind = 5 then s.dueNow t 1 else s

/-- The loci of tile-store banks and of the router in the health history (15 R394). -/
def locusBank (w : Nat) : Nat := 512 + w / 16 % 128

/-- The router's locus. -/
def locusRouter : Nat := 768

/-- A router parity error is booked and raises its event; the transfer is discarded (03 R68). -/
def State.routerParity (s : State) (e : Nat) : State :=
  (s.event { blk := .eng, inst := e, num := 6 }).book (s.tileOf e) (4 * e) 8 locusRouter

/-! ## Stipple checks and their mirrors (15 R391; 01 Table 1.10 entries L, S) -/

/-- The check of a context's slice. -/
def State.checkOf (s : State) (k : Nat) : Option Check := s.hlth.checks.find? (·.k == k)

/-- A checking tile is a spare again. -/
def State.freeChecker (s : State) (t : Nat) : State := if (s.tile t).role = 3 then s.updTile t ({ · with role := 1 }) else s

/-- Change or remove the check of a context; the tiles of a removed one are spares again. -/
def State.setCheck (s : State) (k : Nat) (c : Option Check) : State :=
  match c with
  | some c => { s with hlth := { s.hlth with checks := s.hlth.checks.map fun x => if x.k = k then c else x } }
  | none =>
    let old := s.checkOf k
    let s := { s with hlth := { s.hlth with checks := s.hlth.checks.filter (·.k != k) } }
    match old with
    | some c => match c.second with
      | some t => (s.freeChecker c.checker).freeChecker t
      | none => s.freeChecker c.checker
    | none => s

/-- A sample is abandoned and counted (STIP event 0x04): why is 0 mirror full, 1 spare taken, 2 masked. -/
def State.abandonCheck (s : State) (c : Check) (why : Nat) : State :=
  ((s.setCheck c.k none).inc (Blk.stip.at 0 0x070)).event {
    blk := .stip, num := 4, p0 := (c.k / 4) % 64 + 64 * s.tileOf (c.k / 4) + 4096 * (c.k % 4), p1 := c.checker + 64 * c.second.getD 0, p2 := c.slice, p3 := why }

/-- The 128-byte lines that a range of `n` bytes touches. -/
def linesOf (a n : Nat) : List Nat := if n = 0 then [] else (List.range ((a + n - 1) / 128 - a / 128 + 1)).map (a / 128 + ·)

/-- The bytes of a mirror in the checker's store: banks of 68,352 bytes (03 R86), lines, and the values of the logs. -/
def Mirror.size (m : Mirror) : Nat :=
  68352 + 128 * m.touched.length + (m.ins.map (·.2.2.length)).sum + (m.outs.map (·.2.length)).sum
    + (match m.final with
       | some (_, ls) => 68352 + 128 * ls.length
       | none => 0)

/-- Lines that the slice reads, or also writes. -/
def Mirror.touch (m : Mirror) (ls : List Nat) (write : Bool) : Mirror :=
  { m with
    touched := m.touched ++ ls.filter (!m.touched.contains ·)
    written := if write then m.written ++ ls.filter (!m.written.contains ·) else m.written }

/-- Change the mirror of the slice that context `k` runs, if it is sampled; one that would exceed 8 MiB is abandoned. -/
def State.updMirror (s : State) (k : Nat) (g : Mirror → Mirror) : State :=
  match s.hlth.checks.find? fun c => c.k == k && c.mirror.final.isNone with
  | none => s
  | some c =>
    let m := g c.mirror
    if 2 ^ 23 < m.size then s.abandonCheck c 0 else s.setCheck k (some { c with mirror := m })

/-- Bytes placed into a tile store from outside are logged for the sampled context whose region takes them. -/
def State.mirrorIn (s : State) (a : Nat) (d : List Byte) : State :=
  (s.hlth.checks.map (·.k)).foldl (fun s k =>
    let lo := s.tsAddr k 0
    if decide (lo ≤ a) && decide (a < lo + s.regionSize k) then s.updMirror k fun m => { m with ins := m.ins ++ [(1, a - lo, d)] } else s) s

/-- The mirror at the start of a slice of context `k` (15 R391): its bank, and its region as it then stands. -/
def State.mirrorStart (s : State) (k : Nat) : Mirror :=
  let lo := s.tsAddr k 0
  let hi := lo + s.regionSize k
  let words (t : Tab Bool) : List Nat :=
    (t.filter fun w => decide (lo ≤ 8 * w.1) && decide (8 * w.1 < hi) && w.2).map fun w => w.1 - lo / 8
  { bank := s.ctx k
    bytes := (s.tileMem.filter fun x => decide (lo ≤ x.1) && decide (x.1 < hi)).map fun x => (x.1 - lo, x.2)
    full := words s.tileFull, poison := words s.tilePoison }

/-- SLICE.END sends the final bank and every line that the slice wrote. -/
def State.mirrorEnd (s : State) (k : Nat) : State :=
  s.updMirror k fun m => { m with
    final := some (s.ctx k, m.written.map fun l => (l, Tab.getList s.tileMem 0 (s.tsAddr k (128 * l)) 128)) }

end Sys2Proof.Machine
end

