-- ==== Sys2Proof/Machine/Num.lean ====
section
/-! DEFINITION. Machine/Num.lean: the number formats, exact values, rounding and conversion
(03_engines_and_formats.md R70 to R74, R78 to R82). -/

namespace Sys2Proof.Machine

/-- The formats of Table 4.4. -/
inductive Fmt where
  | fp4 | fp6 | e4m3 | e5m2 | int4 | int8 | bf16 | fp32 | int32 | uint8
  deriving DecidableEq, Repr

/-- The format with a code of Table 4.4; codes 0xA to 0xF are reserved. -/
def Fmt.ofCode : Nat → Option Fmt
  | 0 => some .fp4 | 1 => some .fp6 | 2 => some .e4m3 | 3 => some .e5m2 | 4 => some .int4 | 5 => some .int8
  | 6 => some .bf16 | 7 => some .fp32 | 8 => some .int32 | 9 => some .uint8 | _ => none

/-- Element bits (Table 4.4). -/
def Fmt.bits : Fmt → Nat
  | .fp4 | .int4 => 4 | .fp6 => 6 | .e4m3 | .e5m2 | .int8 | .uint8 => 8 | .bf16 => 16 | .fp32 | .int32 => 32

/-- What `ext0 + 1` must be a multiple of (Table 4.4). -/
def Fmt.pack : Fmt → Nat
  | .fp4 | .int4 => 2 | .fp6 => 4 | _ => 1

/-- Is it a floating format? -/
def Fmt.isFloat : Fmt → Bool
  | .fp4 | .fp6 | .e4m3 | .e5m2 | .bf16 | .fp32 => true
  | _ => false

/-- May a tensor of the format carry block scales (R80, R97: formats 0x0 to 0x5)? -/
def Fmt.scalable : Fmt → Bool
  | .fp4 | .fp6 | .e4m3 | .e5m2 | .int4 | .int8 => true
  | _ => false

/-- Exponent bits, mantissa bits and bias of a floating format (Table 3.5). -/
def Fmt.params : Fmt → Nat × Nat × Nat
  | .fp4 => (2, 1, 1) | .fp6 => (3, 2, 3) | .e4m3 => (4, 3, 7) | .e5m2 => (5, 2, 15)
  | .bf16 => (8, 7, 127) | _ => (8, 23, 127)

/-- Does the format have infinities (Table 3.5)? -/
def Fmt.hasInf : Fmt → Bool
  | .e5m2 | .bf16 | .fp32 => true
  | _ => false

/-- The code of the largest finite magnitude (Table 3.5). -/
def Fmt.maxCode : Fmt → Nat
  | .fp4 => 0x7 | .fp6 => 0x1F | .e4m3 => 0x7E | .e5m2 => 0x7B | .bf16 => 0x7F7F | _ => 0x7F7FFFFF

/-- The canonical NaN; zero for FP4 and FP6, which have none (Tables 3.5, 3.7). -/
def Fmt.nanCode : Fmt → Nat
  | .e4m3 => 0x7F | .e5m2 => 0x7E | .bf16 => 0x7FC0 | .fp32 => 0x7FC00000 | _ => 0

/-- e_max of R82. -/
def Fmt.eMax : Fmt → Int
  | .fp4 => 2 | .fp6 => 4 | .e4m3 => 8 | .e5m2 => 15 | .int4 => 2 | .int8 => 6 | _ => 0

/-- An exact value: NaN, a signed infinity, or ±m × 2^e. Zero has m = 0 and keeps its sign. -/
inductive Num where
  | nan
  | inf (neg : Bool)
  | fin (neg : Bool) (m : Nat) (e : Int)
  deriving DecidableEq, Repr

/-- The sticky flags that one operation sets (R81). -/
structure Sticky where
  nv : Bool := false
  of : Bool := false
  uf : Bool := false
  deriving DecidableEq, Repr

/-- Flags set by either of two operations. -/
def Sticky.or (a b : Sticky) : Sticky := { nv := a.nv || b.nv, of := a.of || b.of, uf := a.uf || b.uf }

/-- The value that a code of a format denotes (R78, R79). -/
def Fmt.decode (f : Fmt) (c : Nat) : Num :=
  if f.isFloat then
    let (eb, mb, bias) := f.params
    let neg := c.testBit (eb + mb)
    let mag := c % 2 ^ (eb + mb)
    let ef := mag / 2 ^ mb
    let mf := mag % 2 ^ mb
    if f.hasInf && decide (f.maxCode < mag) then (if mf = 0 then .inf neg else .nan)
    else if f == .e4m3 && mag == 0x7F then .nan
    else if ef = 0 then .fin neg mf (1 - (bias : Int) - mb)
    else .fin neg (2 ^ mb + mf) ((ef : Int) - bias - mb)
  else if f == .uint8 then .fin false (c % 256) 0
  else
    let v := signed f.bits c
    .fin (decide (v < 0)) v.natAbs 0

/-- Divide by a power of two, rounding to nearest with ties to even, or toward zero. -/
def roundShift (tz : Bool) (m sh : Nat) : Nat :=
  let q := m / 2 ^ sh
  let r := m % 2 ^ sh
  if tz then q
  else if 2 ^ sh < 2 * r ∨ (2 * r = 2 ^ sh ∧ q % 2 = 1) then q + 1 else q

/-- `m × 2^e` as a rounded multiple of `2^q`. -/
def roundAt (tz : Bool) (m : Nat) (e q : Int) : Nat :=
  if q ≤ e then m * 2 ^ (e - q).toNat else roundShift tz m (q - e).toNat

/-- Round a value to a floating format (R81, Table 3.7): the code and its flags. -/
def Fmt.roundFloat (f : Fmt) (tz : Bool) : Num → Nat × Sticky
  | .nan => (f.nanCode, { nv := true })
  | .inf neg =>
    let (eb, mb, _) := f.params
    let s := if neg then 2 ^ (eb + mb) else 0
    (s + (if f.hasInf then f.maxCode + 1 else f.maxCode), { of := true })
  | .fin neg m e =>
    let (eb, mb, bias) := f.params
    let s := if neg then 2 ^ (eb + mb) else 0
    if m = 0 then (s, {}) else
      let lead : Int := (Nat.log2 m : Int) + e
      let q : Int := max lead (1 - (bias : Int)) - mb
      let n := roundAt tz m e q
      let code := ((q + mb + bias - 1).toNat) * 2 ^ mb + n
      if n = 0 then (s, { uf := true })
      else if f.maxCode < code then (s + (if f.hasInf && !tz then f.maxCode + 1 else f.maxCode), { of := true })
      else (s + code, {})

/-- Round a value to an integer format with saturation (Table 3.7). -/
def Fmt.roundInt (f : Fmt) (tz : Bool) : Num → Nat × Sticky
  | .nan => (0, { nv := true })
  | .inf neg => (if neg then 2 ^ (f.bits - 1) else 2 ^ (f.bits - 1) - 1, { of := true })
  | .fin neg m e =>
    if m = 0 then (0, {}) else
      let n := roundAt tz m e 0
      let top := 2 ^ (f.bits - 1)
      if n = 0 then (0, { uf := true })
      else if neg then (if top < n then (top, { of := true }) else (2 ^ f.bits - n, {}))
      else if top ≤ n then (top - 1, { of := true }) else (n, {})

/-- Convert a value to a format (R81). The mode acts on formats narrower than FP32 (04 Table 4.1, R91); an FP32 result rounds to
nearest. -/
def Fmt.round (f : Fmt) (tz : Bool) (x : Num) : Nat × Sticky :=
  if f.isFloat then f.roundFloat (tz && f != .fp32) x else f.roundInt tz x

/-! ## Exact arithmetic -/

/-- Negate. -/
def Num.neg : Num → Num
  | .nan => .nan
  | .inf s => .inf !s
  | .fin s m e => .fin (!s) m e

/-- Absolute value. -/
def Num.abs : Num → Num
  | .nan => .nan
  | .inf _ => .inf false
  | .fin _ m e => .fin false m e

/-- Is the value a zero? -/
def Num.isZero : Num → Bool
  | .fin _ m _ => m == 0
  | _ => false

/-- The exact product; an infinity times a zero is NaN (R111). -/
def Num.mul : Num → Num → Num
  | .nan, _ => .nan
  | _, .nan => .nan
  | .inf a, .inf b => .inf (a != b)
  | .inf a, .fin b m _ => if m = 0 then .nan else .inf (a != b)
  | .fin a m _, .inf b => if m = 0 then .nan else .inf (a != b)
  | .fin a m e, .fin b n g => .fin (a != b) (m * n) (e + g)

/-- The signed mantissa of a finite value at exponent `q` (not above its own). -/
def Num.at : Num → Int → Int
  | .fin s m e, q => let v := (m : Int) * 2 ^ (e - q).toNat
                     if s then -v else v
  | _, _ => 0

/-- The exact sum; infinities of opposite sign give NaN; an exact zero is +0 unless both addends are −0. -/
def Num.add : Num → Num → Num
  | .nan, _ => .nan
  | _, .nan => .nan
  | .inf a, .inf b => if a = b then .inf a else .nan
  | .inf a, .fin .. => .inf a
  | .fin .., .inf b => .inf b
  | .fin a m e, .fin b n g =>
    let q := min e g
    let v := (Num.fin a m e).at q + (Num.fin b n g).at q
    if v = 0 then .fin (a && b && m == 0 && n == 0) 0 0 else .fin (decide (v < 0)) v.natAbs q

/-- Compare two values that are not NaN; zeros are equal. -/
def Num.lt : Num → Num → Bool
  | .nan, _ => false
  | _, .nan => false
  | .inf a, .inf b => a && !b
  | .inf a, .fin .. => a
  | .fin .., .inf b => !b
  | .fin a m e, .fin b n g => let q := min e g
                              decide ((Num.fin a m e).at q < (Num.fin b n g).at q)

/-- Equal values; zeros are equal, NaN equals nothing. -/
def Num.eqv (x y : Num) : Bool := x != .nan && y != .nan && !x.lt y && !y.lt x

/-- The larger value by the order of R174: a NaN gives NaN, and +0 is above −0. -/
def Num.max2 (x y : Num) : Num :=
  if x = .nan ∨ y = .nan then .nan
  else if x.isZero && y.isZero then (if x.lt y then y else match x with | .fin true _ _ => y | _ => x)
  else if x.lt y then y else x

/-- The smaller value by the order of R174. -/
def Num.min2 (x y : Num) : Num :=
  if x = .nan ∨ y = .nan then .nan
  else if x.isZero && y.isZero then (match x with | .fin false _ _ => y | _ => x)
  else if y.lt x then y else x

/-- A value times a block scale (R80); code 255 is NaN. -/
def scaleBy (code : Nat) (x : Num) : Num :=
  if code % 256 = 255 then .nan else
  match x with
  | .fin s m e => .fin s m (e + ((code % 256 : Nat) : Int) - 127)
  | y => y

/-- An exact sum of many values (R71): products of one group. A zero sum is +0. -/
def sumExact (xs : List Num) : Num :=
  if xs.any (· == .nan) then .nan
  else
    let pos := xs.any (· == .inf false)
    let ng := xs.any (· == .inf true)
    if pos && ng then .nan else if pos then .inf false else if ng then .inf true else
      let fs := xs.filter fun x => !x.isZero
      match fs with
      | [] => .fin false 0 0
      | x :: _ =>
        let exp : Num → Int := fun y => match y with | .fin _ _ e => e | _ => 0
        let q := fs.foldl (fun a y => min a (exp y)) (exp x)
        let v := fs.foldl (fun (a : Int) y => a + y.at q) 0
        if v = 0 then .fin false 0 0 else .fin (decide (v < 0)) v.natAbs q

/-! ## FP32 accumulation (R71) -/

/-- `round_fp32` to nearest even of an exact value. -/
def fp32 (x : Num) : Nat := (Fmt.fp32.roundFloat false x).1

/-- One group update of an accumulator: its new code and the flags that follow it (R71). -/
def accUpdate (acc : Nat) (g : Num) : Nat × Sticky :=
  let r := (Fmt.fp32.decode acc).add g
  let z := fp32 (match r with | .fin _ 0 _ => .fin false 0 0 | y => y)
  let bad (y : Num) : Sticky := match y with | .nan => { nv := true } | .inf _ => { of := true } | _ => {}
  (z, (bad g).or (bad (Fmt.fp32.decode z)))

/-! ## Block scales chosen by the device (R82) -/

/-- floor(log2) of a non-zero finite magnitude. -/
def Num.log2 : Num → Int
  | .fin _ m e => (Nat.log2 m : Int) + e
  | _ => 0

/-- The scale code of a group of values for a format, and whether the group holds a NaN or an infinity. -/
def chooseScale (f : Fmt) (xs : List Num) : Nat × Bool :=
  if xs.any fun x => match x with | .fin .. => false | _ => true then (255, true)
  else
    match xs.filter fun x => !x.isZero with
    | [] => (127, false)
    | y :: ys =>
      let top := ys.foldl (fun a x => max a x.log2) y.log2
      ((min 254 (max 0 (top - f.eMax + 127))).toNat, false)

/-- Divide by a scale code and convert (R81, R82). A NaN scale gives a NaN result. `given` says whether the program
gave the scale, the only case in which saturation sets of. -/
def Fmt.quantise (f : Fmt) (tz : Bool) (code : Nat) (given : Bool) (x : Num) : Nat × Sticky :=
  let y := if code % 256 = 255 then Num.nan else match x with
    | .fin s m e => .fin s m (e + 127 - ((code % 256 : Nat) : Int))
    | z => z
  let (c, st) := f.round tz y
  (c, { st with of := st.of && given })

/-! ## The functions of V.FN (R73, R112) -/

/-- `2^(2^-i)` with 96 fractional bits, by repeated square roots of 2. -/
def rootTable : Nat → List Nat
  | 0 => []
  | n + 1 => match rootTable n with
    | [] => [Nat.sqrt (2 ^ 193)]
    | r :: rs => Nat.sqrt (2 ^ 96 * r) :: r :: rs

/-- `2^x` for a fraction given by its bits, most significant first, at 96 fractional bits. -/
def exp2Frac (roots : List Nat) (bs : List Bool) : Nat :=
  (roots.zip bs).foldl (fun a x => if x.2 then a * x.1 / 2 ^ 96 else a) (2 ^ 96)

/-- exp2 of a finite value, to more bits than FP32 can tell apart, its last bit sticky. -/
def exp2Num (s : Bool) (m : Nat) (e : Int) : Num :=
  if m = 0 then .fin false 1 0
  else if 9 ≤ (Nat.log2 m : Int) + e then (if s then .fin false 1 (-1000) else .fin false 1 1000)
  else
    let v : Int := (Num.fin s (2 ^ 64 * m) (e - 64)).at (min e 0 - 64)
    let d : Int := 2 ^ (64 - min e 0).toNat
    let k := v / d
    let fr := (v % d).toNat
    let bs := (List.range 60).map fun i => (fr * 2 ^ (i + 1) / d.toNat) % 2 == 1
    .fin false (2 * exp2Frac (rootTable 60).reverse bs + b2n (fr != 0)) (k - 97)

/-- Bits of log2 of `m` with 256 fractional bits, `1 ≤ m < 2`, by repeated squaring. -/
def log2Bits : Nat → Nat → List Bool
  | 0, _ => []
  | n + 1, m =>
    let q := m * m / 2 ^ 256
    if 2 ^ 257 ≤ q then true :: log2Bits n (q / 2) else false :: log2Bits n q

/-- log2 of a positive finite value, to more bits than FP32 can tell apart, its last bit sticky. -/
def log2Num (m : Nat) (e : Int) : Num :=
  let k := Nat.log2 m
  let x := 2 ^ 256 * m / 2 ^ k
  let fr := (log2Bits 140 x).foldl (fun a b => 2 * a + b2n b) 0
  let v : Int := 2 * (2 ^ 140 * ((k : Int) + e) + fr) + b2n (m != 2 ^ k)
  .fin (decide (v < 0)) v.natAbs (-141)

/-- The reciprocal of a non-zero finite value to 80 significant bits, its last bit sticky. -/
def recipNum (s : Bool) (m : Nat) (e : Int) : Num :=
  let n := 80 + Nat.log2 m
  let q := 2 ^ n / m
  .fin s (2 * q + b2n (q * m != 2 ^ n)) (-(n : Int) - 1 - e)

/-- The reciprocal square root of a positive finite value to 80 bits, its last bit sticky. -/
def rsqrtNum (m : Nat) (e : Int) : Num :=
  let (m, e) := if e % 2 = 0 then (m, e) else (2 * m, e - 1)
  let n : Nat := 160 + 2 * Nat.log2 m
  let q := Nat.sqrt (2 ^ n / m)
  .fin false (2 * q + 1 - b2n (q * q * m == 2 ^ n)) (-((n / 2 : Nat) : Int) - 1 - e / 2)

/-- The FP32 codes within 2 units in the last place of a value (R73), as far as the infinities: `k` picks one of the four about a
value between two codes, and one of the five about a code. A value beyond the largest finite one is an infinity (Table 3.7). -/
def nearUlp (y : Num) (k : Nat) : Nat :=
  let near := fp32 y
  let t := (Fmt.fp32.roundFloat true y).1
  let neg := t.testBit 31
  let v : Int := (t % 2 ^ 31 : Nat) + (if (Fmt.fp32.decode t).eqv y then (min k 4 : Int) - 2 else (min k 3 : Int) - 1)
  if near % 2 ^ 31 = 0x7F800000 then near
  else if v < 0 then (if neg then 0 else 2 ^ 31) + v.natAbs
  else (if neg then 2 ^ 31 else 0) + min v.toNat 0x7F800000

/-- V.FN (R73, R111, R112, Table 4.10): functions 0 exp2, 1 log2, 2 reciprocal, 3 reciprocal square root, 4 negate,
5 absolute value, of an FP32 code. -/
def vFn (fn c : Nat) : Nat × Sticky :=
  let x := Fmt.fp32.decode c
  let exact (y : Num) : Nat × Sticky := Fmt.fp32.roundFloat false y
  let fin (y : Num) : Nat × Sticky :=
    let r := nearUlp y (Config.ulpOffset fn (BitVec.ofNat 32 c))
    (r, { of := r % 2 ^ 31 == 0x7F800000, uf := r % 2 ^ 31 == 0 && !y.isZero })
  match fn, x with
  | 4, y => exact y.neg
  | 5, y => exact y.abs
  | _, .nan => exact .nan
  | 0, .inf true => (0, {})
  | 0, .inf false => exact (.inf false)
  | 0, .fin s m e => if m = 0 then exact (.fin false 1 0) else fin (exp2Num s m e)
  | 1, .inf true => exact .nan
  | 1, .inf false => exact (.inf false)
  | 1, .fin s m e => if m = 0 then exact (.inf true) else if s then exact .nan else fin (log2Num m e)
  | 2, .inf s => (if s then 2 ^ 31 else 0, {})
  | 2, .fin s m e => if m = 0 then exact (.inf s) else fin (recipNum s m e)
  | 3, .inf true => exact .nan
  | 3, .inf false => (0, {})
  | 3, .fin s m e => if m = 0 then exact (.inf s) else if s then exact .nan else fin (rsqrtNum m e)
  | _, y => exact y

end Sys2Proof.Machine
end

