-- ==== Sys2Proof/Machine/Tile.lean ====
section
/-! DEFINITION. Machine/Tile.lean: tile stores, and what an engine reaches: its own store, local memory, tile-store windows and
other devices (03 R60 to R68, 04 R96, 08 R218, R219). -/

namespace Sys2Proof.Machine

/-! ## The tile store (R61 to R65). Bytes are indexed by 2^23 × tile + offset, words by an eighth of that. -/

/-- Bytes of a tile store. -/
def State.tsBytes (s : State) (a n : Nat) : List Byte := Tab.getList s.tileMem 0 a n

/-- The words that a byte range touches. -/
def wordsOf (a n : Nat) : List Nat := if n = 0 then [] else (List.range ((a + n - 1) / 8 - a / 8 + 1)).map (a / 8 + ·)

/-- Is a word of the range poisoned? -/
def State.tsBad (s : State) (a n : Nat) : Bool := (wordsOf a n).any fun w => s.tilePoison.get false w

/-- Set the full/empty bits of words (R116). -/
def State.tsMark (s : State) (ws : List Nat) (v : Bool) : State :=
  { s with tileFull := ws.foldl (fun t w => t.set false w v) s.tileFull }

/-- Is a word full? A poisoned word reads as full (R65, R118). -/
def State.tsFull (s : State) (w : Nat) : Bool := s.tilePoison.get false w || s.tileFull.get false w

/-- Write bytes: a store of a whole word clears its poison; a poisoned write poisons every 128-byte line that it
writes (R65); each word written takes the full/empty state that is given (R116). -/
def State.tsWrite (s : State) (a : Nat) (d : List Byte) (fe : Option Bool) (poison : Bool) : State :=
  let n := d.length
  let ws := wordsOf a n
  let whole := ws.filter fun w => decide (a ≤ 8 * w) && decide (8 * w + 8 ≤ a + n)
  let lines := if poison then wordsOf (128 * (a / 128)) (roundUp (a + n) 128 - 128 * (a / 128)) else []
  let s := { s with
    tileMem := Tab.putList s.tileMem 0 a d
    tilePoison := if n = 0 then s.tilePoison else
      lines.foldl (fun t w => t.set false w true) (whole.foldl (fun t w => t.set false w false) s.tilePoison) }
  match fe with
  | some v => s.tsMark ws v
  | none => s

/-- Clear a range of a tile store: words zero and empty, poison gone (R64). -/
def State.tsClear (s : State) (a n : Nat) : State :=
  { s with
    tileMem := s.tileMem.filter fun x => !(decide (a ≤ x.1) && decide (x.1 < a + n))
    tileFull := s.tileFull.drop fun w _ => decide (a ≤ 8 * w) && decide (8 * w < a + n)
    tilePoison := s.tilePoison.drop fun w _ => decide (a ≤ 8 * w) && decide (8 * w < a + n) }

/-! ## Bit errors (R61, R65, R66) -/

/-- Change the bits of a stored word: 64 data bits and the full/empty bit. -/
def State.flipWord (s : State) (w : Nat) (x : BitVec 65) : State :=
  { s with
    tileMem := Tab.putList s.tileMem 0 (8 * w) (leBytes 8 (leNat (s.tsBytes (8 * w) 8) ^^^ x.toNat % 2 ^ 64))
    tileFull := s.tileFull.upd false w fun v => v ^^ x.getLsbD 64 }

/-- A read of word `w` of tile `t` acts on the syndrome that it finds (R65): a single bit is corrected and counted, whether or not
that is what was wrong; any other syndrome poisons the word, is counted, booked and reported. The pages of an engine count it; a
spare has none. A word that holds the poison syndrome already stays as it is. -/
def State.scrubWord (s : State) (t w : Nat) (err : TileErr) : State :=
  let i := 0x100000 * t + w
  if s.tilePoison.get false i then s else
  let corrected (s : State) : State := match s.engineOn t with
    | some e => s.inc (Blk.eng.at e 0x090)
    | none => s
  match err with
  | .none => s
  | .single _ => corrected s
  | .miss x => corrected (s.flipWord i x)
  | .other x =>
    let s := s.flipWord i x
    let s := { s with tilePoison := s.tilePoison.set false i true }
    let s := match s.engineOn t with
      | some e => (s.inc (Blk.eng.at e 0x098)).event { blk := .eng, inst := e, num := 5, addr := some w }
      | none => s
    s.book t (4 * (s.engineOn t).getD 0) 7 (locusBank w)

/-! ## Placements from outside the context (R67, R86) -/

/-- The engine on a tile that is being copied to another, if one is. -/
def State.copyingOn (s : State) (t : Nat) : Option Nat := (s.engs.find? fun g => g.2.copying && s.tileOf g.1 == t).map Prod.fst

/-- Payload bytes that the hub holds. -/
def Held.size : Held → Nat
  | .cmd n _ => n
  | .put _ d _ _ => d.length

/-- The hub holds a transfer for an engine that is being copied, up to 1 MiB; beyond that it waits at its source (R86). -/
def State.holdInbound (s : State) (e : Nat) (h : Held) : State :=
  s.updEng e fun g =>
    if g.waitIn.isEmpty && decide ((g.heldIn.map Held.size).sum + h.size ≤ 2 ^ 20) then { g with heldIn := g.heldIn ++ [h] }
    else { g with waitIn := g.waitIn ++ [h] }

/-- Bytes are placed into a tile store from outside: held while its engine is copied, else written, and logged for a sampled slice
(15 R391). -/
def State.tsPlace (s : State) (a : Nat) (d : List Byte) (fe : Option Bool) (poison : Bool) : State :=
  match s.copyingOn (a / 0x800000) with
  | some e => s.holdInbound e (.put (a % 0x800000) d fe poison)
  | none => (s.tsWrite a d fe poison).mirrorIn a d

/-- The stores as a read from outside finds them: what the hub holds for tile `t` lies before it in arrival order (R86, log entry
82). -/
def State.seen (s : State) (t : Nat) : State :=
  match s.copyingOn t with
  | none => s
  | some e => ((s.eng e).heldIn ++ (s.eng e).waitIn).foldl (fun s h => match h with
      | .put off d fe p => s.tsWrite (0x800000 * t + off) d fe p
      | .cmd _ _ => s) s

/-! ## Tile-store windows (08 R218) -/

/-- The store byte of a window access of `n` bytes by a local requester of function `fn` (none for a remote one,
whose admission is checked elsewhere); none is a bus error. -/
def State.windowAddr (s : State) (k off n : Nat) (fn : Option Nat) : Option Nat :=
  if (s.ctx k).st == 0 || decide (s.regionSize k < off + n) || (fn.isSome && fn != some (s.owner k)) ||
      (s.eng (k / 4)).noTile then none
  else some (s.tsAddr k off)

/-! ## One instruction in execution -/

/-- An instruction in execution: the state, its context, its fields, the answers of other devices not yet taken, the flags it sets,
whether it consumed poison, its first error (R129) with the part of the last read that is lost to it, a program counter that it
names itself, how many transfers over the router it has made, and what a sampled slice mirrors: the ranges of its own store that it
reads or writes, the values it takes from outside, and the transfers it sends (15 R391). -/
structure Run where
  s : State
  k : Nat
  f : Fields
  rem : List Remote := []
  fl : Sticky := {}
  poison : Bool := false
  err : Option Nat := none
  cut : Option (Nat × Nat) := none
  npc : Option Nat := none
  xfer : Nat := 0
  seen : List (Nat × Nat × Bool) := []
  ins : List (Nat × Nat × List Byte) := []
  outs : List (Nat × List Byte) := []

/-- Note an error; the first one is kept. -/
def Run.fail (r : Run) (c : Nat) : Run := { r with err := if r.err.isSome then r.err else some c }

/-- Add flags. -/
def Run.flag (r : Run) (st : Sticky) : Run := { r with fl := r.fl.or st }

/-- Change the state. -/
def Run.upd (r : Run) (g : State → State) : Run := { r with s := g r.s }

/-- Has the instruction stopped: with any error but one of translation, whose other parts go on (R129)? -/
def Run.stopped (r : Run) : Bool := r.err.isSome && r.err != some 7

/-- The tile of the engine that executes. -/
def Run.tile (r : Run) : Nat := r.s.tileOf (r.k / 4)

/-- A transfer over the router: whether a parity error discards it (R68). -/
def Run.transfer (r : Run) : Run × Bool :=
  let lost := r.f.met.lost.contains r.xfer
  let r := { r with xfer := r.xfer + 1 }
  (if lost then r.upd (·.routerParity (r.k / 4)) else r, lost)

/-- Where a piece of an access lies. -/
inductive Place where
  | tile (a : Nat)
  | mem (off : Nat)
  | remote (dev off : Nat)
  | lost (code : Nat)
  deriving DecidableEq, Repr

/-- Where a fabric physical address lies for an access of `n` bytes by context `k`. -/
def State.placeOf (s : State) (k pa n : Nat) : Place :=
  if pa / 2 ^ 50 ≠ s.devNum then .remote (pa / 2 ^ 50) (pa % 2 ^ 50)
  else match windowOf (pa % 2 ^ 50) with
    | some (e, x, o) => match s.windowAddr (4 * e + x) o n (some (s.owner k)) with
      | some a => .tile a
      | none => .lost 9
    | none => .mem (pa % 2 ^ 50)

/-- The pieces of an access of context `k` (04 R96, 08 R219): a tile-store range is one piece; a virtual range is
translated page by page, and a part that faults is lost with code 0x07; a fabric range is checked by R217. -/
def State.places (s : State) (k space a n : Nat) (wr : Bool) : State × List (Place × Nat) :=
  if n = 0 then (s, [])
  else if space = 0 then (s, [(.tile (s.tsAddr k a), n)])
  else
    (pagePieces a n).foldl (fun acc x =>
      let (t, ps) := acc
      if space = 1 then
        match t.translate (t.owner k) (t.ctx k).tag x.1 wr with
        | (t, .inl pa) => (t, ps ++ [(t.placeOf k pa x.2, x.2)])
        | (t, .inr _) => (t, ps ++ [(.lost 7, x.2)])
      else if x.1 / 2 ^ 50 = t.devNum ∧ !t.reachable 0 (x.1 % 2 ^ 50) then
        (t.xltFault (t.owner k) 0 x.1 wr 0xB true, ps ++ [(.lost 7, x.2)])
      else (t, ps ++ [(t.placeOf k x.1 x.2, x.2)])) (s, [])

/-! ## Reads -/

/-- A read is lost to error `c` from byte `o` on, for `n` bytes, which consume as poisoned zeros (07 Table 7.3). -/
def Run.lose (r : Run) (c o n : Nat) : Run :=
  { r with cut := if r.err.isSome then r.cut else some (o, n), poison := true }.fail c

/-- Read one piece, at byte `o` of its access: its bytes, none where a part is lost to a translation fault or never arrives. -/
def Run.readPlace (r : Run) (o : Nat) (p : Place × Nat) : Run × List (Option Byte) :=
  let n := p.2
  let zero := List.replicate n (some (0 : Byte))
  let far (g : Run → Run × List (Option Byte)) : Run × List (Option Byte) :=
    match r.transfer with
    | (r, true) => (r.lose 9 o n, zero)
    | (r, false) => g r
  match p.1 with
  | .tile a =>
    if a / 0x800000 = r.tile then
      ({ r with poison := r.poison || r.s.tsBad a n, seen := r.seen ++ [(a, n, false)] }, (r.s.tsBytes a n).map some)
    else far fun r =>
      let t := r.s.seen (a / 0x800000)
      let d := t.tsBytes a n
      ({ r with s := (r.s.useNoc r.tile (a / 0x800000)).useNoc (a / 0x800000) r.tile, poison := r.poison || t.tsBad a n
                ins := r.ins ++ [(0, a, d)] }, d.map some)
  | .mem off => far fun r =>
    let (t, xs) := (r.s.nocMem r.tile off n).readPieces 0 off n
    let d := (xs.map (·.data)).flatten
    let r := { r with s := t, poison := r.poison || xs.any (·.kind != 0), ins := r.ins ++ [(0, off, d)] }
    let r := match xs.findIdx? (·.kind == 2) with
      | some i => let done := ((xs.take i).map (·.data.length)).sum
                  r.lose 9 (o + done) ((xs.getD i { data := [], kind := 0 }).data.length)
      | none => r
    (r, d.map some)
  | .remote dev off => far fun r =>
    let x := r.rem.headD {}
    let r := { r with rem := r.rem.tail, s := r.s.useNoc r.tile hubAgent }
    if x.code ≠ 0 then (r.lose x.code o n, List.replicate n none)
    else
      let d := slice x.data 0 n
      ({ r with poison := r.poison || !x.bad.isEmpty, ins := r.ins ++ [(0, 2 ^ 50 * dev + off, d)] }, d.map some)
  | .lost 7 => (r.fail 7, List.replicate n none)
  | .lost c => (r.lose c o n, zero)

/-- Read a range (R219): bytes whose translation faults read as none. -/
def Run.read (r : Run) (space a n : Nat) (wr : Bool := false) : Run × List (Option Byte) :=
  let (s, ps) := r.s.places r.k space a n wr
  ps.foldl (fun acc p => let (r, d) := acc.1.readPlace acc.2.length p
                         (r, acc.2 ++ d)) ({ r with s }, [])

/-- The bytes of a range of the own tile store. -/
def Run.bytes (r : Run) (a n : Nat) : Run × List Byte :=
  let (r, d) := r.read 0 a n
  (r, d.map (·.getD 0))

/-! ## Writes -/

/-- An error of a write that is reported later: at a FENCE of scope 1 or 2 or HALT when `localMem`, else at a FENCE of
scope 2 or HALT (04 R123, 07 Table 7.3). Only the first is kept; later ones are counted. -/
def State.holdErr (s : State) (k c : Nat) (localMem : Bool) : State :=
  s.updCtx k fun x =>
    if x.heldErr.isSome || x.heldLocal.isSome then { x with heldMore := x.heldMore + 1 }
    else if localMem then { x with heldLocal := some c } else { x with heldErr := some c }

/-- The lowest open connection of a function to a device (log entry 2). -/
def State.connTo (s : State) (fn dev : Nat) : Option Nat :=
  (s.conns.find? fun x => x.2.st == 2 && x.2.owner == fn && x.2.peerDev == dev).map Prod.fst

/-- Queue a message on a connection; its number identifies it to whoever awaits it. -/
def State.postMsg (s : State) (c : Nat) (m : Msg) : State × Nat :=
  ({ s with conns := s.conns.upd {} c (fun x => { x with queue := x.queue ++ [{ m with id := s.msgId }] }), msgId := s.msgId + 1 },
   s.msgId)

/-- The poisoned blocks of `n` bytes that are all poisoned. -/
def badAll (n : Nat) (poison : Bool) : List Nat := if poison then List.range ((n + 255) / 256) else []

/-- An engine write to another device (04 R96, R116, R123): with `fe` every packet carries FENCE, so that each word is set full as it
is placed and none before the data ahead of it (log entry 83). -/
def State.remoteWrite (s : State) (k dev off : Nat) (d : List Byte) (fence fe poison : Bool) : State :=
  match s.connTo (s.owner k) dev with
  | none => s.holdErr k 9 false
  | some c =>
    let m : Msg := {
      id := 0, kind := 0, raddr := 2 ^ 50 * dev + off, mkey := Config.engineMkey, len := d.length, data := d, fence,
      fenceAll := fe, bad := badAll d.length poison, src := .engine k }
    let (s, i) := s.postMsg c m
    s.updCtx k fun x => { x with pendingOps := x.pendingOps ++ [(c, i)] }

/-- The runs of known bytes in a piece: (offset, bytes). -/
def knownRuns : Nat → List (Option Byte) → List (Nat × List Byte)
  | _, [] => []
  | i, some b :: t => match knownRuns (i + 1) t with
    | (j, bs) :: rest => if j = i + 1 then (i, b :: bs) :: rest else (i, [b]) :: (j, bs) :: rest
    | [] => [(i, [b])]
  | i, none :: t => knownRuns (i + 1) t

/-- Write one run of bytes at a place. `fe` sets words full. A transfer over the router that a parity error discards is reported as
an uncorrectable memory error is (R68). -/
def Run.writeRun (r : Run) (p : Place) (o : Nat) (d : List Byte) (fe : Bool) : Run :=
  let set := if fe then some true else none
  let far (loc : Bool) (g : Run → Run) : Run :=
    match r.transfer with
    | (r, true) => r.upd (·.holdErr r.k 9 loc)
    | (r, false) => g r
  match p with
  | .tile a =>
    if a / 0x800000 = r.tile then
      { r.upd (·.tsWrite (a + o) d set r.poison) with seen := r.seen ++ [(a + o, d.length, true)] }
    else far true fun r =>
      { r.upd (fun s => (s.useNoc r.tile (a / 0x800000)).tsPlace (a + o) d set r.poison) with outs := r.outs ++ [(a + o, d)] }
  | .mem off =>
    if fe && !r.s.inSync (off + o) then r.fail 0xA else far true fun r =>
      let r := { r.upd (·.nocMem r.tile (off + o) d.length) with outs := r.outs ++ [(off + o, d)] }
      let (s, c) := if r.poison then
          (linePieces (off + o) d.length).foldl (fun acc x =>
            let (t, c) := acc.1.writePiece 0 x.1 x.2.1 ((d.drop (x.1 + x.2.1 - (off + o))).take x.2.2) true set
            (t, max acc.2 c)) (r.s, 0)
        else r.s.memWrite 0 (off + o) d set
      { r with s := if c = 0 then s else s.holdErr r.k 9 true }
  | .remote dev off => far false fun r =>
    { r with
      s := (r.s.useNoc r.tile hubAgent).remoteWrite r.k dev (off + o) d r.f.fence fe r.poison
      f := { r.f with fence := false }, outs := r.outs ++ [(2 ^ 50 * dev + off + o, d)] }
  | .lost 7 => r.fail 7
  | .lost c => r.upd fun s => s.holdErr r.k c true

/-- Write a range: bytes that are none are not written (R129). -/
def Run.write (r : Run) (space a : Nat) (d : List (Option Byte)) (fe : Bool) : Run :=
  let (s, ps) := r.s.places r.k space a d.length true
  let r := { r with s }
  (ps.foldl (fun (acc : Run × List (Option Byte)) p =>
    let runs := knownRuns 0 (acc.2.take p.2)
    let r := match p.1, runs with
      | .lost c, _ :: _ => acc.1.writeRun (.lost c) 0 [] fe
      | _, _ => runs.foldl (fun r x => r.writeRun p.1 x.1 x.2 fe) acc.1
    (r, acc.2.drop p.2)) (r, d)).1

end Sys2Proof.Machine
end

