-- ==== Sys2Proof/Machine/Operands.lean ====
section
/-! DEFINITION. Machine/Operands.lean: the operand forms of Berkoem: registers, tensor descriptors with their checks,
and the elements, rows and blocks they name (04 R93 to R97, R104, R115; 05 R130 to R138). -/

namespace Sys2Proof.Machine

/-! ## Scalars and predicates (R93) -/

/-- S0 reads as zero. -/
def Ctx.s (c : Ctx) (i : Nat) : BitVec 64 := if i = 0 then 0 else c.sr.get 0 i

/-- A write to S0 is discarded. -/
def Ctx.setS (c : Ctx) (i : Nat) (v : BitVec 64) : Ctx := if i = 0 then c else { c with sr := c.sr.set 0 i v }

/-- P0 reads as one. -/
def Ctx.p (c : Ctx) (i : Nat) : Bool := if i = 0 then true else c.pr.get false i

/-- A write to P0 is discarded. -/
def Ctx.setP (c : Ctx) (i : Nat) (v : Bool) : Ctx := if i = 0 then c else { c with pr := c.pr.set false i v }

/-- src2 is S[b], or imm when sub[0] is 1 (R98). -/
def Ctx.src2 (c : Ctx) (f : Fields) : BitVec 64 := if bitAt f.sub 0 then f.imm else c.s f.b

/-! ## Tensor descriptors (R94, R103) -/

/-- A field of a descriptor by its select code of Table 4.9: high and low bit. -/
def tdField : Nat → Option (Nat × Nat)
  | 0x00 => some (63, 0) | 0x01 => some (83, 64) | 0x02 => some (103, 84) | 0x03 => some (123, 104)
  | 0x04 => some (147, 128) | 0x05 => some (174, 148) | 0x06 => some (218, 192) | 0x07 => some (245, 219)
  | 0x08 => some (127, 124) | 0x09 => some (177, 175) | 0x0A => some (179, 178) | 0x0B => some (181, 180)
  | 0x0C => some (182, 182) | 0x0D => some (183, 183) | 0x0E => some (189, 184) | 0x0F => some (251, 246)
  | _ => none

/-- Read a field of a descriptor. -/
def tdGet (w : TdWord) (sel : Nat) : Nat := match tdField sel with
  | some (hi, lo) => bits w.toNat hi lo
  | none => 0

/-- Write the low bits of a value into a field. -/
def tdSet (w : TdWord) (sel v : Nat) : TdWord := match tdField sel with
  | some (hi, lo) => BitVec.ofNat 256 (setBits w.toNat hi lo v)
  | none => w

/-- A descriptor, parsed (Table 4.3). `n0` to `n3` are element counts, strides are in bytes, `rank` is 1 to 4. -/
structure Td where
  idx : Nat
  base : Nat
  n0 : Nat
  n1 : Nat
  n2 : Nat
  n3 : Nat
  s1 : Nat
  s2 : Nat
  s3 : Nat
  fcode : Nat
  space : Nat
  rank : Nat
  sparse : Nat
  scaled : Bool
  valid : Bool
  auxScale : Nat
  auxMeta : Nat
  rsv : Nat
  deriving DecidableEq, Repr

/-- Parse a descriptor. -/
def Td.of (idx : Nat) (w : TdWord) : Td :=
  { idx, base := tdGet w 0, n0 := tdGet w 1 + 1, n1 := tdGet w 2 + 1, n2 := tdGet w 3 + 1, n3 := tdGet w 4 + 1,
    s1 := 64 * tdGet w 5, s2 := 64 * tdGet w 6, s3 := 64 * tdGet w 7, fcode := tdGet w 8, space := tdGet w 9,
    rank := tdGet w 0xA + 1, sparse := tdGet w 0xB, scaled := tdGet w 0xC == 1, valid := tdGet w 0xD == 1,
    auxScale := tdGet w 0xE, auxMeta := tdGet w 0xF, rsv := bits w.toNat 191 190 + bits w.toNat 255 252 }

/-- TD[i] of a context. -/
def Ctx.tdAt (c : Ctx) (i : Nat) : Td := Td.of i (c.td.get 0 i)

/-- The format; reserved codes read as opaque bytes, and the descriptor check refuses them. -/
def Td.fmt (d : Td) : Fmt := (Fmt.ofCode d.fcode).getD .uint8

/-- Elements stored in a row: a 2:4 operand stores half (05 R131). -/
def Td.stored (d : Td) : Nat := if d.sparse = 1 then d.n0 / 2 else d.n0

/-- Bytes of a stored row. -/
def Td.rowBytes (d : Td) : Nat := d.stored * d.fmt.bits / 8

/-- The extent of dimension `i`, one above the rank (R97: fields above the rank are ignored). -/
def Td.ext (d : Td) (i : Nat) : Nat :=
  if d.rank ≤ i then 1 else match i with | 0 => d.n0 | 1 => d.n1 | 2 => d.n2 | _ => d.n3

/-- The stride of dimension `i`. -/
def Td.stride (d : Td) (i : Nat) : Nat := match i with | 1 => d.s1 | 2 => d.s2 | _ => d.s3

/-- Rows: the product of the extents above dimension 0. -/
def Td.rows (d : Td) : Nat := d.ext 1 * d.ext 2 * d.ext 3

/-- Elements of the tensor. -/
def Td.count (d : Td) : Nat := d.n0 * d.rows

/-- The first byte of row `r`, rows counted with dimension 1 fastest. -/
def Td.rowAt (d : Td) (r : Nat) : Nat :=
  d.base + (if 1 < d.rank then r % d.ext 1 * d.s1 else 0)
    + (if 2 < d.rank then r / d.ext 1 % d.ext 2 * d.s2 else 0)
    + (if 3 < d.rank then r / d.ext 1 / d.ext 2 * d.s3 else 0)

/-- Bytes from the lowest to past the highest addressed byte (R115). -/
def Td.span (d : Td) : Nat :=
  d.rowBytes + ((List.range 3).map fun i => if i + 1 < d.rank then (d.ext (i + 1) - 1) * d.stride (i + 1) else 0).foldl (· + ·) 0

/-- Do two tensors have the same rank and extents? -/
def Td.sameShape (a b : Td) : Bool := a.rank == b.rank && (List.range 4).all fun i => a.ext i == b.ext i

/-! ## Blocks (05 R135 to R138) -/

/-- Bytes of a stored block of 64 × 64 elements (R137). -/
def Td.blockBytes (d : Td) : Nat := 4096 * d.fmt.bits / 8

/-- Block rows and block columns (R135). -/
def Td.blocks (d : Td) : Nat × Nat := ((d.n1 + 63) / 64, (d.n0 + 63) / 64)

/-! ## Descriptor checks (R97, R104; check 2 of R89) -/

/-- The parts of R97 that hold for every tensor. DESIGN CHOICE (log entry 87): a base that is no multiple of 64 (Table 4.3), and a
source of rank 2 or above with stride1 = 0, where the fourth bullet of R97 and the fifth disagree, fail the descriptor check. -/
def Td.plainOk (d : Td) (dst : Bool) : Bool :=
  d.valid && (Fmt.ofCode d.fcode).isSome && decide (d.space ≤ 2) && d.rsv == 0 && d.base % 64 == 0
  && d.n0 % d.fmt.pack == 0
  && (d.rank == 1 || decide (d.rowBytes ≤ d.s1))
  && (!dst || (List.range 3).all fun i => decide (d.rank ≤ i + 1) || d.stride (i + 1) != 0)
  && (d.sparse != 0 || d.auxMeta == 0)

/-- Is the scale tensor of `d` as R97 requires? `dst` says that it is written. -/
def Td.scaleOk (d a : Td) (dst : Bool) : Bool :=
  a.plainOk dst && a.sparse == 0 && !a.scaled && a.fcode == 9 && a.rank == d.rank && a.space == d.space
  && a.n0 == d.n0 / 32 && (List.range 3).all fun i => a.ext (i + 1) == d.ext (i + 1)

/-- Is the metadata tensor of `d` as 05 R132 or R135 requires? -/
def Td.metaOk (d a : Td) (dst : Bool) : Bool :=
  d.rank == 2 && a.plainOk dst && a.sparse == 0 && !a.scaled && a.fcode == 9 && a.rank == 2 && a.space == d.space
  && (if d.sparse = 1 then a.n0 == d.n0 / 8 && d.n0 % 8 == 0 && a.n1 == d.n1
      else a.n0 == 8 * (((d.n0 + 63) / 64 + 63) / 64) && a.n1 == (d.n1 + 63) / 64)

/-- How an instruction uses a descriptor: as a destination, in any space or also in the virtual one (R104), with which sparse
codes, and whether its scale tensor is written. -/
structure Use where
  i : Nat
  dst : Bool := false
  any : Bool := false
  virt : Bool := false
  sparse : List Nat := [0]
  auxDst : Bool := false
  deriving DecidableEq, Repr

/-- Check 2 of R89 for one use. -/
def Ctx.useOk (c : Ctx) (u : Use) : Bool :=
  let d := c.tdAt u.i
  d.plainOk u.dst && (u.any || d.space == 0 || (u.virt && d.space == 1))
  && (!d.scaled || (d.fmt.scalable && d.n0 % 32 == 0 && d.scaleOk (c.tdAt d.auxScale) u.auxDst))
  && (d.sparse == 0 || d.metaOk (c.tdAt d.auxMeta) (u.dst && d.sparse != 1))

/-! ## Ranges in the tile store (check 3 of R89; 05 R138) -/

/-- The presence bits of a block bitmap, in ascending row and column (05 R135); `get` gives the bytes of a row. -/
def Td.present (bm : Td) (get : Nat → Nat → List Byte) (rb cb : Nat) : List Bool :=
  (List.range rb).flatMap fun r =>
    let row := get r bm.rowBytes
    (List.range cb).map fun c => (row.getD (c / 8) 0).getLsbD (c % 8)

/-- Bytes of the region of context `k`; zero past the end. -/
def State.ownBytes (s : State) (k off n : Nat) : List Byte :=
  if off + n ≤ s.regionSize k then s.tsBytes (s.tsAddr k off) n else zeros n

/-- The rows of a bitmap outside the tile store, as the reads of an instruction find them. -/
def State.farRows (s : State) (k : Nat) (f : Fields) (bm : Td) : List (List Byte) :=
  ((List.range bm.rows).foldl (fun (acc : Run × List (List Byte)) i =>
    let (r, b) := acc.1.read bm.space (bm.rowAt i) bm.rowBytes
    (r, acc.2 ++ [b.map (·.getD 0)])) ({ s, k, f, rem := f.met.remote }, [])).2

/-- Presence bits of a sparse operand: of the tile store, or of memory reached as the operand's space says, with the answers of
other devices that the instruction's reads take. -/
def State.presentOf (s : State) (k : Nat) (f : Fields) (d : Td) : List Bool :=
  let bm := (s.ctx k).tdAt d.auxMeta
  if d.space = 0 then bm.present (fun i n => s.ownBytes k (bm.rowAt i) n) d.blocks.1 d.blocks.2
  else
    let rows := s.farRows k f bm
    bm.present (fun i n => slice (rows.getD i []) 0 n) d.blocks.1 d.blocks.2

/-- The (first byte, bytes) ranges of one use in the tile store: the tensor, its scales and its metadata. -/
def State.useRanges (s : State) (k : Nat) (u : Use) : List (Nat × Nat) :=
  let c := s.ctx k
  let d := c.tdAt u.i
  let one (t : Td) : List (Nat × Nat) := if t.space = 0 then [(t.base, t.span)] else []
  let main : List (Nat × Nat) :=
    if d.space ≠ 0 then []
    else if d.sparse = 3 then
      (if u.dst then [(d.base, d.blocks.1 * d.blocks.2 * d.blockBytes)]
       else [(d.base, ((s.presentOf k {} d).filter id).length * d.blockBytes)])
    else one d
  (if d.sparse ≠ 0 then one (c.tdAt d.auxMeta) else []) ++ main ++ (if d.scaled then one (c.tdAt d.auxScale) else [])

/-- Check 3 of R89 for one use: metadata is checked before it is read. -/
def State.useInRange (s : State) (k : Nat) (u : Use) : Bool :=
  (s.useRanges k u).all fun x => decide (x.1 + x.2 ≤ s.regionSize k)

/-! ## Words of operands (R116 to R118) -/

/-- The (space, first byte, bytes) ranges whose words an operand names: every row, the scales and the metadata. -/
def State.useWords (s : State) (k : Nat) (u : Use) : List (Nat × Nat × Nat) :=
  let c := s.ctx k
  let d := c.tdAt u.i
  let rowsOf (t : Td) : List (Nat × Nat × Nat) := (List.range t.rows).map fun r => (t.space, t.rowAt r, t.rowBytes)
  let main := if d.sparse = 3 then [(d.space, d.base, ((s.presentOf k {} d).filter id).length * d.blockBytes)] else rowsOf d
  main ++ (if d.scaled then rowsOf (c.tdAt d.auxScale) else []) ++ (if d.sparse ≠ 0 then rowsOf (c.tdAt d.auxMeta) else [])

/-! ## Packing (R95) -/

/-- Codes of `n` elements of `w` bits from bytes. -/
def unpack (w n : Nat) (d : List Byte) : List Nat :=
  if w % 8 = 0 then (List.range n).map fun i => leAt d (w / 8 * i) (w / 8)
  else (List.range n).map fun i => (leAt d (w * i / 8) 2 >>> (w * i % 8)) % 2 ^ w

/-- Pack `k` codes of `w` bits into one number. -/
def packNum (w : Nat) : List Nat → Nat
  | [] => 0
  | c :: cs => c % 2 ^ w + 2 ^ w * packNum w cs

/-- Bytes of codes of `w` bits; sub-byte elements in groups of four. -/
def packCodes (w : Nat) (cs : List Nat) : List Byte :=
  if w % 8 = 0 then cs.flatMap fun c => leBytes (w / 8) c
  else (List.range ((cs.length + 3) / 4)).flatMap fun g =>
    let part := (cs.drop (4 * g)).take 4
    leBytes (w * part.length / 8) (packNum w part)

/-! ## Reading and writing tensors -/

/-- One stored row as raw bytes; faulted parts are none. -/
def Run.row (r : Run) (d : Td) (i : Nat) : Run × List (Option Byte) :=
  r.read d.space (d.rowAt i) d.rowBytes (wr := r.f.feClear)

/-- The codes of row `i` of a tensor in the own tile store. -/
def Run.codes (r : Run) (d : Td) (i : Nat) : Run × List Nat :=
  let (r, b) := r.row d i
  (r, unpack d.fmt.bits d.stored (b.map (·.getD 0)))

/-- The scale codes of row `i`: the row of the scale tensor, or 127 for every group (R80, R108). -/
def Run.scales (r : Run) (d : Td) (i : Nat) : Run × List Nat :=
  if d.scaled then
    let a := (r.s.ctx r.k).tdAt d.auxScale
    let (r, b) := r.row a i
    (r, (b.map (·.getD 0)).map BitVec.toNat)
  else (r, [])

/-- Row `i` as exact element values without their scales, and the scale codes. -/
def Run.vals (r : Run) (d : Td) (i : Nat) : Run × List Num × List Nat :=
  let (r, cs) := r.codes d i
  let (r, sc) := r.scales d i
  (r, cs.map d.fmt.decode, sc)

/-- Row `i` dequantised with its scales (R80). -/
def Run.deq (r : Run) (d : Td) (i : Nat) : Run × List Num :=
  let (r, vs, sc) := r.vals d i
  (r, if d.scaled then vs.mapIdx fun j v => scaleBy (sc.getD (j / 32) 127) v else vs)

/-- Read every row with `g`. -/
def Run.rowsOf {α : Type} (r : Run) (n : Nat) (g : Run → Nat → Run × α) : Run × List α :=
  (List.range n).foldl (fun acc i => let (r, x) := g acc.1 i
                                     (r, acc.2 ++ [x])) (r, [])

/-- Write row `i` of a tensor; words are set full under fe_set (R116). -/
def Run.putRow (r : Run) (d : Td) (i : Nat) (b : List (Option Byte)) : Run :=
  r.write d.space (d.rowAt i) b r.f.feSet

/-- Write rows of codes. -/
def Run.putCodes (r : Run) (d : Td) (rows : List (List Nat)) : Run :=
  (rows.zipIdx).foldl (fun r x => r.putRow d x.2 ((packCodes d.fmt.bits x.1).map some)) r

/-- The effective rounding mode of an instruction: true toward zero (R88 rnd, Table 3.10). -/
def Run.tz (r : Run) : Bool := if r.f.rnd = 0 then r.s.roundTz r.k else r.f.rnd == 2

/-- Round rows of values into an unscaled tensor, or into a scaled one with scales that are given or chosen (R82,
R112): the scale codes that the instruction writes, none where they are given, and the element codes. -/
def Run.rounded (r : Run) (d : Td) (rows : List (List Num)) (given : Bool) : Run × List (List Nat) × List (List Nat) :=
  let tz := r.tz
  if !d.scaled then
    let out := rows.map fun row => row.map fun v => d.fmt.round tz v
    let r := out.foldl (fun r row => row.foldl (fun r x => r.flag x.2) r) r
    (r, [], out.map fun row => row.map Prod.fst)
  else
    let a := (r.s.ctx r.k).tdAt d.auxScale
    let groups (row : List Num) : List (List Num) := (List.range (row.length / 32)).map fun g => (row.drop (32 * g)).take 32
    let (r, scs) := r.rowsOf rows.length fun r i =>
      if given then
        let (r, b) := r.row a i
        (r, (b.map (·.getD 0)).map BitVec.toNat)
      else
        let ch := (groups (rows.getD i [])).map (chooseScale d.fmt)
        (r.flag { nv := ch.any (·.2) }, ch.map (·.1))
    let out := rows.mapIdx fun i row => row.mapIdx fun j v => d.fmt.quantise tz ((scs.getD i []).getD (j / 32) 127) given v
    let r := out.foldl (fun r row => row.foldl (fun r x => r.flag x.2) r) r
    (r, if given then [] else scs, out.map fun row => row.map Prod.fst)

/-- Write the scale codes that an instruction chose. -/
def Run.putScales (r : Run) (d : Td) (scs : List (List Nat)) : Run :=
  if scs.isEmpty then r else r.putCodes ((r.s.ctx r.k).tdAt d.auxScale) scs

/-- Round and write rows of values; chosen scales are written before the data (R116). -/
def Run.putVals (r : Run) (d : Td) (rows : List (List Num)) (given : Bool) : Run :=
  let (r, scs, cs) := r.rounded d rows given
  (r.putScales d scs).putCodes d cs

end Sys2Proof.Machine
end

