-- ==== Sys2Proof/Machine/Flags.lean ====
section
/-! DEFINITION. Machine/Flags.lean: the sticky flags of a context, the full/empty words of tile stores and of the sync
region, and the conditions of S.CMP, V.CMP and P.OP (03 R81; 04 R102, R116 to R120). -/

namespace Sys2Proof.Machine

/-! ## Sticky flags -/

/-- FLAGS.RD (Table 4.7): [0] nv, [1] of, [2] uf, [3] pz. -/
def Ctx.flagWord (c : Ctx) : Nat := b2n c.nv + 2 * b2n c.of + 4 * b2n c.uf + 8 * b2n c.pz

/-- Clear the flags named by a mask. -/
def Ctx.clearFlags (c : Ctx) (m : Nat) : Ctx :=
  { c with
    nv := c.nv && !bitAt m 0
    of := c.of && !bitAt m 1
    uf := c.uf && !bitAt m 2
    pz := c.pz && !bitAt m 3 }

/-- The flags that an instruction sets become sticky in its context (R81). -/
def Ctx.stick (c : Ctx) (st : Sticky) (poison : Bool) : Ctx :=
  { c with nv := c.nv || st.nv, of := c.of || st.of, uf := c.uf || st.uf, pz := c.pz || poison }

/-! ## Conditions (Table 4.8) -/

/-- The condition codes of S.CMP. -/
def sCond (code : Nat) (a b : BitVec 64) : Bool :=
  match code with
  | 0 => a == b
  | 1 => a != b
  | 2 => a.slt b
  | 3 => a.sle b
  | 4 => a.ult b
  | _ => a.ule b

/-- The condition codes of V.CMP: a NaN gives 0, but for "not equal". -/
def vCond (code : Nat) (a b : Num) : Bool :=
  match code with
  | 0 => a.eqv b
  | 1 => a.lt b
  | 2 => a.lt b || a.eqv b
  | _ => !a.eqv b

/-- The predicate operations of P.OP. -/
def pCond (code : Nat) (a b : Bool) : Bool :=
  match code with
  | 0 => a && b
  | 1 => a || b
  | 2 => a ^^ b
  | 3 => a && !b
  | _ => !a

/-! ## Full/empty words -/

/-- A word that a full/empty operation names: of a tile store, of the sync region, of another device; or none, with
the error code. -/
inductive FeWord where
  | tile (w : Nat)
  | sync (w : Nat)
  | remote (dev off n : Nat)
  | bad (code : Nat)
  deriving DecidableEq, Repr

/-- The words of one placed piece. `own` limits it to the context's own region and the local sync region (R117). -/
def State.feWords (s : State) (k : Nat) (own : Bool) (p : Place × Nat) : List FeWord :=
  match p.1 with
  | .tile a =>
    let mine := decide (s.tsAddr k 0 ≤ a) && decide (a + p.2 ≤ s.tsAddr k 0 + s.regionSize k)
    if own && !mine then [.bad 0xA] else (wordsOf a p.2).map .tile
  | .mem off => if s.inSync off then (wordsOf off p.2).map fun w => .sync (w - s.syncBase / 8) else [.bad 0xA]
  | .remote dev off => if own then [.bad 0xA] else [.remote dev off p.2]
  | .lost c => [.bad c]

/-- The words of ranges. Full/empty operations count as writes (08 R224). -/
def State.feRanges (s : State) (k : Nat) (own : Bool) (rs : List (Nat × Nat × Nat)) : State × List FeWord :=
  rs.foldl (fun acc x =>
    let (t, ps) := acc.1.places k x.1 x.2.1 x.2.2 true
    (t, acc.2 ++ ps.flatMap (t.feWords k own))) (s, [])

/-- The error that a list of words holds, if any. -/
def feErr (ws : List FeWord) : Option Nat := ws.findSome? fun w => match w with
  | .bad c => some c
  | _ => none

/-- The state of a word: full, or a poisoned word, which reads as full. -/
def State.feFull (s : State) : FeWord → State × Bool
  | .tile w => (s, s.tsFull w)
  | .sync w => s.syncFull w 0
  | _ => (s, true)

/-- The first word that is not in the awaited state (R118). -/
def State.feBlock (s : State) (full : Bool) : List FeWord → State × Option FeWord
  | [] => (s, none)
  | w :: ws =>
    let (t, v) := s.feFull w
    if v = full then State.feBlock t full ws else (t, some w)

/-- Set or clear the full/empty bits of words (R116). -/
def State.feMark (s : State) (v : Bool) (ws : List FeWord) : State :=
  ws.foldl (fun s w => match w with
    | .tile w => s.tsMark [w] v
    | .sync w => s.setSide w 1 0 v
    | .remote dev off n => if v then s.emit (.feSet dev off n) else s
    | .bad _ => s) s

/-- fe_clear: after the last read every source word becomes empty (R116). -/
def Run.feClear (r : Run) (us : List Use) : Run :=
  if !r.f.feClear then r else
    let (s, ws) := r.s.feRanges r.k true (us.flatMap (r.s.useWords r.k))
    match feErr ws with
    | some c => { r with s }.fail c
    | none => { r with s := s.feMark false ws }

/-! ## Waits (R118, R119, R212) -/

/-- The stack that holds the first word of a wait on the sync region. -/
def State.waitStack (s : State) (ws : List FeWord) : Option (Nat × Nat) :=
  match ws with
  | .sync w :: _ => (s.locate (s.syncBase + 8 * w)).map fun x => (x.1, w)
  | _ => none

/-- The context waits: on sync-region words the wait is held at the controller, or answered "retry" when its table of
1,024 waits is full (R212). -/
def State.startWait (s : State) (k : Nat) (op empty : Bool) (rs : List (Nat × Nat × Nat)) (ws : List FeWord) : State :=
  let w : Wait := { op, empty, ranges := rs, since := s.ticks, sentAt := s.plumb.now }
  match s.waitStack ws with
  | some (m, word) =>
    if (s.stack m).waits.length < 1024 then
      (s.updStack m fun t => { t with waits := t.waits ++ [(k, word)] }).updCtx k ({ · with wait := some w })
    else s.updCtx k ({ · with wait := some { w with retry := true } })
  | none => s.updCtx k ({ · with wait := some w })

/-- The wait of a context is taken from the controller that holds it (R125, R212). -/
def State.endWait (s : State) (k : Nat) : State :=
  let s := s.updCtx k ({ · with wait := none })
  { s with stackTab := (s.stackTab.keys).foldl (fun t m => t.upd {} m fun x => { x with waits := x.waits.filter (·.1 != k) }) s.stackTab }

end Sys2Proof.Machine
end

