-- ==== Sys2Proof/Machine/Issue.lean ====
section
/-! DEFINITION. Machine/Issue.lean: how an engine instruction issues: its checks in order, its guard, its wait, its
effect, and what a failure does (04 R88 to R92, R113, R116, R123, R124, R129, R476). -/

namespace Sys2Proof.Machine

/-- The kind of register that an index field names (Table 4.7). -/
inductive Kind where
  | none | td | s | p | acc | src2
  deriving DecidableEq, Repr

/-- The four flags that an instruction accepts (R476): waits and clears of sources, fences and sets of destinations. -/
inductive FlagUse where
  | none | src | dst | both
  deriving DecidableEq, Repr

/-- What the opcode table and its rules say of one instruction. `imm` and `sub` are the bits it uses, `rnd` and `cg`
whether it uses those fields; `uses` are its descriptors and `srcs` its source tensors; `shape` is check 4 and 5 of
R89, `cost` that of Table 4.11, `waits` the sources that fe_wait waits for where they are not all of them. -/
structure Ins where
  op : Nat
  d : Kind := .none
  a : Kind := .none
  b : Kind := .none
  c : Kind := .none
  imm : Nat := 0
  sub : Nat := 0
  rnd : Bool := false
  cg : Bool := false
  fl : FlagUse := .none
  enc : Ctx → Fields → Bool := fun _ _ => true
  uses : Ctx → Fields → List Use := fun _ _ => []
  shape : State → Nat → Fields → Nat := fun _ _ _ => 0
  cost : State → Nat → Fields → Nat := fun _ _ _ => 1
  waits : Option (List Use) := none

/-- Every bit of an immediate. -/
def immAll : Nat := 2 ^ 64 - 1

/-- Does a field name a register of its role (R89 check 1)? -/
def kindOk (k : Kind) (v sub : Nat) : Bool :=
  match k with
  | .none => v == 0
  | .td => decide (v < 64)
  | .s => decide (v < 32)
  | .p => decide (v < 8)
  | .acc => decide (v < 4)
  | .src2 => if bitAt sub 0 then v == 0 else decide (v < 32)

/-- Are the four full/empty and fence bits accepted (R476)? -/
def flagOk (u : FlagUse) (f : Fields) : Bool :=
  let src := f.feWait || f.feClear
  let dst := f.fence || f.feSet
  match u with
  | .none => !src && !dst
  | .src => !dst
  | .dst => !src
  | .both => true

/-- Check 1 of R89: encoding. -/
def Ins.encOk (i : Ins) (c : Ctx) (f : Fields) : Bool :=
  let s2 := (i.a == .src2 || i.b == .src2) && bitAt f.sub 0
  f.rsvLo == 0 && f.rsvHi == 0 && decide (f.pg < 8) && decide (f.rnd < 3) && (i.rnd || f.rnd == 0)
  && kindOk i.d f.d f.sub && kindOk i.a f.a f.sub && kindOk i.b f.b f.sub && kindOk i.c f.c f.sub
  && (if i.cg then decide (f.cg < 16) else f.cg == 0)
  && flagOk i.fl f
  && decide (f.sub < 256) && (f.sub &&& (255 - i.sub % 256)) == 0
  && (f.imm.toNat &&& (2 ^ 64 - 1 - (if s2 then immAll else i.imm))) == 0
  && i.enc c f

/-- Checks 2 to 6 of R89: the code of the first that fails, or 0. -/
def Ins.check (i : Ins) (s : State) (k : Nat) (f : Fields) : Nat :=
  let c := s.ctx k
  let us := i.uses c f
  if !(us.all c.useOk) then 0x02
  else if !(us.all (s.useInRange k)) then 0x03
  else if us.any fun u => !u.sparse.contains (c.tdAt u.i).sparse then 0x04
  else
    let sh := i.shape s k f
    if sh = 4 ∨ sh = 5 then sh
    else if s.owner k ≠ 0 ∧ us.any (fun u => (c.tdAt u.i).space == 2) then 0x06
    else if sh ≠ 0 then sh
    else if 65536 < i.cost s k f then 0x0D
    else 0

/-- An event of an engine page raised to the owner of a context and to PF0 (R129, R119). -/
def State.engEvent (s : State) (k num p0 p1 p2 p3 : Nat) : State :=
  s.eventTo { blk := .eng, inst := k / 4, num, fn := s.owner k, p0, p1, p2, p3 } (s.owner k)

/-- ENG event 0x02 (Table 17.20). -/
def State.errEvent (s : State) (k code op : Nat) : State :=
  s.engEvent k 2 (code + 256 * (k % 4)) ((s.ctx k).pc % 2 ^ 32) op 0

/-- An instruction fails: its code is stored, the event raised, and the context stops issuing there (R129). -/
def State.failCtx (s : State) (k code op : Nat) : State :=
  (s.errEvent k code op).updCtx k ({ · with err := code, failing := some code })

/-- May context `x` of engine `e` issue an instruction: it holds the engine, runs, and neither waits nor halts? -/
def State.canIssue (s : State) (e x : Nat) : Bool :=
  let c := s.ctx (4 * e + x)
  decide (e < 48) && decide (x < 4) && c.st == 2 && c.coll.isNone && c.moe.wait == 0 && c.wait.isNone && c.fence.isNone && c.failing.isNone && !c.halting
  && (s.eng e).interval == some x && (s.eng e).switching.isNone && !(s.eng e).copying && !(s.eng e).underTest && s.glb.service == 2

/-- What the checker of a sampled slice is sent of one instruction (15 R391). -/
def Run.mirror (r : Run) (s : State) : State :=
  let lo := s.tsAddr r.k 0
  s.updMirror r.k fun m =>
    let m := r.seen.foldl (fun m x => m.touch (linesOf (x.1 - lo) x.2.1) x.2.2) m
    { m with ins := m.ins ++ r.ins, outs := m.outs ++ r.outs }

/-- The end of an instruction that ran: flags, poison (code 0x08, which does not halt), and the program counter, or
its failure. -/
def Run.finish (r : Run) (op : Nat) : State :=
  let s := (r.mirror r.s).updCtx r.k (·.stick r.fl r.poison)
  match r.err with
  | some c => s.failCtx r.k c op
  | none =>
    let s := if r.poison then (s.errEvent r.k 8 op).updCtx r.k ({ · with err := 8 }) else s
    let s := s.updCtx r.k fun c => { c with pc := r.npc.getD (c.pc + 16) }
    if op = 0x01 then s.mirrorEnd r.k else s

/-- The opcodes of Table 4.7; every other is reserved. -/
def engOpcodes : List Nat :=
  List.range 0x0B ++ (List.range 0x0E).map (0x10 + ·) ++ (List.range 6).map (0x20 + ·) ++ [0x30, 0x31]
  ++ (List.range 5).map (0x40 + ·) ++ (List.range 0x0B).map (0x50 + ·) ++ (List.range 5).map (0x60 + ·)
  ++ (List.range 6).map (0x70 + ·) ++ (List.range 8).map (0x80 + ·)

/-- The opcode of the word at a context's program counter (R88, R92): its lowest byte. -/
def State.opAt (s : State) (k : Nat) : Nat := (Tab.get s.tileMem 0 (s.tsAddr k (s.ctx k).pc)).toNat

/-- Bit errors that the reads of an instruction find, by word of the context's region, are acted on before it reads (03 R65). -/
def State.meet (s : State) (k : Nat) (us : List (Nat × TileErr)) : State :=
  us.foldl (fun s u => if 8 * u.1 < s.regionSize k then s.scrubWord (s.tileOf (k / 4)) (s.regionBase k / 8 + u.1) u.2 else s) s

/-- Issue an instruction (R89, R90): `run` is its effect once every check has passed. A word with a reserved opcode, which is no
command, fails check 1 whatever command stands for it. -/
def issueCore (i : Ins) (k : Nat) (f : Fields) (s : State) (run : Run → Run) : State :=
  let c := s.ctx k
  if s.regionSize k < c.pc + 16 then s.failCtx k 0x03 i.op
  else if !engOpcodes.contains (s.opAt k) then s.failCtx k 0x01 (s.opAt k)
  else if !i.encOk c f then s.failCtx k 0x01 i.op
  else if c.p f.pg = f.pn then s.updCtx k ({ · with pc := c.pc + 16 })
  else
    let code := i.check s k f
    if code ≠ 0 then s.failCtx k code i.op
    else
      let go (s : State) : State :=
        let s := s.meet k f.met.upsets
        (run { s, k, f, rem := f.met.remote, seen := [(s.tsAddr k c.pc, 16, false)] }).finish i.op
      if !f.feWait then go s
      else
        let rs := (i.waits.getD ((i.uses c f).filter (!·.dst))).flatMap (s.useWords k)
        let (s, ws) := s.feRanges k true rs
        match feErr ws with
        | some e => s.failCtx k e i.op
        | none => match s.feBlock true ws with
          | (s, some _) => s.startWait k false false rs ws
          | (s, none) => go s

/-- A command meets pages whose walks find no answer in time (08 R225), of the function and tag of context `k`. -/
def State.slowed (s : State) (k : Nat) (pages : List Nat) : State :=
  if pages.isEmpty then s else { s with xlt := { s.xlt with slow := pages.map fun p => (s.owner k, (s.ctx k).tag, p) } }

/-- A command that issued an instruction in `s` ends with `t`. One whose access waits at a fenced bank issues again once the bank
reopens (07 R206). -/
def State.issued (s : State) (pages : List Nat) (t : State) : State :=
  if t.mem.stalled = s.mem.stalled then (if pages.isEmpty then t else { t with xlt := { t.xlt with slow := [] } }) else s

/-- A command that issues an instruction: the context must be able to issue. -/
def issue (i : Ins) (e x : Nat) (f : Fields) (s : State) (run : Run → Run) : Res :=
  due (s.canIssue e x) (s.issued f.met.slow (issueCore i (4 * e + x) f (s.slowed (4 * e + x) f.met.slow) run))

/-! ## Launches end (R124, R129; 13 R351, R352) -/

/-- A job of a work queue finishes with what its completion will say (13 R349); a status noted while it ran stands where
its end is a success. Finished jobs stand last, in the order in which they finished. -/
def State.jobDone (s : State) (q n status detail : Nat) (bytes : Nat := 0) (late : Bool := false) (extra : Nat := 0) : State :=
  { s with wqs := s.wqs.upd {} q fun w =>
      match w.jobs.find? fun j => j.entry == n && decide (j.stage < 3) with
      | none => w
      | some j => { w with jobs := (w.jobs.filter (·.entry != n)) ++ [{ j with
          stage := 3, status := if status = 0 then j.status else status, detail := if status = 0 then j.detail else detail
          bytes, late, extra }] } }

/-- A launch ends with a status of Table 13.9: its descriptor finishes, or for a broadcast launch a kind 0x03 record
goes to the owner (13 R352). -/
def State.launchDone (s : State) (l : Launch) (status detail : Nat) : State :=
  match l.queue with
  | some (q, n) => s.jobDone q n status detail 0 l.late l.ticksLate
  | none => match l.group with
    | some g => s.notify (s.fld (Blk.sch.at 0 (0x400 + 0x40 * g)) 9 1) {
        kind := 3, code := status, src := 2 ^ 24 + 4 * l.e + l.x, p0 := l.e + 64 * l.x, p1 := l.ticksLate }
    | none => s

/-- The context becomes empty after its program ended (R124, R129). -/
def State.emptyCtx (s : State) (k : Nat) (code : Option Nat) : State :=
  let c := s.ctx k
  let s := match c.launch with
    | some l => s.launchDone l (if code.isSome then 0x0F else 0) (code.getD 0)
    | none => s
  (s.mirrorEnd k).updCtx k fun c => { c with
    st := if c.st = 3 then 3 else 0
    heldFrom := 0
    faulted := code.isSome
    err := code.getD c.err
    launch := none
    halting := false
    fence := none
    failing := none
    heldErr := none
    heldLocal := none
    heldMore := 0
    overrun := false
    mid := false
    slices := c.slices + 1 }

end Sys2Proof.Machine
end

