-- ==== Sys2Proof/Machine/Crypto.lean ====
section
/-! DEFINITION. Machine/Crypto.lean: the algorithms that the spec takes from other standards by name (log entry 37): AES-256 (FIPS
197), CMAC (SP 800-38B), GCM (SP 800-38D), the counter-mode key derivation of 14 R380 (SP 800-108) and SHA-384 (FIPS 180-4). -/

namespace Sys2Proof.Machine

/-! ## AES-256: a block is a 128-bit number, its first byte the highest; a column is a 32-bit number -/

/-- The S-box, 16 values a row, the first the highest byte. -/
def sboxRows : List Nat :=
  [0x637c777bf26b6fc53001672bfed7ab76, 0xca82c97dfa5947f0add4a2af9ca472c0,
   0xb7fd9326363ff7cc34a5e5f171d83115, 0x04c723c31896059a071280e2eb27b275,
   0x09832c1a1b6e5aa0523bd6b329e32f84, 0x53d100ed20fcb15b6acbbe394a4c58cf,
   0xd0efaafb434d338545f9027f503c9fa8, 0x51a3408f929d38f5bcb6da2110fff3d2,
   0xcd0c13ec5f974417c4a77e3d645d1973, 0x60814fdc222a908846eeb814de5e0bdb,
   0xe0323a0a4906245cc2d3ac629195e479, 0xe7c8376d8dd54ea96c56f4ea657aae08,
   0xba78252e1ca6b4c6e8dd741f4bbd8b8a, 0x703eb5664803f60e613557b986c11d9e,
   0xe1f8981169d98e949b1e87e9ce5528df, 0x8ca1890dbfe6426841992d0fb054bb16]

/-- The S-box on a byte. -/
def sbox (b : Nat) : Nat := bits (sboxRows.getD (b / 16) 0) (8 * (15 - b % 16) + 7) (8 * (15 - b % 16))

/-- The S-box on byte 3 of one column, byte 2 of the next, and so on: a column after the byte and row steps. -/
def subShift (a b c d : Nat) : Nat :=
  2 ^ 24 * sbox (bits a 31 24) + 2 ^ 16 * sbox (bits b 23 16) + 2 ^ 8 * sbox (bits c 15 8) + sbox (bits d 7 0)

/-- A 32-bit number rotated left. -/
def rol32 (w n : Nat) : Nat := w * 2 ^ n % 2 ^ 32 + w / 2 ^ (32 - n)

/-- The column step. -/
def mixColumn (w : Nat) : Nat :=
  let x := ((2 * w) &&& 0xFEFEFEFE) ^^^ (((w / 128) &&& 0x01010101) * 0x1B)
  x ^^^ rol32 (w ^^^ x) 8 ^^^ rol32 w 16 ^^^ rol32 w 24

/-- The first `n` rounds are whole, and the last round has no column step: `ks` are the round keys still to come, column by column. -/
def aesRounds : Nat → List Nat → Nat → Nat → Nat → Nat → Nat
  | 0, ks, a, b, c, d =>
    2 ^ 96 * (subShift a b c d ^^^ ks.getD 0 0) + 2 ^ 64 * (subShift b c d a ^^^ ks.getD 1 0)
    + 2 ^ 32 * (subShift c d a b ^^^ ks.getD 2 0) + (subShift d a b c ^^^ ks.getD 3 0)
  | n + 1, ks, a, b, c, d =>
    aesRounds n (ks.drop 4) (mixColumn (subShift a b c d) ^^^ ks.getD 0 0) (mixColumn (subShift b c d a) ^^^ ks.getD 1 0)
      (mixColumn (subShift c d a b) ^^^ ks.getD 2 0) (mixColumn (subShift d a b c) ^^^ ks.getD 3 0)

/-- Round constants. -/
def rcon : List Nat := [0x01, 0x02, 0x04, 0x08, 0x10, 0x20, 0x40]

/-- Column `i` of the key schedule from the columns before it, the last first. -/
def nextColumn (i : Nat) (ws : List Nat) : Nat :=
  let w := ws.getD 0 0
  ws.getD 7 0 ^^^ (
    if i % 8 = 0 then let r := rol32 w 8; subShift r r r r ^^^ (2 ^ 24 * rcon.getD (i / 8 - 1) 0)
    else if i % 8 = 4 then subShift w w w w else w)

/-- The key schedule with `n` columns still to come from column `i` on. -/
def aesSchedule : Nat → Nat → List Nat → List Nat
  | 0, _, ws => ws.reverse
  | n + 1, i, ws => aesSchedule n (i + 1) (nextColumn i ws :: ws)

/-- The 60 columns of the key schedule of a 32-byte key. -/
def aesKeys (key : List Byte) : List Nat :=
  aesSchedule 52 8 ((List.range 8).map fun i => beNat (slice key (28 - 4 * i) 4))

/-- A block encrypted under a key schedule. -/
def aesBlock (ks : List Nat) (x : Nat) : Nat :=
  aesRounds 13 (ks.drop 4) (bits x 127 96 ^^^ ks.getD 0 0) (bits x 95 64 ^^^ ks.getD 1 0) (bits x 63 32 ^^^ ks.getD 2 0) (bits x 31 0 ^^^ ks.getD 3 0)

/-- The 16-byte blocks of some bytes as numbers, the last filled with zeros. -/
def blocksOf (m : List Byte) : List Nat := (List.range ((m.length + 15) / 16)).map fun i => beNat (slice m (16 * i) 16)

/-! ## CMAC -/

/-- A subkey from the one before. -/
def cmacDouble (x : Nat) : Nat := (2 * x % 2 ^ 128) ^^^ (if x < 2 ^ 127 then 0 else 0x87)

/-- AES-256 CMAC: 16 bytes. -/
def aesCmac (key m : List Byte) : List Byte :=
  let ks := aesKeys key
  let n := max 1 ((m.length + 15) / 16)
  let k1 := cmacDouble (aesBlock ks 0)
  let last := m.drop (16 * (n - 1))
  let fin := if last.length = 16 then beNat last ^^^ k1 else beNat (slice (last ++ [0x80]) 0 16) ^^^ cmacDouble k1
  beBytes 16 (aesBlock ks (((blocksOf (m.take (16 * (n - 1)))).foldl (fun y x => aesBlock ks (y ^^^ x)) 0) ^^^ fin))

/-- The key of a label and a context (14 R380). -/
def deriveBytes (root label context : List Byte) : List Byte :=
  let m (i : Byte) : List Byte := [i] ++ label ++ [0] ++ context ++ [1, 0]
  aesCmac root (m 1) ++ aesCmac root (m 2)

/-! ## GCM -/

/-- `n` steps of the product in the field of GCM, bit 127 of a block the first: `x` shifts up, `v` down. -/
def gcmMulGo : Nat → Nat → Nat → Nat → Nat
  | 0, _, _, z => z
  | n + 1, x, v, z =>
    gcmMulGo n (2 * x % 2 ^ 128) ((v / 2) ^^^ (if v % 2 = 1 then 0xE1 * 2 ^ 120 else 0)) (if 2 ^ 127 ≤ x then z ^^^ v else z)

/-- The product in the field of GCM. -/
def gcmMul (x y : Nat) : Nat := gcmMulGo 128 x y 0

/-- GHASH under the hash key `h`. -/
def ghash (h : Nat) (xs : List Nat) : Nat := xs.foldl (fun y x => gcmMul (y ^^^ x) h) 0

/-- The counter block of a 12-byte nonce. -/
def gcmBlock (nonce : List Byte) (i : Nat) : Nat := beNat (slice nonce 0 12) * 2 ^ 32 + i % 2 ^ 32

/-- Encryption in counter mode, which is also decryption. -/
def gcmCrypt (key nonce d : List Byte) : List Byte :=
  let ks := aesKeys key
  List.zipWith (· ^^^ ·) d ((List.range ((d.length + 15) / 16)).flatMap fun i => beBytes 16 (aesBlock ks (gcmBlock nonce (i + 2))))

/-- The tag of additional data and ciphertext. -/
def gcmTag (key nonce aad c : List Byte) : List Byte :=
  let ks := aesKeys key
  beBytes 16 (ghash (aesBlock ks 0) (blocksOf aad ++ blocksOf c ++ [8 * aad.length * 2 ^ 64 + 8 * c.length]) ^^^ aesBlock ks (gcmBlock nonce 1))

/-! ## SHA-384 -/

/-- The round constants of SHA-512 and SHA-384. -/
def shaK : List Nat :=
  [0x428a2f98d728ae22, 0x7137449123ef65cd, 0xb5c0fbcfec4d3b2f, 0xe9b5dba58189dbbc, 0x3956c25bf348b538,
   0x59f111f1b605d019, 0x923f82a4af194f9b, 0xab1c5ed5da6d8118, 0xd807aa98a3030242, 0x12835b0145706fbe,
   0x243185be4ee4b28c, 0x550c7dc3d5ffb4e2, 0x72be5d74f27b896f, 0x80deb1fe3b1696b1, 0x9bdc06a725c71235,
   0xc19bf174cf692694, 0xe49b69c19ef14ad2, 0xefbe4786384f25e3, 0x0fc19dc68b8cd5b5, 0x240ca1cc77ac9c65]
  ++ [0x2de92c6f592b0275, 0x4a7484aa6ea6e483, 0x5cb0a9dcbd41fbd4, 0x76f988da831153b5, 0x983e5152ee66dfab,
   0xa831c66d2db43210, 0xb00327c898fb213f, 0xbf597fc7beef0ee4, 0xc6e00bf33da88fc2, 0xd5a79147930aa725,
   0x06ca6351e003826f, 0x142929670a0e6e70, 0x27b70a8546d22ffc, 0x2e1b21385c26c926, 0x4d2c6dfc5ac42aed,
   0x53380d139d95b3df, 0x650a73548baf63de, 0x766a0abb3c77b2a8, 0x81c2c92e47edaee6, 0x92722c851482353b]
  ++ [0xa2bfe8a14cf10364, 0xa81a664bbc423001, 0xc24b8b70d0f89791, 0xc76c51a30654be30, 0xd192e819d6ef5218,
   0xd69906245565a910, 0xf40e35855771202a, 0x106aa07032bbd1b8, 0x19a4c116b8d2d0c8, 0x1e376c085141ab53,
   0x2748774cdf8eeb99, 0x34b0bcb5e19b48a8, 0x391c0cb3c5c95a63, 0x4ed8aa4ae3418acb, 0x5b9cca4f7763e373,
   0x682e6ff3d6b2b8a3, 0x748f82ee5defb2fc, 0x78a5636f43172f60, 0x84c87814a1f0ab72, 0x8cc702081a6439ec]
  ++ [0x90befffa23631e28, 0xa4506cebde82bde9, 0xbef9a3f7b2c67915, 0xc67178f2e372532b, 0xca273eceea26619c,
   0xd186b8c721c0c207, 0xeada7dd6cde0eb1e, 0xf57d4f7fee6ed178, 0x06f067aa72176fba, 0x0a637dc5a2c898a6,
   0x113f9804bef90dae, 0x1b710b35131c471b, 0x28db77f523047d84, 0x32caab7b40c72493, 0x3c9ebe0a15c9bebc,
   0x431d67c49c100d4c, 0x4cc5d4becb3e42b6, 0x597f299cfc657e2a, 0x5fcb6fab3ad6faec, 0x6c44198c4a475817]

/-- The initial hash value of SHA-384. -/
def shaInit : List Nat :=
  [0xcbbb9d5dc1059ed8, 0x629a292a367cd507, 0x9159015a3070dd17, 0x152fecd8f70e5939,
   0x67332667ffc00b31, 0x8eb44a8768581511, 0xdb0c2e0d64f98fa7, 0x47b5481dbefa4fa4]

/-- A 64-bit number rotated right. -/
def ror64 (w n : Nat) : Nat := w / 2 ^ n + w * 2 ^ (64 - n) % 2 ^ 64

/-- The next word of the message schedule from the words before it, the last first. -/
def shaWord (ws : List Nat) : Nat :=
  let s1 (x : Nat) : Nat := ror64 x 19 ^^^ ror64 x 61 ^^^ (x / 2 ^ 6)
  let s0 (x : Nat) : Nat := ror64 x 1 ^^^ ror64 x 8 ^^^ (x / 2 ^ 7)
  (s1 (ws.getD 1 0) + ws.getD 6 0 + s0 (ws.getD 14 0) + ws.getD 15 0) % 2 ^ 64

/-- The message schedule with `n` words still to come. -/
def shaSchedule : Nat → List Nat → List Nat
  | 0, ws => ws.reverse
  | n + 1, ws => shaSchedule n (shaWord ws :: ws)

/-- One round on the working variables, with its constant plus its message word. -/
def shaRound (v : List Nat) (kw : Nat) : List Nat :=
  match v with
  | [a, b, c, d, e, f, g, h] =>
    let t := h + (ror64 e 14 ^^^ ror64 e 18 ^^^ ror64 e 41) + ((e &&& f) ^^^ ((2 ^ 64 - 1 - e) &&& g)) + kw
    let u := (ror64 a 28 ^^^ ror64 a 34 ^^^ ror64 a 39) + ((a &&& b) ^^^ (a &&& c) ^^^ (b &&& c))
    [(t + u) % 2 ^ 64, a, b, c, (d + t) % 2 ^ 64, e, f, g]
  | _ => v

/-- The hash value after one block of 128 bytes. -/
def shaBlock (h : List Nat) (m : List Byte) : List Nat :=
  let ws := shaSchedule 64 ((List.range 16).map fun i => beNat (slice m (8 * (15 - i)) 8))
  List.zipWith (fun x y => (x + y) % 2 ^ 64) h ((List.zipWith (· + ·) shaK ws).foldl shaRound h)

/-- SHA-384: 48 bytes. -/
def sha384 (m : List Byte) : List Byte :=
  let p := m ++ [0x80] ++ zeros ((239 - m.length % 128) % 128) ++ beBytes 16 (8 * m.length)
  let h := (List.range (p.length / 128)).foldl (fun h i => shaBlock h (slice p (128 * i) 128)) shaInit
  (h.flatMap (beBytes 8)).take 48

end Sys2Proof.Machine
end

