-- ==== Sys2Proof/Machine/Keys.lean ====
section
/-! DEFINITION. Machine/Keys.lean: derived keys and the CMAC engine (14 R379 to R382). The state holds keys by name; their bytes follow
from the root keys. -/

namespace Sys2Proof.Machine

/-- The name of a derived key (14 Table 14.5): its purpose (0 sealing, 1 vendor image, 2 owner image, 3 attestation, 4 mailbox, 5
black box, 6 audit) and its context; for a key whose root is the owner's, the context names the slot too. -/
def keyName (purpose ctx : Nat) : Nat := 2 ^ 64 * purpose + ctx

/-- The active owner slot: the highest that is written and not revoked (R379). -/
def State.activeSlot (s : State) : Option Nat :=
  ((List.range s.nv.owner.length).filter fun i => !s.nv.revoked.getLsbD i).getLast?

/-- Is an owner key active (R379)? -/
def State.ownerKey (s : State) : Bool := s.activeSlot.isSome

/-- The active owner slot, of use in the context of keys whose root is the owner's. -/
def State.ownerSlot (s : State) : Nat := s.activeSlot.getD 0

/-- A label of Table 14.5, after the letters "OD1" and a space. -/
def keyLabel (t : List Byte) : List Byte := [0x4F, 0x44, 0x31, 0x20] ++ t

/-- The key that a name stands for (R380, Table 14.5): labels "seal", "image vendor", "image owner", "spdm psk", "mbox", "bbox" and
"audit", each under its root. -/
def State.keyBytes (s : State) (name : Nat) : List Byte :=
  let c := name % 2 ^ 64
  let dev := beBytes 32 Config.deviceRoot.toNat
  let own (slot : Nat) : List Byte := slice (s.nv.owner.getD slot []) 0 32
  match name / 2 ^ 64 with
  | 0 => deriveBytes (own (c / 2 ^ 47)) (keyLabel [0x73, 0x65, 0x61, 0x6C]) (beBytes 2 (c / 2 ^ 32 % 2 ^ 15) ++ beBytes 4 c)
  | 1 => deriveBytes dev (keyLabel [0x69, 0x6D, 0x61, 0x67, 0x65, 0x20, 0x76, 0x65, 0x6E, 0x64, 0x6F, 0x72]) (beBytes 1 c)
  | 2 => deriveBytes (own (c / 8)) (keyLabel [0x69, 0x6D, 0x61, 0x67, 0x65, 0x20, 0x6F, 0x77, 0x6E, 0x65, 0x72]) (beBytes 1 (c % 8))
  | 3 => deriveBytes (own (c / 2 ^ 16)) (keyLabel [0x73, 0x70, 0x64, 0x6D, 0x20, 0x70, 0x73, 0x6B]) (beBytes 2 c)
  | 4 => deriveBytes dev (keyLabel [0x6D, 0x62, 0x6F, 0x78]) (beBytes 2 (c / 2) ++ beBytes 1 (1 - c % 2))
  | 5 => deriveBytes dev (keyLabel [0x62, 0x62, 0x6F, 0x78]) (beBytes 4 c)
  | _ => deriveBytes dev (keyLabel [0x61, 0x75, 0x64, 0x69, 0x74]) []

/-- The engine computes a CMAC over `n` bytes: the blocks of the message and one for the subkeys (DEDUCED from the times of
Table 14.6, log entry 33). -/
def State.cmacRun (s : State) (n : Nat) : State := s.inc (Blk.cmac.at 0 0x048) ((n + 15) / 16 + 1)

/-- A key is derived: two passes of two blocks, each with its subkeys (Table 14.6). -/
def State.deriveKey (s : State) : State := (((s.inc (Blk.kdf.at 0 0x048)).cmacRun 32).cmacRun 32)

/-- A request uses a key: one that no slot holds is derived first, into a free slot or the one least recently used (R381). -/
def State.useKey (s : State) (name : Nat) : State :=
  if s.keySlots.contains name then { s with keySlots := name :: s.keySlots.filter (· != name) }
  else { s.deriveKey with keySlots := (name :: s.keySlots).take 64 }

/-- A tag under a key. -/
def State.tagged (s : State) (name : Nat) (d : List Byte) : State × List Byte :=
  ((s.useKey name).cmacRun d.length, aesCmac (s.keyBytes name) d)

/-- The verification of a tag: one that fails is counted. -/
def State.verified (s : State) (name : Nat) (d tag : List Byte) : State × Bool :=
  let (s, t) := s.tagged name d
  if t = tag then (s, true) else (s.inc (Blk.cmac.at 0 0x050), false)

end Sys2Proof.Machine
end

