-- ==== Sys2Proof/Machine/Wire.lean ====
section
/-! DEFINITION. Machine/Wire.lean: Phisal frames on the wire and the arrival checks 2 to 6
(09_phisal_wire_and_connections.md R238 to R254, R266 to R269). -/

namespace Sys2Proof.Machine

/-! ## Frames -/

/-- The opcode and the packet of a command that stands for an arriving frame (Table 9.5). -/
def pktOf : Instr → Option (Nat × Pkt)
  | .write p => some (0x01, p)
  | .readReq p => some (0x02, p)
  | .readResp p => some (0x03, p)
  | .flush p => some (0x04, p)
  | .dispatchPacket p => some (0x05, p)
  | .ack p => some (0x10, p)
  | .nak p => some (0x11, p)
  | .plumbMark p => some (0x20, p)
  | .plumbAnswer p => some (0x21, p)
  | .connReq p => some (0x30, p)
  | .connAccept p => some (0x31, p)
  | .connReject p => some (0x32, p)
  | .connClose p => some (0x33, p)
  | .connClosed p => some (0x34, p)
  | .domrst p => some (0x35, p)
  | .domrstAck p => some (0x36, p)
  | _ => none

/-- Flag bits (Table 9.4). -/
def flFirst : Nat := 0x800
/-- LAST. -/
def flLast : Nat := 0x400
/-- FENCE. -/
def flFence : Nat := 0x200
/-- ACKREQ. -/
def flAckreq : Nat := 0x100
/-- POISON. -/
def flPoison : Nat := 0x080
/-- SEALED. -/
def flSealed : Nat := 0x040
/-- RETRY. -/
def flRetry : Nat := 0x020

end Sys2Proof.Machine

namespace Sys2Proof

open Machine

/-- Is a flag set? -/
def Pkt.has (p : Pkt) (fl : Nat) : Bool := p.flags &&& fl == fl

/-- The 32 header bytes (Table 9.3). -/
def Pkt.header (op : Nat) (p : Pkt) : List Byte :=
  beBytes 4 (2 ^ 28 * (p.version % 16) + 2 ^ 20 * (op % 256) + 256 * (p.flags % 4096) + p.path % 256)
  ++ beBytes 2 p.pkey ++ beBytes 2 p.msgSeq ++ beBytes 4 (256 * (p.dstConn % 2 ^ 24) + p.extLen % 256) ++ beBytes 4 p.psn
  ++ beBytes 8 p.raddr ++ beBytes 4 p.msgOff ++ beBytes 4 p.mkey

/-- The extension words as bytes. -/
def Pkt.extBytes (p : Pkt) : List Byte := (p.ext.map fun w => beBytes 4 w.toNat).flatten

/-- The 16 bytes of the seal field (R267). -/
def sealField (x : Seal) : List Byte :=
  beBytes 12 (2 ^ 82 * (x.dev % 2 ^ 14) + 2 ^ 77 * (x.port % 32) + 2 ^ 57 * (x.boot % 2 ^ 20) + x.count % 2 ^ 57) ++ beBytes 4 x.epoch

/-- Every Phisal byte before the integrity check (R240). -/
def Pkt.covered (op : Nat) (p : Pkt) : List Byte :=
  p.header op ++ p.extBytes ++ ((p.sealed.map sealField).getD []) ++ p.payload ++ ((p.sealed.map (·.tag)).getD [])

/-- The integrity check of a packet (R245). -/
def Pkt.check (op : Nat) (p : Pkt) : Nat := crc32c (p.covered op)

/-- Bytes of the outer headers (R238): Ethernet with IPv4 and UDP, with IPv6 and UDP, or Ethernet alone. -/
def outerBytes (encap : Nat) : Nat := if encap = 0 then 42 else if encap = 1 then 62 else 14

/-- Bytes of the Phisal parts (Table 9.2). -/
def Pkt.parts (p : Pkt) : Nat := 36 + 4 * p.extLen + (if p.sealed.isSome then 32 else 0) + p.payload.length

/-- Bytes of the frame, from destination address to FCS. -/
def Pkt.frameBytes (p : Pkt) : Nat := max 64 (outerBytes p.encap + p.parts + 4)

/-- Is the payload that of a packet of its message where packets carry `m` bytes (R244)? -/
def Pkt.fits (p : Pkt) (m : Nat) : Bool :=
  p.msgOff % m == 0 && decide (p.payload.length ≤ m) && (p.flags &&& 0x400 == 0x400 || p.payload.length == m)

/-- The opcodes of Table 9.5 that are not reserved. -/
def opcodes : List Nat :=
  [0x01, 0x02, 0x03, 0x04, 0x05, 0x10, 0x11, 0x20, 0x21, 0x30, 0x31, 0x32, 0x33, 0x34, 0x35, 0x36]

/-- Number of extension words, payload bytes (none for data) and flags used (R242, R243, Table 9.6). -/
def opSpec (op : Nat) : Nat × Option Nat × Nat :=
  let basic := flFirst + flLast + flSealed
  let seq := basic + flFence + flAckreq + flRetry
  match op with
  | 0x01 => (0, none, seq + flPoison)
  | 0x02 => (1, some 0, seq)
  | 0x03 => (0, none, seq + flPoison)
  | 0x04 => (0, some 0, seq)
  | 0x05 => (3, none, seq + flPoison)
  | 0x10 => (2, some 0, basic)
  | 0x11 => (1, some 0, basic)
  | 0x20 => (0, some 32, basic)
  | 0x21 => (0, some 32, basic)
  | 0x30 => (0, some 16, basic)
  | 0x31 => (0, some 16, basic)
  | 0x32 => (0, some 16, basic)
  | 0x35 => (0, some 8, seq)
  | 0x36 => (0, some 8, basic)
  | _ => (0, some 0, basic)

/-- Is `n` a power of two from 2^8 to 2^13? -/
def packetSize (n : Nat) : Bool := (List.range 6).any fun i => n == 256 * 2 ^ i

/-- Check 3 of Table 9.8: is the frame malformed (R240 to R244, R248, R253)? -/
def Pkt.malformed (op : Nat) (p : Pkt) : Bool :=
  let (words, size, used) := opSpec op
  let n := p.payload.length
  let single := p.has (flFirst + flLast)
  p.version != 1 || decide (16 < p.extLen) || p.ext.length != p.extLen || decide (4096 ≤ p.flags)
  || (p.flags &&& (4095 - used)) != 0 || p.has flSealed != p.sealed.isSome
  || decide (p.extLen < words + (if p.has flPoison then 1 else 0))
  || (p.has flFirst != (p.msgOff == 0)) || decide (9216 < p.frameBytes)
  || (p.encap == 1 && !p.udpSumOk)
  || (match size with
    | some m => !single || n != m || (op == 0x04 && !p.has flFence)
    | none => decide (8192 < n) || (n == 0 && !single)
        || (op != 0x05 && !p.has flLast && (!packetSize n || p.msgOff % n != 0)))
  || ((op == 0x20 || op == 0x21) &&
      (p.pkey != 0xFFFF || p.dstConn != 0xFFFFFF || p.has flSealed || (p.encap != 2 && p.extLen != 0)))

/-- Extension word `i` of the opcode, after any poison word (R248). -/
def Pkt.word (p : Pkt) (i : Nat) : Nat := (p.ext.getD (i + if p.has flPoison then 1 else 0) 0).toNat

/-- The poisoned blocks of 256 bytes of the payload (R243). -/
def Pkt.badBlocks (p : Pkt) : List Nat :=
  if p.has flPoison then (List.range 32).filter fun i => (p.ext.getD 0 0).getLsbD i else []

/-- Header, extension and seal field: the authenticated data (Table 9.13). -/
def Pkt.aad (op : Nat) (p : Pkt) (x : Seal) : List Byte := p.header op ++ p.extBytes ++ sealField x

end Sys2Proof

namespace Sys2Proof.Machine

/-! ## What arrives -/

/-- A register of the PSL page. -/
def pslReg (off : Nat) : Nat := Blk.psl.at 0 off

/-- Is an IP address one of the device's own (R239, 17 Table 17.9)? Addresses are numbers whose low byte is the first
of 16 bytes. -/
def State.ownIp (s : State) (v6 : Bool) (ip : Nat) : Bool :=
  (List.range 4).any fun a =>
    bitAt (s.reg (0x90 + 0x20 * a)) 0 && bitAt (s.reg (0x90 + 0x20 * a)) 1 == v6 &&
    s.reg (0x80 + 0x20 * a) + 2 ^ 64 * s.reg (0x88 + 0x20 * a) == ip

/-- The first own address of a kind, zero where none is set. -/
def State.myIp (s : State) (v6 : Bool) : Nat :=
  match firstIdx 4 fun a => bitAt (s.reg (0x90 + 0x20 * a)) 0 && bitAt (s.reg (0x90 + 0x20 * a)) 1 == v6 with
  | some a => s.reg (0x80 + 0x20 * a) + 2 ^ 64 * s.reg (0x88 + 0x20 * a)
  | none => 0

/-- Check 2: is the frame Phisal (R239)? -/
def State.isPhisal (s : State) (p : Pkt) : Bool :=
  p.encap == 2 || (s.ownIp (p.encap == 1) p.dstIp && p.udpPort == s.fld (pslReg 0x040) 15 0)

/-- A frame is dropped by an arrival check: it is counted, and an event is raised at most once in a tick for each
counter (R251). `a` is the counter's offset in PF0's window; the seal tag's counter raises SEAL event 0x01. -/
def State.drop (s : State) (a : Nat) : State :=
  let s := s.inc a
  if s.psl.dropTick.get 0 a = s.ticks + 1 then s else
    let s := { s with psl := { s.psl with dropTick := s.psl.dropTick.set 0 a (s.ticks + 1) } }
    if a = Blk.seal.at 0 0x048 then s.event { blk := .seal, num := 1 } else s.event { blk := .psl, num := 1, p0 := a % 4096 }

/-- The valid partition table entry of a partition index (R254). -/
def State.partOf (s : State) (pkey : Nat) : Option Nat :=
  firstIdx 512 fun n => let v := s.reg (pslReg (0x800 + 4 * n))
                        bitAt v 31 && bits v 14 0 == pkey % 0x8000

/-- Check 5: the partition key (R254). -/
def State.pkeyOk (s : State) (pkey : Nat) : Bool :=
  match s.partOf pkey with
  | none => false
  | some n => bitAt pkey 15 || bitAt (s.reg (pslReg (0x800 + 4 * n))) 15

/-- The epoch in force of a partition table entry (R268). -/
def State.epoch (s : State) (n : Nat) : Nat := s.reg (Blk.seal.at 0 (0x800 + 4 * n))

/-- Is an epoch accepted: in force, previous within its grace, or staged with its key derived (R269)? -/
def State.epochOk (s : State) (n e : Nat) : Bool :=
  e == s.epoch n
  || (match s.psl.prevEpoch.get (0, 0) n with
      | (p, till) => decide (0 < till) && p == e && decide (s.ticks < till))
  || s.psl.keys.contains (n, e)

/-- Where the Phisal header lies in the bytes of a frame (R238), from its destination address on. -/
def phisalAt (b : List Byte) : Nat :=
  let o := if beNat (slice b 12 2) = 0x8100 then 16 else 12
  o + 2 + (if beNat (slice b o 2) = 0x0800 then 28 else if beNat (slice b o 2) = 0x86DD then 48 else 0)

/-- Is a frame that passes for Phisal of a reserved opcode (check 3)? Such a frame is the command of no opcode. -/
def reservedOp (b : List Byte) : Bool :=
  decide (phisalAt b + 36 ≤ b.length) && !opcodes.contains (bits (beNat (slice b (phisalAt b) 2)) 11 4)

/-- The sum of the 16-bit words of some bytes. -/
def wordSum : List Byte → Nat
  | a :: b :: t => 256 * a.toNat + b.toNat + wordSum t
  | [a] => 256 * a.toNat
  | [] => 0

/-- The UDP checksum over IPv6 (R239): the one's complement of the one's-complement sum of the pseudo header, the UDP header and the
data (PRESUMED: the standard's, log entry 101). -/
def udpSum6 (src dst sport dport : Nat) (d : List Byte) : Nat :=
  let n := d.length + 8
  let v := wordSum (leBytes 16 src ++ leBytes 16 dst ++ beBytes 4 n ++ beBytes 4 17 ++ beBytes 2 sport ++ beBytes 2 dport ++ beBytes 2 n ++ d)
  let r := 65535 - v % 65535
  if r = 65535 ∧ v = 0 then 65535 else if r = 0 then 65535 else r

/-- Does a packet break R244 for the packet size of its connection's context? Only a context that its generation names has one
(log entry 103). -/
def State.wrongSize (s : State) (op : Nat) (p : Pkt) : Bool :=
  let x := s.conns.get {} (p.dstConn % 2 ^ 20)
  (op == 0x01 || op == 0x03) && x.st != 0 && p.dstConn / 2 ^ 20 % 16 == x.gen && !p.fits (2 ^ x.pktLog2)

/-- The sealing key of a partition index and epoch under the active owner key (14 Table 14.5). -/
def State.sealKey (s : State) (pkey e : Nat) : List Byte :=
  s.keyBytes (keyName 0 (2 ^ 32 * (0x8000 * s.ownerSlot + pkey % 0x8000) + e))

/-- Checks 3 to 6 of Table 9.8 on a frame that is Phisal: the state, and the packet with its payload in clear where
the frame passes. -/
def State.arrival (s : State) (op : Nat) (p : Pkt) : State × Option Pkt :=
  if p.malformed op || s.wrongSize op p then (s.drop (pslReg 0x080), none)
  else if p.icrc.toNat ≠ p.check op then (s.drop (pslReg 0x088), none)
  else if op = 0x20 ∨ op = 0x21 then (s, some p)
  else match s.partOf p.pkey with
    | none => (s.drop (pslReg 0x090), none)
    | some n =>
      if !s.pkeyOk p.pkey then (s.drop (pslReg 0x090), none)
      else if p.sealed.isSome ≠ bitAt (s.reg (pslReg (0x800 + 4 * n))) 25 then (s.drop (Blk.seal.at 0 0x048), none)
      else match p.sealed with
        | none => (s, some p)
        | some x =>
          let key := s.sealKey p.pkey x.epoch
          let nonce := (sealField x).take 12
          if !s.epochOk n x.epoch then (s.drop (Blk.seal.at 0 0x050), none)
          else if gcmTag key nonce (p.aad op x) p.payload ≠ x.tag then (s.drop (Blk.seal.at 0 0x048), none)
          else (s, some { p with payload := gcmCrypt key nonce p.payload })

end Sys2Proof.Machine
end

