-- ==== Sys2Proof/Machine/Port.lean ====
section
/-! DEFINITION. Machine/Port.lean: receive side, link state, pause and low-power idle of the Ethernet ports
(11_ethernet_ports.md R300 to R320), and the frame agent of the application cores (14 R372 to R374). -/

namespace Sys2Proof.Machine

/-- Port `q`. -/
def State.port (s : State) (q : Nat) : Port := s.ports.get {} q

/-- Change port `q`. -/
def State.updPort (s : State) (q : Nat) (g : Port → Port) : State := { s with ports := s.ports.upd {} q g }

/-- Priority `p` of port `q`. -/
def State.prio (s : State) (q p : Nat) : Prio := (s.port q).rxPart.get {} p

/-- Change a priority of a port. -/
def State.updPrio (s : State) (q p : Nat) (g : Prio → Prio) : State :=
  s.updPort q fun x => { x with rxPart := x.rxPart.upd {} p g }

/-- A register of the MAC page of port `q`. -/
def macReg (q off : Nat) : Nat := Blk.mac.at q off

/-- Ports of the variant (00 Table 0.1). -/
def State.portCount (s : State) : Nat := if s.glb.variant = 1 then 8 else if s.glb.variant = 2 then 16 else 24

/-- Is the port present: its site populated, and not absorbed by an even neighbour in mode 5 (R302)? -/
def State.portThere (s : State) (q : Nat) : Bool :=
  decide (q < s.portCount) && !(q % 2 == 1 && (s.port (q - 1)).mode == 5)

/-- Gb/s of a mode (Table 11.1). -/
def modeRate (m : Nat) : Nat := [0, 100, 200, 400, 800, 1600].getD m 0

/-- Is the transmitter enabled in the transmit mask and the port in a running mode (R320), the device not in reset? -/
def State.portOn (s : State) (q : Nat) : Bool := decide (2 ≤ s.boot.stage) && s.portThere q && (s.port q).mode != 0 && bitAt (s.reg 0x4044) q

/-- Does the port take new frames (R275, R319, R320)? -/
def State.portUp (s : State) (q : Nat) : Bool := s.portOn q && (s.port q).link == 2 && !(s.port q).silenced

/-- Is priority `p` paused by the partner now (R312)? -/
def State.paused (s : State) (q p : Nat) : Bool :=
  match (s.prio q p).until_ with
  | some t => decide (s.plumb.now < t)
  | none => false

/-- Bytes in the receive part of a priority. -/
def Prio.occ (p : Prio) : Nat := p.rx.foldl (fun n f => n + f.bytes) 0

/-- Bytes of each receive part (R300). -/
def State.partBytes (s : State) (q : Nat) : Nat := if (s.port q).mode = 5 then 2 ^ 20 else 2 ^ 19

/-! ## Queueing frames -/

/-- A frame offered while the transmitter is in low-power idle starts the wake time (R315). -/
def State.wakePort (s : State) (q : Nat) : State :=
  s.updPort q fun x => if x.lpiTx && x.wakeAt.isNone then { x with wakeAt := some (s.plumb.now + 1000 * x.lpiWake) } else x

/-- A function stream enters its arbiter at a priority when its first frame becomes ready (12 R323). -/
def State.enterStream (s : State) (q p fn : Nat) : State :=
  if (s.port q).tx.any fun f => f.prio == p && f.fn == fn && f.pfc.isNone && !f.plumb then s else
    s.updPrio q p fun x =>
      let old := ((x.streams.find? (·.1 == fn)).map (·.2.1)).getD 0
      { x with streams := (x.streams.filter (·.1 != fn)) ++ [(fn, max old x.vt, s.plumb.now)] }

/-- Does port `q` tag the frames that it sends (R308)? -/
def State.tags (s : State) (q : Nat) : Bool := bitAt (s.reg (macReg q 0x040)) 7

/-- Is there room for `n` more bytes in the transmit buffer of 2 MiB, 4 MiB in mode 5 (R300, R301)? A frame leaves it when it has
been sent. -/
def State.txRoom (s : State) (q n : Nat) : Bool :=
  let x := s.port q
  decide (((x.cur.map Prod.snd).toList ++ x.tx).foldl (fun m f => m + f.bytes) n ≤ if x.mode = 5 then 2 ^ 22 else 2 ^ 21)

/-- Offer a frame to a port (R301, R308, R314, R319): the state, and whether the port took it. A port whose buffer has no room
refuses it, and the source keeps it (DESIGN CHOICE, log entry 108). -/
def State.offer (s : State) (q : Nat) (f : Frame) : State × Bool :=
  if !s.portUp q || (s.prio q f.prio).stalled then (s, false)
  else
    let tagged := s.tags q && !f.lldp
    let n := max 64 (f.bytes + if tagged then 4 else 0)
    if 9216 < n then (s.inc (macReg q 0x188), false)
    else if !s.txRoom q n then (s, false)
    else
      let f : Frame := { f with
        bytes := n, at_ := s.plumb.now
        vlan := if tagged then some (s.fld (macReg q 0x040) 19 8) else none
        dscp := s.fld (macReg q 0x058) (6 * f.prio + 5) (6 * f.prio) }
      let s := if f.plumb then s else s.enterStream q f.prio f.fn
      ((s.updPort q fun x => { x with tx := x.tx ++ [f] }).wakePort q, true)

/-- Queue a PFC frame ahead of every data frame (R311). -/
def State.sendPfc (s : State) (q p quanta : Nat) : State :=
  if (s.port q).link ≠ 2 then s else
    (s.updPort q fun x => { x with
      tx := x.tx.takeWhile (·.pfc.isSome) ++ [{ prio := p, bytes := 64, pfc := some (p, quanta), at_ := s.plumb.now }]
        ++ x.tx.dropWhile (·.pfc.isSome) }).wakePort q

/-- The quanta of the pause frames of port `q`. -/
def State.quanta (s : State) (q : Nat) : Nat := s.fld (macReg q 0x048) 31 16

/-- Pause the partner's priority `p` from now. -/
def State.pausePartner (s : State) (q p : Nat) : State :=
  (s.sendPfc q p (s.quanta q)).updPrio q p fun x =>
    { x with ours := true, ourAt := if x.ours then x.ourAt else s.plumb.now, sentAt := s.plumb.now }

/-- Is the priority lossless on this port? -/
def State.lossless (s : State) (q p : Nat) : Bool := bitAt (s.reg (macReg q 0x048)) p

/-! ## The frame agent -/

/-- A core-physical address of the infrastructure partition as a local offset (14 Table 14.1); none where the frame
does not lie within it. -/
def State.coreAddr (s : State) (a n : Nat) : Option Nat :=
  if a + n ≤ 2 ^ 30 * s.fld 0x68040 6 0 then some (s.infraBase + a) else none

/-- Is core `h` online (14 R370)? -/
def State.coreOnline (s : State) (h : Nat) : Bool := s.cores.running && !s.cores.offline.getLsbD h

/-- A receive ring descriptor is filled with a frame (14 R374): true where the frame was taken. -/
def State.coreFill (s : State) (h q p : Nat) (f : EthFrame) : State × Bool :=
  let r := Blk.core.at 0 (0x100 + 0x20 * h)
  let done := s.reg (r + 0x10)
  let post := s.reg (r + 0xC)
  if !bitAt (s.reg (r + 8)) 31 || done = post then (s, false) else
    let at_ := s.reg r + 16 * (done % 2 ^ s.fld (r + 8) 4 0)
    let (s, d) := s.memRead 3 at_ 16
    let n := f.bytes - 4
    match s.coreAddr (leAt d.data 0 8) n with
    | none => (s, false)
    | some a =>
      if leAt d.data 8 2 < n ∨ d.kind ≠ 0 then (s, false) else
        let s := (s.memWrite 3 a (slice f.body 0 n)).1
        let s := (s.memWrite 3 (at_ + 10) (leBytes 2 n)).1
        let s := (s.memWrite 3 (at_ + 12) (leBytes 1 (2 * p + 16 * b2n f.lldp) ++ leBytes 1 (q % 32))).1
        (s.setReg (r + 0x10) ((done + 1) % 2 ^ 32), true)

/-- What the flow hash of a frame covers: IP source and destination and the UDP or TCP ports, or the MAC addresses of a frame that is
not IP (14 R373), in the order of the frame (DEDUCED, log entry 110). -/
def flowOf (f : EthFrame) : List Byte :=
  let d := f.body
  let ip := if beNat (slice d 12 2) = 0x8100 then 18 else 14
  let ports (proto at_ : Nat) : List Byte := if proto = 6 ∨ proto = 17 then slice d at_ 4 else []
  match beNat (slice d (ip - 2) 2) with
  | 0x0800 => slice d (ip + 12) 8 ++ ports (leAt d (ip + 9) 1) (ip + 4 * (leAt d ip 1 % 16))
  | 0x86DD => slice d (ip + 8) 32 ++ ports (leAt d (ip + 6) 1) (ip + 40)
  | _ => slice d 0 12

/-- Deliver a frame to the application cores, or drop it (14 R373; 16 Table 16.3). -/
def State.coreDeliver (s : State) (q p : Nat) (f : EthFrame) : State :=
  if s.glb.service ≠ 2 then
    match Config.linkAnswer f.body with
    | some b => (s.offer q { prio := 0, bytes := b.length + 4, body := b }).1
    | none => s.inc (Blk.core.at 0 0x070)
  else
    let on := (List.range 16).filter s.coreOnline
    match on[crc32c (flowOf f) % on.length]? with
    | none => s.inc (Blk.core.at 0 0x070)
    | some h => match s.coreFill h q p f with
      | (s, true) => s
      | (s, false) => s.inc (Blk.core.at 0 0x070)

/-- The agent discards instead of sending: the port is disabled, down past its hold time, or silenced (14 R374). -/
def State.coreDiscard (s : State) (q p : Nat) : Bool :=
  !s.portOn q || (s.port q).silenced || ((s.port q).link != 2 && !(s.port q).holding) || (s.prio q p).stalled

/-- The agent works through the transmit ring of core `h` (14 R374); `n` bounds the descriptors. A frame waits while
its port is down within its hold time, or has no room for it. -/
def State.corePump (h : Nat) : Nat → State → State
  | 0, s => s
  | n + 1, s =>
    let r := Blk.core.at 0 (0x300 + 0x20 * h)
    let done := s.reg (r + 0x10)
    if !bitAt (s.reg (r + 8)) 31 || done = s.reg (r + 0xC) then s else
      let at_ := s.reg r + 16 * (done % 2 ^ s.fld (r + 8) 4 0)
      let (s, d) := s.memRead 3 at_ 16
      let len := leAt d.data 8 2
      let p := bits (leAt d.data 12 1) 3 1
      let q := leAt d.data 13 1 % 32
      let finish (s : State) (discarded : Bool) : State :=
        ((s.memWrite 3 (at_ + 12) (leBytes 1 (2 * p + 16 * b2n discarded))).1).setReg (r + 0x10) ((done + 1) % 2 ^ 32)
      if s.coreDiscard q p || decide (len < 60) || decide (9212 < len) then
        State.corePump h n (finish s true)
      else match s.coreAddr (leAt d.data 0 8) len with
        | none => State.corePump h n (finish s true)
        | some a =>
          if !s.portUp q || !s.txRoom q (len + 8) then s else
            let (s, b) := s.memRead 3 a len
            let (s, ok) := s.offer q { prio := p, bytes := len + 4, body := b.data }
            State.corePump h n (finish s !ok)

/-- The agent works through every transmit ring. -/
def State.coreSend (s : State) : State :=
  (List.range 16).foldl (fun t h =>
    t.corePump h ((t.reg (Blk.core.at 0 (0x30C + 0x20 * h)) + 2 ^ 32 - t.reg (Blk.core.at 0 (0x310 + 0x20 * h))) % 2 ^ 32)) s

/-! ## Receiving -/

/-- The MAC control group address, first octet in the low byte. -/
def ctrlMac : Nat := 0x010000C28001

/-- The LLDP group address. -/
def lldpMac : Nat := 0x0E0000C28001

/-- Is a frame accepted by the filter of R309? -/
def State.accepts (s : State) (q : Nat) (f : EthFrame) : Bool :=
  bitAt (s.reg (macReg q 0x040)) 5 || f.dst == 0xFFFFFFFFFFFF || f.dst == ctrlMac || f.dst == lldpMac
  || (f.dst % 2 == 1 && bitAt (s.reg (macReg q 0x040)) 6)
  || (List.range 8).any fun u => let v := s.reg (macReg q (0x080 + 8 * u))
                                 bitAt v 63 && v % 2 ^ 48 == f.dst

/-- The priority of a received frame (R307). -/
def State.rxPrio (s : State) (q : Nat) (f : EthFrame) : Nat :=
  match f.pcp, f.dscp with
  | some p, _ => p % 8
  | none, some d =>
    bits (s.reg (macReg q 0x060) + 2 ^ 64 * s.reg (macReg q 0x068) + 2 ^ 128 * s.reg (macReg q 0x070))
      (3 * (d % 64) + 2) (3 * (d % 64))
  | none, none => s.fld (macReg q 0x040) 29 27

/-- The class of Table 11.3 in which a frame is dropped, if any (R310). A PFC frame is consumed (class 0). -/
def State.dropClass (s : State) (q : Nat) (f : EthFrame) : Option Nat :=
  let p := s.rxPrio q f
  let full := decide (s.partBytes q < (s.prio q p).occ + f.bytes)
  if f.codeErr then some 1
  else if f.bytes < 64 ∧ !f.fcsOk then some 2
  else if 9216 < f.bytes then some 3
  else if !f.fcsOk then some 4
  else if f.bytes < 64 then some 5
  else if !s.accepts q f then some 6
  else match f.control with
    | some 0x0101 => some 0
    | some _ => some 7
    | none =>
      if !full then none
      else if !s.lossless q p then some 8
      else if (s.prio q p).limit then some 10
      else some 9

/-- Is the port's receiver aligned? -/
def State.rxOn (s : State) (q : Nat) : Bool := s.portOn q && (s.port q).link != 0 && !(s.port q).fault

/-- The RS-FEC counters of what was decoded up to the end of a frame, and one event a tick (R317, Table 11.10). -/
def State.fecSeen (s : State) (q : Nat) (f : EthFrame) : State :=
  let s := (s.inc (Blk.pcs.at q 0x048) f.fecCe).inc (Blk.pcs.at q 0x050) f.fecUe
  let s := f.symErr.foldl (fun (t : State) e => if e.1 < (if (s.port q).mode = 5 then 8 else 4) then t.inc (Blk.pcs.at q (0x058 + 8 * e.1)) e.2 else t) s
  if f.fecUe = 0 ∨ (s.port q).ueTick = some s.ticks then s
  else (s.updPort q ({ · with ueTick := some s.ticks })).event { blk := .pcs, inst := q, num := 1 }

/-- FRAME_RECEIVE (R300, R307, R309, R310, R311, R317): a frame is checked, and written to the part of its priority.
The effect of a PFC frame is the command PFC_RECEIVE. -/
def execFrameReceive (q : Nat) (f : EthFrame) (s : State) : Res :=
  due (s.rxOn q) <|
    let p := s.rxPrio q f
    let c := s.dropClass q f
    let s := s.fecSeen q f
    match c with
    | some 0 => s
    | some c => s.inc (macReg q (0x120 + 8 * c))
    | none =>
      let s := s.updPrio q p fun x => { x with rx := x.rx ++ [f] }
      let x := s.prio q p
      if s.lossless q p && !x.ours && !x.limit && decide (1024 * s.fld (macReg q 0x04C) 9 0 ≤ x.occ) then s.pausePartner q p
      else s

/-- Bytes held in the hub's miss buffer (10 R297). -/
def State.missBytes (s : State) : Nat :=
  s.psl.fills.foldl (fun n x => x.cmds.foldl (fun n c => n + ((pktOf c).map fun y => y.2.frameBytes).getD 0) n) 0

/-- Does the hub accept a Phisal frame (10 R297)? -/
def State.hubAccepts (s : State) (n : Nat) : Bool := decide (s.missBytes + n ≤ 2 ^ 22)

/-- FRAME_DELIVER (R300, R309, R311; 14 R373): the oldest frame of a priority goes to the hub or to the cores. What a Phisal frame does
is the command of its opcode; one of a reserved opcode is dropped and counted (09 R251 check 3). -/
def execFrameDeliver (q p : Nat) (s : State) : Res :=
  match (s.prio q p).rx with
  | [] => .fault .notDue
  | f :: rest =>
    due (!f.phisal || s.hubAccepts f.bytes) <|
      let s := s.updPrio q p ({ · with rx := rest })
      let s := (s.inc (macReg q 0x100)).inc (macReg q 0x108) f.bytes
      let s := s.inc (macReg q (if f.dst = 0xFFFFFFFFFFFF then 0x120 else if f.dst % 2 = 1 then 0x118 else 0x110))
      let s := if f.lldp then s.updPort q fun x => { x with
        board := match Config.boardTlv f.body with
          | some b => some b
          | none => x.board } else s
      let s := if f.phisal then (if reservedOp f.body then s.drop (pslReg 0x080) else s) else s.coreDeliver q p f
      if (s.prio q p).occ < 1024 * s.fld (macReg q 0x04C) 19 10 then
        let s := if (s.prio q p).ours then s.sendPfc q p 0 else s
        s.updPrio q p ({ · with ours := false, limit := false })
      else s

/-! ## Priority flow control -/

/-- PFC_REPEAT (R311). -/
def execPfcRepeat (q p : Nat) (s : State) : Res :=
  let x := s.prio q p
  due (x.ours && s.portOn q && decide (x.sentAt + 256 * s.quanta q / modeRate (s.port q).mode ≤ s.plumb.now)
      && decide (1024 * s.fld (macReg q 0x04C) 19 10 ≤ x.occ))
    ((s.sendPfc q p (s.quanta q)).updPrio q p ({ · with sentAt := s.plumb.now }))

/-- Priority `p` is paused for `n` quanta, or resumes (R312). -/
def State.pauseFor (s : State) (q p n : Nat) : State :=
  if n = 0 then s.updPrio q p ({ · with until_ := none, pausedAt := none, freeAt := s.plumb.now })
  else
    let was := s.paused q p
    let t := s.plumb.now + (512 * n + modeRate (s.port q).mode - 1) / modeRate (s.port q).mode
    (s.inc (macReg q (0x200 + 8 * p))).updPrio q p fun x =>
      { x with until_ := some t, pausedAt := if was then x.pausedAt else some s.plumb.now }

/-- PFC_RECEIVE (R312): MAC_RX_PFC_p counts the frames that pause p (Table 11.5). -/
def execPfcReceive (q en : Nat) (quanta : List Nat) (s : State) : Res :=
  due (s.rxOn q)
    ((List.range 8).foldl (fun t p => if bitAt en p then t.pauseFor q p (quanta.getD p 0 % 65536) else t) s)

/-- PAUSE_EXPIRY (R312). -/
def execPauseExpiry (q p : Nat) (s : State) : Res :=
  match (s.prio q p).until_ with
  | some t => due (decide (t ≤ s.plumb.now)) (s.updPrio q p ({ · with until_ := none, pausedAt := none, freeAt := t }))
  | none => .fault .notDue

/-- PAUSE_LIMIT (R313). -/
def execPauseLimit (q p : Nat) (s : State) : Res :=
  let x := s.prio q p
  due (x.ours && decide (x.ourAt + 1000000 * s.fld 0x4054 5 0 ≤ s.plumb.now))
    (((s.sendPfc q p 0).updPrio q p ({ · with ours := false, limit := true })).event { blk := .mac, inst := q, num := 3 })

/-- Milliseconds of the pause watchdog, in ns. -/
def State.wdogNs (s : State) (q : Nat) : Nat := 1000000 * s.fld (macReg q 0x048) 15 8

/-- PAUSE_WATCHDOG (R314). -/
def execPauseWatchdog (q p : Nat) (s : State) : Res :=
  let x := s.prio q p
  due (s.paused q p && !x.stalled && decide (x.pausedAt.getD s.plumb.now + s.wdogNs q ≤ s.plumb.now)) <|
    let n := ((s.port q).tx.filter fun f => f.pfc.isNone && f.prio == p).length
    let s := s.updPort q fun y => { y with tx := y.tx.filter fun f => f.pfc.isSome || f.prio != p }
    let s := s.updPrio q p ({ · with stalled := true })
    ((s.inc (macReg q 0x1A0) n).inc (macReg q (0x280 + 8 * p))).event { blk := .mac, inst := q, num := 4 }

/-- STALL_END (R314). -/
def execStallEnd (q p : Nat) (s : State) : Res :=
  let x := s.prio q p
  due (x.stalled && !s.paused q p && decide (((x.until_).getD x.freeAt) + s.wdogNs q ≤ s.plumb.now))
    ((s.updPrio q p ({ · with stalled := false })).event { blk := .mac, inst := q, num := 5 })

/-! ## The link -/

/-- Frames still held are discarded and counted (R319). -/
def State.discardHeld (s : State) (q : Nat) : State :=
  let n := ((s.port q).tx.filter (·.pfc.isNone)).length
  (s.inc (macReg q 0x198) n).updPort q ({ · with tx := [], holding := false, idleAt := s.plumb.now })

/-- Queued frames are held from now, and Plumb frames discarded (R319). -/
def State.holdPort (s : State) (q : Nat) : State :=
  let s := s.updPort q fun x => { x with
    tx := (x.tx.filter fun f => f.pfc.isNone && !f.plumb).map fun f => { f with held := true }
    holding := true, holdAt := s.plumb.now }
  if s.fld (macReg q 0x040) 26 20 = 0 then s.discardHeld q else s

/-- Transmit silence: every port sends idle only, and its frames are held from now (R320). -/
def State.silencePorts (s : State) : State :=
  (List.range 24).foldl (fun s q => if s.portThere q && !(s.port q).silenced then
    (s.updPort q ({ · with silenced := true })).holdPort q else s) s

/-- The frame in transmission is cut off (R318). -/
def State.cutFrame (s : State) (q : Nat) : State :=
  match (s.port q).cur with
  | some (t, _) =>
    let s := s.updPort q ({ · with cur := none })
    if s.plumb.now < t then s.inc (macReg q 0x190) else s
  | none => s

/-- A link that goes down clears every received pause and ends every stall (R312, R314). -/
def State.clearPauses (s : State) (q : Nat) : State :=
  (List.range 8).foldl (fun t p =>
    let st := (t.prio q p).stalled
    let t := t.updPrio q p ({ · with until_ := none, pausedAt := none, stalled := false, freeAt := s.plumb.now, ours := false })
    if st then t.event { blk := .mac, inst := q, num := 5 } else t) s

/-- Low-power idle ends on both directions. -/
def State.lpiOff (s : State) (q : Nat) : State :=
  let x := s.port q
  let s := if x.lpiTx then s.inc (macReg q 0x1C0) ((s.plumb.now - x.lpiAt) / 1000) else s
  let s := if x.lpiRx then s.inc (macReg q 0x1C8) ((s.plumb.now - x.lpiRxAt) / 1000) else s
  s.updPort q ({ · with lpiTx := false, lpiRx := false, wakeAt := none })

/-- The link is declared down (R318, R319). -/
def State.linkFalls (s : State) (q : Nat) : State :=
  let s := ((s.inc (macReg q 0x1A8)).event { blk := .mac, inst := q, num := 1 }).clearPauses q
  let s := (s.lpiOff q).updPort q ({ · with link := 0, lpiDone := false })
  s.holdPort q

/-- LOCAL_FAULT (R318). -/
def execLocalFault (q : Nat) (s : State) : Res :=
  due (s.portOn q && (s.port q).link != 0 && !(s.port q).fault)
    ((s.cutFrame q).updPort q fun x =>
      { x with fault := true, faultAt := s.plumb.now, link := if x.link = 1 then 0 else x.link })

/-- LINK_DOWN (R318, R319). -/
def execLinkDown (q : Nat) (s : State) : Res :=
  let x := s.port q
  due (x.link == 2 && x.fault && decide (x.faultAt + 1000000 ≤ s.plumb.now)) (s.linkFalls q)

/-- FAULT_CLEAR (R318): within the filter the link stays up; else the debounce starts. -/
def execFaultClear (q : Nat) (s : State) : Res :=
  let x := s.port q
  due (s.portOn q && (x.fault || x.link == 0))
    (s.updPort q fun x => if x.link = 2 then { x with fault := false }
      else { x with fault := false, link := 1, alignAt := s.plumb.now, training := false })

/-- LINK_UP (R318, R319): held frames go first, and the cores' waiting frames follow. -/
def execLinkUp (q : Nat) (s : State) : Res :=
  let x := s.port q
  due (s.portOn q && x.link == 1 && !x.fault && decide (x.alignAt + 1000000 ≤ s.plumb.now))
    ((s.updPort q fun x => { x with link := 2, holding := x.holding && x.silenced, idleAt := s.plumb.now }).event
      { blk := .mac, inst := q, num := 2 }).coreSend

/-- HOLD_EXPIRY (R319). -/
def execHoldExpiry (q : Nat) (s : State) : Res :=
  let x := s.port q
  due (x.holding && decide (x.holdAt + 100000 * s.fld (macReg q 0x040) 26 20 ≤ s.plumb.now)) ((s.discardHeld q).coreSend)

/-- Mode and medium as committed. -/
def State.modeSet (s : State) (q : Nat) : Nat × Nat := (s.fld (macReg q 0x040) 2 0, s.fld (macReg q 0x040) 4 3)

/-- The port takes a mode and starts training, without the down filter (R306). -/
def State.retrain (s : State) (q mode medium : Nat) : State :=
  let s := s.cutFrame q
  let s := if (s.port q).link = 2 then s.linkFalls q else s
  (s.clearPauses q).updPort q fun x => { x with
    link := 0, fault := false, training := mode != 0, mode, medium, lpiDone := false
    lpiDef := mode != 0 && Config.phyLpi ((mode - 1) * 3 + medium) }

/-- PORT_MODE_CHANGE (R302, R306): a mode 5 that begins or ends also retrains the next odd port. -/
def execPortModeChange (q : Nat) (s : State) : Res :=
  let x := s.port q
  due (s.portThere q && (x.mode, x.medium) != s.modeSet q) <|
    let five := (x.mode == 5) != (s.fld (macReg q 0x040) 2 0 == 5)
    let t := s.retrain q (s.modeSet q).1 (s.modeSet q).2
    if five then t.retrain (q + 1) (t.modeSet (q + 1)).1 (t.modeSet (q + 1)).2 else t

/-! ## Low-power idle -/

/-- LPI_ENTER (R315). -/
def execLpiEnter (q : Nat) (s : State) : Res :=
  let x := s.port q
  due (s.portUp q && bitAt (s.reg (macReg q 0x050)) 0 && x.lpiDef && x.lpiDone && !x.lpiTx && x.tx.isEmpty && x.cur.isNone
      && decide (x.idleAt + 1000 * s.fld (macReg q 0x050) 17 8 ≤ s.plumb.now))
    ((s.inc (macReg q 0x1B0)).updPort q ({ · with lpiTx := true, lpiAt := s.plumb.now, wakeAt := none }))

/-- LPI_WAKE (R315). -/
def execLpiWake (q : Nat) (s : State) : Res :=
  let x := s.port q
  match x.wakeAt with
  | some t =>
    due (x.lpiTx && decide (t ≤ s.plumb.now))
      ((s.inc (macReg q 0x1C0) ((s.plumb.now - x.lpiAt) / 1000)).updPort q ({ · with lpiTx := false, wakeAt := none }))
  | none => .fault .notDue

/-- LPI_NEGOTIATION_COMPLETE (R315; 01 Table 1.8). -/
def execLpiNegotiationComplete (q wakeUs : Nat) (s : State) : Res :=
  due ((s.port q).link == 2)
    (s.updPort q ({ · with lpiDone := true, lpiWake := wakeUs % 65536 }))

/-- PARTNER_LPI (R316): honoured where the clause of the PHY type defines it. -/
def execPartnerLpi (q : Nat) (enter : Bool) (s : State) : Res :=
  let x := s.port q
  due (s.rxOn q) <|
    if !x.lpiDef || x.lpiRx = enter then s
    else if enter then (s.inc (macReg q 0x1B8)).updPort q ({ · with lpiRx := true, lpiRxAt := s.plumb.now })
    else (s.inc (macReg q 0x1C8) ((s.plumb.now - x.lpiRxAt) / 1000)).updPort q ({ · with lpiRx := false })

end Sys2Proof.Machine
end

