-- ==== Sys2Proof/Machine/Storage.lean ====
section
/-! DEFINITION. Machine/Storage.lean: NVMe-oF queue pairs on Phisal connections (14_infrastructure_cores_and_security.md R376, R377).
The cores' software makes a pair when it connects, for which the table has no row; what the pair then binds is here. -/

namespace Sys2Proof.Machine

/-- The pair of a connection. -/
def State.pair (s : State) (c : Nat) : Option NvmPair := s.cores.pairs.find c

/-- Change the pair of a connection, if it has one. -/
def State.updPair (s : State) (c : Nat) (g : NvmPair → NvmPair) : State :=
  { s with cores := { s.cores with pairs := s.cores.pairs.map fun x => if x.1 = c then (c, g x.2) else x } }

/-- The pairs of one end. -/
def State.pairsOf (s : State) (target : Bool) : Nat := (s.cores.pairs.filter fun x => x.2.target == target).length

/-- May core software add a pair: its rings in core-owned memory and 256 pairs at each end, of at most 128 commands (R376)? -/
def State.pairOk (s : State) (p : NvmPair) : Bool :=
  decide (1 ≤ p.depth) && decide (p.depth ≤ 128) && decide (s.pairsOf p.target < 256)
  && decide (0 < p.ringLen) && s.inInfra p.ring && s.inInfra (p.ring + p.ringLen - 1)

/-- Core software binds a new pair to a connection; none where R376 does not allow it. -/
def State.nvmConnect (s : State) (c : Nat) (p : NvmPair) : Option State :=
  if s.pairOk p && (s.pair c).isNone then some { s with cores := { s.cores with pairs := s.cores.pairs ++ [(c, { p with cmds := [] })] } } else none

/-- The command of a capsule: a 64-byte submission entry, whose Keyed SGL Data Block names the data (its layout is NVM Express's:
PRESUMED, log entry 106). -/
def nvmCmd (d : List Byte) : NvmCmd := { cid := leAt d 2 2, addr := leAt d 24 8, len := leAt d 32 3, key := leAt d 35 4 }

/-- Is a message of `n` bytes a command capsule: the entry and up to 8,192 bytes of data? -/
def capsuleLen (n : Nat) : Bool := decide (64 ≤ n) && decide (n ≤ 64 + 8192)

/-- A WRITE of a connection has been placed at a local offset: a capsule at the target is a command, up to the depth of the pair; a
response at the initiator answers one. -/
def State.nvmPlaced (s : State) (c off : Nat) (d : List Byte) : State :=
  s.updPair c fun p =>
    if !(decide (p.ring ≤ off) && decide (off + d.length ≤ p.ring + p.ringLen)) then p
    else if p.target then
      if capsuleLen d.length && decide (p.cmds.length < p.depth) then { p with cmds := p.cmds ++ [nvmCmd d] } else p
    else if d.length = 16 then { p with cmds := p.cmds.filter (·.cid != leAt d 12 2) } else p

/-- Does a message go to the other end's ring? -/
def NvmPair.toRing (p : NvmPair) (m : Msg) : Bool :=
  m.kind == 0 && m.mkey == p.peerKey && decide (p.peerRing ≤ m.raddr) && decide (m.raddr + m.len ≤ p.peerRing + p.peerLen)

/-- Does a message wait: a response until a FLUSH has completed after the data, a capsule while the pair is full (R376)? -/
def State.nvmHolds (s : State) (c : Nat) (m : Msg) : Bool :=
  match s.pair c with
  | none => false
  | some p => p.toRing m && (if p.target then !p.flushed else decide (p.depth ≤ p.cmds.length))

/-- A message starts: a capsule is a command from now, a response ends one, and data must be flushed before the next response. -/
def State.nvmStarted (s : State) (c : Nat) (m : Msg) : State :=
  s.updPair c fun p =>
    if p.toRing m then
      if p.target then { p with cmds := p.cmds.filter (·.cid != leAt m.data 12 2) } else { p with cmds := p.cmds ++ [nvmCmd m.data] }
    else if m.kind = 0 ∨ m.kind = 1 then { p with lastData := m.id, flushed := false } else p

/-- A message has ended: a FLUSH that followed the data lets responses go; an error of a command's data ends it with Transient Transport
Error (R377). -/
def State.nvmEnded (s : State) (c : Nat) (m : Msg) (status : Nat) : State :=
  s.updPair c fun p =>
    if status = 0 then if m.kind = 2 ∧ p.lastData ≤ m.id then { p with flushed := true } else p
    else if !p.target || 2 ≤ m.kind then p
    else { p with cmds := p.cmds.map fun x =>
      if x.key = m.mkey ∧ x.addr ≤ m.raddr ∧ m.raddr < x.addr + x.len then { x with status := 1 } else x }

end Sys2Proof.Machine
end

