-- ==== Sys2Proof/Machine/Conn.lean ====
section
/-! DEFINITION. Machine/Conn.lean: connection contexts, their cache and image, what is sent for them, and the commands
that open and close them (09 R258 to R264, R271; 10 R272 to R275, R291, R294 to R297). -/

namespace Sys2Proof.Machine

/-- Connection context `c`. -/
def State.conn (s : State) (c : Nat) : Conn := s.conns.get {} c

/-- Change a connection context. -/
def State.updConn (s : State) (c : Nat) (g : Conn → Conn) : State := { s with conns := s.conns.upd {} c g }

/-- Change the transport's own state. -/
def State.updPsl (s : State) (g : Psl → Psl) : State := { s with psl := g s.psl }

/-! ## The context image (09 Table 9.11, 10 Tables 10.1 and 10.2) -/

/-- The PSN of the next packet that has none yet. -/
def Conn.top (x : Conn) : Nat := (x.una + x.sent.length) % 2 ^ 32

/-- `a` lies after `b`, modulo 2^32 (10 R279). -/
def ahead (a b : Nat) : Bool :=
  let d := (a + 2 ^ 32 - b) % 2 ^ 32
  decide (0 < d) && decide (d < 2 ^ 31)

/-- The setup part of a context, bytes 0x00 to 0x3F. -/
def Conn.setup (x : Conn) : List Byte :=
  leBytes 4 (x.st + 16 * (x.gen % 16) + 256 * (x.encap % 4) + 2 ^ 10 * (x.prio % 8) + 2 ^ 13 * (x.owner % 512))
  ++ leBytes 2 x.pkey ++ leBytes 2 x.window ++ leBytes 4 x.peerConn ++ leBytes 2 x.peerDev ++ leBytes 2 x.udpDport
  ++ leBytes 16 x.peerIp ++ leBytes 6 x.peerMac ++ leBytes 2 x.sportBase ++ leBytes 4 x.portMask ++ leBytes 1 x.pathsM1
  ++ leBytes 1 x.retryMax ++ leBytes 1 x.pktLog2 ++ [0] ++ leBytes 2 x.reorderTo ++ leBytes 2 x.rexmitTo
  ++ leBytes 1 x.ccProf ++ zeros 3 ++ leBytes 8 x.cookie

/-- The arrival bitmap: bit b at bit b mod 8 of byte b / 8. -/
def Conn.bitmap (x : Conn) : List Byte :=
  (List.range 128).map fun i =>
    BitVec.ofNat 8 ((List.range 8).foldl (fun a b => a + (if x.arrived.any fun p => p % 1024 == 8 * i + b then 2 ^ b else 0)) 0)

/-- The 256 bytes of a context. -/
def Conn.image (x : Conn) : List Byte :=
  x.setup
  ++ leBytes 4 x.nextPsn ++ leBytes 4 x.una ++ leBytes 4 x.gapPsn
  ++ leBytes 4 (x.rate % 2 ^ 26 + 2 ^ 26 * (x.round % 8) + 2 ^ 29 * b2n x.gapTimer + 2 ^ 30 * b2n x.gbn)
  ++ leBytes 4 (unsigned 32 x.credit) ++ leBytes 2 x.nextMsg ++ leBytes 2 x.gapTick ++ leBytes 2 x.rtoTick
  ++ leBytes 2 x.ceEcho ++ leBytes 2 x.acked ++ leBytes 2 x.updTick
  ++ leBytes 4 x.epsn ++ leBytes 4 x.highPsn ++ leBytes 4 x.lastPsn ++ leBytes 2 x.lastSeq ++ leBytes 2 x.doneSeq
  ++ leBytes 2 x.ceCnt ++ leBytes 2 x.sinceAck ++ leBytes 4 x.reorderDl ++ leBytes 1 x.held.length
  ++ leBytes 1 (b2n x.gapOpen + 2 * b2n x.lastValid + 4 * b2n x.ackDue + 8 * b2n x.dupAck) ++ zeros 6
  ++ x.bitmap

/-- A setup record as a context (state and generation are the device's own). -/
def connOf (d : List Byte) : Conn := {
  encap := bits (leAt d 0 4) 9 8, prio := bits (leAt d 0 4) 12 10, owner := bits (leAt d 0 4) 21 13
  pkey := leAt d 4 2, window := bits (leAt d 6 2) 10 0, peerConn := leAt d 8 3, peerDev := bits (leAt d 12 2) 13 0
  udpDport := leAt d 14 2, peerIp := leAt d 16 16, peerMac := leAt d 32 6, sportBase := leAt d 38 2
  portMask := leAt d 40 3, pathsM1 := leAt d 44 1, retryMax := leAt d 45 1, pktLog2 := leAt d 46 1
  reorderTo := leAt d 48 2, rexmitTo := leAt d 50 2, ccProf := leAt d 52 1, cookie := leAt d 56 8 }

/-- The ports of a mask, ascending. -/
def maskPorts (m : Nat) : List Nat := (List.range 24).filter fun q => bitAt m q

/-- Is every setup field within Table 9.11? A port that the variant lacks is out of range (DEDUCED, log entry 19). -/
def State.setupOk (s : State) (d : List Byte) : Bool :=
  let x := connOf d
  bits (leAt d 0 4) 31 22 == 0 && bits (leAt d 6 2) 15 11 == 0 && leAt d 11 1 == 0 && bits (leAt d 12 2) 15 14 == 0
  && leAt d 43 1 == 0 && leAt d 47 1 == 0 && leAt d 53 3 == 0
  && decide (x.encap ≤ 2) && decide (1 ≤ x.window) && decide (x.window ≤ 1024)
  && x.sportBase % 256 == 0 && decide (0xC000 ≤ x.sportBase) && decide (x.retryMax ≤ 7)
  && decide (8 ≤ x.pktLog2) && decide (x.pktLog2 ≤ 13) && decide (1 ≤ x.reorderTo) && decide (x.reorderTo ≤ 1024)
  && decide (16 ≤ x.rexmitTo) && decide (x.rexmitTo ≤ 4096) && decide (x.ccProf ≤ 15)
  && decide (0 < x.portMask) && decide (x.portMask < 2 ^ s.portCount)
  && (x.encap != 2 || (maskPorts x.portMask).length == 1)

/-! ## The context cache (10 R294 to R297) -/

/-- The first way of the set of a connection index. -/
def cacheSet (c : Nat) : Nat := (1024 * (c % 4) + c / 4 % 1024) * 16

/-- The way that holds a context, if it is cached. -/
def State.cached (s : State) (c : Nat) : Option Nat :=
  (firstIdx 16 fun i => match s.psl.cache.get none (cacheSet c + i) with
    | some e => e.conn == c
    | none => false).map (cacheSet c + ·)

/-- Is a context pinned (R295)? -/
def Conn.pinned (x : Conn) : Bool :=
  !x.sent.isEmpty || x.gapOpen || x.gapTimer || !x.held.isEmpty || x.ackDue || decide (0 < x.sinceAck)
  || x.st == 1 || x.st == 3

/-- Set a cache entry. -/
def State.cachePut (s : State) (k : Nat) (e : Option CtxEnt) : State :=
  s.updPsl fun p => { p with cache := p.cache.set none k e }

/-- The rate ceiling of a port in Mb/s: its mode, limited by its dust sheet (R293, 11 R302). -/
def State.portRate (s : State) (q : Nat) : Nat :=
  1000 * min (modeRate (s.port q).mode) (modeRate (s.fld (0x4048 + 4 * (q / 8)) (4 * (q % 8) + 3) (4 * (q % 8))))

/-- The highest rate of a connection (R293). -/
def State.rateMax (s : State) (x : Conn) : Nat :=
  ((maskPorts x.portMask).filter s.portUp).foldl (fun n q => n + s.portRate q) 0

/-- The first rate of a connection (R293). -/
def State.rateInit (s : State) (x : Conn) : Nat := min (s.fld (Blk.cc.at 0 (0x040 + 0x10 * x.ccProf)) 23 0) (s.rateMax x)

/-- Write a context back to its 256 bytes in HBM (R293, R295). -/
def State.writeBack (s : State) (c : Nat) : State :=
  let s := s.updConn c fun x => if x.st = 2 ∧ x.sent = [] then { x with rate := max x.rate (s.rateInit x) } else x
  (s.memWrite 5 (s.reg (pslReg 0x058) + 256 * c) (s.conn c).image).1

/-- Entries that a function holds in a slice. -/
def State.cacheHeld (s : State) (slice fn : Nat) : Nat :=
  (s.psl.cache.filter fun e => e.1 / 16384 == slice && (match e.2 with
    | some x => (s.conn x.conn).owner == fn
    | none => false)).length

/-- The way that a fill of context `c` takes: an invalid one, else the oldest unpinned one whose function holds more
than its reserve (R295). -/
def State.cacheWay (s : State) (c : Nat) : Option Nat :=
  let k := cacheSet c
  match firstIdx 16 fun i => (s.psl.cache.get none (k + i)).isNone with
  | some i => some (k + i)
  | none =>
    (oldestWay ((List.range 16).map fun i => match s.psl.cache.get none (k + i) with
      | some e =>
        let x := s.conn e.conn
        if !x.pinned && decide (s.fld (Blk.ctx.at 0 (0x800 + 4 * x.owner)) 12 0 < s.cacheHeld (c % 4) x.owner) then some e.age
        else none
      | none => none)).map (k + ·)

/-- The rate of a connection for a tick (R293). -/
def State.rateUpdate (s : State) (c : Nat) : State :=
  let x := s.conn c
  let prof (o : Nat) : Nat := s.reg (Blk.cc.at 0 (0x040 + 0x10 * x.ccProf + o))
  let a := max x.acked x.ceEcho
  let cut := decide (0 < x.ceEcho)
  let rate := if cut then max (prof 4 % 2 ^ 24) (x.rate - x.rate * x.ceEcho / (a * 2 ^ (prof 12 % 8)))
    else min (s.rateMax x) (x.rate + prof 8 % 2 ^ 24)
  (if cut then s.inc (Blk.cc.at 0 0x1B8) else s).updConn c fun x =>
    { x with rate, ceEcho := 0, acked := 0, updTick := s.tick % 65536 }

/-- The updates of every boundary since the last one (R293): the first with the marks of its tick, the others increases. -/
def State.rateCatchUp (s : State) (c : Nat) : State :=
  let n := (s.tick + 65536 - (s.conn c).updTick) % 65536
  if n = 0 then s else
    let s := s.rateUpdate c
    s.updConn c fun x => { x with
      rate := if n = 1 then x.rate else min (s.rateMax x) (x.rate + s.fld (Blk.cc.at 0 (0x048 + 0x10 * x.ccProf)) 23 0 * (n - 1)) }

/-- Put a context into the cache, writing back what it replaces; its rate takes the updates it has missed (R293). -/
def State.cacheFill (s : State) (c : Nat) : State :=
  if (s.cached c).isSome then s else
  match s.cacheWay c with
  | none => s.inc (Blk.ctx.at 0 0x070)
  | some k =>
    let s := match s.psl.cache.get none k with
      | some e => if e.changed then (s.writeBack e.conn).inc (Blk.ctx.at 0 0x060) else s
      | none => s
    let s := s.cachePut k (some { conn := c })
    if (s.conn c).st = 2 then s.rateCatchUp c else s

/-- Remove a context from the cache; a change is written back. -/
def State.uncache (s : State) (c : Nat) : State :=
  match s.cached c with
  | none => s.writeBack c
  | some k => (s.writeBack c).cachePut k none

/-- A lookup that hits: the age returns to 0, and the entry counts as changed. -/
def State.cacheHit (s : State) (c : Nat) : State :=
  match s.cached c with
  | none => s
  | some k => (s.updPsl fun p => { p with cache := p.cache.upd none k fun e => e.map ({ · with age := 0, changed := true }) }).inc (Blk.ctx.at 0 0x050)

/-- A command whose context is not cached waits for its fill (R297). -/
def State.cacheMiss (s : State) (c : Nat) (i : Instr) : State :=
  if s.psl.fills.any (·.conn == c) then
    s.updPsl fun p => { p with fills := p.fills.map fun x => if x.conn = c then { x with cmds := x.cmds ++ [i] } else x }
  else (s.inc (Blk.ctx.at 0 0x058)).updPsl fun p => { p with fills := p.fills ++ [{ conn := c, cmds := [i] }] }

/-! ## Neighbours (14 R375) -/

/-- A neighbour table entry as read (14 Table 14.4). -/
def nbOf (dev : Nat) (d : List Byte) : NbEnt := {
  dev, valid := bitAt (leAt d 0 4) 0, ipv6 := bitAt (leAt d 0 4) 1, port := bits (leAt d 0 4) 6 2, mac := leAt d 4 6
  ip := leAt d 16 16 }

/-- The first way of the set of a device number: 256 sets of 4 ways. -/
def nbSet (dev : Nat) : Nat := dev % 256 * 4

/-- Look up a neighbour, filling the cache from the table on a miss. -/
def State.neighbour (s : State) (dev : Nat) : State × Option NbEnt :=
  let k := nbSet dev
  let put (s : State) (i : Nat) (e : NbEnt) : State := { s with cores := { s.cores with nb := s.cores.nb.set none i (some e) } }
  match firstIdx 4 fun i => match s.cores.nb.get none (k + i) with
    | some e => e.dev == dev
    | none => false with
  | some i => match s.cores.nb.get none (k + i) with
    | some e => (put s (k + i) { e with age := 0 }, some e)
    | none => (s, none)
  | none =>
    let (s, d) := s.memRead 3 (s.reg (Blk.core.at 0 0x048) + 32 * dev) 32
    let e := nbOf dev d.data
    if !e.valid || d.kind != 0 then (s, none) else
      let way := match firstIdx 4 fun i => (s.cores.nb.get none (k + i)).isNone with
        | some i => i
        | none => (oldestWay ((List.range 4).map fun i => (s.cores.nb.get none (k + i)).map (·.age))).getD 0
      (put s (k + way) e, some e)

/-! ## Building packets -/

/-- The port and path that carry path number `n` under the skipping rule of R275, if a port is up. -/
def State.pick (s : State) (x : Conn) (n : Nat) : Option (Nat × Nat) :=
  let ports := maskPorts x.portMask
  let paths := x.pathsM1 + 1
  (List.range paths).findSome? fun i =>
    let p := (n + i) % paths
    let q := ports.getD (p % ports.length) 0
    if s.portUp q && !(s.prio q x.prio).stalled then some (q, p) else none

/-- Is the partition of a key sealed? -/
def State.sealedKey (s : State) (pkey : Nat) : Bool :=
  match s.partOf pkey with
  | some n => bitAt (s.reg (pslReg (0x800 + 4 * n))) 25
  | none => false

/-- Complete a packet of a connection's encapsulation: extension length and the padding of direct Ethernet (R240). -/
def padPkt (sealed : Bool) (p : Pkt) : Pkt :=
  let need := 36 + 4 * p.ext.length + (if sealed then 32 else 0) + p.payload.length
  let more := if p.encap = 2 ∧ need < 46 then (46 - need + 3) / 4 else 0
  { p with ext := p.ext ++ List.replicate more 0, extLen := p.ext.length + more }

/-- Queue a packet at a port: what the packet holds beyond the outer fields is given by `p`. The destination MAC is the
peer's, or that of the neighbour table on a switched hop (DEDUCED, log entry 19). -/
def State.queuePkt (s : State) (q sport prio fn : Nat) (conn : Option Nat) (dev mac op : Nat) (p : Pkt) (first : Option Nat) :
    State × Bool :=
  let sealed := s.sealedKey p.pkey && !(op == 0x20 || op == 0x21)
  let (s, nb) := if p.encap = 2 then (s, none) else s.neighbour dev
  let p := padPkt sealed { p with
    port := q, srcIp := s.myIp (p.encap == 1), srcMac := s.reg (macReg q 0x080) % 2 ^ 48
    flags := p.flags + if sealed then flSealed else 0 }
  s.offer q {
    prio, fn, bytes := max 64 (outerBytes p.encap + p.parts + 4 + if sealed then 32 else 0), conn, dst := (nb.map (·.mac)).getD mac
    sport, op, ttl := s.fld (pslReg 0x040) 23 16
    ecn := if p.encap = 2 ∨ op = 0x20 ∨ op = 0x21 then 0 else 2, df := p.encap == 0
    pkt := some p, first, plumb := op == 0x20 || op == 0x21 }

/-- Queue a packet of connection `c` on a port and path. Its UDP port is the device's own setting (R239; log entry 101). -/
def State.connPkt (s : State) (c : Nat) (at_ : Nat × Nat) (op : Nat) (p : Pkt) (first : Option Nat := none) : State × Bool :=
  let x := s.conn c
  s.queuePkt at_.1 (x.sportBase + at_.2) x.prio x.owner (some c) x.peerDev x.peerMac op
    { p with encap := x.encap, dstIp := x.peerIp, udpPort := s.fld (pslReg 0x040) 15 0, path := at_.2, pkey := x.pkey, dstConn := x.peerConn }
    first

/-- Send an unsequenced packet on path 0 (R272). -/
def State.sendCtl (s : State) (c op : Nat) (payload : List Byte) : State :=
  match s.pick (s.conn c) 0 with
  | none => s
  | some at_ => (s.connPkt c at_ op { flags := flFirst + flLast, payload }).1

/-- The payload of CONN.REQ, CONN.ACCEPT and CONN.REJECT (Table 9.6). -/
def State.hello (s : State) (c reason : Nat) : List Byte :=
  let x := s.conn c
  beBytes 4 (2 ^ 20 * (x.gen % 16) + c) ++ beBytes 2 s.devNum ++ beBytes 2 x.window ++ beBytes 1 x.pktLog2 ++ beBytes 1 reason
  ++ beBytes 1 x.retryMax ++ beBytes 2 x.rexmitTo ++ zeros 3

/-- Send an ACK (R284, Table 9.6): it clears ce_cnt and since_ack. -/
def State.sendAck (s : State) (c : Nat) : State :=
  let x := s.conn c
  match s.pick x (x.acks % (x.pathsM1 + 1)) with
  | none => s
  | some at_ =>
    let (s, ok) := s.connPkt c at_ 0x10 {
      flags := flFirst + flLast, psn := x.epsn, msgSeq := x.doneSeq
      ext := [BitVec.ofNat 32 (x.ceCnt % 65536), BitVec.ofNat 32 x.highPsn] }
    if ok then s.updConn c ({ · with ceCnt := 0, sinceAck := 0, ackDue := false, acks := x.acks + 1 }) else s

/-- Send a NAK for a packet (R250, R286), on the path of the next ACK: the spec names no path for it (DEDUCED, log entry
40). -/
def State.sendNak (s : State) (c : Nat) (p : Pkt) (code : Nat) : State :=
  let x := s.conn c
  let s := s.inc (pslReg 0x0A8)
  match s.pick x (x.acks % (x.pathsM1 + 1)) with
  | none => s
  | some at_ => (s.connPkt c at_ 0x11 { flags := flFirst + flLast, psn := p.psn, msgSeq := p.msgSeq, ext := [BitVec.ofNat 32 code] }).1

/-! ## Ends of operations (10 Table 10.3) -/

/-- A message of a work-queue entry has ended. With its last message the entry ends; the first status other than success
is the one reported, and its completion is written by DESCRIPTOR_COMPLETE (13 R349). -/
def State.jobEnd (s : State) (q n status detail bytes : Nat) : State :=
  match (s.wqs.get {} q).jobs.find? fun j => j.entry == n && j.stage == 2 with
  | none => s
  | some j =>
    let (st, de) := if j.status = 0 then (status, detail) else (j.status, j.detail)
    if 1 < j.parts then
      { s with wqs := s.wqs.upd {} q fun w => { w with jobs := w.jobs.map fun y =>
          if y.entry = n then { y with parts := y.parts - 1, status := st, detail := de, bytes := y.bytes + bytes } else y } }
    else s.jobDone q n st de (j.bytes + bytes)

/-- The engine error code of a status and NAK code (Table 9.7). Ends that name no code are bus errors (DEDUCED, log
entry 20). -/
def engineCode (status nak : Nat) : Nat :=
  if status ≠ 5 then 9 else if 1 ≤ nak ∧ nak ≤ 4 then 0xC else if nak = 7 then 0xA else 9

/-- Report the end of an operation to whoever asked for it. -/
def State.opEnd (s : State) (src : MsgSrc) (c id status detail bytes : Nat) : State :=
  match src with
  | .engine k =>
    let s := s.updCtx k fun x => { x with pendingOps := x.pendingOps.filter (· != (c, id)) }
    if status = 0 then s
    else (s.updCtx k fun x => { x with
      coll := x.coll.map fun y => { y with lost := y.lost || y.acks.contains (c, id) }
      moe := { x.moe with lost := x.moe.lost || x.moe.acks.contains (c, id) } }).holdErr k (engineCode status detail) false
  | .wq q n => s.jobEnd q n status detail bytes
  | .device => s

/-- End a message of connection `c`, once. -/
def State.msgEnd (s : State) (c : Nat) (m : Msg) (status detail : Nat) : State :=
  if m.done || m.kind == 4 then s else
    let mark (y : Msg) : Msg := if y.id = m.id then { y with done := true } else y
    ((s.updConn c fun x => { x with flying := x.flying.map mark, cur := x.cur.map mark }).nvmEnded c m status).opEnd m.src c m.id status detail
      (if status = 0 then m.len else 0)

/-- Every operation of a connection ends with a status (R264, R291): the state and how many there were. -/
def State.flushConn (s : State) (c status : Nat) : State × Nat :=
  let x := s.conn c
  let ms := (x.queue ++ x.cur.toList ++ x.flying).filter fun m => !m.done && m.kind != 4 && !(m.kind == 1 && x.reads.any (·.msg == m.id))
  let s := ms.foldl (fun t m => t.opEnd m.src c m.id status 0 0) s
  let s := x.reads.foldl (fun t r => t.opEnd r.src c r.msg status 0 0) s
  (s.updConn c ({ · with
    queue := [], cur := none, flying := [], sent := [], reads := [], busy := [], held := [], gapTimer := false, gbn := false
    arrived := [], gapOpen := false, nextPsn := x.una }), ms.length + x.reads.length)

/-- Queued operations that have not started end with status flushed; responses still go (R263). -/
def State.flushQueued (s : State) (c : Nat) : State :=
  let x := s.conn c
  let s := (x.queue.filter fun m => m.kind != 4).foldl (fun t m => t.opEnd m.src c m.id 7 0 0) s
  s.updConn c ({ · with queue := x.queue.filter fun m => m.kind == 4 })

/-! ## State changes (09 R260 to R264) -/

/-- The outcome of a window's connection command (Table 9.14), for the connection it awaits. -/
def State.connOutcome (s : State) (c outcome reason : Nat) : State :=
  match (s.conn c).cmdWin with
  | none => s
  | some w =>
    (s.updPsl fun p => { p with
      busy := p.busy.filter (· != (w, c))
      stat := if p.busy.contains (w, c) then p.stat.set (0, 0, 0) w (outcome, (s.conn c).gen, reason) else p.stat }).updConn c
      ({ · with cmdWin := none })

/-- A context enters open (R273). -/
def State.openConn (s : State) (c : Nat) : State :=
  let s := s.connOutcome c 0 0
  s.updConn c fun x => { x with
    st := 2, nextPsn := 1, una := 1, epsn := 1, highPsn := 0, arrived := [], lastValid := false, nextMsg := 1, doneSeq := 0
    ceCnt := 0, sinceAck := 0, ceEcho := 0, acked := 0, held := [], round := 0, gapTimer := false, gapOpen := false
    credit := 0, rate := s.rateInit x, updTick := s.tick % 65536, acks := 0 }

/-- A context returns to free, its index in quarantine (R261). -/
def State.freeConn (s : State) (c : Nat) : State :=
  let x := s.conn c
  let r := if x.peerKnown then max x.retryMax x.peerRetry else 7
  let t := if x.peerKnown then max x.rexmitTo x.peerRexmit else 4096
  (s.updConn c fun _ => { gen := x.gen, quarantine := s.ticks + max 1024 ((r + 1) * t) }).uncache c

/-- Has a closing context nothing of its own left unanswered (R263)? -/
def Conn.idle (x : Conn) : Bool := x.queue.isEmpty && x.cur.isNone && x.sent.isEmpty && x.reads.isEmpty

/-- A closing context goes on as far as it can (R263). -/
def State.progressConn (s : State) (c : Nat) : State :=
  let x := s.conn c
  if x.st ≠ 3 ∨ !x.idle then s else
    let s := if x.closePeer && !x.closedSent then (s.sendCtl c 0x34 []).updConn c ({ · with closedSent := true }) else s
    if x.closePeer && !x.closeOwn then s.freeConn c
    else if x.closeOwn && !x.closeSent then (s.sendCtl c 0x33 []).updConn c ({ · with closeSent := true })
    else s

/-- A context starts closing. -/
def State.startClose (s : State) (c : Nat) (own : Bool) : State :=
  let s := (s.flushQueued c).updConn c fun x =>
    { x with st := 3, closeTick := some (s.ticks + 4 * x.rexmitTo), closeOwn := own, closePeer := !own }
  s.progressConn c

/-- A forced close (R264): the state and the operations flushed. A failed context sends nothing (Table 9.12). -/
def State.forceClose (s : State) (c : Nat) : State × Nat :=
  let (s, n) := s.flushConn c 7
  let s := if (s.conn c).st = 4 then s else s.sendCtl c 0x33 []
  ((s.connOutcome c 0 0).freeConn c, n)

/-- A context fails (R291). Its event carries no parameters (17 R475; log entry 20). -/
def State.failConn (s : State) (c : Nat) : State :=
  let fn := (s.conn c).owner
  let s := ((s.flushConn c 6).1).updConn c ({ · with st := 4, closeTick := none })
  s.eventTo { blk := .psl, num := 2, fn } fn

/-- The connections of a function that are not free. -/
def State.connsOf (s : State) (fn : Nat) : List Nat :=
  (s.conns.filter fun x => x.2.st != 0 && x.2.owner == fn).map Prod.fst

/-! ## Commands (09 R261 to R264, R271) -/

/-- The byte of PF0's register numbering at which window `w`'s own registers are kept: a VF's are private to it. -/
def winReg (w a : Nat) : Nat := 2 ^ 26 * w + a

/-- The setup record of a window. -/
def State.setupRec (s : State) (w : Nat) : List Byte :=
  (List.range 8).flatMap fun i => leBytes 8 (s.reg (winReg w (pslReg (0x100 + 8 * i))))

/-- Set the outcome of a window's command at once. -/
def State.connStat (s : State) (w outcome gen : Nat) : State :=
  s.updPsl fun p => { p with stat := p.stat.set (0, 0, 0) w (outcome, gen, 0), busy := p.busy.filter fun b => b.1 != w }

/-- Reorder windows of a function's open connections (12 R333). -/
def State.windowsOf (s : State) (fn : Nat) : Nat := (s.connsOf fn).foldl (fun n c => n + (s.conn c).window) 0

/-- Send CONN.REQ (R262). -/
def State.sendReq (s : State) (c : Nat) : State :=
  (s.sendCtl c 0x30 (s.hello c 0)).updConn c fun x => { x with reqs := x.reqs + 1, reqTick := s.ticks }

/-- Op 1: open a connection (R261, R267; 12 R333; 16 Table 16.3). -/
def State.openCmd (s : State) (w c : Nat) : State :=
  let old := s.conn c
  let d := s.setupRec w
  let x := connOf d
  let x := { x with owner := if w = 0 then x.owner else w }
  let lim := 16384 * s.fld (Blk.arb.at (x.owner / 128) (0x808 + 16 * (x.owner % 128))) 15 0
  if old.st ≠ 0 ∨ s.ticks < old.quarantine then s.connStat w 1 0
  else if !s.setupOk d || (s.partOf x.pkey).isNone || (s.glb.service == 1 && decide (1023 < c)) then s.connStat w 2 0
  else if lim ≠ 0 ∧ lim < s.windowsOf x.owner + x.window then (s.inc (Blk.arb.at 0 0x060)).connStat w 2 0
  else match s.partOf x.pkey with
    | none => s.connStat w 2 0
    | some n =>
      if w ≠ 0 ∧ s.fld (pslReg (0x800 + 4 * n)) 24 16 ≠ w then s.connStat w 3 0
      else if s.sealedKey x.pkey && s.psl.boot == 0xFFFFF then s.connStat w 6 0
      else
        let gen := (old.gen + 1) % 16
        let s := s.updConn c fun _ => { x with st := 1, gen, cmdWin := some w }
        let s := s.updPsl fun p => { p with
          stat := p.stat.set (0, 0, 0) w (0, gen, 0), busy := (p.busy.filter fun b => b.1 != w) ++ [(w, c)] }
        (s.cacheFill c).sendReq c

/-- PSL_CONN_CMD with go set (Table 9.14): none where the write is refused. A close of a context that is not open, a
command on a free one, and a VF's command on a connection it does not own are refused (log entry 20). -/
def State.connCommand (s : State) (w v : Nat) : Option State :=
  let c := bits v 19 0
  let x := s.conn c
  if !bitAt v 31 || bits v 26 24 = 0 then some s
  else if bits v 26 24 = 1 then if bitAt (s.reg 0x48) 31 then some (s.openCmd w c) else none
  else if x.st = 0 ∨ (w ≠ 0 ∧ x.owner ≠ w) then none
  else
    let s := s.connStat w 0 x.gen
    match bits v 26 24 with
    | 2 => if x.st = 2 then some (s.startClose c true) else none
    | 3 => some (s.forceClose c).1
    | _ => some (s.updPsl fun p => { p with view := p.view.set [] w x.image })

/-! ## Opening and closing timers (09 R262, R263) -/

/-- CONN_REQ_RESEND: every 16 ticks, up to 64 requests. -/
def execConnReqResend (c : Nat) (s : State) : Res :=
  let x := s.conn c
  due (x.st == 1 && decide (x.reqs < 64) && decide (x.reqTick + 16 ≤ s.ticks)) (s.sendReq c)

/-- CONN_OPEN_TIMEOUT: the 64th request went unanswered for 16 ticks. -/
def execConnOpenTimeout (c : Nat) (s : State) : Res :=
  let x := s.conn c
  due (x.st == 1 && decide (64 ≤ x.reqs) && decide (x.reqTick + 16 ≤ s.ticks)) ((s.connOutcome c 4 0).freeConn c)

/-- CLOSING_TIMEOUT: no CONN.CLOSED within 4 × rexmit_to ticks. What is still queued ends with status flushed. -/
def execClosingTimeout (c : Nat) (s : State) : Res :=
  let x := s.conn c
  match x.closeTick with
  | some t =>
    due (x.st == 3 && decide (t ≤ s.ticks))
      ((((s.flushConn c 7).1).freeConn c).eventTo { blk := .psl, num := 3, fn := x.owner } x.owner)
  | none => .fault .notDue

end Sys2Proof.Machine
end

