-- ==== Sys2Proof/Machine/Replay.lean ====
section
/-! DEFINITION. Machine/Replay.lean: the trace of a replay group: records written, found and consumed
(02 R54 to R59, 17 R458). -/

namespace Sys2Proof.Machine

/-- A replay group. -/
def State.rep (s : State) (r : Nat) : Rep := s.reps.get {} r

/-- Change a replay group. -/
def State.updRep (s : State) (r : Nat) (g : Rep → Rep) : State := { s with reps := s.reps.upd {} r g }

/-- A register of group `r` of the DBG page. -/
def rpReg (r off : Nat) : Nat := Blk.dbg.at 0 (off + 0x40 * r)

/-- The owner function of a group. -/
def State.rpOwner (s : State) (r : Nat) : Nat := s.fld (rpReg r 0x100) 8 0

/-- Is context `k` a member (DBG_RPr_MEMB bit 4e + x)? -/
def State.rpMember (s : State) (r k : Nat) : Bool := bitAt (s.reg (rpReg r 0x110 + 8 * (k / 64))) (k % 64)

/-- Bytes of the trace region. -/
def State.rpSize (s : State) (r : Nat) : Nat := 2 ^ 26 * s.fld (rpReg r 0x104) 8 0

/-- First byte of the trace region. -/
def State.rpBase (s : State) (r : Nat) : Nat := s.reg (rpReg r 0x108)

/-- Is the group recording or replaying? -/
def Rep.live (g : Rep) : Bool := g.mode != 0 && !g.ended

/-- The live group of a context, if any. -/
def State.rpOf (s : State) (k : Nat) : Option Nat := firstIdx 4 fun r => (s.rep r).live && s.rpMember r k

/-- The live group that a function owns, in a given mode. -/
def State.rpFn (s : State) (fn mode : Nat) : Option Nat :=
  firstIdx 4 fun r => (s.rep r).live && (s.rep r).mode == mode && (s.rep r).start.isSome && s.rpOwner r == fn

/-- The 32-byte header of a trace record followed by its padded payload (R56). -/
def traceBytes (ty flags ordinal consumer rel offset src seq : Nat) (pl : List Byte) : List Byte :=
  let h := leBytes 1 ty ++ leBytes 1 flags ++ leBytes 2 ordinal ++ leBytes 4 consumer ++ leBytes 8 rel ++ leBytes 2 offset
    ++ leBytes 2 pl.length ++ leBytes 4 src ++ leBytes 4 seq
  h ++ leBytes 4 (crc32c (h ++ pl)) ++ pl ++ zeros (roundUp pl.length 32 - pl.length)

/-- The next ordinal of a consumer in the current tick. -/
def State.nextOrdinal (s : State) (r consumer : Nat) : State × Nat :=
  let (t, n) := (s.rep r).order.get (0, 0) consumer
  let n := if t = s.tick then n else 0
  (s.updRep r fun g => { g with order := g.order.set (0, 0) consumer (s.tick, n + 1) }, n)

/-- Write a record at the end of the trace; there must be room. -/
def State.traceWrite (s : State) (r ty consumer src : Nat) (pl : List Byte) : State :=
  let g := s.rep r
  let (s, o) := s.nextOrdinal r consumer
  let bs := traceBytes ty 0 o consumer (s.tick - g.start.getD s.tick) (s.plumb.now % 2 ^ s.tickLog) src g.next pl
  let s := (s.memWrite 0 (s.rpBase r + g.pos) bs).1
  s.updRep r fun g => { g with pos := g.pos + bs.length, seq := g.next, next := (g.next + 1) % 2 ^ 32 }

/-- Where the recorded inputs of a trace end, from an offset and a sequence number on: at a record of type 0 or 7, or at the
end of the region. -/
def State.traceEnd (s : State) (r : Nat) : Nat → Nat → Nat → Nat × Nat
  | 0, off, seq => (off, seq)
  | n + 1, off, seq =>
    if s.rpSize r < off + 32 then (off, seq) else
      let h := (s.memRead 0 (s.rpBase r + off) 32).2.data
      if leAt h 0 1 = 0 ∨ leAt h 0 1 = 7 then (off, seq)
      else State.traceEnd s r n (off + 32 + roundUp (leAt h 18 2) 32) ((leAt h 24 4 + 1) % 2 ^ 32)

/-- A group ends: an end marker if there is room, and DBG event 0x01 to PF0 and the owner (R57, 17 Table 17.11). The marker
of a replay stands after the recorded inputs, in place of the recorded end marker: the spec names no place for it (DESIGN
CHOICE, log entry 88). -/
def State.rpEnd (s : State) (r reason : Nat) : State :=
  let s := if (s.rep r).mode = 2 then
      let (pos, next) := s.traceEnd r (s.rpSize r / 32) 0 0
      s.updRep r ({ · with pos, next })
    else s
  let g := s.rep r
  let s := if g.start.isSome && decide (g.pos + 64 ≤ s.rpSize r) then s.traceWrite r 7 0 0 (leBytes 1 reason ++ zeros 7) else s
  let s := s.updRep r fun g => { g with ended := true, reason, stopAt := false }
  s.eventTo { blk := .dbg, num := 1, fn := s.rpOwner r, p0 := reason } (s.rpOwner r)

/-- Record an input that the group consumes (R55); a full trace ends the recording (R57). -/
def State.record (s : State) (r ty consumer src : Nat) (pl : List Byte) : State :=
  let g := s.rep r
  if g.mode ≠ 1 ∨ g.ended ∨ g.start.isNone then s
  else if s.rpSize r < g.pos + 32 + roundUp pl.length 32 then s.rpEnd r 1
  else s.traceWrite r ty consumer src pl

/-- A trace record as found: offset, type, consumer, relative tick, sequence number and payload. -/
structure TraceRec where
  off : Nat
  ty : Nat
  consumer : Nat
  rel : Nat
  seq : Nat
  payload : List Byte
  deriving DecidableEq, Repr

/-- Walk the trace from an offset to the first record for which `p` holds; the walk ends at a record of type 0 or 7. -/
def State.traceFind (s : State) (r : Nat) (p : TraceRec → Bool) : Nat → Nat → Option TraceRec
  | 0, _ => none
  | n + 1, off =>
    if s.rpSize r < off + 32 then none else
      let h := (s.memRead 0 (s.rpBase r + off) 32).2.data
      let ty := leAt h 0 1
      if ty = 0 ∨ ty = 7 then none else
        let len := leAt h 18 2
        let rec' : TraceRec := {
          off, ty, consumer := leAt h 4 4, rel := leAt h 8 8, seq := leAt h 24 4,
          payload := (s.memRead 0 (s.rpBase r + off + 32) len).2.data }
        if p rec' then some rec' else State.traceFind s r p n (off + 32 + roundUp len 32)

/-- The first unconsumed record for which `p` holds. -/
def State.traceNext (s : State) (r : Nat) (p : TraceRec → Bool) : Option TraceRec :=
  s.traceFind r (fun x => !(s.rep r).used.contains x.off && p x) (s.rpSize r / 32) 0

/-- Divergence (R59): an end marker with reason 3, DBG event 0x02 to PF0 and the owner with the seq of the first
unmatched record, and every member held at the next boundary. -/
def State.diverge (s : State) (r seq : Nat) : State :=
  let s := s.rpEnd r 3
  let s := s.eventTo { blk := .dbg, num := 2, fn := s.rpOwner r, p1 := seq } (s.rpOwner r)
  (List.range 192).foldl (fun t k => if t.rpMember r k then t.updCtx k ({ · with holdReq := true, dbgHold := true }) else t) s

/-- What a consumption under replay finds: a recorded payload, a tick not yet reached, or a divergence. -/
inductive Replayed where
  | got (pl : List Byte)
  | early
  | diverged
  deriving DecidableEq, Repr

/-- The seq of the first record of a trace that is not consumed; one past the last record read where every record is (no
record is unmatched then: DESIGN CHOICE, log entry 89). -/
def State.unmatched (s : State) (r : Nat) : Nat :=
  match s.traceNext r fun _ => true with
  | some x => x.seq
  | none => ((s.rep r).seq + 1) % 2 ^ 32

/-- A consumer reaches a consumption under replay (R58, R59). A wait sets flag [0] of the record in the trace, whose CRC stays
as recorded (DESIGN CHOICE, log entry 90). -/
def State.replay (s : State) (r ty consumer : Nat) : State × Replayed :=
  match s.traceNext r fun x => x.consumer == consumer with
  | none => (s.diverge r (s.unmatched r), .diverged)
  | some x =>
    if x.ty ≠ ty then (s.diverge r x.seq, .diverged)
    else if s.tick < (s.rep r).start.getD 0 + x.rel then
      ((s.memWrite 0 (s.rpBase r + x.off + 1) [1]).1, .early)
    else (s.updRep r fun g => { g with used := x.off :: g.used, seq := x.seq }, .got x.payload)

/-- Change the power state. -/
def State.updPwr (s : State) (g : Pwr → Pwr) : State := { s with pwr := g s.pwr }

/-- PWR_STAT (16 Table 16.16). -/
def State.pwrStat (s : State) : Nat :=
  s.pwr.plan + 4 * s.pwr.choice + 16 * s.thm.cap + 64 * min s.pwr.duty s.thm.duty + 2048 * b2n s.pwr.clamp + 4096 * s.pwr.ceil

/-- Run a change and audit PWR_STAT where it changes (15 R407). -/
def State.pwrAudited (s : State) (g : State → State) : State := (g s).auditDev 0x2044 s.pwrStat (g s).pwrStat

/-- The plan has changed from `was`: it counts, raises PWR event 0x01, and is an input of every group that records (02 Table
2.6). -/
def State.planChanged (s : State) (was : Nat) : State :=
  if s.pwr.plan = was then s else
    let s := (s.inc 0x2050).event { blk := .pwr, num := 1 }
    (List.range 4).foldl (fun s r => if (s.rep r).live then s.record r 6 0 0 (leBytes 1 s.pwr.plan ++ zeros 7) else s) s

/-- The recorded plan of a group's start applies as its first launch starts; a slower one that the governor has chosen stays
(01 Table 1.10 G). -/
def State.startPlan (s : State) (r : Nat) : State :=
  match s.traceNext r fun x => x.ty == 1 with
  | none => s
  | some x =>
    let p := leAt x.payload 9 1
    let was := s.pwr.plan
    let s := s.updRep r fun g => { g with used := x.off :: g.used, seq := x.seq, plan := some p }
    (s.pwrAudited fun s => s.updPwr fun w => { w with plan := max w.plan (min p 3) }).planChanged was

/-- The first launch of a group starts: its start tick, the group-start record when it records, and the recorded plan when it
replays (R54, R55, R58). -/
def State.rpLaunch (s : State) (k : Nat) : State :=
  match s.rpOf k with
  | none => s
  | some r =>
    if (s.rep r).start.isSome then s else
      let s := s.updRep r ({ · with start := some s.tick })
      if (s.rep r).mode = 2 then s.startPlan r else s.record r 1 0 0 (leBytes 8 s.tick ++ leBytes 1 s.tickLog ++ leBytes 1 s.pwr.plan ++ leBytes 4 (Config.vendor 1 0) ++ zeros 2)

end Sys2Proof.Machine
end

