-- ==== Sys2Proof/Machine/Dma.lean ====
section
/-! DEFINITION. Machine/Dma.lean: data movement for work queues and Phisal arrivals: where a range lies, and how bytes are
read and written there (07 Table 7.3; 08 R217 to R219; 13 R345, R348). -/

namespace Sys2Proof.Machine

/-- A byte with its poison mark. -/
abbrev PByte := Byte × Bool

/-- Is a controller in root-port mode? -/
def State.rootPort (s : State) (ctl : Nat) : Bool :=
  decide (1 ≤ ctl) && decide (ctl ≤ 3) && bitAt (s.reg (Blk.pcie.at ctl 0x040)) 0

/-- The controller that carries a function: 1 to 3 for B to D in endpoint mode, else A (13 R338). -/
def State.ctlOf (s : State) (fn : Nat) : Nat :=
  match [1, 2, 3].find? fun i => let v := s.reg (Blk.pcie.at i 0x040)
                                 !bitAt v 0 && bits v 9 1 == fn && fn != 0 with
  | some i => i
  | none => 0

/-- Where a piece of a transfer lies; a host address that ATS has translated carries `at_` (08 R234). -/
inductive DPlace where
  | host (fn addr : Nat) (at_ : Bool)
  | bus (ctl addr : Nat)
  | mem (off : Nat)
  | tile (a : Nat)
  | away
  | fault (cause : Nat)
  | refused
  deriving DecidableEq, Repr

/-- Where a fabric physical address lies for function `fn`: R217 faults with cause 0xB, R218 refuses a window. -/
def State.dmaAt (s : State) (fn tag pa n : Nat) (wr : Bool) : State × DPlace :=
  let off := pa % 2 ^ 50
  if pa / 2 ^ 50 ≠ s.devNum then (s, .away)
  else if !s.reachable fn off then (s.xltFault fn tag pa wr 0xB true, .fault 0xB)
  else match windowOf off with
    | some (e, x, o) => match s.windowAddr (4 * e + x) o n (some fn) with
      | some a => (s, .tile a)
      | none => (s, .refused)
    | none => (s, .mem off)

/-- A piece of a host range: at the address that ATS gave the command for its page, or untranslated where it gave none (08 R233
to R235). -/
def State.hostPlace (s : State) (e : DmaEnd) (va : Nat) (wr : Bool) : State × DPlace :=
  match e.given.find? fun g => g.want.fn == e.fn && g.want.tag == none && g.want.page == va / 4096 with
  | none => (s, .host e.fn va false)
  | some g => match s.useGot e.fn va wr g.got with
    | .fault c st => (s.xltFault e.fn 0 va wr c st, .fault c)
    | .ok a _ _ _ => (s, .host e.fn a true)

/-- The pieces of a range (08 R219; 13 Table 13.7). A controller that is no root port forwards nothing, which is a bus error (13 R339; log
entry 105). -/
def State.dmaPlaces (s : State) (e : DmaEnd) (n : Nat) (wr : Bool) : State × List (DPlace × Nat) :=
  let each (g : State → Nat → Nat → State × DPlace) : State × List (DPlace × Nat) :=
    (pagePieces e.addr n).foldl (fun acc x => let (t, p) := g acc.1 x.1 x.2
                                              (t, acc.2 ++ [(p, x.2)])) (s, [])
  if e.space = 0 then
    if (s.fns.get {} e.fn).atsOn then each fun s a _ => s.hostPlace e a wr else (s, [(.host e.fn e.addr false, n)])
  else if e.space = 1 then
    each fun s a n => match s.translateIn e.given e.fn e.tag a wr with
      | (t, .inl pa) => t.dmaAt e.fn e.tag pa n wr
      | (t, .inr c) => (t, .fault c)
  else if e.space ≤ 4 then (s, [(if s.rootPort (e.space - 1) then .bus (e.space - 1) e.addr else .refused, n)])
  else each fun s a n => s.dmaAt e.fn e.tag a n wr

/-- What a transfer has met: its status so far (13 Table 13.9) and the first fault cause. The first status stands, but a
translation fault is reported before others. -/
structure DmaRes where
  st : Nat := 0
  fault : Option Nat := none
  moved : Nat := 0
  deriving DecidableEq, Repr

/-- Note a status. -/
def DmaRes.note (r : DmaRes) (c : Nat) : DmaRes := { r with st := if r.st = 0 then c else r.st }

/-- The status and detail to report. -/
def DmaRes.status (r : DmaRes) : Nat × Nat :=
  match r.fault with
  | some c => (3, c)
  | none => (r.st, 0)

/-- Bytes of a tile store as a read from outside finds them, each with its poison. -/
def State.tsPBytes (s : State) (a n : Nat) : List PByte :=
  let t := s.seen (a / 0x800000)
  (List.range n).map fun i => (Tab.get t.tileMem 0 (a + i), t.tilePoison.get false ((a + i) / 8))

/-- Bytes of a line read with its report: stored poison and fresh uncorrectable lines are both sent poisoned. -/
def State.memPBytes (s : State) (rq off n : Nat) : State × List PByte × Nat :=
  let (s, rs) := (s.nocMem hubAgent off n).readPieces rq off n
  (s, (rs.map fun x => x.data.map fun b => (b, x.kind != 0)).flatten, rs.foldl (fun a x => max a x.kind) 0)

/-- Read a range: each byte with its poison, none where a part faults. Host and bus pieces take their bytes from `ext`. -/
def State.dmaRead (s : State) (ps : List (DPlace × Nat)) (ext : List Byte) : State × List (Option PByte) × DmaRes :=
  let (s, d, r, _) := ps.foldl (fun (acc : State × List (Option PByte) × DmaRes × List Byte) p =>
    let (s, d, r, ext) := acc
    let n := p.2
    match p.1 with
    | .host _ _ _ => (s, d ++ (slice ext 0 n).map fun b => some (b, false), r, ext.drop n)
    | .bus _ _ => (s, d ++ (slice ext 0 n).map fun b => some (b, false), r, ext.drop n)
    | .mem off => let (t, x, k) := s.memPBytes 2 off n
                  (t, d ++ x.map some, if k = 0 then r else r.note 4, ext)
    | .tile a =>
      let x := s.tsPBytes a n
      (s, d ++ x.map some, if x.any Prod.snd then r.note 4 else r, ext)
    | .away => (s, d ++ List.replicate n none, r.note 9, ext)
    | .refused => (s, d ++ List.replicate n none, r.note 0xA, ext)
    | .fault c => (s, d ++ List.replicate n none, { r with fault := some (r.fault.getD c) }, ext)) (s, [], {}, ext)
  (s, d, r)

/-- The runs of present bytes with one poison mark: (offset, bytes, poison). -/
def pRuns : Nat → List (Option PByte) → List (Nat × List Byte × Bool)
  | _, [] => []
  | i, some (b, z) :: t => match pRuns (i + 1) t with
    | (j, bs, y) :: rest => if j = i + 1 ∧ y = z then (i, b :: bs, z) :: rest else (i, [b], z) :: (j, bs, y) :: rest
    | [] => [(i, [b], z)]
  | i, none :: t => pRuns (i + 1) t

/-- The runs of present bytes: (offset, bytes). -/
def runsOf : Nat → List (Option PByte) → List (Nat × List PByte)
  | _, [] => []
  | i, some b :: t => match runsOf (i + 1) t with
    | (j, bs) :: rest => if j = i + 1 then (i, b :: bs) :: rest else (i, [b]) :: (j, bs) :: rest
    | [] => [(i, [b])]
  | i, none :: t => runsOf (i + 1) t

/-- Write bytes to protected memory for requester `rq`: a line that covers a poisoned byte is written poisoned (09 R243; Table 7.3).
The worst report. -/
def State.putMem (s : State) (rq off : Nat) (d : List PByte) (fe : Option Bool) : State × Nat :=
  (linePieces off d.length).foldl (fun acc x =>
    let part := (d.drop (x.1 + x.2.1 - off)).take x.2.2
    let (t, c) := acc.1.writePiece rq x.1 x.2.1 (part.map Prod.fst) (part.any Prod.snd) fe
    (t, max acc.2 c)) (s.nocMem hubAgent off d.length, 0)

/-- Place bytes into a tile store; the lines that cover poisoned ones are then poisoned (03 R65). -/
def State.tsPut (s : State) (a : Nat) (d : List PByte) (fe : Option Bool) : State :=
  (pRuns 0 (d.map some)).foldl (fun s x => if x.2.2 then s.tsPlace (a + x.1) x.2.1 none true else s)
    ((s.useNoc hubAgent (a / 0x800000)).tsPlace a (d.map Prod.fst) fe false)

/-- Write one run at a place: the state and a status. -/
def State.dmaPut (s : State) (p : DPlace) (o : Nat) (d : List PByte) (strict : Bool) : State × Nat :=
  let split (s : State) (g : State → Nat → List Byte → Bool → State) : State :=
    (pRuns 0 (d.map some)).foldl (fun s x => g s x.1 x.2.1 x.2.2) s
  match p with
  | .host fn a at_ =>
    (split s fun s i b z =>
      if z then (s.inc (Blk.pcie.at (s.ctlOf fn) 0x058)).emit (.hostPoisoned fn (a + o + i) b at_)
      else s.emit (.hostWrite fn (a + o + i) b (!strict) at_), 0)
  | .bus c a => (split s fun s i b z => (if z then s.inc (Blk.pcie.at c 0x058) else s).emit (.busWrite c (a + o + i) b z), 0)
  | .mem off => let (s, c) := s.putMem 2 (off + o) d none
                (s, if c = 0 then 0 else if c = 3 then 0xA else 4)
  | .tile a => (s.tsPut (a + o) d none, 0)
  | .away => (s, 9)
  | .refused => (s, 0xA)
  | .fault _ => (s, 0)

/-- Write a range: bytes that are none are not written. -/
def State.dmaWrite (s : State) (ps : List (DPlace × Nat)) (d : List (Option PByte)) (strict : Bool) (r : DmaRes) : State × DmaRes :=
  let (s, r, _) := ps.foldl (fun (acc : State × DmaRes × List (Option PByte)) p =>
    let (s, r, d) := acc
    match p.1 with
    | .fault c => (s, { r with fault := some (r.fault.getD c) }, d.drop p.2)
    | _ =>
      let (s, r) := (runsOf 0 (d.take p.2)).foldl (fun (acc : State × DmaRes) x =>
        let (t, c) := acc.1.dmaPut p.1 x.1 x.2 strict
        (t, if c = 0 then { acc.2 with moved := acc.2.moved + x.2.length } else acc.2.note c)) (s, r)
      (s, r, d.drop p.2)) (s, r, d)
  (s, r)

/-- The poisoned 256-byte blocks of a message. -/
def badOf (d : List (Option PByte)) : List Nat :=
  (List.range ((d.length + 255) / 256)).filter fun i => ((d.drop (256 * i)).take 256).any fun x => (x.map Prod.snd).getD false

/-- Payload bytes with the poison of their blocks. -/
def withBad (d : List Byte) (bad : List Nat) : List PByte := d.zipIdx.map fun x => (x.1, bad.contains (x.2 / 256))

end Sys2Proof.Machine
end

