-- ==== Sys2Proof/Machine/Memory.lean ====
section
/-! DEFINITION. Machine/Memory.lean: the meanings of the memory-stack commands (07_hbm_memory.md R194 to R209). -/

namespace Sys2Proof.Machine

/-- Is memory site `m` populated (17 Table 17.9)? -/
def State.siteThere (s : State) (m : Nat) : Bool :=
  decide (m < if s.glb.variant = 1 then 8 else if s.glb.variant = 2 then 6 else 4)

/-- HBM_STK_STAT (07 Table 7.7). -/
def Stack.stat (k : Stack) : Nat :=
  let two := (List.range 6).any fun g => decide (2 ≤ ((List.range 10).filter fun p => (k.writePc g p).isNone).length)
  k.st + 4 * b2n k.half + 8 * b2n k.rebuilt + 16 * (k.spareFor.getD 0) + 256 * b2n (k.spareFor.isSome && !k.rebuilt)
    + 512 * b2n two

/-- HBM_STK_STAT as read: a populated stack trains from the island's start to Primer service (16 Table 16.2). -/
def State.stackStat (s : State) (m : Nat) : Nat :=
  (s.stack m).stat + b2n ((s.stack m).st == 0 && s.siteThere m && s.boot.stage == 2 && s.boot.running.any (·.1 == 1))

/-- The lock-step groups with two erasures, bit g for group g (HBM event 0x04). -/
def Stack.twoErased (k : Stack) : Nat :=
  ((List.range 6).filter fun g => decide (2 ≤ ((List.range 10).filter fun p => (k.writePc g p).isNone).length)).foldl
    (fun a g => a + 2 ^ g) 0

/-- Symbols disturbed before a read: one of a chunk that is not initialised does not touch the stack (R200). -/
def State.disturbed (s : State) (m lam : Nat) (ns : List Noise) : State :=
  if (s.stack m).inited (lam / 8192) then s.disturb m lam ns else s

/-- Serve a line read. -/
def serveRead (s : State) (r : Requester) (off m lam : Nat) (ns : List Noise) : State :=
  let (t, x) := (s.disturbed m lam ns).readPiece (reqCode r) (256 * (off / 256)) 0 256
  t.emit (.line r off x.kind x.data)

/-- Report a write that was not applied to its requester (07 Table 7.3): an application core raises HBM event
0x07, an engine's context holds code 0x09 for its next FENCE or HALT. -/
def reportWrite (s : State) (r : Requester) (off m lam kind : Nat) : State :=
  let s := match r with
    | .core n => if kind = 2 then s.event { blk := .hbm, inst := m, num := 7, p0 := lam, p1 := n } else s
    | .engine e x => if 2 ≤ kind then s.holdErr (4 * e + x) 9 true else s
    | _ => s
  s.emit (.line r off kind [])

/-- Serve a line write. -/
def serveWrite (s : State) (r : Requester) (off m lam : Nat) (d : List Byte) (poison : Bool) : State :=
  let (t, k) := s.writePiece (reqCode r) (256 * (off / 256)) 0 d poison none
  reportWrite t r off m lam k

/-- Serve merged partial writes of a line: of the sync region, those of whole words (R197, R211). -/
def serveParts (s : State) (r : Requester) (off m lam : Nat) (parts : List (Nat × List Byte)) (ns : List Noise) : State :=
  let line := 256 * (off / 256)
  let s := s.disturbed m lam ns
  let (t, k) :=
    if s.inSync line then
      let whole := parts.filter fun x => x.1 % 8 == 0 && x.2.length % 8 == 0
      let (t, k) := if whole.isEmpty then (s, 0) else s.putWords line m lam (reqCode r) whole false none
      (t, if whole.length < parts.length then 3 else k)
    else s.writeParts line m lam (reqCode r) parts
  reportWrite t r off m lam k

/-- The rebuild moves on by one line; after the last group it is complete (R202). -/
def rebuildAdvance (s : State) (m : Nat) : State :=
  let k := s.stack m
  if k.rebuildPtr + 1 < 33554432 then s.updStack m ({ · with rebuildPtr := k.rebuildPtr + 1 })
  else if k.rebuildGrp + 1 < 4 then s.updStack m ({ · with rebuildPtr := 0, rebuildGrp := k.rebuildGrp + 1 })
  else
    let s := s.updStack m ({ · with rebuilt := true, rebuildPtr := 0, rebuildGrp := 0 })
    let s := s.event { blk := .hbm, inst := m, num := 3, p0 := k.spareFor.getD 0, p1 := s.ticks - k.rebuildFrom }
    s.auditDev (Blk.hbm.at m 0x040) k.stat (s.stack m).stat

/-- A scrub of line λ (R199): the pass goes on in ascending order over the initialised lines, and counts when none is left. -/
def serveScrub (s : State) (m lam : Nat) (ns : List Noise) : State :=
  let t := ((s.disturbed m lam ns).readAny m lam 6).1
  match (t.stack m).nextLine (lam + 1) with
  | some _ => t.updStack m ({ · with scrubAt := lam + 1 })
  | none => (t.updStack m ({ · with scrubAt := 0 })).inc (Blk.sand.at m 0x058)

/-- A rebuild step of line λ (R202). -/
def serveRebuild (s : State) (m lam : Nat) (ns : List Noise) : State :=
  rebuildAdvance
    (if (s.stack m).inited (lam / 8192) then
      let (t, r) := (s.disturb m lam ns).readAny m lam 6
      if r.kind = 0 then t.storeData m lam r.data false else t
     else s) m

/-- Serve a held request once its bank reopens (07 R206). -/
def serveHeld (s : State) (c : Instr) : State :=
  match c with
  | .hbmRead r off ns => match s.locate off with
    | some (m, lam) => serveRead s r off m lam ns
    | none => s
  | .hbmWrite r off d poison => match s.locate off with
    | some (m, lam) => serveWrite s r off m lam d poison
    | none => s
  | .hbmPartialWrite r off parts ns => match s.locate off with
    | some (m, lam) => serveParts s r off m lam parts ns
    | none => s
  | .sanderScrub m lam ns => serveScrub s m lam ns
  | .sanderRebuildStep m ns => match (s.stack m).spareFor with
    | some d => serveRebuild s m ((s.stack m).rebuildPtr * 6 + (groupsOf d).getD (s.stack m).rebuildGrp 0) ns
    | none => s
  | _ => s

/-- A request to a fenced bank is held in arrival order; any other is served (07 R206). -/
def orHold (s : State) (m lam : Nat) (c : Instr) : State :=
  if (s.stack m).fenced lam then s.updStack m fun k => { k with held := k.held ++ [c] } else serveHeld s c

/-- Is the stack of a line operating (in service or failed, so that its controller answers)? -/
def State.operating (s : State) (m : Nat) : Bool := decide (2 ≤ (s.stack m).st)

/-- The repaired row's lines are written back with fresh checks, poisoned where they cannot be read (07 R206); one of the side
table is read as R213 states. -/
def State.rewriteLine (s : State) (m lam : Nat) : State :=
  if s.inSide (s.offsetOf m lam) then
    let (t, r) := s.readSideAt (s.offsetOf m lam) 6
    if r.kind = 0 then t.storeData m lam r.data false else t
  else
  let raw := s.rawLine m lam
  let dec := (List.range 32).map fun c => decodeCode (raw.map fun o => o.map (·.getD c 0))
  let data := (((List.range 10).map fun p => dec.map fun d => d.1.getD p 0).take 8).flatten
  s.storeData m lam data (dec.any fun d => d.2 == .bad || d.2 == .poison)

/-- Line λ of column `col` of a row of lock-step group `g`. -/
def rowLine (g bank row col : Nat) : Nat := (1024 * row + col * 16 + bank) * 6 + g

/-- May a requester reach a line: no one the side table (R210), and a core the infrastructure partition only (08 Table 8.2)? -/
def State.admits (s : State) (r : Requester) (off : Nat) : Bool :=
  s.inMem off && match r with
    | .core _ => s.inInfra off
    | _ => true

/-- HBM_READ (R194 to R196): the line goes to its requester. -/
def execHbmRead (r : Requester) (off : Nat) (noise : List Noise) (s : State) : Res :=
  match s.locate off with
  | none => .fault .notDue
  | some (m, lam) => due (s.operating m && s.admits r off) (orHold s m lam (.hbmRead r off noise))

/-- HBM_WRITE (R194, R209, R211). -/
def execHbmWrite (r : Requester) (off : Nat) (data : List Byte) (poison : Bool) (s : State) : Res :=
  match s.locate off with
  | none => .fault .notDue
  | some (m, lam) =>
    due (s.operating m && s.admits r off && off % 256 == 0 && data.length == 256) (orHold s m lam (.hbmWrite r off data poison))

/-- HBM_PARTIAL_WRITE (R196, R197). -/
def execHbmPartialWrite (r : Requester) (off : Nat) (parts : List (Nat × List Byte)) (noise : List Noise) (s : State) : Res :=
  match s.locate off with
  | none => .fault .notDue
  | some (m, lam) =>
    due (s.operating m && s.admits r off && !parts.isEmpty && parts.all fun x => decide (x.1 + x.2.length ≤ 256))
      (orHold s m lam (.hbmPartialWrite r off parts noise))

/-- SANDER_SCRUB (R199) of the next line of the pass. The spec gives no order of a pass: it goes in ascending order (DESIGN CHOICE,
log entry 99). -/
def execSanderScrub (m lam : Nat) (noise : List Noise) (s : State) : Res :=
  due ((s.stack m).st == 2 && (s.stack m).nextLine (s.stack m).scrubAt == some lam) (orHold s m lam (.sanderScrub m lam noise))

/-- SANDER_INIT (R200): the next uninitialised chunk in ascending order. -/
def execSanderInit (m : Nat) (s : State) : Res :=
  due ((s.stack m).st == 2 && decide (0 < (s.stack m).initLeft)) (s.initChunk m (s.stack m).initPtr)

/-- A die retires, with an entry in the health history (R201, R202, R204). -/
def retireDie (s : State) (m die cause : Nat) : State :=
  let k := s.stack m
  let spare := k.spareFor.isNone && !k.retired.getLsbD 15 && die != 15
  let k' : Stack := { k with
    retired := k.retired ||| (1#16 <<< die)
    pendDie := k.pendDie.drop 1
    spareFor := if spare then some die else if die = 15 then none else k.spareFor
    rebuilt := if spare then false else k.rebuilt && !(die == 15)
    rebuildGrp := if spare then 0 else k.rebuildGrp
    rebuildPtr := if spare then 0 else k.rebuildPtr
    rebuildFrom := if spare then s.ticks else k.rebuildFrom }
  let lost := !spare && (die != 15 || k.spareFor.isSome)
  let ev : Ev := { blk := .hbm, inst := m, num := 2, p0 := die, p1 := cause, p2 := b2n spare }
  let s := ((s.updStack m fun _ => { k' with lostProtection := k.lostProtection || lost }).event ev).healthRec (s.evRecord ev)
  let s := s.auditDev (Blk.hbm.at m 0x044) k.retired.toNat k'.retired.toNat
  let s := s.auditDev (Blk.hbm.at m 0x040) k.stat k'.stat
  if lost && !k.lostProtection then
    s.event { blk := .hbm, inst := m, num := 4, p0 := die, p1 := k'.twoErased }
  else s

/-- DIE_RETIRE (R201): the oldest declared failure takes effect, at a boundary after its declaration. A die whose pseudo-channel has
exhausted its retries is declared failed by the command that names it. -/
def execDieRetire (m : Nat) (lost : Option Nat) (s : State) : Res :=
  let k := s.stack m
  match lost with
  | some d =>
    due (k.st == 2 && decide (d < 16) && !k.retired.getLsbD d && !k.pendDie.any (·.1 == d))
      (s.updStack m fun k => { k with pendDie := k.pendDie ++ [(d, 1, s.ticks)] })
  | none => match k.pendDie with
    | [] => .fault .notDue
    | (die, cause, t) :: _ => due (decide (t < s.ticks)) (retireDie s m die cause)

/-- SANDER_REBUILD_STEP (R202): one line of the group under rebuild. -/
def execSanderRebuildStep (m : Nat) (noise : List Noise) (s : State) : Res :=
  let k := s.stack m
  match k.spareFor with
  | none => .fault .notDue
  | some d =>
    let g := (groupsOf d).getD k.rebuildGrp 0
    let lam := k.rebuildPtr * 6 + g
    due (k.st == 2 && !k.rebuilt && k.hasSpare d) (orHold s m lam (.sanderRebuildStep m noise))

/-- ROW_REPAIR_START (R206, Table 7.6): from the boundary after the request the bank is fenced and its row copied. -/
def execRowRepairStart (m : Nat) (s : State) : Res :=
  match (s.stack m).repair with
  | none => .fault .notDue
  | some r =>
    due (r.stage == 1 && decide (r.tick < s.ticks))
      ((List.range 64).foldl (fun t c => (t.readAny m (rowLine ((s.stack m).pcGroup r.pc) r.bank r.row c) 6).1)
        (s.updStack m ({ · with repair := some { r with stage := 2, tick := s.ticks } })))

/-- ROW_REPAIR_COMPLETE (R206): the row is written back and its entry written to MRAM. -/
def execRowRepairComplete (m : Nat) (s : State) : Res :=
  match (s.stack m).repair with
  | none => .fault .notDue
  | some r =>
    due (r.stage == 2)
      (let s := (List.range 64).foldl (fun t c =>
          let lam := rowLine ((s.stack m).pcGroup r.pc) r.bank r.row c
          if (t.stack m).inited (lam / 8192) then t.rewriteLine m lam else t) s
       let s := s.updStack m ({ · with repair := some { r with stage := 3, tick := s.ticks }, repairOut := 0 })
       let entry : RepairEntry := { stack := m, die := r.pc / 4, pc := r.pc % 4, bank := r.bank, row := r.row, time := s.plumb.now }
       ({ s with mem := { s.mem with repairs := s.mem.repairs ++ [entry] } }).event
         { blk := .sand, inst := m, num := 2, p0 := r.pc, p1 := r.bank, p2 := r.row })

/-- HBM_STACK_LOST (R204): the stack is failed and every access to it reports uncorrectable. -/
def execHbmStackLost (m : Nat) (s : State) : Res :=
  due ((s.stack m).st == 2)
    (let t := (s.updStack m ({ · with st := 3 })).event { blk := .hbm, inst := m, num := 5, p0 := 2 }
     t.auditDev (Blk.hbm.at m 0x040) (s.stack m).stat (t.stack m).stat)

/-! ## Diagnostics (R207 to R209): the effects of HBM_DIAG_CMD -/

/-- May a diagnostic command act on HBM_DIAG_ADDR (R207)? -/
def State.diagTargetOk (s : State) : Bool := s.inMem (s.reg 0x68048)

/-- The 320 stored bytes of a line, free where the position is on a retired die that nothing replaces. -/
def State.rawBytes (s : State) (m lam : Nat) : State × List Byte :=
  (s.rawLine m lam).foldl (fun acc o => match o with
    | some b => (acc.1, acc.2 ++ b)
    | none => (List.range 4).foldl (fun a _ => let (v, t) := a.1.free
                                               (t, a.2 ++ leBytes 8 v.toNat)) acc) (s, [])

/-- Command 1: raw read into HBM_DIAG_DATA and HBM_DIAG_CHECK. -/
def diagRead (s : State) : State :=
  match s.locate (s.reg 0x68048) with
  | none => s
  | some (m, lam) =>
    let (s, bs) := s.rawBytes m lam
    (List.range 40).foldl (fun t i =>
      t.setReg (if i < 32 then 0x68100 + 8 * i else 0x68200 + 8 * (i - 32)) (leAt bs (8 * i) 8)) s

/-- Command 2: raw write of the same bytes, unencoded. -/
def diagWrite (s : State) : State :=
  match s.locate (s.reg 0x68048) with
  | none => s
  | some (m, lam) =>
    let bs := ((List.range 40).map fun i =>
      leBytes 8 (s.reg (if i < 32 then 0x68100 + 8 * i else 0x68200 + 8 * (i - 32)))).flatten
    (s.initChunk m (lam / 8192)).storeLine m lam ((List.range 10).map fun p => slice bs (32 * p) 32)

/-- The effect of an accepted HBM_DIAG_CMD. -/
def diagCommand (s : State) (cmd : Nat) : State :=
  let s := { s with mem := { s.mem with diagRefused := false } }
  match cmd with
  | 1 => diagRead s
  | 2 => diagWrite s
  | 3 => { s with mem := { s.mem with flip := some (s.reg 0x68048 / 256) } }
  | 4 => { s with mem := { s.mem with flip := none } }
  | _ => s

/-- Is a diagnostic command permitted: its target, and mode 1 for a raw write, mode 2 for a flip (Table 7.8)? -/
def State.diagOk (s : State) (cmd : Nat) : Bool :=
  let mode := s.fld 0x68044 1 0
  match cmd with
  | 1 => s.diagTargetOk
  | 2 => s.diagTargetOk && mode == 1
  | 3 => s.diagTargetOk && mode == 2
  | _ => true

end Sys2Proof.Machine
end

