-- ==== Sys2Proof/Machine/Health.lean ====
section
/-! DEFINITION. Machine/Health.lean: bookings, observation, in-field tests, retirement, migration and Stipple checks
(15 R389 to R400, 03 R86). -/

namespace Sys2Proof.Machine

/-! ## The Scrim (15 R389) -/

/-- A Scrim mismatch on tile `t` in a slice of context `k` is booked and reported (Table 15.1): HLTH event 0x01. -/
def State.scrimBook (s : State) (t k kind slice : Nat) : State :=
  let s := s.inc (Blk.hlth.at 0 0x058)
  let s := s.hlthEvent 1 ((k / 4) % 64 + 64 * t + 4096 * (k % 4)) (min slice 255 + 256 * kind) ((s.ctx k).slices % 65536)
  s.book t k kind (if slice = 255 then locusChecksum else slice)

/-- Does STIP_CFG ask for reports in place of re-runs (R389)? -/
def State.scrimReport (s : State) : Bool := bitAt (s.reg (Blk.stip.at 0 0x040)) 8

/-- The booking of what the Scrim saw: tile, context, outcome (Table 15.1). -/
def State.scrimBookings (s : State) (t k : Nat) (sc : Scrim) : State :=
  let kind (n : Nat) : Nat := if s.scrimReport then 3 else n
  match sc with
  | .clean => s
  | .pending _ sl => if s.scrimReport then s.scrimBook t k 3 sl else s
  | .samePass _ sl => s.scrimBook t k (kind 0) sl
  | .otherPass _ sl => s.scrimBook t k (kind 1) sl
  | .again _ sl => s.scrimBook t k (kind 2) sl

/-- Has an execution passed the Scrim check, after a re-run where one was made (01 Table 1.10 entry L)? -/
def State.scrimPassed (s : State) (sc : Scrim) : Bool :=
  match sc with
  | .clean => true
  | .samePass _ _ => !s.scrimReport
  | .otherPass _ _ => !s.scrimReport
  | _ => false

/-- What a product instruction's Scrim saw: the state after booking, and the output tile whose lines are poisoned. The
re-run of a passing check gives the values of the rules, so that only a persistent mismatch shows in the result. A sampled slice
that has not passed is not compared (01 Table 1.10 entry L). -/
def State.scrim (s : State) (k : Nat) (sc : Scrim) : State × Option Nat :=
  let ok := s.scrimPassed sc
  let report := s.scrimReport
  let s := s.scrimBookings (s.tileOf (k / 4)) k sc
  let s := if (s.ctx k).rerun.isSome then s.updCtx k ({ · with rerun := none }) else s
  let s := if ok then s else match s.checkOf k with
    | some c => if c.mirror.final.isNone then s.setCheck k (some { c with scrimBad := true }) else s
    | none => s
  (s, match sc with
    | .again t _ => if report then none else some t
    | _ => none)

/-- The mismatch, by output tile and slice, that leaves a re-run pending; a device that reports makes none (R389). -/
def State.pendingRerun (s : State) (sc : Scrim) : Option (Nat × Nat) :=
  match sc with
  | .pending t sl => if s.scrimReport then none else some (t, sl)
  | _ => none

/-- Run a product instruction, unless a mismatch that it met leaves its re-run pending: then nothing is written, and the
instruction issues again. -/
def Run.unlessPending (r : Run) (sc : Scrim) (g : Run → Run) : Run :=
  match r.s.pendingRerun sc with
  | some x => { r.upd (·.updCtx r.k ({ · with rerun := some x })) with npc := some (r.s.ctx r.k).pc }
  | none => g r

/-- A re-run that is pending when its owner is masked is abandoned, and booked as such (01 Table 1.10 entry P). -/
def State.dropRerun (s : State) (k : Nat) : State :=
  match (s.ctx k).rerun with
  | none => s
  | some (_, sl) => (s.book (s.tileOf (k / 4)) k 4 (if sl = 255 then locusChecksum else sl)).updCtx k ({ · with rerun := none })

/-! ## Spares and migration (03 R86, 15 R396) -/

/-- A spare that a migration may take: one that is not under observation first, the lowest tile among equals. -/
def State.freeSpare (s : State) : Option Nat :=
  match firstIdx 52 fun t => (s.tile t).role == 1 && !(s.tile t).observing with
  | some t => some t
  | none => firstIdx 52 fun t => (s.tile t).role == 1

/-- A running context leaves its engine (04 R125): a wait or a fence is abandoned, to be issued again. -/
def State.leaveCtx (s : State) (k : Nat) : State :=
  if (s.ctx k).st = 2 then (s.endWait k).updCtx k ({ · with st := 1, mid := true, fence := none }) else s

/-- The switch-out that begins a migration (R86). -/
def State.switchOut (s : State) (e : Nat) : State :=
  let s := (List.range 4).foldl (fun t x => t.leaveCtx (4 * e + x)) s
  s.updEng e ({ · with interval := none, switching := none, ovr := false })

/-- A migration of engine `e` to tile `t` is ordered; the spare is reserved as its engine, and the switch-out follows at
the next boundary. -/
def State.migrate (s : State) (e t : Nat) : State :=
  s.audited t (some e) fun s =>
    (s.updEng e ({ · with migrTo := some t })).updTile t ({ · with role := 0 })

/-- A Stipple check gives up its spare (15 R396): the first check in progress, whose sample is abandoned. -/
def State.dropCheck (s : State) (why : Nat) : State × Option Nat :=
  match s.hlth.checks with
  | [] => (s, none)
  | c :: _ => (s.abandonCheck c why, some c.checker)

/-- The tile of a retired or tested engine is left for a spare; without one the engine has no tile (15 R396). -/
def State.leaveTile (s : State) (e : Nat) (must : Bool) : State :=
  match s.freeSpare with
  | some t => s.migrate e t
  | none => if !must then s else
    match s.dropCheck 1 with
    | (s, some t) => s.migrate e t
    | (s, none) =>
      let s := (s.switchOut e).updEng e ({ · with noTile := true })
      let s := (List.range 4).foldl (fun u x => u.updCtx (4 * e + x) fun c =>
        if c.st = 3 then c else { c with heldFrom := c.st, st := 3 }) s
      s.hlthEvent 9 e

/-- MIGRATION_COPY_COMPLETE (03 R86): the store moves, the engine is on the new tile and held transfers are released in
arrival order by their caller. -/
def State.migrated (s : State) (e t : Nat) : State :=
  let old := s.tileOf e
  let move (a : Nat) : Nat := a % 0x800000 + 0x800000 * t
  let mine (n : Nat) (x : Nat) : Bool := x / n == old
  let s := s.tsClear (0x800000 * t) 0x800000
  let bytes := s.tileMem.filter fun (x : Host.Cell) => mine 0x800000 x.1
  let full := s.tileFull.filter fun (x : Nat × Bool) => mine 0x100000 x.1
  let bad := s.tilePoison.filter fun (x : Nat × Bool) => mine 0x100000 x.1
  let s := { s with
    tileMem := bytes.foldl (fun m (x : Host.Cell) => Tab.set m 0 (move x.1) x.2) s.tileMem
    tileFull := full.foldl (fun m (x : Nat × Bool) => m.set false (x.1 % 0x100000 + 0x100000 * t) x.2) s.tileFull
    tilePoison := bad.foldl (fun m (x : Nat × Bool) => m.set false (x.1 % 0x100000 + 0x100000 * t) x.2) s.tilePoison }
  let s := s.tsClear (0x800000 * old) 0x800000
  let s := s.audited old (some e) fun s =>
    let s := s.updEng e fun g => { g with tile := some t, migrTo := none, moved := g.moved + 1, copying := false }
    s.updTile old fun x =>
      if x.role = 4 then x else if x.dueNow.isSome then { x with role := 2, testTick := s.ticks, dueNow := none } else { x with role := 1 }
  s.event { blk := .eng, inst := e, num := 7 }

/-! ## Commands on tiles -/

/-- Seconds until the next test of a tile (15 R395, R397). -/
def State.testEvery (s : State) (x : Tile) : Nat := if x.observing then 3600 else 3600 * s.fld (Blk.hlth.at 0 0x040) 7 0

/-- OBSERVATION_END (R395): the period passed without a further booking. -/
def execObservationEnd (t : Nat) (s : State) : Res :=
  let x := s.tile t
  due (decide (t < 52) && x.observing && decide (x.obsFrom + 86400 * s.fld (Blk.hlth.at 0 0x040) 11 8 ≤ s.glb.opSec))
    ((s.audited t none (·.updTile t ({ · with observing := false, loci := [] }))).hlthEvent 3 t)

/-- TEST_DUE (R397): the operating second of the next test is reached. -/
def execTestDue (t : Nat) (s : State) : Res :=
  let x := s.tile t
  due (decide (t < 52) && decide (x.due ≤ s.glb.opSec) && x.dueNow.isNone && x.role != 2 && x.role != 4) (s.dueNow t 0)

/-- Tests of tiles that run or whose migration is under way. -/
def State.testsNow (s : State) : Nat :=
  ((List.range 52).filter fun t => (s.tile t).role == 2).length
    + ((List.range 48).filter fun e => (s.eng e).migrTo.isSome && (s.tile (s.tileOf e)).dueNow.isSome).length

/-- Is no context of the engine resident? -/
def State.idleEngine (s : State) (e : Nat) : Bool := (List.range 4).all fun x => (s.ctx (4 * e + x)).st == 0

/-- Can a due test of tile `t` start now: a spare, an engine without contexts, or a free spare to move to (R397)? -/
def State.canTest (s : State) (t : Nat) : Bool :=
  let x := s.tile t
  x.dueNow.isSome && x.role != 2 && x.role != 4 && x.role != 3 &&
    (x.role == 1 || (match s.engineOn t with
      | some e => (s.eng e).migrTo.isNone && (s.idleEngine e || s.freeSpare.isSome)
      | none => true))

/-- Does due test `u` come before `t` (R397: by due time, then the lower tile)? -/
def State.testBefore (s : State) (u t : Nat) : Bool :=
  match (s.tile u).dueNow, (s.tile t).dueNow with
  | some a, some b => decide (a.2 < b.2) || (a.2 == b.2 && decide (u < t))
  | _, _ => false

/-- TEST_START (R397). -/
def execTestStart (t : Nat) (s : State) : Res :=
  due (decide (t < 52) && s.canTest t && decide (s.testsNow < s.fld (Blk.hlth.at 0 0x040) 14 12)
      && (List.range 52).all fun u => !(s.canTest u && s.testBefore u t))
    (let s := s.inc (Blk.hlth.at 0 0x068)
     let start (place : Bool) : State := s.audited t (s.engineOn t) (·.updTile t fun x =>
       { x with role := 2, testTick := s.ticks, dueNow := none, inPlace := place })
     if (s.tile t).role = 1 then start false
     else match s.engineOn t with
       | none => start false
       | some e => if s.idleEngine e then start true else s.leaveTile e false)

/-- TEST_DEFER_TIMEOUT (R397): a test that has waited 1,000,000 ticks runs in place, its contexts held. The contents of
the save area have no layout in the spec (log entry 14). -/
def execTestDeferTimeout (t : Nat) (s : State) : Res :=
  match (s.tile t).dueNow, s.engineOn t with
  | some (_, since), some e =>
    due (decide (since + 1000000 ≤ s.ticks) && (s.tile t).role == 0 && (s.eng e).migrTo.isNone)
      (let s := (s.inc (Blk.hlth.at 0 0x078)).inc (Blk.hlth.at 0 0x068)
       let s := s.hlthEvent 5 t (s.ticks - since)
       s.audited t (some e) fun s =>
         ((s.switchOut e).updEng e ({ · with underTest := true })).updTile t
           ({ · with role := 2, testTick := s.ticks, dueNow := none, inPlace := true }))
  | _, _ => .fault .notDue

/-- The result of a command that waits for a unit's test. -/
def State.cmdDone (s : State) (kind i outcome : Nat) : State :=
  if s.hlth.cmd = some (kind, i) then { s with hlth := { s.hlth with cmd := none, outcome } } else s

/-- TEST_COMPLETE (R398, R400): kinds 0 tile, 1 port, 2 plane, 3 core; every test takes 64 ticks. A port or a core that fails is
booked with a count only (R393). -/
def execTestComplete (kind i : Nat) (pass : Bool) (locus : Nat) (s : State) : Res :=
  let unit' := i + 256 * kind
  let report (s : State) : State :=
    let s := s.cmdDone kind i (b2n !pass)
    if pass then s.hlthEvent 6 unit' else (s.inc (Blk.hlth.at 0 0x070)).hlthEvent 7 unit' locus
  if kind = 0 then
    let x := s.tile i
    due (decide (i < 52) && x.role == 2 && decide (x.testTick + 64 ≤ s.ticks))
      (let e := s.engineOn i
       let s := s.audited i e fun s =>
         let s := s.updTile i fun x => { x with role := if x.inPlace then 0 else 1, inPlace := false, due := s.glb.opSec + s.testEvery x }
         match e with
         | some e => s.updEng e ({ · with underTest := false })
         | none => s
       let s := report s
       if pass then s else
         let s := s.book i (4 * e.getD 0) 9 locus
         let s := s.updTile i ({ · with observing := true, obsFrom := s.glb.opSec })
         match e with
         | some e => if (s.tile i).retire then s else s.leaveTile e false
         | none => s)
  else
    due (s.hlth.tests.any fun x => x.1 == kind && x.2.1 == i && decide (x.2.2 + 64 ≤ s.ticks))
      (let s := { s with hlth := { s.hlth with tests := s.hlth.tests.filter fun x => !(x.1 == kind && x.2.1 == i) } }
       let s := if kind = 2 ∧ pass then
           { s with noc := if i = 0 then { s.noc with passed0 := true } else { s.noc with passed1 := true } } else s
       report (if pass then s else { s with nv := { s.nv with booked := s.nv.booked.upd 0 (64 * kind + i) (· + 1) } }))

/-- TILE_RETIRE (R396). -/
def execTileRetire (t : Nat) (s : State) : Res :=
  let x := s.tile t
  due (decide (t < 52) && x.retire && x.role != 4)
    (let e := s.engineOn t
     let s := s.audited t e fun s =>
       let s := s.updTile t ({ · with role := 4, retire := false, dueNow := none })
       match e with
       | some e => s.leaveTile e true
       | none => s
     s.hlthEvent 8 t (e.getD 0xFF))

/-! ## HLTH_CMD (R400): called by the register write -/

/-- The effect of HLTH_CMD; a refused one answers none. `idleUnit` says that a port is in mode 0, a core offline or a
plane out of service. -/
def hlthCommand (s : State) (v : Nat) (idleUnit : Bool) : Option State :=
  let i := bits v 5 0
  let kind := bits v 9 8
  let op := bits v 11 10
  if v / 2 ^ 31 % 2 = 0 then some s
  else if op = 1 then
    if kind = 0 ∧ i < 52 ∧ (s.tile i).role ≠ 4 then
      some (s.updTile i ({ · with retire := true })) else none
  else if kind = 0 then
    if i < 52 ∧ (s.tile i).role ≠ 4 then
      some { (s.dueNow i 2) with hlth := { (s.dueNow i 2).hlth with cmd := some (0, i), outcome := 3 } } else none
  else if idleUnit then
    let s := s.inc (Blk.hlth.at 0 0x068)
    some { s with hlth := { s.hlth with tests := s.hlth.tests ++ [(kind, i, s.ticks)], cmd := some (kind, i) } }
  else none

/-! ## Stipple (R390 to R392) -/

/-- A checker for a slice on tile `t`: a spare neither under observation nor busy, on another die if possible. -/
def State.checker (s : State) (t : Nat) : Option Nat :=
  let ok (u : Nat) : Bool := (s.tile u).role == 1 && !(s.tile u).observing && (s.tile u).dueNow.isNone
  match firstIdx 52 fun u => ok u && u / 13 != t / 13 with
  | some u => some u
  | none => firstIdx 52 ok

/-- Is a test of some tile waiting for a spare, so that Stipple starts no new check (R397)? -/
def State.testWaits (s : State) : Bool := (List.range 52).any fun t => (s.tile t).dueNow.isSome && !s.canTest t

/-- The sampling decision at the start of a slice of context `k` (R390). -/
def State.stippleSample (s : State) (k : Nat) : State :=
  let t := s.tileOf (k / 4)
  let rate := s.fld (Blk.stip.at 0 0x040) 4 0
  let n := if (s.tile t).observing then 4 else rate
  let key := leBytes 4 (s.reg (Blk.stip.at 0 0x044)) ++ leBytes 1 (k / 4) ++ leBytes 1 (k % 4) ++ leBytes 2 (s.ctx k).slices
  if n = 0 ∨ crc32c key % 2 ^ n ≠ 0 ∨ s.hlth.checks.any (·.k == k) then s
  else if s.testWaits then s.inc (Blk.stip.at 0 0x068)
  else match s.checker t with
    | none => s.inc (Blk.stip.at 0 0x068)
    | some u =>
      let s := (s.inc (Blk.stip.at 0 0x050)).updTile u ({ · with role := 3 })
      { s with hlth := { s.hlth with checks := s.hlth.checks ++ [{
        k, slice := (s.ctx k).slices % 65536, checker := u, mirror := s.mirrorStart k }] } }

/-- A STIP event about a check. -/
def State.stipEvent (s : State) (num : Nat) (c : Check) : State :=
  let e := c.k / 4
  let ev : Ev := {
    blk := .stip, num, fn := s.owner c.k, p0 := e % 64 + 64 * s.tileOf e + 4096 * (c.k % 4), p1 := c.checker + 64 * (c.second.getD 0),
    p2 := c.slice }
  if num = 1 then s.eventTo ev (s.owner c.k) else s.event ev

/-- The undecided verdict (Table 15.2). -/
def State.stipUndecided (s : State) (c : Check) : State :=
  let t := s.tileOf (c.k / 4)
  (((s.stipEvent 3 c).book t c.k 6 locusChecksum).book c.checker c.k 6 locusChecksum).setCheck c.k none

/-- STIPPLE_COMPARE (R392): the sampled slice has ended and the checker's re-execution is compared. `sc` is what the Scrim saw in
the re-execution. The comparison is made only where both executions have passed the Scrim check; else the check ends without a
verdict (01 Table 1.10 entry L, log entry 84). -/
def execStippleCompare (e x : Nat) (equal : Bool) (sc : Scrim) (s : State) : Res :=
  let k := 4 * e + x
  match s.checkOf k with
  | none => .fault .notDue
  | some c =>
    due (c.second.isNone && c.missing.isNone && c.mirror.final.isSome)
      (let ok := !c.scrimBad && s.scrimPassed sc
       let s := s.scrimBookings c.checker k sc
       if !ok then s.setCheck k none
       else if equal then (s.inc (Blk.stip.at 0 0x058)).setCheck k none
       else
         let s := s.inc (Blk.stip.at 0 0x060)
         match s.checker (s.tileOf e) with
         | some u => (s.updTile u ({ · with role := 3 })).setCheck k (some { c with second := some u })
         | none => s.setCheck k (some { c with missing := some s.ticks }))

/-- STIPPLE_SECOND_CHECK (R392, Table 15.2). A check that lacked a second spare takes one now if one qualifies. A second execution
that has not passed its Scrim check is not compared, so that the mismatch is undecided. -/
def execStippleSecondCheck (e x : Nat) (eqPrimary eqFirst : Bool) (sc : Scrim) (s : State) : Res :=
  let k := 4 * e + x
  match s.checkOf k with
  | none => .fault .notDue
  | some c =>
    let second := match c.second with
      | some u => some u
      | none => if c.missing.isSome then s.checker (s.tileOf e) else none
    match second with
    | none => .fault .notDue
    | some u => done
      (let c := { c with second := some u }
       let t := s.tileOf e
       let ok := s.scrimPassed sc
       let s := s.scrimBookings u k sc
       if ok && eqPrimary then ((s.stipEvent 2 c).book c.checker k 5 locusChecksum).setCheck k none
       else if ok && eqFirst then ((s.stipEvent 1 c).book t k 5 locusChecksum).setCheck k none
       else s.stipUndecided c)

/-- STIPPLE_UNDECIDED_TIMEOUT (R392): no second spare qualified within 64 ticks. -/
def execStippleUndecidedTimeout (e x : Nat) (s : State) : Res :=
  match s.checkOf (4 * e + x) with
  | none => .fault .notDue
  | some c => match c.missing with
    | some since => due (c.second.isNone && decide (since + 64 ≤ s.ticks)) (s.stipUndecided c)
    | none => .fault .notDue

end Sys2Proof.Machine
end

