-- ==== Sys2Proof/Machine/Launch.lean ====
section
/-! DEFINITION. Machine/Launch.lean: launches and the engine schedulers (02 R46 to R49, 03 R64, R84 to R86, 13 R351,
R352). -/

namespace Sys2Proof.Machine

/-! ## Regions (03 R64) -/

/-- The granules of the region of context `k`. -/
def State.granules (s : State) (k : Nat) : List Nat :=
  (List.range (s.regionSize k / 65536)).map (s.regionBase k / 65536 + ·)

/-- Clear the region of a context. -/
def State.clearRegion (s : State) (k : Nat) : State := s.tsClear (s.tsAddr k 0) (s.regionSize k)

/-- A region belongs to its context: granules that another owner used last are cleared (R64). -/
def State.claimRegion (s : State) (k : Nat) : State :=
  let e := k / 4
  (s.granules k).foldl (fun t g =>
    if (t.eng e).gran.get 0 g = t.owner k then t
    else (t.tsClear (0x800000 * t.tileOf e + 65536 * g) 65536).updEng e fun n => { n with gran := n.gran.set 0 g (t.owner k) }) s

/-! ## Accepting a launch -/

/-- Launches accepted and not yet started, of at most 4,096 (02 R47). -/
def schedMax : Nat := 4096

/-- Why a launch of function `fn` is refused (13 R351, 02 R47, Table 2.1, 16 Table 16.3): a status of Table 13.9. -/
def State.launchStatus (s : State) (l : Launch) (fn : Nat) : Option Nat :=
  let k := 4 * l.e + l.x
  if s.glb.service ≠ 2 then some 0x0F
  else if 48 ≤ l.e then some 0x12
  else if s.owner k ≠ fn then some 0x02
  else if (s.eng l.e).noTile then some 0x12
  else if (s.ctx k).st ≠ 0 ∨ (s.ctx k).launch.isSome then some 0x0E
  else if s.plumb.st < 2 ∧ s.fld 0x1048 6 5 = 0 then some 0x0D
  else if schedMax ≤ s.sched.length then some 0x0B
  else if l.asked ≠ 0 ∧ s.tick + 2 ^ 20 < l.asked then some 0x0C
  else none

/-- Submit a launch: it is accepted, which clears the faulted flag and the error code (R129), or its status is told. A
launch for a tick that has begun starts at the next boundary (R47); tick 0 names the next boundary (R351). -/
def State.submit (s : State) (l : Launch) (fn : Nat) : State :=
  match s.launchStatus l fn with
  | some st =>
    let s := if st = 0x0B ∨ st = 0x0C ∨ st = 0x0D then s.inc (Blk.sch.at 0 0x050) else s
    s.launchDone l st 0
  | none =>
    let asked := if l.asked = 0 then s.tick + 1 else l.asked
    let l := { l with asked, tick := max asked (s.tick + 1) }
    { s.updCtx (4 * l.e + l.x) ({ · with launch := some l, faulted := false, err := 0 }) with sched := s.sched ++ [l] }

/-- The launch that a record spells (Table 13.6), for a queue entry or a group. -/
def launchOf (o8 o16 o24 o32 : Nat) (queue : Option (Nat × Nat)) (group : Option Nat) : Launch :=
  { e := bits o16 5 0, x := bits o16 7 6, tick := 0, asked := o8, clear := bitAt o16 8, entry := bits o16 63 32, arg := o24
    tag := bits o32 15 0, queue, group }

/-- Are the reserved and unused bits of a launch record zero (R359)? -/
def launchFormOk (o16 o32 : Nat) : Bool := bits o16 31 9 == 0 && o32 < 2 ^ 16

/-- A launch leaves the schedule. -/
def State.unsched (s : State) (k : Nat) : State := { s with sched := s.sched.filter fun l => 4 * l.e + l.x != k }

/-! ## Holds and emptying (13 R361 to R363, 17 R458) -/

/-- A hold takes effect: the context shows state 3. -/
def State.holdNow (s : State) (k : Nat) : State :=
  let s := s.leaveCtx k
  s.updCtx k fun c => if c.st = 3 then { c with holdReq := false } else { c with heldFrom := c.st, st := 3, holdReq := false }

/-- A hold is asked for; it takes effect at the next boundary. -/
def State.holdCtx (s : State) (k : Nat) : State :=
  s.updCtx k fun c => if c.st = 3 then c else { c with holdReq := true }

/-- A release gives the context back the state that it had. -/
def State.releaseCtx (s : State) (k : Nat) : State :=
  s.updCtx k fun c => if c.st = 3 then { c with st := c.heldFrom, holdReq := false } else { c with holdReq := false }

/-- A context is emptied: its launch completes as flushed and its region is cleared (R362, R363). -/
def State.flushCtx (s : State) (k : Nat) : State :=
  let s := s.endWait k
  let s := match (s.ctx k).launch with
    | some l => s.launchDone l 0x07 0
    | none => s
  let s := (s.unsched k).updCtx k fun c => {
    slices := c.slices, nv := c.nv, of := c.of, uf := c.uf, pz := c.pz, evTick := c.evTick, evDrop := c.evDrop }
  s.clearRegion k

/-! ## The scheduler of an engine (03 R85) -/

/-- The start of a slice: the power plan that REGROUP reports (04 R100) and the Stipple sample (15 R390). A context that
left inside its slice goes on with it. -/
def State.startSlice (s : State) (k : Nat) : State :=
  let c := s.ctx k
  if c.mid then s.updCtx k ({ · with st := 2, mid := false })
  else (s.updCtx k ({ · with st := 2, overrun := false, plan := s.pwr.plan })).stippleSample k

/-- A slice that still runs at a boundary has overrun (02 R49): one event, counted once. -/
def State.overrunMark (s : State) (e : Nat) : State :=
  match (s.eng e).interval with
  | none => s
  | some x =>
    let k := 4 * e + x
    let c := s.ctx k
    if c.st = 2 ∧ !c.overrun ∧ (s.eng e).switching.isNone then
      (((s.inc 0x1070).updCtx k ({ · with overrun := true })).engEvent k 1 0 0 0 0).updEng e ({ · with ovr := true })
    else s.updEng e ({ · with ovr := false })

/-- Does an earlier launch for the same engine and tick still run its first slice? A later one starts at the boundary after
that slice parks (R85 rule 2). -/
def State.firstRuns (s : State) (l : Launch) : Bool :=
  (List.range 4).any fun y =>
    let c := s.ctx (4 * l.e + y)
    (c.st == 1 || c.st == 2) && c.launch.any fun m => m.first && m.tick == l.tick

/-- The launch that rule 2 gives the interval, in order of acceptance. -/
def State.nextLaunch (s : State) (e : Nat) : Option Launch :=
  s.sched.find? fun l => l.e == e && decide (l.tick ≤ s.tick) && (s.ctx (4 * e + l.x)).st == 0 && !(s.ctx (4 * e + l.x)).holdReq
    && !s.firstRuns l

/-- The candidates of rule 3. -/
def State.candidates (s : State) (e : Nat) : List Nat :=
  (List.range 4).filter fun x =>
    let c := s.ctx (4 * e + x)
    !c.holdReq && c.failing.isNone && (c.st == 1 || (c.st == 2 && (s.eng e).interval == some x))

/-- The winner of rule 3: the highest class, ties by the rotating pointer; whether the pointer broke a tie. -/
def State.rule3 (s : State) (e : Nat) : Option (Nat × Bool) :=
  let cs := s.candidates e
  let top := cs.foldl (fun a x => max a (s.class (4 * e + x))) 0
  let best := cs.filter fun x => s.class (4 * e + x) == top
  match best with
  | [] => none
  | [x] => some (x, false)
  | _ => ((List.range 4).map fun i => ((s.eng e).tie + i) % 4).find? best.contains |>.map fun x => (x, true)

/-- The engine is given to context `x`: it holds the engine already or none does, or a switch begins. -/
def State.giveTo (s : State) (e x : Nat) : State :=
  match (s.eng e).interval with
  | some y => if y = x then s else (s.leaveCtx (4 * e + y)).updEng e ({ · with switching := some x })
  | none => s.updEng e ({ · with interval := some x })

/-- Is a context a member of a replay group that has diverged? It is held whatever its slice (R59). -/
def State.rpDiverged (s : State) (k : Nat) : Bool :=
  (List.range 4).any fun r => (s.rep r).ended && (s.rep r).reason == 3 && s.rpMember r k

/-- Holds asked for take effect, but for a context that keeps the engine by rule 1. -/
def State.applyHolds (s : State) (e : Nat) : State :=
  let s := (List.range 4).foldl (fun t x =>
    let keeps := (t.eng e).ovr && (t.eng e).interval == some x && !t.rpDiverged (4 * e + x)
    if (t.ctx (4 * e + x)).holdReq && !keeps then t.holdNow (4 * e + x) else t) s
  match (s.eng e).interval with
  | some x => if (s.ctx (4 * e + x)).st = 3 then s.updEng e ({ · with interval := none, ovr := false }) else s
  | none => s

/-- Accepted launches whose tick has come on an engine without a tile complete as unavailable (13 R351). -/
def State.dropLaunches (s : State) (e : Nat) : State :=
  (s.sched.filter fun l => l.e == e && decide (l.tick ≤ s.tick)).foldl (fun t l =>
    ((t.launchDone l 0x12 0).unsched (4 * e + l.x)).updCtx (4 * e + l.x) ({ · with launch := none })) s

/-- The pre-emption phase of one engine (02 R44, 03 R85): the scheduler gives the interval. A migration begins with the
switch-out (R86), which a slice that overran at this boundary defers (rule 1); an engine under test or without a tile runs
nothing. -/
def State.grant (s : State) (e : Nat) : State :=
  let s := s.applyHolds e
  let g := s.eng e
  if g.noTile then s.dropLaunches e
  else if g.underTest || g.copying then s
  else if g.ovr then s
  else if g.migrTo.isSome then (s.switchOut e).updEng e ({ · with copying := true })
  else if g.switching.isSome then s
  else match s.nextLaunch e with
    | some l => s.giveTo e l.x
    | none => match s.rule3 e with
      | some (x, broke) => (if broke then s.updEng e ({ · with tie := (x + 1) % 4 }) else s).giveTo e x
      | none => s

/-- The slice of the context that has the engine starts, 256 counts after the boundary (R44, R48), unless a switch is under
way. A launch starts with LAUNCH_START. -/
def State.startParked (s : State) (e : Nat) : State :=
  let g := s.eng e
  if g.noTile || g.underTest || g.copying || g.switching.isSome then s
  else match g.interval with
    | some x => if (s.ctx (4 * e + x)).st = 1 then s.startSlice (4 * e + x) else s
    | none => s

/-- CONTEXT_SWITCH_COMPLETE (03 R84): the incoming context holds the engine. -/
def execContextSwitchComplete (e : Nat) (s : State) : Res :=
  match (s.eng e).switching with
  | none => .fault .notDue
  | some x =>
    let s := s.updEng e ({ · with switching := none, interval := some x })
    due (decide (e < 48)) (if (s.ctx (4 * e + x)).st = 1 then s.startSlice (4 * e + x) else s)

/-- A launch starts on context `k` (02 R46, 04 R92, R93): its registers are those of a new context, S1 holds the
argument; a launch later than its tick is late (R46, R47). -/
def State.startLaunch (s : State) (k : Nat) (l : Launch) : State :=
  let n := s.tick - l.asked
  let s := s.unsched k
  let s := if l.clear then s.clearRegion k else s
  let s := (if 0 < n then s.inc 0x1078 else s).inc (Blk.sch.at 0 0x048)
  let s := s.updCtx k fun c => {
    slices := c.slices, nv := c.nv, of := c.of, uf := c.uf, pz := c.pz, evTick := c.evTick, evDrop := c.evDrop, err := c.err
    pc := l.entry, tag := l.tag, sr := Tab.set [] 0 1 (BitVec.ofNat 64 l.arg)
    launch := some { l with late := decide (0 < n), ticksLate := n }, st := 1 }
  (s.rpLaunch k).startSlice k

/-- LAUNCH_START (02 R46): the context has the engine, 256 counts after the boundary of its launch or after the switch. -/
def execLaunchStart (e x : Nat) (s : State) : Res :=
  match s.sched.find? fun l => l.e == e && l.x == x with
  | none => .fault .notDue
  | some l =>
    let g := s.eng e
    due (decide (e < 48) && decide (x < 4) && decide (l.tick * 2 ^ s.tickLog + 256 ≤ s.plumb.now) && g.interval == some x && g.switching.isNone && !g.noTile
        && !g.copying && !g.underTest && (s.ctx (4 * e + x)).st == 0)
      (s.startLaunch (4 * e + x) l)

end Sys2Proof.Machine
end

