-- ==== Sys2Proof/Machine/Mailbox.lean ====
section
/-! DEFINITION. Machine/Mailbox.lean: the mailboxes between PF0 and each VF (13 R357, R358). Box 2n carries messages
from PF0 to VF n, box 2n + 1 from VF n to PF0. -/

namespace Sys2Proof.Machine

/-- The box of a direction. -/
def mbxKey (n : Nat) (fromPf : Bool) : Nat := if fromPf then 2 * n else 2 * n + 1

/-- A box. -/
def State.box (s : State) (b : Nat) : Mbx := s.mbx.get {} b

/-- Change a box. -/
def State.updBox (s : State) (b : Nat) (g : Mbx → Mbx) : State := { s with mbx := s.mbx.upd {} b g }

/-- The 256 bytes of a box side. -/
def boxBytes (t : Tab W64) : List Byte := (List.range 32).flatMap fun i => leBytes 8 (t.get 0 i).toNat

/-- Bytes as the 32 words of a box side. -/
def boxOf (d : List Byte) : Tab W64 := Tab.putList [] 0 0 ((List.range 32).map fun i => BitVec.ofNat 64 (leAt d (8 * i) 8))

/-- The sending and the receiving function of a box. -/
def mbxSides (b : Nat) : Nat × Nat := if b % 2 = 0 then (0, b / 2) else (b / 2, 0)

/-- A kind 0x04 record about a box (Table 13.13): 1 delivered, 2 acknowledged, 3 timed out. -/
def mbxRec (b fn peer what seq : Nat) (s : State) : State :=
  s.notify fn { kind := 4, src := 3 * 2 ^ 24 + b / 2, p0 := peer + 512 * what, p1 := seq }

/-- Step 2 of R358 begins: the outbound box is busy. -/
def State.mbxSend (s : State) (b : Nat) (control : Bool) : State :=
  s.updBox b fun m => { m with busy := true, sent := true, control, timedOut := false, seq := m.seq + 1, sendTick := s.ticks }

/-- The message as delivered (R357): control bit, sequence number and, for a control message, its tag. -/
def State.mbxMessage (s : State) (b : Nat) : State × List Byte :=
  let m := s.box b
  let d := boxBytes m.out
  let d := splice d 0 [((d.getD 0 0) &&& 0xFE) ||| (if m.control then 1 else 0)]
  let d := splice d 4 (leBytes 4 m.seq)
  if m.control then
    let (s, t) := s.tagged (keyName 4 b) (d.take 240)
    (s, splice d 240 t)
  else (s, d)

/-- Step 2 of R358 ends: the message is in the receiver's box. A control message whose tag does not verify raises
MBX event 0x01. -/
def State.mbxDeliver (s : State) (b : Nat) : State :=
  let m := s.box b
  let (s, d) := s.mbxMessage b
  let (s, ok) := if m.control then s.verified (keyName 4 b) (d.take 240) (slice d 240 16) else (s, true)
  let s := s.updBox b fun m => { m with sent := false, inbox := boxOf d, full := true, verified := m.control && ok, inSeq := m.seq }
  let s := if ok then s else s.event { blk := .mbx, inst := b / 2, num := 1, fn := (mbxSides b).2 }
  mbxRec b (mbxSides b).2 (mbxSides b).1 1 m.seq s

/-- Step 3 of R358: the message is acknowledged. -/
def State.mbxAck (s : State) (b : Nat) : State :=
  let m := s.box b
  mbxRec b (mbxSides b).1 (mbxSides b).2 2 m.inSeq (s.updBox b ({ · with full := false, busy := false, timedOut := false }))

/-- Step 4 of R358: the sender withdraws the message. -/
def State.mbxCancel (s : State) (b : Nat) : State :=
  s.updBox b ({ · with full := false, busy := false, sent := false, timedOut := false })

/-- MBX_DELIVER (R358 step 2). -/
def execMbxDeliver (vf : Nat) (fromPf : Bool) (s : State) : Res :=
  let b := mbxKey vf fromPf
  due (decide (1 ≤ vf) && decide (vf < 512) && (s.box b).sent) (s.mbxDeliver b)

/-- MBX_TIMEOUT (R358 step 4): no acknowledgement within MBX_CFG.timeout ticks. -/
def execMbxTimeout (vf : Nat) (fromPf : Bool) (s : State) : Res :=
  let b := mbxKey vf fromPf
  let m := s.box b
  due (decide (1 ≤ vf) && decide (vf < 512) && m.busy && !m.timedOut
      && decide (m.sendTick + s.fld (Blk.mbx.at vf 0x048) 15 0 ≤ s.ticks))
    (mbxRec b (mbxSides b).1 (mbxSides b).2 3 m.seq (s.updBox b ({ · with timedOut := true })))

end Sys2Proof.Machine
end

