-- ==== Sys2Proof/Machine/Scalar.lean ====
section
/-! DEFINITION. Machine/Scalar.lean: the control, scalar and descriptor instructions (04 R98 to R103, R124). -/

namespace Sys2Proof.Machine

/-- Change the context of an instruction. -/
def Run.ctx (r : Run) (g : Ctx → Ctx) : Run := r.upd (·.updCtx r.k g)

/-- The context of an instruction. -/
def Run.c (r : Run) : Ctx := r.s.ctx r.k

/-- The branch target: pc + 16 × imm[31:0], counted from the branch (R99). -/
def branchTo (pc : Nat) (imm : W64) : Nat := unsigned 64 ((pc : Int) + 16 * signed 32 imm.toNat)

/-- NOP. -/
def execNop (e x : Nat) (f : Fields) (s : State) : Res := issue { op := 0x00 } e x f s id

/-- SLICE.END parks the context until the next boundary (R124, R48). -/
def execSliceEnd (e x : Nat) (f : Fields) (s : State) : Res :=
  issue { op := 0x01 } e x f s fun r => r.ctx fun c => { c with
    st := 1, slices := c.slices + 1, overrun := false, mid := false, launch := c.launch.map ({ · with first := false }) }

/-- The connections to which a context has writes outstanding. -/
def Ctx.conns (c : Ctx) : List Nat := (c.pendingOps.map (·.1)).eraseDups

/-- FENCE of scope 2 and HALT issue one FLUSH on every connection with writes outstanding (10 R283). -/
def State.flushAll (s : State) (k : Nat) : State :=
  ((s.ctx k).conns).foldl (fun s c =>
    let (s, i) := s.postMsg c { id := 0, kind := 2, fence := true, src := .engine k }
    s.updCtx k fun x => { x with pendingOps := x.pendingOps ++ [(c, i)] }) s

/-- HALT waits as FENCE of scope 2 does; the launch completes at LAUNCH_COMPLETE (R124). -/
def haltRun (r : Run) : Run := { (r.upd (·.flushAll r.k)).ctx ({ · with halting := true }) with npc := some r.c.pc }

/-- HALT issued on a context. -/
def execHalt (e x : Nat) (f : Fields) (s : State) : Res := issue { op := 0x02 } e x f s haltRun

/-- BR. -/
def execBr (e x : Nat) (f : Fields) (s : State) : Res :=
  issue { op := 0x03, imm := 2 ^ 32 - 1 } e x f s fun r => { r with npc := some (branchTo r.c.pc f.imm) }

/-- LOOP (R98). -/
def execLoop (e x : Nat) (f : Fields) (s : State) : Res :=
  issue { op := 0x04, a := .s, imm := 2 ^ 32 - 1 } e x f s fun r =>
    let pc := r.c.pc
    let r := r.ctx fun c => c.setS f.a (c.s f.a - 1)
    if r.c.s f.a = 0 then r else { r with npc := some (branchTo pc f.imm) }

/-- The consumer number of an engine context (Table 2.7). -/
def ctxConsumer (k : Nat) : Nat := 2 ^ 24 + k

/-- An external input of a context (R55, R58): recorded while its group records; under replay the recorded payload
replaces it. None waits for the recorded tick, or has diverged. -/
def Run.external (r : Run) (ty consumer : Nat) (live : State → State × List Byte) : Run × Option (List Byte) :=
  match r.s.rpOf r.k with
  | some g =>
    if (r.s.rep g).mode = 2 then
      match r.s.replay g ty consumer with
      | (s, .got pl) => ({ r with s }, some pl)
      | (s, _) => ({ r with s, npc := some r.c.pc }, none)
    else
      let (s, pl) := live r.s
      ({ r with s := s.record g ty consumer 0 pl }, some pl)
  | none => let (s, pl) := live r.s
            ({ r with s }, some pl)

/-- PLUMB.RD (R99). -/
def plumbRdRun (f : Fields) (r : Run) : Run :=
  match r.external 5 (ctxConsumer r.k) fun s => (s, leBytes 8 s.plumb.now) with
  | (r, some pl) => { r with ins := r.ins ++ [(2, 0, pl)] }.ctx fun c => c.setS f.d (BitVec.ofNat 64 (leAt pl 0 8))
  | (r, none) => r

/-- PLUMB.RD issued on a context. -/
def execPlumbRd (e x : Nat) (f : Fields) (s : State) : Res := issue { op := 0x05, d := .s } e x f s (plumbRdRun f)

/-- FLAGS.RD. -/
def execFlagsRd (e x : Nat) (f : Fields) (s : State) : Res :=
  issue { op := 0x06, d := .s } e x f s fun r => r.ctx fun c => c.setS f.d (BitVec.ofNat 64 c.flagWord)

/-- FLAGS.CLR. -/
def execFlagsClr (e x : Nat) (f : Fields) (s : State) : Res :=
  issue { op := 0x07, imm := 0xF } e x f s fun r => r.ctx fun c => c.clearFlags f.imm.toNat

/-- EVENT (R99): one per context per tick is delivered, the others are counted for the next one. -/
def eventRun (f : Fields) (r : Run) : Run :=
  let c := r.c
  if c.evTick = some r.s.ticks then r.ctx fun c => { c with evDrop := c.evDrop + 1 }
  else
    let v := (c.s f.a).toNat
    let ev : Ev := {
      blk := .eng, inst := r.k / 4, num := 3, fn := r.s.owner r.k, p0 := f.imm.toNat % 65536 + 65536 * (r.k % 4),
      p1 := v % 2 ^ 32, p2 := v / 2 ^ 32, p3 := sat 32 c.evDrop }
    let now := r.s.ticks
    (r.upd fun s => (s.event ev).notify (s.owner r.k) ev.toEvq).ctx fun c => { c with evTick := some now, evDrop := 0 }

/-- EVENT issued on a context. -/
def execEvent (e x : Nat) (f : Fields) (s : State) : Res :=
  issue { op := 0x08, a := .s, imm := 0xFFFF } e x f s (eventRun f)

/-- REGROUP (R100): the power plan at the start of the slice. -/
def execRegroup (e x : Nat) (f : Fields) (s : State) : Res :=
  issue { op := 0x09, d := .s } e x f s fun r => r.ctx fun c => c.setS f.d (BitVec.ofNat 64 c.plan)

/-- The inbound box of a context's owner (R101): for PF0 the one from VF imm[8:0]. -/
def State.mbxIn (s : State) (k : Nat) (imm : W64) : Nat :=
  if s.owner k = 0 then mbxKey (imm.toNat % 512) false else mbxKey (s.owner k) true

/-- MBX.RD takes a message that is held, unless it is a control message whose tag failed (R101). -/
def mbxTake (b : Nat) (s : State) : State × List Byte :=
  let m := s.box b
  if m.full && (!m.control || m.verified) then (s.mbxAck b, boxBytes m.inbox) else (s, [])

/-- MBX.RD in the opcode table (R101). An owner other than PF0 uses no immediate bits. -/
def mbxRdIns (owner : Nat) : Ins :=
  { op := 0x0A, d := .td, a := .p, imm := if owner = 0 then 0x1FF else 0
    enc := fun _ f => owner != 0 || f.imm.toNat != 0
    uses := fun _ f => [{ i := f.d, dst := true }]
    shape := fun s k f => let d := (s.ctx k).tdAt f.d
                          if d.fcode ≠ 9 then 4 else if d.count < 256 then 5 else 0 }

/-- MBX.RD writes the message into its destination and sets P[a], or clears it where none is taken (R101). -/
def mbxRdRun (box : Nat) (f : Fields) (r : Run) : Run :=
  match r.external 3 (3 * 2 ^ 24 + box / 2) (mbxTake box) with
  | (r, some pl) =>
    let r := { r with ins := r.ins ++ [(3, 0, pl)] }
    if pl.isEmpty then r.ctx fun c => c.setP f.a false
    else
      let d := r.c.tdAt f.d
      let r := (List.range d.rows).foldl (fun (r : Run) i =>
        let part := ((pl.drop (i * d.rowBytes)).take d.rowBytes).map some
        if part.isEmpty then r else r.write 0 (d.rowAt i) part false) r
      r.ctx fun c => c.setP f.a true
  | (r, none) => r

/-- MBX.RD issued on a context. -/
def execMbxRd (e x : Nat) (f : Fields) (s : State) : Res :=
  issue (mbxRdIns (s.owner (4 * e + x))) e x f s (mbxRdRun (s.mbxIn (4 * e + x) f.imm) f)

/-! ## Scalars -/

/-- S.LI. -/
def execSLi (e x : Nat) (f : Fields) (s : State) : Res :=
  issue { op := 0x10, d := .s, imm := immAll } e x f s fun r => r.ctx fun c => c.setS f.d f.imm

/-- The shape of the two-operand scalar instructions: S[d] := g S[a] src2. -/
def alu (op : Nat) (g : BitVec 64 → BitVec 64 → BitVec 64) (e x : Nat) (f : Fields) (s : State) : Res :=
  issue { op, d := .s, a := .s, b := .src2, sub := 1 } e x f s fun r =>
    r.ctx fun c => c.setS f.d (g (c.s f.a) (c.src2 f))

/-- S.ADD. -/
def execSAdd (e x : Nat) (f : Fields) (s : State) : Res := alu 0x11 (· + ·) e x f s

/-- S.SUB. -/
def execSSub (e x : Nat) (f : Fields) (s : State) : Res := alu 0x12 (· - ·) e x f s

/-- S.MUL: the low 64 bits of the product. -/
def execSMul (e x : Nat) (f : Fields) (s : State) : Res := alu 0x13 (· * ·) e x f s

/-- S.AND. -/
def execSAnd (e x : Nat) (f : Fields) (s : State) : Res := alu 0x14 (· &&& ·) e x f s

/-- S.OR. -/
def execSOr (e x : Nat) (f : Fields) (s : State) : Res := alu 0x15 (· ||| ·) e x f s

/-- S.XOR. -/
def execSXor (e x : Nat) (f : Fields) (s : State) : Res := alu 0x16 (· ^^^ ·) e x f s

/-- S.SHL by src2[5:0]. -/
def execSShl (e x : Nat) (f : Fields) (s : State) : Res := alu 0x17 (fun a b => a <<< (b.toNat % 64)) e x f s

/-- S.SHR, logical, by src2[5:0]. -/
def execSShr (e x : Nat) (f : Fields) (s : State) : Res := alu 0x18 (fun a b => a >>> (b.toNat % 64)) e x f s

/-- S.SAR, arithmetic, by src2[5:0]. -/
def execSSar (e x : Nat) (f : Fields) (s : State) : Res := alu 0x19 (fun a b => a.sshiftRight (b.toNat % 64)) e x f s

/-- S.CMP: P[d] := condition sub[7:4] (R102). -/
def execSCmp (e x : Nat) (f : Fields) (s : State) : Res :=
  issue { op := 0x1A, d := .p, a := .s, b := .src2, sub := 0xF1, enc := fun _ f => decide (f.sub / 16 ≤ 5) } e x f s fun r =>
    r.ctx fun c => c.setP f.d (sCond (f.sub / 16) (c.s f.a) (c.src2 f))

/-- Bytes written at an offset of the own region. -/
def Run.put (r : Run) (off : Nat) (d : List Byte) : Run :=
  let a := r.s.tsAddr r.k off
  { r.upd (·.tsWrite a d none false) with seen := r.seen ++ [(a, d.length, true)] }

/-- The offset S[i] + imm of a tile-store access. -/
def Ctx.wordAt (c : Ctx) (i : Nat) (f : Fields) : Nat := (c.s i + f.imm).toNat

/-- S.LD (R102). -/
def execSLd (e x : Nat) (f : Fields) (s : State) : Res :=
  issue { op := 0x1B, d := .s, a := .s, imm := immAll, enc := fun c f => c.wordAt f.a f % 8 == 0,
          shape := fun s k f => if s.regionSize k < (s.ctx k).wordAt f.a f + 8 then 3 else 0 } e x f s fun r =>
    let (r, d) := r.bytes (r.c.wordAt f.a f) 8
    r.ctx fun c => c.setS f.d (BitVec.ofNat 64 (leNat d))

/-- S.ST (R102). -/
def execSSt (e x : Nat) (f : Fields) (s : State) : Res :=
  issue { op := 0x1C, a := .s, b := .s, imm := immAll, enc := fun c f => c.wordAt f.a f % 8 == 0,
          shape := fun s k f => if s.regionSize k < (s.ctx k).wordAt f.a f + 8 then 3 else 0 } e x f s fun r =>
    r.put (r.c.wordAt f.a f) (leBytes 8 (r.c.s f.b).toNat)

/-- P.OP (R102). -/
def execPOp (e x : Nat) (f : Fields) (s : State) : Res :=
  issue { op := 0x1D, d := .p, a := .p, b := .p, sub := 0xF0, enc := fun _ f => decide (f.sub / 16 ≤ 4) } e x f s fun r =>
    r.ctx fun c => c.setP f.d (pCond (f.sub / 16) (c.p f.a) (c.p f.b))

/-! ## Descriptors (R103) -/

/-- TD.LD: 32 bytes at S[a] + imm. -/
def execTdLd (e x : Nat) (f : Fields) (s : State) : Res :=
  issue { op := 0x20, d := .td, a := .s, imm := immAll,
          shape := fun s k f => if s.regionSize k < (s.ctx k).wordAt f.a f + 32 then 3 else 0 } e x f s fun r =>
    let (r, d) := r.bytes (r.c.wordAt f.a f) 32
    r.ctx fun c => { c with td := c.td.set 0 f.d (BitVec.ofNat 256 (leNat d)) }

/-- TD.ST: 32 bytes at S[b] + imm. -/
def execTdSt (e x : Nat) (f : Fields) (s : State) : Res :=
  issue { op := 0x21, a := .td, b := .s, imm := immAll,
          shape := fun s k f => if s.regionSize k < (s.ctx k).wordAt f.b f + 32 then 3 else 0 } e x f s fun r =>
    r.put (r.c.wordAt f.b f) (leBytes 32 (r.c.td.get 0 f.a).toNat)

/-- TD.SETF: the low bits of S[a] into field sub. -/
def execTdSetf (e x : Nat) (f : Fields) (s : State) : Res :=
  issue { op := 0x22, d := .td, a := .s, sub := 0xFF, enc := fun _ f => decide (f.sub < 16) } e x f s fun r =>
    r.ctx fun c => { c with td := c.td.set 0 f.d (tdSet (c.td.get 0 f.d) f.sub (c.s f.a).toNat) }

/-- TD.GETF: field sub, zero-extended. -/
def execTdGetf (e x : Nat) (f : Fields) (s : State) : Res :=
  issue { op := 0x23, d := .s, a := .td, sub := 0xFF, enc := fun _ f => decide (f.sub < 16) } e x f s fun r =>
    r.ctx fun c => c.setS f.d (BitVec.ofNat 64 (tdGet (c.td.get 0 f.a) f.sub))

/-- TD.ADDB: base + src2, modulo 2^64. The src2 is in field b. -/
def execTdAddb (e x : Nat) (f : Fields) (s : State) : Res :=
  issue { op := 0x24, d := .td, b := .src2, sub := 1 } e x f s fun r =>
    r.ctx fun c =>
      let base := (BitVec.ofNat 64 (tdGet (c.td.get 0 f.d) 0) + c.src2 f).toNat
      { c with td := c.td.set 0 f.d (tdSet (c.td.get 0 f.d) 0 base) }

/-- TD.COPY. -/
def execTdCopy (e x : Nat) (f : Fields) (s : State) : Res :=
  issue { op := 0x25, d := .td, a := .td } e x f s fun r =>
    r.ctx fun c => { c with td := c.td.set 0 f.d (c.td.get 0 f.a) }

/-! ## Full/empty instructions and fences (R117 to R123) -/

/-- The range of an FE instruction: every row of TD[a]. -/
def feRange (s : State) (k : Nat) (f : Fields) : List (Nat × Nat × Nat) := s.useWords k { i := f.a, any := true }

/-- The table row of an FE instruction. -/
def feIns (op : Nat) (d : Kind) : Ins := { op, d, a := .td, uses := fun _ f => [{ i := f.a, any := true }] }

/-- FE.WAIT and FE.WAITE: proceed when every word is in the awaited state, else wait. -/
def feWaitRun (full : Bool) (f : Fields) (r : Run) : Run :=
  let rs := feRange r.s r.k f
  let (s, ws) := r.s.feRanges r.k true rs
  match feErr ws with
  | some c => { r with s }.fail c
  | none => match s.feBlock full ws with
    | (s, none) => { r with s, ins := r.ins ++ [(4, 0, [])] }
    | (s, some _) => { r with s := s.startWait r.k true (!full) rs ws, npc := some r.c.pc }

/-- FE.WAIT. -/
def execFeWait (e x : Nat) (f : Fields) (s : State) : Res := issue (feIns 0x70 .none) e x f s (feWaitRun true f)

/-- FE.WAITE. -/
def execFeWaite (e x : Nat) (f : Fields) (s : State) : Res := issue (feIns 0x71 .none) e x f s (feWaitRun false f)

/-- FE.SET and FE.CLR. -/
def feSetRun (v : Bool) (f : Fields) (r : Run) : Run :=
  let (s, ws) := r.s.feRanges r.k (!v) (feRange r.s r.k f)
  match feErr ws with
  | some c => { r with s }.fail c
  | none => { r with s := s.feMark v ws }

/-- FE.SET. -/
def execFeSet (e x : Nat) (f : Fields) (s : State) : Res := issue (feIns 0x72 .none) e x f s (feSetRun true f)

/-- FE.CLR. -/
def execFeClr (e x : Nat) (f : Fields) (s : State) : Res := issue (feIns 0x73 .none) e x f s (feSetRun false f)

/-- FE.TEST (R120). -/
def feTestRun (f : Fields) (r : Run) : Run :=
  let (s, ws) := r.s.feRanges r.k true (feRange r.s r.k f)
  match feErr ws with
  | some c => { r with s }.fail c
  | none => let (s, b) := s.feBlock true ws
            { r with s }.ctx fun c => c.setP f.d b.isNone

/-- FE.TEST issued on a context. -/
def execFeTest (e x : Nat) (f : Fields) (s : State) : Res := issue (feIns 0x74 .p) e x f s (feTestRun f)

/-- Held errors are reported at a fence (R123): those of remote writes at scope 2, those of local memory at scope 1
or 2. ENG event 0x08 reports them. -/
def State.takeHeld (s : State) (k scope : Nat) : State × Option Nat :=
  let c := s.ctx k
  let code := if 1 ≤ scope && c.heldLocal.isSome then c.heldLocal else if scope == 2 then c.heldErr else none
  match code with
  | none => (s, none)
  | some e => ((s.engEvent k 8 0 0 0 0).updCtx k ({ · with heldErr := none, heldLocal := none, heldMore := 0 }), some e)

/-- FENCE (R122): local writes of a context are placed when its instructions end, so that scopes 0 and 1 hold at
once; scope 2 waits for its writes to other devices. -/
def fenceRun (f : Fields) (r : Run) : Run :=
  let scope := f.sub % 4
  if scope = 2 ∧ !r.c.pendingOps.isEmpty then
    { (r.upd (·.flushAll r.k)).ctx ({ · with fence := some scope }) with npc := some r.c.pc }
  else match r.s.takeHeld r.k scope with
    | (s, some c) => { r with s }.fail c
    | (s, none) => { r with s }

/-- FENCE issued on a context. -/
def execFence (e x : Nat) (f : Fields) (s : State) : Res :=
  issue { op := 0x75, sub := 3, enc := fun _ f => f.sub % 4 != 3 } e x f s (fenceRun f)

/-! ## What ends a wait, a fence or a program -/

/-- Does a context run on its engine? -/
def State.runs (s : State) (e x : Nat) : Bool := (s.ctx (4 * e + x)).st == 2 && (s.eng e).interval == some x

/-- FE_WAIT_COMPLETE (R118): every word is in the awaited state; FE.WAIT and FE.WAITE are done, an instruction that
carries fe_wait issues again. -/
def execFeWaitComplete (e x : Nat) (s : State) : Res :=
  let k := 4 * e + x
  match (s.ctx k).wait with
  | none => .fault .notDue
  | some w =>
    let (t, ws) := s.feRanges k true w.ranges
    match t.feBlock (!w.empty) ws with
    | (_, some _) => .fault .notDue
    | (t, none) =>
      due (s.runs e x && !w.retry && (feErr ws).isNone)
        (let t := (t.endWait k).updMirror k fun m => { m with ins := m.ins ++ [(4, 0, [])] }
         if w.op then t.updCtx k fun c => { c with pc := c.pc + 16 } else t)

/-- SYNC_WAIT_RETRY (07 R212): 1 µs after it was answered "retry", the wait is sent again. -/
def execSyncWaitRetry (e x : Nat) (s : State) : Res :=
  let k := 4 * e + x
  match (s.ctx k).wait with
  | none => .fault .notDue
  | some w =>
    due (s.runs e x && w.retry && decide (w.sentAt + 1000 ≤ s.plumb.now))
      (let (t, ws) := s.feRanges k true w.ranges
       (t.startWait k w.op w.empty w.ranges ws).updCtx k fun c => { c with
         wait := c.wait.map fun y => { y with since := w.since, stalled := w.stalled } })

/-- FE_WAIT_STALL (R119): a wait outstanding for 4,096 ticks raises one stall event and goes on. -/
def execFeWaitStall (e x : Nat) (s : State) : Res :=
  let k := 4 * e + x
  match (s.ctx k).wait with
  | none => .fault .notDue
  | some w =>
    due (decide (w.since + 4096 ≤ s.ticks) && !w.stalled)
      ((s.engEvent k 4 0 0 0 0).updCtx k ({ · with wait := some { w with stalled := true } }))

/-- FENCE_COMPLETE (R122, R123). -/
def execFenceComplete (e x : Nat) (s : State) : Res :=
  let k := 4 * e + x
  let c := s.ctx k
  match c.fence with
  | none => .fault .notDue
  | some scope =>
    due (s.runs e x && c.pendingOps.isEmpty)
      (match (s.updCtx k ({ · with fence := none })).takeHeld k scope with
       | (t, some code) => t.failCtx k code 0x75
       | (t, none) => t.updCtx k fun c => { c with pc := c.pc + 16 })

/-- LAUNCH_COMPLETE (R124): HALT's wait is over. -/
def execLaunchComplete (e x : Nat) (s : State) : Res :=
  let k := 4 * e + x
  let c := s.ctx k
  due (s.runs e x && c.halting && c.pendingOps.isEmpty)
    (match s.takeHeld k 2 with
     | (t, some code) => (t.failCtx k code 0x02).updCtx k ({ · with halting := false })
     | (t, none) => t.emptyCtx k none)

/-- CONTEXT_FAULT_HALT (R129): every transfer of the failed context has ended. -/
def execContextFaultHalt (e x : Nat) (s : State) : Res :=
  let k := 4 * e + x
  let c := s.ctx k
  match c.failing with
  | none => .fault .notDue
  | some code => due c.pendingOps.isEmpty (s.emptyCtx k (some code))

end Sys2Proof.Machine
end

