-- ==== Sys2Proof/Machine/Move.lean ====
section
/-! DEFINITION. Machine/Move.lean: MOV, FILL, GATHER, SCATTER, SCATTER.ADD and COMPACT (04 R104 to R106, 05 R140). -/

namespace Sys2Proof.Machine

/-- Rounds of a unit that takes `per` items a cycle. -/
def ceilDiv (n per : Nat) : Nat := (n + per - 1) / per

/-- The source tensors of an instruction. -/
def Ins.srcs (i : Ins) (c : Ctx) (f : Fields) : List Use := (i.uses c f).filter (!·.dst)

/-- fe_clear on the sources of an instruction, once the last of them has been read (R116). -/
def Run.clearSrcs (r : Run) (i : Ins) : Run := if r.stopped then r else r.feClear (i.srcs r.c r.f)

/-- Write rows in order. -/
def Run.putRows (r : Run) (d : Td) (rows : List (Nat × List (Option Byte))) : Run :=
  rows.foldl (fun r x => r.putRow d x.1 x.2) r

/-- Copy `n` bytes (R105, R106), unless an earlier part has ended the instruction. Where the read is lost to an error, the bytes
before it are written, and those of the lost line as poisoned ones (07 Table 7.3). -/
def Run.copy (r : Run) (srcSpace src dstSpace dst n : Nat) (fe : Bool) : Run :=
  if r.stopped then r else
    let (r', b) := { r with cut := none }.read srcSpace src n r.f.feClear
    match r'.cut with
    | none => r'.write dstSpace dst b fe
    | some (o, m) =>
      let r1 := ({ r' with poison := r.poison }).write dstSpace dst (b.take o) fe
      ({ r1 with poison := r'.poison }).write dstSpace (dst + o) ((b.drop o).take m) fe

/-- Copy `n` bytes element by element in index order: bases and strides are multiples of 64 bytes, so that ranges that overlap do
so at a distance of 64 bytes or more, and parts of 64 bytes copy as elements do. What another device answers is read at once. -/
def Run.copyParts (r : Run) (srcSpace src dstSpace dst n : Nat) (fe : Bool) : Run :=
  if srcSpace = dstSpace ∧ r.rem = [] then
    (List.range ((n + 63) / 64)).foldl (fun r i => r.copy srcSpace (src + 64 * i) dstSpace (dst + 64 * i) (min 64 (n - 64 * i)) fe) r
  else r.copy srcSpace src dstSpace dst n fe

/-- Copy row `i` of one tensor to row `j` of another of rows of the same size. -/
def Run.copyRow (r : Run) (a : Td) (i : Nat) (d : Td) (j : Nat) : Run :=
  r.copyParts a.space (a.rowAt i) d.space (d.rowAt j) a.rowBytes r.f.feSet

/-- Number rows from 0. -/
def numbered {α : Type} (rows : List α) : List (Nat × α) := rows.mapIdx fun i x => (i, x)

/-! ## MOV and FILL (R105, R140) -/

/-- Stored bytes of a tensor: with code 3 its bitmap and its present blocks. -/
def State.storedBytes (s : State) (k : Nat) (f : Fields) (d : Td) : Nat :=
  if d.sparse = 3 then
    let bm := (s.ctx k).tdAt d.auxMeta
    bm.rows * bm.rowBytes + ((s.presentOf k f d).filter id).length * d.blockBytes
  else d.rows * d.rowBytes

/-- MOV. -/
def movIns : Ins :=
  { op := 0x30, d := .td, a := .td, fl := .both
    uses := fun _ f => [{ i := f.a, any := true, sparse := [0, 3] }, { i := f.d, dst := true, any := true, sparse := [0, 3] }]
    shape := fun s k f =>
      let a := (s.ctx k).tdAt f.a
      let d := (s.ctx k).tdAt f.d
      if a.fcode ≠ d.fcode ∨ a.sparse ≠ d.sparse then 4 else if !a.sameShape d then 5 else 0
    cost := fun s k f => ceilDiv (s.storedBytes k f ((s.ctx k).tdAt f.a)) 1024 }

/-- A bitmap row with the bits beyond the block columns written as 0 (05 R135). -/
def trimBits (cb : Nat) (row : List (Option Byte)) : List (Option Byte) :=
  row.mapIdx fun i b => b.map fun v => v &&& BitVec.ofNat 8 (2 ^ min 8 (cb - 8 * i) - 1)

/-- A stored block at block row `br` and column `bc` with the elements beyond the tensor's extents written as zero (05 R137). -/
def trimBlock (d : Td) (br bc : Nat) (blk : List (Option Byte)) : List (Option Byte) :=
  let w := d.fmt.bits
  let cs := unpack w 4096 (blk.map (·.getD 0))
  let cut := cs.mapIdx fun i v => if 64 * br + i / 64 < d.n1 ∧ 64 * bc + i % 64 < d.n0 then v else 0
  (packCodes w cut).zipWith (fun v b => b.map fun _ => v) blk

/-- The (row, column) of the present blocks, in stored order (05 R137). -/
def presentAt (cb : Nat) (present : List Bool) : List (Nat × Nat) :=
  ((List.range present.length).filter fun j => present.getD j false).map fun j => (j / cb, j % cb)

/-- MOV of a compressed tensor: the bitmap, then the present blocks; under fe_set the bitmap is the fenced last
transfer (R140). The bitmap is read once, and what it says decides which blocks are copied. -/
def movSparse (a d : Td) (r : Run) : Run :=
  let am := r.c.tdAt a.auxMeta
  let dm := r.c.tdAt d.auxMeta
  let cb := a.blocks.2
  let at_ := presentAt cb (r.s.presentOf r.k r.f a)
  let (r, bits) := r.rowsOf am.rows fun r i => let (r, b) := r.row am i
                                               (r, trimBits cb b)
  let (r, blks) := r.rowsOf at_.length fun r p =>
    let (r, b) := r.read a.space (a.base + p * a.blockBytes) a.blockBytes r.f.feClear
    let x := at_.getD p (0, 0)
    (r, trimBlock a x.1 x.2 b)
  let r := r.clearSrcs movIns
  let set := r.f.feSet
  let r := if set then r else r.putRows dm (numbered bits)
  let r := (numbered blks).foldl (fun r x => r.write d.space (d.base + x.1 * d.blockBytes) x.2 set) r
  if set then r.putRows dm (numbered bits) else r

/-- MOV (R105). -/
def movRun (f : Fields) (r : Run) : Run :=
  let a := r.c.tdAt f.a
  let d := r.c.tdAt f.d
  if a.sparse = 3 then movSparse a d r
  else ((List.range a.rows).foldl (fun r i => r.copyRow a i d i) r).clearSrcs movIns

/-- MOV issued on a context. -/
def execMov (e x : Nat) (f : Fields) (s : State) : Res :=
  issue movIns e x f s (movRun f)

/-- FILL: the row of the opcode table. -/
def fillIns : Ins :=
  { op := 0x31, d := .td, imm := 0xFF, fl := .dst, uses := fun _ f => [{ i := f.d, dst := true, any := true }]
    cost := fun s k f => ceilDiv (s.storedBytes k f ((s.ctx k).tdAt f.d)) 1024 }

/-- FILL writes imm[7:0] into every byte of the destination. -/
def fillRun (f : Fields) (r : Run) : Run :=
  let d := r.c.tdAt f.d
  r.putRows d ((List.range d.rows).map fun i => (i, List.replicate d.rowBytes (some (f.imm.setWidth 8))))

/-- FILL issued on a context. -/
def execFill (e x : Nat) (f : Fields) (s : State) : Res :=
  issue fillIns e x f s (fillRun f)

/-! ## Rows by index (R106) -/

/-- The row of a row instruction in the opcode table: `add` is SCATTER.ADD, `mask` is COMPACT. -/
def rowIns (op : Nat) : Ins :=
  let add := op == 0x63
  let mask := op == 0x64
  { op, d := .td, a := .td, b := .td, c := if mask then .s else .none, fl := .both, rnd := add
    uses := fun _ f =>
      (if add then [{ i := f.a }, { i := f.b }, { i := f.d, dst := true }]
       else [{ i := f.a, any := true }, { i := f.b }, { i := f.d, dst := true, any := true }])
    shape := fun s k f =>
      let a := (s.ctx k).tdAt f.a
      let b := (s.ctx k).tdAt f.b
      let d := (s.ctx k).tdAt f.d
      if a.fcode ≠ d.fcode ∨ b.fcode ≠ (if mask then 9 else 8) ∨ (add && !([6, 7, 8].contains d.fcode)) then 4
      else if b.rank ≠ 1 ∨ a.rank ≠ 2 ∨ d.rank ≠ 2 ∨ a.n0 ≠ d.n0 then 5
      else if op = 0x61 then (if b.n0 = d.n1 then 0 else 5)
      else if b.n0 ≠ a.n1 ∨ (mask && decide (d.n1 < a.n1)) then 5 else 0
    cost := fun s k f =>
      let n := ((s.ctx k).tdAt f.b).n0
      max n (ceilDiv (n * ((s.ctx k).tdAt f.a).rowBytes) 1024) }

/-- The elements of a rank-1 index tensor as signed integers. -/
def Run.indexes (r : Run) (b : Td) : Run × List Int :=
  let (r, cs) := r.codes b 0
  (r, cs.map fun c => if b.fcode = 8 then signed 32 c else c)

/-- Does an index select a row of a tensor? -/
def picks (d : Td) (i : Int) : Bool := decide (0 ≤ i) && decide (i < d.n1)

/-- GATHER: d row i := a row b[i]; an index that selects no row gives a row of zeros and sets nv. -/
def gatherRun (f : Fields) (r : Run) : Run :=
  let a := r.c.tdAt f.a
  let d := r.c.tdAt f.d
  let (r, idx) := r.indexes (r.c.tdAt f.b)
  let r := (numbered idx).foldl (fun r x =>
    if picks a x.2 then r.copyRow a x.2.toNat d x.1
    else if r.stopped then r
    else (r.flag { nv := true }).putRow d x.1 ((zeros d.rowBytes).map some)) r
  r.clearSrcs (rowIns 0x61)

/-- GATHER issued on a context. -/
def execGather (e x : Nat) (f : Fields) (s : State) : Res :=
  issue (rowIns 0x61) e x f s (gatherRun f)

/-- SCATTER: d row b[i] := a row i, in ascending position; an index that selects no row sets nv. -/
def scatterRun (f : Fields) (r : Run) : Run :=
  let a := r.c.tdAt f.a
  let d := r.c.tdAt f.d
  let (r, idx) := r.indexes (r.c.tdAt f.b)
  let r := (numbered idx).foldl (fun r x =>
    if picks d x.2 then r.copyRow a x.1 d x.2.toNat else if r.stopped then r else r.flag { nv := true }) r
  r.clearSrcs (rowIns 0x62)

/-- SCATTER issued on a context. -/
def execScatter (e x : Nat) (f : Fields) (s : State) : Res :=
  issue (rowIns 0x62) e x f s (scatterRun f)

/-- The sum of two elements in a format: floating sums round by `tz`, integer sums wrap (R106, R111). -/
def addIn (f : Fmt) (tz : Bool) (p q : Nat) : Nat × Sticky :=
  if f.isFloat then f.round tz ((f.decode p).add (f.decode q)) else ((p + q) % 2 ^ f.bits, {})

/-- Add a row of codes to row `i` of the rows so far. -/
def addRow (f : Fmt) (tz : Bool) (rows : List (List Nat)) (i : Nat) (row : List Nat) : List (List Nat) × Sticky :=
  let out := ((rows.getD i []).zip row).map fun x => addIn f tz x.1 x.2
  (rows.set i (out.map Prod.fst), out.foldl (fun st x => st.or x.2) {})

/-- SCATTER.ADD: duplicate rows are added in ascending position order, each addition rounded by rnd. -/
def scatterAddRun (f : Fields) (r : Run) : Run :=
  let a := r.c.tdAt f.a
  let d := r.c.tdAt f.d
  let (r, idx) := r.indexes (r.c.tdAt f.b)
  let (r, rows) := r.rowsOf a.rows fun r i => r.codes a i
  let hit := (List.range d.rows).filter fun (i : Nat) => idx.contains (Int.ofNat i)
  let (r, old) := r.rowsOf d.rows fun r i => if hit.contains i then r.codes d i else (r, [])
  let r := r.clearSrcs (rowIns 0x63)
  let r := if idx.all (picks d) then r else r.flag { nv := true }
  let (sums, st) := ((idx.zip rows).filter fun x => picks d x.1).foldl (fun acc x =>
    let (t, st) := addRow d.fmt r.tz acc.1 x.1.toNat x.2
    (t, acc.2.or st)) (old, {})
  (r.flag st).putRows d (hit.map fun i => (i, (packCodes d.fmt.bits (sums.getD i [])).map some))

/-- SCATTER.ADD issued on a context. -/
def execScatterAdd (e x : Nat) (f : Fields) (s : State) : Res :=
  issue (rowIns 0x63) e x f s (scatterAddRun f)

/-- COMPACT: the rows of a whose mask element is not zero, packed in ascending order; S[c] := their count. -/
def compactRun (f : Fields) (r : Run) : Run :=
  let a := r.c.tdAt f.a
  let d := r.c.tdAt f.d
  let (r, mask) := r.indexes (r.c.tdAt f.b)
  let keep := (List.range a.rows).filter fun i => mask.getD i 0 != 0
  let r := (numbered keep).foldl (fun r x => r.copyRow a x.2 d x.1) r
  (r.clearSrcs (rowIns 0x64)).ctx fun c => c.setS f.c (BitVec.ofNat 64 keep.length)

/-- COMPACT issued on a context. -/
def execCompact (e x : Nat) (f : Fields) (s : State) : Res :=
  issue (rowIns 0x64) e x f s (compactRun f)

end Sys2Proof.Machine
end

