-- ==== Sys2Proof/Machine/Matrix.lean ====
section
/-! DEFINITION. Machine/Matrix.lean: MMA, MMA.T and the accumulator instructions, dense and sparse (03 R69 to R72,
04 R108 to R110, 05 R130 to R142). -/

namespace Sys2Proof.Machine

/-! ## Operands -/

/-- A matrix operand as the cells see it: rows of element values, their scale codes, and its present blocks in
ascending row and column. -/
structure Mat where
  rows : List (List Num)
  scales : List (List Nat)
  present : List Bool
  rb : Nat
  cb : Nat

/-- Is block (r, c) present? -/
def Mat.has (m : Mat) (r c : Nat) : Bool := m.present.getD (r * m.cb + c) false

/-- Expand one group of a 2:4 row: the kept values at their positions, the second over the first (R133). -/
def expandGroup (v0 v1 p0 p1 : Nat) : List Nat := (((List.replicate 4 0).set p0 v0).set p1 v1)

/-- Expand a 2:4 row of stored codes by its metadata; the flag says that two positions were equal (R131 to R133). -/
def expandRow (codes : List Nat) (md : List Byte) : List Nat × Bool :=
  (List.range (codes.length / 2)).foldl (fun acc g =>
    let b := (md.getD (g / 2) 0).toNat >>> (4 * (g % 2))
    (acc.1 ++ expandGroup (codes.getD (2 * g) 0) (codes.getD (2 * g + 1) 0) (b % 4) (b / 4 % 4), acc.2 || b % 4 == b / 4 % 4)) ([], false)

/-- The codes of one block row segment: 64 elements, or those left of an edge block. -/
def Run.segment (r : Run) (d : Td) (at_ n : Nat) : Run × List Nat :=
  let (r, b) := r.bytes at_ (n * d.fmt.bits / 8)
  (r, unpack d.fmt.bits n b)

/-- Row `i` of a block-sparse operand; an absent block is zeros and is not read (R136, R137). -/
def Run.blockRow (r : Run) (d : Td) (present : List Bool) (i : Nat) : Run × List Nat :=
  let cb := d.blocks.2
  (List.range cb).foldl (fun acc c =>
    let n := min 64 (d.n0 - 64 * c)
    let j := i / 64 * cb + c
    let skip := 64 * c * d.fmt.bits / 8
    if !present.getD j false then (acc.1, acc.2 ++ List.replicate n 0)
    else
      let at_ := if d.sparse = 2 then d.rowAt i + skip
        else d.base + ((present.take j).filter id).length * d.blockBytes + i % 64 * (64 * d.fmt.bits / 8)
      let (r, cs) := acc.1.segment d at_ n
      (r, acc.2 ++ cs)) (r, [])

/-- Row `i` of a matrix operand as codes. -/
def Run.matRow (r : Run) (d : Td) (present : List Bool) (i : Nat) : Run × List Nat :=
  match d.sparse with
  | 0 => r.codes d i
  | 1 =>
    let (r, cs) := r.codes d i
    let (r, md) := r.row (r.c.tdAt d.auxMeta) i
    let (out, bad) := expandRow cs (md.map (·.getD 0))
    (r.flag { nv := bad }, out)
  | _ => r.blockRow d present i

/-- The present blocks of an operand, its bitmap read where it has one. -/
def Run.presence (r : Run) (d : Td) : Run × List Bool :=
  if d.sparse < 2 then (r, List.replicate (d.blocks.1 * d.blocks.2) true)
  else
    let bm := r.c.tdAt d.auxMeta
    let (r, rows) := r.rowsOf bm.rows fun r i => r.row bm i
    (r, (List.range d.blocks.1).flatMap fun i => (List.range d.blocks.2).map fun c =>
      (((rows.getD i []).getD (c / 8) none).getD 0).getLsbD (c % 8))

/-- Read a matrix operand. -/
def Run.mat (r : Run) (d : Td) : Run × Mat :=
  let (r, present) := r.presence d
  let (r, rows) := r.rowsOf d.n1 fun r i => r.matRow d present i
  let (r, sc) := r.rowsOf d.n1 fun r i => r.scales d i
  (r, { rows := rows.map fun row => row.map d.fmt.decode, scales := sc, present, rb := d.blocks.1, cb := d.blocks.2 })

/-! ## Tiles (R69, R71, R141, R142) -/

/-- The group sum g_j of a row of A and a row of B. -/
def groupSum (a b : List Num) (sa sb : List Nat) (j : Nat) : Num :=
  let take (l : List Num) : List Num := (l.drop (32 * j)).take 32
  scaleBy (sb.getD j 127) (scaleBy (sa.getD j 127) (sumExact (((take a).zip (take b)).map fun x => x.1.mul x.2)))

/-- The groups that an output tile adds: those of the K-blocks that it pays for. -/
def tileGroups (a b : Mat) (k it nt : Nat) (skip : Nat → Bool) : List Nat :=
  (List.range (k / 32)).filter fun j => a.has it (j / 2) && b.has nt (j / 2) && !skip (j / 2)

/-- One element of a tile: the groups are added in ascending order (R71). -/
def tileElem (a b : Mat) (i n : Nat) (groups : List Nat) (init : Nat) : Nat × Sticky :=
  groups.foldl (fun acc j =>
    let g := groupSum (a.rows.getD i []) (b.rows.getD n []) (a.scales.getD i []) (b.scales.getD n []) j
    let (z, st) := accUpdate acc.1 g
    (z, acc.2.or st)) (init, {})

/-- One 64 × 64 tile of FP32 codes. Places beyond the operands receive +0 products, which change only a −0 (R109). -/
def tileOut (a b : Mat) (k it nt : Nat) (skip : Nat → Bool) (init : Nat → Nat → Nat) : List (List Nat) × Sticky :=
  let gs := tileGroups a b k it nt skip
  let cells := (List.range 64).map fun i => (List.range 64).map fun n =>
    if 64 * it + i < a.rows.length ∧ 64 * nt + n < b.rows.length then tileElem a b (64 * it + i) (64 * nt + n) gs (init i n)
    else (if init i n = 2 ^ 31 ∧ !gs.isEmpty then 0 else init i n, {})
  (cells.map fun row => row.map Prod.fst, cells.foldl (fun st row => row.foldl (fun st x => st.or x.2) st) {})

/-- Is a present block of A skipped: every element zero and no covering scale code 255 (R142)? -/
def Mat.zeroBlock (m : Mat) (it kb : Nat) : Bool :=
  (List.range 64).all fun i =>
    (((m.rows.getD (64 * it + i) []).drop (64 * kb)).take 64).all Num.isZero
    && (((m.scales.getD (64 * it + i) []).drop (2 * kb)).take 2).all (· != 255)

/-- Rows and columns of a tile that hold a NaN or an infinity, which the Scrim does not check (15 R388). -/
def scrimSkips (t : List (List Nat)) : Nat :=
  let bad (c : Nat) : Bool := match Fmt.fp32.decode c with | .fin .. => false | _ => true
  (t.filter fun row => row.any bad).length + ((List.range 64).filter fun n => t.any fun row => bad (row.getD n 0)).length

/-- Count the rows and columns that the Scrim skipped in HLTH_SCRIM_SKIP_CNT. -/
def Run.scrimCount (r : Run) (tiles : List (List (List Nat))) : Run :=
  let n := tiles.foldl (fun a t => a + scrimSkips t) 0
  if n = 0 then r else r.upd (·.inc (Blk.hlth.at 0 0x060) n)

/-! ## Cost (R69, R70, R141) -/

/-- Elements along K in one step of a format pair. -/
def kStep (a b : Td) : Nat :=
  let step (f : Nat) : Nat := if f = 0 ∨ f = 4 then 32 else if f = 6 then 8 else 16
  min (step a.fcode) (step b.fcode) * (if b.sparse = 1 then 2 else 1)

/-- The cycles of a walk over K-blocks, each with its paid cycles, none for one that is not paid: bitmaps are read 64 blocks a cycle
ahead of the compute, which waits only where no paid block has been read yet (03 R77, log entry 85). -/
def walkCycles (blocks : List (Option Nat)) : Nat :=
  let (n, t) := blocks.foldl (fun (a : Nat × Nat) b => match b with
    | some c => (a.1 + 1, max a.2 (a.1 / 64) + c)
    | none => (a.1 + 1, a.2)) (0, 0)
  max t ((n - 1) / 64)

/-- The cost of a product: the K-blocks that are present in both operands, the reading of bitmaps that no compute hides, and one
cycle for each tile written (R141). -/
def State.mmaCost (s : State) (k : Nat) (f : Fields) (a b : Td) (tiled : Bool) : Nat :=
  let rt := ceilDiv a.n1 64
  let nt := ceilDiv b.n1 64
  let step := kStep a b
  let tiles := if tiled then rt * nt else 0
  if a.sparse < 2 ∧ b.sparse < 2 then rt * nt * ceilDiv a.n0 step + tiles
  else
    let pres (d : Td) : List Bool := if d.sparse < 2 then List.replicate (d.blocks.1 * d.blocks.2) true else s.presentOf k f d
    let pa := pres a
    let pb := pres b
    let cb := a.blocks.2
    walkCycles ((List.range rt).flatMap fun i => (List.range nt).flatMap fun n => (List.range cb).map fun kb =>
      if pa.getD (i * cb + kb) false && pb.getD (n * cb + kb) false then some (ceilDiv (min 64 (a.n0 - 64 * kb)) step) else none) + tiles

/-! ## Checks (R70, R108, R109) -/

/-- Checks 4 and 5 of the two operands. -/
def mmaPair (a b : Td) : Nat :=
  let fl (d : Td) : Bool := [0, 1, 2, 3, 6].contains d.fcode
  let it (d : Td) : Bool := [4, 5].contains d.fcode
  if !((fl a && fl b) || (it a && it b)) then 4
  else if a.rank ≠ 2 ∨ b.rank ≠ 2 ∨ a.n0 ≠ b.n0 ∨ a.n0 % 32 ≠ 0 then 5 else 0

/-- Checks 4 and 5 of C in a tiled product. -/
def mmaDest (a b c : Td) : Nat :=
  if ! [7, 6, 2, 3].contains c.fcode then 4
  else if mmaPair a b ≠ 0 then mmaPair a b
  else if c.rank ≠ 2 ∨ c.n0 ≠ b.n1 ∨ c.n1 ≠ a.n1 then 5 else 0

/-! ## Accumulators (R72) -/

/-- Element (i, n) of accumulator `q`. -/
def Ctx.accAt (c : Ctx) (q i n : Nat) : Nat := (c.acc.get 0 (4096 * q + 64 * i + n)).toNat

/-- Set an accumulator to a tile. -/
def Ctx.setAcc (c : Ctx) (q : Nat) (t : List (List Nat)) : Ctx :=
  { c with acc := (List.range 4096).foldl (fun m j => m.set 0 (4096 * q + j) (BitVec.ofNat 32 ((t.getD (j / 64) []).getD (j % 64) 0))) c.acc }

/-! ## MMA -/

/-- MMA: the row of the opcode table. -/
def mmaIns : Ins :=
  { op := 0x40, d := .acc, a := .td, b := .td, sub := 1, fl := .src
    uses := fun _ f => [{ i := f.a, sparse := [0, 2, 3] }, { i := f.b, sparse := [0, 1, 2, 3] }]
    shape := fun s k f =>
      let a := (s.ctx k).tdAt f.a
      let b := (s.ctx k).tdAt f.b
      if mmaPair a b ≠ 0 then mmaPair a b else if 64 < a.n1 ∨ 64 < b.n1 then 5 else 0
    cost := fun s k f => s.mmaCost k f ((s.ctx k).tdAt f.a) ((s.ctx k).tdAt f.b) false }

/-- MMA (R109). -/
def mmaRun (f : Fields) (sc : Scrim) (r : Run) : Run :=
  r.unlessPending sc fun r =>
    let a := r.c.tdAt f.a
    let (r, ma) := r.mat a
    let (r, mb) := r.mat (r.c.tdAt f.b)
    let r := r.clearSrcs mmaIns
    let zero := bitAt f.sub 0
    let c := r.c
    let (t, st) := tileOut ma mb a.n0 0 0 (fun _ => false) fun i n => if zero then 0 else c.accAt f.d i n
    let r := ((r.flag st).scrimCount [t]).ctx (·.setAcc f.d t)
    let (s, bad) := r.s.scrim r.k sc
    { r with s, poison := r.poison || bad.isSome }

/-- MMA issued on a context. -/
def execMma (e x : Nat) (f : Fields) (sc : Scrim) (s : State) : Res :=
  issue mmaIns e x f s (mmaRun f sc)

/-! ## Tiled products: MMA.T and the products of fused instructions -/

/-- The value of a whole product: its tiles in order, rows of FP32 codes, and flags. -/
structure Product where
  tiles : List (List (List Nat))
  rows : List (List Nat)
  st : Sticky

/-- Tiles of a product, row tiles in the outer loop. -/
def products (ma mb : Mat) (k : Nat) (dynSkip : Bool) (init : Nat → Nat → Nat) : Product :=
  let rt := ceilDiv ma.rows.length 64
  let nt := ceilDiv mb.rows.length 64
  let out := (List.range rt).map fun i => (List.range nt).map fun n =>
    tileOut ma mb k i n (fun kb => dynSkip && ma.zeroBlock i kb) fun p q => init (64 * i + p) (64 * n + q)
  let row (m : Nat) : List Nat :=
    (((out.getD (m / 64) []).flatMap fun t => t.1.getD (m % 64) [])).take mb.rows.length
  { tiles := out.flatten.map Prod.fst, rows := (List.range ma.rows.length).map row
    st := out.flatten.foldl (fun st t => st.or t.2) {} }

/-- The 64 × 64 tiles of rows of codes that hold an element other than a zero (R139). -/
def presentTiles (fm : Fmt) (rows : List (List Nat)) (rb cb : Nat) : List Bool :=
  (List.range rb).flatMap fun i => (List.range cb).map fun c =>
    ((rows.drop (64 * i)).take 64).any fun row => ((row.drop (64 * c)).take 64).any fun v => !(fm.decode v).isZero

/-- A bitmap row of presence bits. -/
def bitmapRow (bm : Td) (cb : Nat) (present : List Bool) (i : Nat) : List (Option Byte) :=
  (List.range bm.rowBytes).map fun j => some (BitVec.ofNat 8 ((List.range 8).foldl (fun v b =>
    v + (if decide (8 * j + b < cb) && present.getD (i * cb + 8 * j + b) false then 2 ^ b else 0)) 0))

/-- The bitmap rows of a tensor. -/
def bitmapRows (bm : Td) (d : Td) (present : List Bool) : List (Nat × List (Option Byte)) :=
  (List.range d.blocks.1).map fun i => (i, bitmapRow bm d.blocks.2 present i)

/-- The 64 rows of one stored block, zero outside the extents (R137). -/
def blockData (d : Td) (rows : List (List Nat)) (j : Nat) : List (Option Byte) :=
  let cb := d.blocks.2
  ((List.range 64).flatMap fun i =>
    let seg := ((rows.getD (64 * (j / cb) + i) []).drop (64 * (j % cb))).take 64
    packCodes d.fmt.bits (seg ++ List.replicate (64 - seg.length) 0)).map some

/-- Write rows of codes to a matrix destination with the blocks that are present: dense, or with its bitmap (R139). -/
def Run.putBlocks (r : Run) (d : Td) (rows : List (List Nat)) (present : List Bool) : Run :=
  if d.sparse = 0 then r.putCodes d rows
  else
    let bm := r.c.tdAt d.auxMeta
    if d.sparse = 2 then (r.putRows bm (bitmapRows bm d present)).putCodes d rows
    else
      let blks := (List.range present.length).filter fun j => present.getD j false
      let r := (blks.zipIdx).foldl (fun r x => r.write 0 (d.base + x.2 * d.blockBytes) (blockData d rows x.1) r.f.feSet) r
      r.putRows bm (bitmapRows bm d present)

/-- Write rows of codes to a product's destination, its tiles classified (R139). -/
def Run.putMat (r : Run) (d : Td) (rows : List (List Nat)) : Run :=
  r.putBlocks d rows (presentTiles d.fmt rows d.blocks.1 d.blocks.2)

/-- The existing rows of a destination as FP32 codes, with the flags of the conversion (R109, 03 R81). -/
def Run.oldRows (r : Run) (d : Td) : Run × List (List Nat) :=
  let (r, m) := r.mat d
  let out := m.rows.mapIdx fun i row => row.mapIdx fun j v =>
    Fmt.fp32.round false (if d.scaled then scaleBy ((m.scales.getD i []).getD (j / 32) 127) v else v)
  (out.foldl (fun r row => row.foldl (fun r x => r.flag x.2) r) r, out.map fun row => row.map Prod.fst)

/-- Every 128-byte line of output tile `t` of a dense destination is poisoned (15 Table 15.1). -/
def Run.poisonTile (r : Run) (d : Td) (t : Nat) : Run :=
  let nt := d.blocks.2
  let rows := (List.range 64).filter fun i => decide (64 * (t / nt) + i < d.n1)
  let n := min 64 (d.n0 - 64 * (t % nt)) * d.fmt.bits / 8
  let lines (s : State) (i : Nat) : State :=
    let a := s.tsAddr r.k (d.rowAt (64 * (t / nt) + i) + 64 * (t % nt) * d.fmt.bits / 8)
    { s with tilePoison := (wordsOf (128 * (a / 128)) (roundUp (a + n) 128 - 128 * (a / 128))).foldl (fun p w => p.set false w true) s.tilePoison }
  { (r.upd fun s => rows.foldl lines s) with poison := true }

/-- Round a product into its destination and let the Scrim act. -/
def Run.putProduct (r : Run) (d : Td) (p : Product) (sc : Scrim) : Run :=
  let r := (r.flag p.st).scrimCount p.tiles
  let (s, bad) := r.s.scrim r.k sc
  let r := { r with s }
  let (r, scs, cs) := r.rounded d (p.rows.map fun row => row.map Fmt.fp32.decode) false
  let whole := d.sparse != 0 && bad.isSome
  let r := ({ r with poison := r.poison || whole }.putScales d scs).putMat d cs
  match bad with
  | some t => if whole then r else r.poisonTile d t
  | none => r

/-- MMA.T: the row of the opcode table. With sub[0] the old C is read too. -/
def mmatIns (old : Bool) : Ins :=
  { op := 0x41, d := .td, a := .td, b := .td, sub := 0xF, rnd := true, fl := .both
    uses := fun c f =>
      [{ i := f.a, sparse := [0, 2, 3] }, { i := f.b, sparse := [0, 1, 2, 3] }]
      ++ (if old then [{ i := f.d, sparse := [0, 2, 3] }] else [])
      ++ [{ i := f.d, dst := true, sparse := [0, 2, 3], auxDst := (c.tdAt f.d).scaled }]
    shape := fun s k f => mmaDest ((s.ctx k).tdAt f.a) ((s.ctx k).tdAt f.b) ((s.ctx k).tdAt f.d)
    cost := fun s k f => s.mmaCost k f ((s.ctx k).tdAt f.a) ((s.ctx k).tdAt f.b) true }

/-- MMA.T (R109, R142). -/
def mmatRun (f : Fields) (sc : Scrim) (r : Run) : Run :=
  r.unlessPending sc fun r =>
    let a := r.c.tdAt f.a
    let d := r.c.tdAt f.d
    let (r, ma) := r.mat a
    let (r, mb) := r.mat (r.c.tdAt f.b)
    let (r, old) := if bitAt f.sub 0 then r.oldRows d else (r, [])
    let r := r.clearSrcs (mmatIns (bitAt f.sub 0))
    let p := products ma mb a.n0 (bitAt f.sub 3) fun m n => (old.getD m []).getD n 0
    let r := r.ctx (·.setAcc (f.sub / 2 % 4) (p.tiles.getLastD []))
    r.putProduct d p sc

/-- MMA.T issued on a context. -/
def execMmaT (e x : Nat) (f : Fields) (sc : Scrim) (s : State) : Res :=
  issue (mmatIns (bitAt f.sub 0)) e x f s (mmatRun f sc)

/-- ACC.ZERO: the row of the opcode table. -/
def accZeroIns : Ins :=
  { op := 0x42, d := .acc }

/-- ACC.ZERO. -/
def accZeroRun (f : Fields) (r : Run) : Run :=
  r.ctx (·.setAcc f.d [])

/-- ACC.ZERO issued on a context. -/
def execAccZero (e x : Nat) (f : Fields) (s : State) : Res :=
  issue accZeroIns e x f s (accZeroRun f)

/-- Checks 4 and 5 of the tensor of ACC.ST and ACC.LD (R110). -/
def accShape (fs : List Nat) (d : Td) : Nat :=
  if !fs.contains d.fcode then 4 else if d.rank ≠ 2 ∨ 64 < d.n0 ∨ 64 < d.n1 then 5 else 0

/-- ACC.ST: the row of the opcode table. 03 R72 lets the write round to any format of Table 3.5; R110 names those that it takes, and
leaves INT4 and INT8 to fail with format pair (DEDUCED: the narrower rule holds, log entry 86). -/
def accStIns : Ins :=
  { op := 0x43, d := .td, a := .acc, rnd := true, fl := .dst
    uses := fun c f => [{ i := f.d, dst := true, auxDst := (c.tdAt f.d).scaled }]
    shape := fun s k f => accShape [7, 6, 2, 3, 1, 0] ((s.ctx k).tdAt f.d) }

/-- ACC.ST (R110). -/
def accStRun (f : Fields) (r : Run) : Run :=
  let d := r.c.tdAt f.d
  let c := r.c
  r.putVals d ((List.range d.n1).map fun i => (List.range d.n0).map fun n => Fmt.fp32.decode (c.accAt f.a i n)) false

/-- ACC.ST issued on a context. -/
def execAccSt (e x : Nat) (f : Fields) (s : State) : Res :=
  issue accStIns e x f s (accStRun f)

/-- ACC.LD: the row of the opcode table. -/
def accLdIns : Ins :=
  { op := 0x44, d := .acc, a := .td, fl := .src, uses := fun _ f => [{ i := f.a }]
    shape := fun s k f => accShape [7] ((s.ctx k).tdAt f.a) }

/-- ACC.LD (R110): elements outside the tensor's extents become +0. -/
def accLdRun (f : Fields) (r : Run) : Run :=
  let a := r.c.tdAt f.a
  let (r, rows) := r.rowsOf a.n1 fun r i => r.codes a i
  (r.clearSrcs accLdIns).ctx (·.setAcc f.d rows)

/-- ACC.LD issued on a context. -/
def execAccLd (e x : Nat) (f : Fields) (s : State) : Res :=
  issue accLdIns e x f s (accLdRun f)

end Sys2Proof.Machine
end

