-- ==== Sys2Proof/Machine/Group.lean ====
section
/-! DEFINITION. Machine/Group.lean: collective groups, the tree, staging windows and how an instance ends
(06 R161 to R168, R172, R180, R181). -/

namespace Sys2Proof.Machine

/-- Group `n`. -/
def State.grp (s : State) (n : Nat) : Grp := s.grps.get {} n

/-- Change a group. -/
def State.updGrp (s : State) (n : Nat) (g : Grp → Grp) : State := { s with grps := s.grps.upd {} n g }

/-- The size G of a group (Table 6.3). -/
def Grp.size (g : Grp) : Nat := bits g.cfg 29 16 + 1

/-- The radix k. -/
def Grp.radix (g : Grp) : Nat := bits g.cfg 14 10

/-- The owner function. -/
def Grp.owner (g : Grp) : Nat := bits g.cfg 9 1

/-- The entry of a rank. -/
def Grp.ent (g : Grp) (r : Nat) : RankEnt := g.table.getD r { dev := 0, eng := 63, ctx := 0, conn := 0, gen := 0 }

/-! ## The tree (R166) -/

/-- The relative rank of rank `r` for a root. -/
def relRank (size root r : Nat) : Nat := (r + size - root % size) % size

/-- The rank of a relative rank. -/
def absRank (size root v : Nat) : Nat := (v + root) % size

/-- The parent of a rank. -/
def treeParent (size k root r : Nat) : Option Nat :=
  let v := relRank size root r
  if v = 0 then none else some (absRank size root (v / k))

/-- The children of a rank: child position and rank. -/
def treeKids (size k root r : Nat) : List (Nat × Nat) :=
  let v := relRank size root r
  (List.range k).filterMap fun j =>
    let w := k * v + j
    if w ≠ v ∧ w < size then some (j, absRank size root w) else none

/-- Every tree neighbour of a rank. -/
def treeNear (size k root r : Nat) : List Nat :=
  (treeKids size k root r).map (·.2) ++ (match treeParent size k root r with | some p => [p] | none => [])

/-- Digits of `v` in base `k`. -/
def digits (k : Nat) : Nat → Nat → Nat
  | 0, _ => 0
  | n + 1, v => if v = 0 then 0 else 1 + digits k n (v / k)

/-! ## Windows (R165) -/

/-- The offset of a window byte in the region of the member. -/
def Grp.winOff (g : Grp) (off : Nat) : Nat := 65536 * bits g.stage 6 0 + off

/-- The offset of the receive area in the window. -/
def Grp.recvOff (g : Grp) : Nat := 0x10000 + 65536 * (2 * g.radix)

/-- The context of a local rank. -/
def Grp.ctxOf (g : Grp) (r : Nat) : Nat := 4 * (g.ent r).eng + (g.ent r).ctx

/-- The tile-store byte of `n` window bytes of a local rank, where they lie in the window (Table 6.4) and in its region. -/
def State.winByte (s : State) (g : Grp) (r off n : Nat) : Option Nat :=
  let k := g.ctxOf r
  if (g.ent r).eng < 48 ∧ off + n ≤ 65536 * bits g.stage 15 8 ∧ g.winOff off + n ≤ s.regionSize k then some (s.tsAddr k (g.winOff off)) else none

/-- Set a signal word full or empty. -/
def State.markWord (s : State) (g : Grp) (r off : Nat) (full : Bool) : State :=
  match s.winByte g r off 8 with
  | some a => s.tsMark [a / 8] full
  | none => s

/-- Write window bytes of a local rank, placed from outside its program: a sampled slice logs them (15 R391). -/
def State.putWin (s : State) (g : Grp) (r off : Nat) (d : List Byte) (fe : Option Bool) (poison : Bool := false) : State :=
  match s.winByte g r off d.length with
  | some a => (s.tsWrite a d fe poison).mirrorIn a d
  | none => s

/-- Read window bytes. -/
def State.getWin (s : State) (g : Grp) (r off n : Nat) : List Byte :=
  match s.winByte g r off n with
  | some a => s.tsBytes a n
  | none => zeros n

/-- Is a signal word full? -/
def State.wordFull (s : State) (g : Grp) (r off : Nat) : Bool :=
  match s.winByte g r off 8 with
  | some a => s.tsFull (a / 8)
  | none => false

/-- The offset of slot (j, b). -/
def slotOff (j b : Nat) : Nat := 64 * (2 * j + b)

/-- The offset of buffer (j, b). -/
def bufOff (j b : Nat) : Nat := 0x10000 + 65536 * (2 * j + b)

/-! ## Commits (R162, R163, R168) -/

/-- An entry of the rank table; none where a reserved field is not zero. -/
def rankOf (d : List Byte) (r : Nat) : Option RankEnt :=
  let e := leAt d (8 * r) 8
  if bits e 23 22 ≠ 0 ∨ bits e 63 48 ≠ 0 then none
  else some { dev := bits e 13 0, eng := bits e 19 14, ctx := bits e 21 20, conn := bits e 43 24, gen := bits e 47 44 }

/-- Does an entry name an open connection of the generation and the partition key (R163)? -/
def State.edgeOk (s : State) (pkey : Nat) (e : RankEnt) : Bool :=
  let c := s.conns.get {} e.conn
  e.dev == s.devNum || (c.st == 2 && c.gen == e.gen && c.pkey == pkey)

/-- The rank table of a commit, checked; none where it fails. Neighbours are those under any root. -/
def State.readTable (s : State) (size k off pkey : Nat) : State × Option (List Byte × List RankEnt) :=
  if s.memTop < off + 8 * size then (s, none) else
    let (s, r) := s.memRead 0 off (8 * size)
    let es := (List.range size).filterMap (rankOf r.data)
    let names := es.map fun e => (e.dev, e.eng, e.ctx)
    let near (r : Nat) : Bool := (List.range size).all fun root => (treeNear size k root r).all fun q =>
      match es[q]? with
      | some e => s.edgeOk pkey e
      | none => false
    let mine := (List.range size).filter fun r => (es.map (·.dev)).getD r (2 ^ 14) == s.devNum
    (s, if r.kind = 0 ∧ es.length = size ∧ names.eraseDups.length = size ∧ mine.all near then some (r.data, es) else none)

/-- Is an instance of group `n` in progress at a local member? -/
def State.collBusy (s : State) (n : Nat) : Bool := s.ctxs.any fun x => match x.2.coll with
  | some c => c.g == n
  | none => false

/-- The local ranks of a group, ascending. -/
def State.localRanks (s : State) (g : Grp) : List Nat := (List.range g.table.length).filter fun r => (g.ent r).dev == s.devNum

/-- The signal words of a window other than the credit words. -/
def signalWords : List Nat :=
  ((List.range 32).map fun i => 64 * i + 56) ++ [0x838, 0x8D0] ++ ((List.range 16).map fun j => 0x840 + 8 * j)

/-- A register of group `n`. -/
def cgReg (n off : Nat) : Nat := Blk.sch.at 0 (0x400 + 0x40 * n + off)

/-- The commit of group `n`, after its staged registers have applied (R163). A failed commit puts the settings in force
back: SCH event 0x03 and an audit record of kind refused. -/
def State.groupCommit (s : State) (n : Nat) (o : Origin) : State :=
  let old := s.grp n
  let cfg := s.reg (cgReg n 0)
  let stage := s.reg (cgReg n 4)
  let tbl := s.reg (cgReg n 8)
  let pkey := s.reg (cgReg n 0x14)
  let new : Grp := { valid := bitAt cfg 0, cfg, stage, tbl, wdog := s.reg (cgReg n 0x10), pkey }
  let (s, t) := s.readTable new.size new.radix tbl pkey
  match t, decide (bits stage 6 0 + bits stage 15 8 ≤ 128) && !s.collBusy n && s.glb.service == 2 && bitAt (s.reg 0x48) 31 with
  | some (d, es), true =>
    let key := (List.range es.length).flatMap fun r => slice d (8 * r) 3
    let digest := crc32c (key ++ leBytes 4 (1024 * (cfg / 1024)) ++ leBytes 4 stage)
    let g := { new with digest, table := es }
    let s := (s.updGrp n fun _ => g).setReg (cgReg n 0x18) digest
    (s.localRanks g).foldl (fun s r =>
      let s := signalWords.foldl (fun s off => s.markWord g r off false) s
      (s.markWord g r 0x8C0 true).markWord g r 0x8C8 true) s
  | _, _ =>
    let s := ((((s.setReg (cgReg n 0) old.cfg).setReg (cgReg n 4) old.stage).setReg (cgReg n 8) old.tbl).setReg (cgReg n 0x10) old.wdog).setReg
      (cgReg n 0x14) old.pkey
    (s.event { blk := .sch, num := 3 }).audit { org := o, kind := 3, addr := cgReg n 0, old := old.cfg, new := cfg }

/-! ## Members (R164) -/

/-- The rank of context `k` in group `n`. -/
def State.rankIn (s : State) (n k : Nat) : Option Nat :=
  let g := s.grp n
  if !g.valid then none else
    firstIdx g.table.length fun r => (g.ent r).dev == s.devNum && (g.ent r).eng == k / 4 && (g.ent r).ctx == k % 4

/-- Is rank `r` of group `n` on this device? -/
def State.rankLocal (s : State) (n r : Nat) : Bool :=
  (s.grp n).valid && decide (r < (s.grp n).table.length) && ((s.grp n).ent r).dev == s.devNum

/-- The instance of rank `r` of group `n` in progress, with its context. -/
def State.collAt (s : State) (n r : Nat) : Option (Nat × Coll) :=
  let k := (s.grp n).ctxOf r
  match (s.ctx k).coll with
  | some c => if c.g = n ∧ c.rank = r ∧ s.rankLocal n r then some (k, c) else none
  | none => none

/-- Change the instance of context `k`. -/
def State.updColl (s : State) (k : Nat) (h : Coll → Coll) : State :=
  s.updCtx k fun x => { x with coll := x.coll.map h }

/-- Progress of an instance restarts its watchdog (R180). -/
def State.progress (s : State) (n r : Nat) : State :=
  match s.collAt n r with
  | some (k, _) => s.updColl k ({ · with last := s.ticks })
  | none => s

/-- Words of signals that change from outside restart the watchdog of the instance in whose window they lie (R180). -/
def State.signalled (s : State) (a n : Nat) : State :=
  (s.ctxs.keys).foldl (fun s k => match (s.ctx k).coll with
    | none => s
    | some c => match s.winByte (s.grp c.g) c.rank 0 0x8D8 with
      | some w => if decide (w < a + n) && decide (a < w + 0x8D8) then s.updColl k ({ · with last := s.ticks }) else s
      | none => s) s

/-! ## Edges -/

/-- Send to rank `to`: on this device as a flight, to another device as writes into its window, the last fenced; `bad` are the
poisoned 128-byte lines of the first. A chunk for which no connection is open is never placed (R171). -/
def State.edge (s : State) (k : Nat) (g : Grp) (dest : Nat) (fl : Flight) (ws : List (Nat × List Byte × Bool)) (bad : List Nat) :
    State × List (Nat × Nat) :=
  let e := g.ent dest
  let s := s.updMirror k fun m => { m with outs := m.outs ++ ws.map fun w => (2 ^ 50 * e.dev + windowBase e.eng e.ctx + g.winOff w.1, w.2.1) }
  if e.dev = s.devNum then ({ s with flights := s.flights ++ [fl] }, [])
  else
    let c := s.conns.get {} e.conn
    if c.st ≠ 2 ∨ c.gen ≠ e.gen then ((s.updColl k fun y => { y with lost := y.lost || fl.kind == 0 }).holdErr k 9 false, [])
    else
      ws.foldl (fun acc w =>
        let raddr := 2 ^ 50 * e.dev + windowBase e.eng e.ctx + g.winOff w.1
        let (s, i) := acc.1.postMsg e.conn {
          id := 0, kind := 0, raddr, mkey := Config.engineMkey, len := w.2.1.length, data := w.2.1, fence := w.2.2, fenceLast := w.2.2,
          bad := if w.2.2 then [] else (bad.map (· / 2)).eraseDups, src := .engine k }
        (s.updCtx k fun x => { x with pendingOps := x.pendingOps ++ [(e.conn, i)] }, acc.2 ++ [(e.conn, i)])) (s, [])

/-- The credit word of a child for buffer `b` becomes full (R169); the spec states no content for it. -/
def State.giveCredit (s : State) (k : Nat) (g : Grp) (n child b : Nat) : State :=
  if (g.ent child).dev = s.devNum then (s.markWord g child (0x8C0 + 8 * b) true).progress n child
  else
    let (v, s) := s.free
    (s.edge k g child { kind := 0, g := n, dest := child, src := 0, j := 0 } [(0x8C0 + 8 * b, leBytes 8 v.toNat, true)] []).1

/-! ## The end of an instance (R168, R171, R172) -/

/-- An SCH event raised to PF0 and to the owner of the group. -/
def State.schEvent (s : State) (n num p0 p1 p2 p3 : Nat) : State :=
  s.eventTo { blk := .sch, num, fn := (s.grp n).owner, p0, p1, p2, p3 } (s.grp n).owner

/-- The abandon word of every neighbour but `from_` is written (R172). -/
def State.abandon (s : State) (k n rank root seq code : Nat) (from_ : Option Nat) : State :=
  let g := s.grp n
  (treeNear g.size g.radix (root % g.size) rank).foldl (fun s dest =>
    if some dest = from_ then s
    else (s.edge k g dest { kind := 2, g := n, dest, src := rank, j := 0, seq, code } [(0x8D0, leBytes 8 (seq + 2 ^ 32 * code), true)] []).1) s

/-- Chunks of an ended instance are dropped and their credits returned (log entry 15). -/
def State.dropChunks (s : State) (k n rank root seq : Nat) : State :=
  let g := s.grp n
  (treeKids g.size g.radix (root % g.size) rank).foldl (fun s x => [0, 1].foldl (fun s b =>
    let off := slotOff x.1 b + 56
    if s.wordFull g rank off && leAt (s.getWin g rank off 8) 0 4 == seq then
      (s.markWord g rank off false).giveCredit k g n x.2 b
    else s) s) s

/-- An instance ends in an error: SCH event 0x02, the abandon of R172, and the instruction fails. -/
def State.collAbort (s : State) (k code : Nat) (cancelled : Bool) (from_ : Option Nat) : State :=
  match (s.ctx k).coll with
  | none => s
  | some c =>
    let s := s.schEvent c.g 2 c.g c.seq c.rank (code + 256 * b2n cancelled)
    let s := s.dropChunks k c.g c.rank c.root c.seq
    let s := s.abandon k c.g c.rank c.root c.seq code from_
    let s := s.updGrp c.g fun g => { g with fin := g.fin.set 0 c.rank c.seq }
    let s := s.updCtx k fun x => ({ x with coll := none }).stick { nv := c.nv, of := c.of, uf := c.uf } c.poison
    s.failCtx k code c.op

/-- A failure at issue abandons the instance that would have run (R172). -/
def State.collFailIssue (s : State) (k : Nat) (f : Fields) (code : Nat) : State :=
  match s.rankIn f.cg k with
  | none => s
  | some r =>
    let seq := (s.grp f.cg).seq.get 0 r + 1
    let s := s.updGrp f.cg fun g => { g with seq := g.seq.set 0 r seq, fin := g.fin.set 0 r seq }
    let s := s.schEvent f.cg 2 f.cg seq r code
    let s := s.dropChunks k f.cg r (bits f.imm.toNat 45 32) seq
    s.abandon k f.cg r (bits f.imm.toNat 45 32) seq code none

/-- Cancellation of every instance of group `n` (R181). -/
def State.cancelGroup (s : State) (n : Nat) : State :=
  (s.ctxs.keys).foldl (fun s k => match (s.ctx k).coll with
    | some c => if c.g = n then s.collAbort k 0x0B true none else s
    | none => s) s

/-- Masking ends every instance of every member that a function owns (R181). -/
def State.maskInstances (s : State) (fn : Nat) : State :=
  (s.ctxs.keys).foldl (fun s k => if s.owner k = fn then s.collAbort k 0x0B true none else s) s

end Sys2Proof.Machine
end

