-- ==== Sys2Proof/Machine/Vector.lean ====
section
/-! DEFINITION. Machine/Vector.lean: the vector instructions and TOPK (03 R73, R74; 04 R102, R107, R111, R112). -/

namespace Sys2Proof.Machine

/-! ## Checks and costs -/

/-- The formats of vector instructions (R111). -/
def vecFmt (f : Nat) : Bool := [7, 6, 2, 3, 5, 8].contains f

/-- Check 4 and 5: `ok` says that the formats pair; no operand is scaled unless `cvt`; all shapes agree. -/
def vecShape (cvt ok : Bool) (ds : List Td) : Nat :=
  if (!cvt && ds.any (·.scaled)) || !ok then 4
  else if ds.all fun t => t.sameShape (ds.headD t) then 0 else 5

/-- Elements that the vector unit takes in a cycle (Table 4.11). -/
def vecRate (f : Nat) : Nat := if f = 6 then 2048 else if f = 7 ∨ f = 8 then 1024 else 4096

/-- The descriptor of an operand field. -/
def State.opTd (s : State) (k i : Nat) : Td := (s.ctx k).tdAt i

/-! ## Element operations -/

/-- An integer operation, wrapped to the format (R111). -/
def wrapTo (f : Fmt) (v : Int) : Nat := unsigned f.bits v

/-- The three arithmetic operations and the two orders: 0 add, 1 subtract, 2 multiply, 3 minimum, 4 maximum. -/
def vecBin (op : Nat) (f : Fmt) (tz : Bool) (p q : Nat) : Nat × Sticky :=
  if f.isFloat then
    let x := f.decode p
    let y := f.decode q
    f.round tz (match op with
      | 0 => x.add y
      | 1 => x.add y.neg
      | 2 => x.mul y
      | 3 => x.min2 y
      | _ => x.max2 y)
  else
    let x := signed f.bits p
    let y := signed f.bits q
    (wrapTo f (match op with
      | 0 => x + y
      | 1 => x - y
      | 2 => x * y
      | 3 => min x y
      | _ => max x y), {})

/-- a × b + c with one rounding. -/
def vecFma (f : Fmt) (tz : Bool) (a b c : Nat) : Nat × Sticky :=
  f.round tz (((f.decode a).mul (f.decode b)).add (f.decode c))

/-- The FP32 immediate that replaces b, rounded once to the format (R111). -/
def immElem (f : Fmt) (tz : Bool) (imm : Nat) : Nat × Sticky :=
  if f == .int32 ∨ f == .int8 then f.roundInt tz (Fmt.fp32.decode imm) else f.round tz (Fmt.fp32.decode imm)

/-! ## Reductions (R74) -/

/-- Pair neighbours; the last of an odd count passes up. -/
def pairUp {α : Type} (g : α → α → α) : List α → List α
  | a :: b :: t => g a b :: pairUp g t
  | l => l

/-- `n` stages of the tree. -/
def treeStages {α : Type} (g : α → α → α) : Nat → List α → List α
  | 0, l => l
  | n + 1, l => if l.length ≤ 1 then l else treeStages g n (pairUp g l)

/-- The tree of one chunk of at most 1,024 elements. -/
def treeOf {α : Type} (g : α → α → α) (z : α) (l : List α) : α := (treeStages g 11 l).headD z

/-- A reduction: each chunk of 1,024 by the tree, then the chunk results in ascending order. -/
def reduceTree {α : Type} (g : α → α → α) (z : α) (l : List α) : α :=
  let chunks := (List.range (ceilDiv l.length 1024)).map fun i => treeOf g z ((l.drop (1024 * i)).take 1024)
  match chunks with
  | [] => z
  | c :: cs => cs.foldl g c

/-- V.RED on one row of codes: 0 sum, 1 maximum, 2 minimum; the flags of each stage and of the result. -/
def vecRed (op : Nat) (f : Fmt) (row : List Nat) : Nat × Sticky :=
  let g (p q : Nat × Sticky) : Nat × Sticky :=
    let r := vecBin (if op = 0 then 0 else if op = 1 then 4 else 3) f false p.1 q.1
    (r.1, if op = 0 then (p.2.or q.2).or r.2 else {})
  let r := reduceTree g (0, {}) (row.map fun c => (c, {}))
  if f.isFloat then
    let z := f.round false (f.decode r.1)
    (z.1, r.2.or z.2)
  else r

/-! ## Running a vector instruction -/

/-- Every row of a source as codes. -/
def Run.allCodes (r : Run) (d : Td) : Run × List (List Nat) := r.rowsOf d.rows fun r i => r.codes d i

/-- Write result rows with their flags. -/
def Run.putFlagged (r : Run) (d : Td) (rows : List (List (Nat × Sticky))) : Run :=
  let st := rows.foldl (fun st row => row.foldl (fun st x => st.or x.2) st) ({} : Sticky)
  (r.flag st).putCodes d (rows.map fun row => row.map Prod.fst)

/-- Combine two tables of codes element by element. -/
def zipRows {β : Type} (g : Nat → Nat → β) (p q : List (List Nat)) : List (List β) :=
  (p.zip q).map fun x => (x.1.zip x.2).map fun y => g y.1 y.2

/-- The row of a two-operand instruction in the opcode table; sub[0] replaces b by the immediate. -/
def binIns (op : Nat) (f : Fields) : Ins :=
  let imm := bitAt f.sub 0
  { op, d := .td, a := .td, b := if imm then .none else .td, imm := if imm then 2 ^ 32 - 1 else 0, sub := 1, rnd := true, fl := .both
    uses := fun _ f => [{ i := f.a }] ++ (if imm then [] else [{ i := f.b }]) ++ [{ i := f.d, dst := true }]
    shape := fun s k f =>
      let ds := [s.opTd k f.d, s.opTd k f.a] ++ (if imm then [] else [s.opTd k f.b])
      vecShape false (vecFmt (s.opTd k f.a).fcode && ds.all fun t => t.fcode == (s.opTd k f.a).fcode) ds
    cost := fun s k f => ceilDiv (s.opTd k f.a).count (vecRate (s.opTd k f.a).fcode) }

/-- V.ADD to V.MAX (R111). -/
def twoRun (op code : Nat) (f : Fields) (r : Run) : Run :=
  let a := r.c.tdAt f.a
  let (r, p) := r.allCodes a
  let (r, q) := if bitAt f.sub 0 then
      let c := immElem a.fmt r.tz (f.imm.toNat % 2 ^ 32)
      (r.flag c.2, p.map fun row => row.map fun _ => c.1)
    else r.allCodes (r.c.tdAt f.b)
  let r := r.clearSrcs (binIns code f)
  r.putFlagged (r.c.tdAt f.d) (zipRows (vecBin op a.fmt r.tz) p q)

/-- V.ADD to V.MAX issued on a context. -/
def vecTwo (op code e x : Nat) (f : Fields) (s : State) : Res :=
  issue (binIns code f) e x f s (twoRun op code f)

/-- V.ADD. -/
def execVAdd (e x : Nat) (f : Fields) (s : State) : Res := vecTwo 0 0x50 e x f s

/-- V.SUB. -/
def execVSub (e x : Nat) (f : Fields) (s : State) : Res := vecTwo 1 0x51 e x f s

/-- V.MUL. -/
def execVMul (e x : Nat) (f : Fields) (s : State) : Res := vecTwo 2 0x52 e x f s

/-- V.MIN. -/
def execVMin (e x : Nat) (f : Fields) (s : State) : Res := vecTwo 3 0x54 e x f s

/-- V.MAX. -/
def execVMax (e x : Nat) (f : Fields) (s : State) : Res := vecTwo 4 0x55 e x f s

/-- V.FMA: the row of the opcode table. -/
def fmaIns : Ins :=
  { op := 0x53, d := .td, a := .td, b := .td, c := .td, rnd := true, fl := .both
    uses := fun _ f => [{ i := f.a }, { i := f.b }, { i := f.c }, { i := f.d, dst := true }]
    shape := fun s k f =>
      let ds := [s.opTd k f.d, s.opTd k f.a, s.opTd k f.b, s.opTd k f.c]
      vecShape false ([6, 7].contains (s.opTd k f.a).fcode && ds.all fun t => t.fcode == (s.opTd k f.a).fcode) ds
    cost := fun s k f => ceilDiv (s.opTd k f.a).count (vecRate (s.opTd k f.a).fcode) }

/-- V.FMA (R111). -/
def fmaRun (f : Fields) (r : Run) : Run :=
  let a := r.c.tdAt f.a
  let (r, p) := r.allCodes a
  let (r, q) := r.allCodes (r.c.tdAt f.b)
  let (r, t) := r.allCodes (r.c.tdAt f.c)
  let r := r.clearSrcs fmaIns
  r.putFlagged (r.c.tdAt f.d)
    ((zipRows (fun a b => (a, b)) p q).zip t |>.map fun row => (row.1.zip row.2).map fun y => vecFma a.fmt r.tz y.1.1 y.1.2 y.2)

/-- V.FMA issued on a context. -/
def execVFma (e x : Nat) (f : Fields) (s : State) : Res :=
  issue fmaIns e x f s (fmaRun f)

/-- V.CMP: the row of the opcode table. -/
def cmpIns : Ins :=
  { op := 0x56, d := .td, a := .td, b := .td, sub := 0xF0, fl := .both, enc := fun _ f => decide (f.sub / 16 ≤ 3)
    uses := fun _ f => [{ i := f.a }, { i := f.b }, { i := f.d, dst := true }]
    shape := fun s k f =>
      let a := s.opTd k f.a
      vecShape false (vecFmt a.fcode && (s.opTd k f.b).fcode == a.fcode && (s.opTd k f.d).fcode == 9) [s.opTd k f.d, a, s.opTd k f.b]
    cost := fun s k f => ceilDiv (s.opTd k f.a).count (vecRate (s.opTd k f.a).fcode) }

/-- V.CMP writes 1 where the condition holds, else 0, and sets no flag (R102, R111). -/
def cmpRun (f : Fields) (r : Run) : Run :=
  let a := r.c.tdAt f.a
  let (r, p) := r.allCodes a
  let (r, q) := r.allCodes (r.c.tdAt f.b)
  (r.clearSrcs cmpIns).putCodes (r.c.tdAt f.d)
    (zipRows (fun u v => b2n (vCond (f.sub / 16) (a.fmt.decode u) (a.fmt.decode v))) p q)

/-- V.CMP issued on a context. -/
def execVCmp (e x : Nat) (f : Fields) (s : State) : Res :=
  issue cmpIns e x f s (cmpRun f)

/-- V.SEL: the row of the opcode table. -/
def selIns : Ins :=
  { op := 0x5A, d := .td, a := .td, b := .td, c := .td, fl := .both
    uses := fun _ f => [{ i := f.a }, { i := f.b }, { i := f.c }, { i := f.d, dst := true }]
    shape := fun s k f =>
      let a := s.opTd k f.a
      vecShape false (vecFmt a.fcode && (s.opTd k f.b).fcode == a.fcode && (s.opTd k f.d).fcode == a.fcode && (s.opTd k f.c).fcode == 9)
        [s.opTd k f.d, a, s.opTd k f.b, s.opTd k f.c]
    cost := fun s k f => ceilDiv (s.opTd k f.a).count (vecRate (s.opTd k f.a).fcode) }

/-- V.SEL takes a where the mask is not zero, else b, and sets no flag (R111). -/
def selRun (f : Fields) (r : Run) : Run :=
  let (r, p) := r.allCodes (r.c.tdAt f.a)
  let (r, q) := r.allCodes (r.c.tdAt f.b)
  let (r, m) := r.allCodes (r.c.tdAt f.c)
  (r.clearSrcs selIns).putCodes (r.c.tdAt f.d)
    ((zipRows (fun a b => (a, b)) p q).zip m |>.map fun row => (row.1.zip row.2).map fun y => if y.2 != 0 then y.1.1 else y.1.2)

/-- V.SEL issued on a context. -/
def execVSel (e x : Nat) (f : Fields) (s : State) : Res :=
  issue selIns e x f s (selRun f)

/-- V.FN: the row of the opcode table. -/
def fnIns : Ins :=
  { op := 0x57, d := .td, a := .td, sub := 0xF0, rnd := true, fl := .both, enc := fun _ f => decide (f.sub / 16 ≤ 5)
    uses := fun _ f => [{ i := f.a }, { i := f.d, dst := true }]
    shape := fun s k f => vecShape false ((s.opTd k f.a).fcode == 7 && (s.opTd k f.d).fcode == 7) [s.opTd k f.d, s.opTd k f.a]
    cost := fun s k f => ceilDiv (s.opTd k f.a).count 256 }

/-- V.FN (R73, R112). The word may name a rounding mode, as every floating vector result takes one (R111); an FP32 result has no use
for it (R91). -/
def fnRun (f : Fields) (r : Run) : Run :=
  let (r, p) := r.allCodes (r.c.tdAt f.a)
  (r.clearSrcs fnIns).putFlagged (r.c.tdAt f.d) (p.map fun row => row.map fun c => vFn (f.sub / 16) c)

/-- V.FN issued on a context. -/
def execVFn (e x : Nat) (f : Fields) (s : State) : Res :=
  issue fnIns e x f s (fnRun f)

/-- V.CVT: the row of the opcode table; scales that the program gives are a source. -/
def cvtIns (c : Ctx) (f : Fields) : Ins :=
  let given := (c.tdAt f.d).scaled && f.sub / 16 == 0
  { op := 0x58, d := .td, a := .td, sub := 0xF0, rnd := true, fl := .both, enc := fun _ f => decide (f.sub / 16 ≤ 1)
    uses := fun c f =>
      [{ i := f.a }] ++ (if given then [{ i := (c.tdAt f.d).auxScale }] else [])
      ++ [{ i := f.d, dst := true, auxDst := (c.tdAt f.d).scaled && !given }]
    shape := fun s k f =>
      vecShape true (decide ((s.opTd k f.a).fcode < 8) && decide ((s.opTd k f.d).fcode < 8)) [s.opTd k f.d, s.opTd k f.a]
    cost := fun s k f => ceilDiv (s.opTd k f.a).count (min (vecRate (s.opTd k f.a).fcode) (vecRate (s.opTd k f.d).fcode)) }

/-- V.CVT (R81, R82, R112). -/
def cvtRun (i : Ins) (f : Fields) (r : Run) : Run :=
  let a := r.c.tdAt f.a
  let d := r.c.tdAt f.d
  let (r, rows) := r.rowsOf a.rows fun r i => r.deq a i
  let given := f.sub / 16 == 0
  let (r, scs, cs) := r.rounded d rows given
  ((r.clearSrcs i).putScales d scs).putCodes d cs

/-- V.CVT issued on a context. -/
def execVCvt (e x : Nat) (f : Fields) (s : State) : Res :=
  issue (cvtIns (s.ctx (4 * e + x)) f) e x f s (cvtRun (cvtIns (s.ctx (4 * e + x)) f) f)

/-- V.RED: the row of the opcode table. The destination holds one element for each row. -/
def redIns : Ins :=
  { op := 0x59, d := .td, a := .td, sub := 0xF0, rnd := true, fl := .both, enc := fun _ f => decide (f.sub / 16 ≤ 2)
    uses := fun _ f => [{ i := f.a }, { i := f.d, dst := true }]
    shape := fun s k f =>
      let a := s.opTd k f.a
      let d := s.opTd k f.d
      if a.scaled || d.scaled || !vecFmt a.fcode || d.fcode != a.fcode then 4
      else if a.rank == d.rank && d.n0 == 1 && (List.range 3).all fun i => a.ext (i + 1) == d.ext (i + 1) then 0 else 5
    cost := fun s k f => ceilDiv (s.opTd k f.a).count (vecRate (s.opTd k f.a).fcode) }

/-- V.RED (R74, R112). -/
def redRun (f : Fields) (r : Run) : Run :=
  let a := r.c.tdAt f.a
  let (r, p) := r.allCodes a
  (r.clearSrcs redIns).putFlagged (r.c.tdAt f.d) (p.map fun row => [vecRed (f.sub / 16) a.fmt row])

/-- V.RED issued on a context. -/
def execVRed (e x : Nat) (f : Fields) (s : State) : Res :=
  issue redIns e x f s (redRun f)

/-! ## TOPK (R107) -/

/-- Does candidate `x` rank before `y`: a greater value, or an equal one at a lower position; NaN last? -/
def ranksBefore (x y : Num × Nat) : Bool :=
  match x.1, y.1 with
  | .nan, .nan => decide (x.2 < y.2)
  | .nan, _ => false
  | _, .nan => true
  | a, b => b.lt a || (!a.lt b && decide (x.2 < y.2))

/-- Insert a candidate by rank. -/
def rankInsert (x : Num × Nat) : List (Num × Nat) → List (Num × Nat)
  | [] => [x]
  | y :: ys => if ranksBefore x y then x :: y :: ys else y :: rankInsert x ys

/-- The positions of the `k` highest-ranked values. -/
def topk (vs : List Num) (k : Nat) : List Nat := ((vs.zipIdx.foldl (fun l x => rankInsert x l) []).take k).map Prod.snd

/-- TOPK: the row of the opcode table. -/
def topkIns : Ins :=
  { op := 0x60, d := .td, a := .td, b := .td, imm := 0x7F, fl := .both
    enc := fun c f => let k := f.imm.toNat % 128
                      decide (1 ≤ k) && decide (k ≤ 64) && decide (k ≤ (c.tdAt f.a).n0)
    uses := fun _ f => [{ i := f.a }, { i := f.b, dst := true }, { i := f.d, dst := true }]
    shape := fun s k f =>
      let a := s.opTd k f.a
      let b := s.opTd k f.b
      let d := s.opTd k f.d
      let n := f.imm.toNat % 128
      if a.scaled || d.scaled || b.scaled || ! [7, 6, 2].contains a.fcode || d.fcode != a.fcode || b.fcode != 8 then 4
      else if a.rank == 2 && d.rank == 2 && b.rank == 2 && decide (a.n0 ≤ 65536) && d.n0 == n && b.n0 == n && d.n1 == a.n1 && b.n1 == a.n1
      then 0 else 5
    cost := fun s k f => (s.opTd k f.a).rows * ceilDiv (s.opTd k f.a).n0 256 * ceilDiv (f.imm.toNat % 128) 8 }

/-- TOPK (R107): the values keep their codes. -/
def topkRun (f : Fields) (r : Run) : Run :=
  let a := r.c.tdAt f.a
  let (r, p) := r.allCodes a
  let r := r.clearSrcs topkIns
  let top := p.map fun row => topk (row.map a.fmt.decode) (f.imm.toNat % 128)
  let vals := (p.zip top).map fun x => x.2.map fun i => x.1.getD i 0
  (r.putCodes (r.c.tdAt f.d) vals).putCodes (r.c.tdAt f.b) top

/-- TOPK issued on a context. -/
def execTopk (e x : Nat) (f : Fields) (s : State) : Res :=
  issue topkIns e x f s (topkRun f)

end Sys2Proof.Machine
end

