-- ==== Sys2Proof/Machine/Collective.lean ====
section
/-! DEFINITION. Machine/Collective.lean: broadcasts, reductions to one, their chunks, and what ends an instance
(06 R160, R164, R168 to R181; 05 R143, R158). -/

namespace Sys2Proof.Machine

/-! ## Streams (R169): the elements of the receive operand in index order; with code 3 the bitmap, then the blocks -/

/-- Bytes of the bitmap of a compressed tensor. -/
def Ctx.mapBytes (c : Ctx) (d : Td) : Nat := let bm := c.tdAt d.auxMeta; bm.rows * bm.rowBytes

/-- The (region offset, bytes) pieces of a stream. -/
def Ctx.pieces (c : Ctx) (d : Td) : List (Nat × Nat) :=
  if d.sparse = 3 then
    let bm := c.tdAt d.auxMeta
    ((List.range bm.rows).map fun i => (bm.rowAt i, bm.rowBytes)) ++ [(d.base, d.blocks.1 * d.blocks.2 * d.blockBytes)]
  else (List.range d.rows).map fun i => (d.rowAt i, d.rowBytes)

/-- The pieces of stream bytes `[o, o+n)`. -/
def cutPieces : List (Nat × Nat) → Nat → Nat → List (Nat × Nat)
  | [], _, _ => []
  | (a, m) :: t, o, n =>
    if n = 0 then [] else if m ≤ o then cutPieces t (o - m) n
    else (a + o, min (m - o) n) :: cutPieces t 0 (n - min (m - o) n)

/-- Stream bytes of a tensor in the own tile store. -/
def State.streamRead (s : State) (k : Nat) (d : Td) (o n : Nat) : List Byte :=
  (cutPieces ((s.ctx k).pieces d) o n).flatMap fun x => s.tsBytes (s.tsAddr k x.1) x.2

/-- The 128-byte lines of stream bytes `[o, o+n)` that hold a poisoned word. -/
def State.streamBad (s : State) (k : Nat) (d : Td) (o n : Nat) : List Nat :=
  (List.range (ceilDiv n 128)).filter fun i =>
    (cutPieces ((s.ctx k).pieces d) (o + 128 * i) (min 128 (n - 128 * i))).any fun x => s.tsBad (s.tsAddr k x.1) x.2

/-- Poison every 128-byte line of the tile store that a range meets. -/
def State.poisonLines (s : State) (a n : Nat) : State :=
  { s with tilePoison := (wordsOf (128 * (a / 128)) (roundUp (a + n) 128 - 128 * (a / 128))).foldl (fun p w => p.set false w true) s.tilePoison }

/-- Write stream bytes; the lines `bad` are poisoned. -/
def State.streamWrite (s : State) (k : Nat) (d : Td) (o : Nat) (data : List Byte) (bad : List Nat) : State :=
  let ps := (s.ctx k).pieces d
  let s := ((cutPieces ps o data.length).foldl (fun (acc : State × List Byte) x =>
    (acc.1.tsWrite (acc.1.tsAddr k x.1) (acc.2.take x.2) none false, acc.2.drop x.2)) (s, data)).1
  bad.foldl (fun s i => (cutPieces ps (o + 128 * i) (min 128 (data.length - 128 * i))).foldl
    (fun s x => s.poisonLines (s.tsAddr k x.1) x.2) s) s

/-- Total bytes of the stream of a tensor that is written. -/
def State.streamLen (s : State) (k : Nat) (d : Td) : Nat :=
  if d.sparse = 3 then (s.ctx k).mapBytes d + ((s.presentOf k {} d).filter id).length * d.blockBytes else d.rows * d.rowBytes

/-- Chunks of a stream. -/
def Coll.nch (c : Coll) : Nat := max 1 (ceilDiv c.total 65536)

/-- Is the opcode a broadcast? -/
def isBcast (op : Nat) : Bool := op == 0x81 || op == 0x83

/-- The receive operand of an instance (Table 6.1). -/
def Coll.recv (c : Coll) (x : Ctx) : Td := x.tdAt (if c.op = 0x83 then c.f.d else c.f.c)

/-- The children of an instance: child position and rank. -/
def State.kidsOf (s : State) (c : Coll) : List (Nat × Nat) :=
  treeKids (s.grp c.g).size (s.grp c.g).radix c.root c.rank

/-- The parent of an instance. -/
def State.parentOf (s : State) (c : Coll) : Option Nat := treeParent (s.grp c.g).size (s.grp c.g).radix c.root c.rank

/-! ## Headers (Table 6.7) -/

/-- The header of chunk `i` of `n` bytes. -/
def State.header (s : State) (c : Coll) (comp : Bool) (i n : Nat) : ChunkHdr :=
  { inst := c.imm % 2 ^ 32, seq := c.seq, opcode := c.op, redOp := bits c.imm 47 46, compressed := comp, root := c.root, src := c.rank
    index := i, bytes := n, total := c.total, digest := BitVec.ofNat 32 (s.grp c.g).digest }

/-- The first 56 bytes of a header. -/
def hdrBytes (h : ChunkHdr) : List Byte :=
  leBytes 4 h.inst ++ leBytes 4 h.seq ++ leBytes 1 h.opcode ++ leBytes 1 (h.redOp + 4 * b2n h.compressed) ++ leBytes 2 h.root
  ++ leBytes 2 h.src ++ leBytes 2 0 ++ leBytes 4 h.index ++ leBytes 4 h.bytes ++ leBytes 8 h.total ++ leBytes 4 h.digest.toNat ++ zeros 20

/-- Does a header agree with the receiver's own instance (R172)? The total of a compressed stream is the sender's. -/
def State.hdrAgrees (s : State) (k : Nat) (c : Coll) (b : List Byte) : Bool :=
  let d := c.recv (s.ctx k)
  leAt b 0 4 == c.imm % 2 ^ 32 && leAt b 8 1 == c.op && leAt b 9 1 == bits c.imm 47 46 + 4 * b2n (d.sparse == 3)
  && leAt b 10 2 == c.root && leAt b 32 4 == (s.grp c.g).digest && (d.sparse == 3 || leAt b 24 8 == c.total)

/-! ## Checks at issue -/

/-- The bits of a collective immediate (R128). -/
def collImm : Nat := 2 ^ 48 - 1

/-- The encoding check of the immediate: reduce operation 3 is reserved, and zero is required where `zero`. -/
def collEnc (zero : Bool) (f : Fields) : Bool :=
  let r := bits f.imm.toNat 47 46
  if zero then r == 0 else r != 3

/-- The root that the immediate names. -/
def collRoot (f : Fields) : Nat := bits f.imm.toNat 45 32

/-- Check 0x0B (R127, R164): membership, owner, root, window and receive operand. -/
def State.groupCheck (s : State) (k : Nat) (f : Fields) (recv : Td) : Nat :=
  let g := s.grp f.cg
  let top := g.winOff 0 + 65536 * bits g.stage 15 8
  let n := if recv.sparse = 3 then recv.blocks.1 * recv.blocks.2 * recv.blockBytes else recv.span
  if (s.rankIn f.cg k).isSome && s.owner k == g.owner && decide (collRoot f < g.size) && decide (top ≤ s.regionSize k)
      && recv.base == g.winOff g.recvOff && decide (recv.base + n ≤ top) then 0 else 0x0B

/-- The number of children of context `k` in the instance that an instruction names. -/
def State.kidCount (s : State) (k : Nat) (f : Fields) : Nat :=
  let g := s.grp f.cg
  match s.rankIn f.cg k with
  | some r => (treeKids g.size g.radix (collRoot f % g.size) r).length
  | none => 0

/-- Is context `k` the root? -/
def State.isRoot (s : State) (k : Nat) (f : Fields) : Bool := s.rankIn f.cg k == some (collRoot f)

/-- MMA.REDUCE in the opcode table (R143, R173, R174; Table 5.1). -/
def mmaReduceIns : Ins :=
  { op := 0x80, d := .td, a := .td, b := .td, c := .td, cg := true, imm := collImm, sub := 0xE, rnd := true, fl := .both
    enc := fun _ f => collEnc false f
    uses := fun c f =>
      [{ i := f.a, sparse := [0, 2, 3] }, { i := f.b, sparse := [0, 1, 2, 3] }, { i := f.c, dst := true, sparse := [0, 3] },
       { i := f.d, dst := true, sparse := [0, 3], auxDst := (c.tdAt f.d).scaled }]
    shape := fun s k f =>
      let c := s.opTd k f.c
      let d := s.opTd k f.d
      let m := mmaDest (s.opTd k f.a) (s.opTd k f.b) d
      if m = 4 ∨ c.fcode ≠ 7 ∨ c.scaled ∨ c.sparse ≠ d.sparse then 4
      else if m ≠ 0 then m else if !c.sameShape d then 5 else s.groupCheck k f c
    cost := fun s k f =>
      s.mmaCost k f (s.opTd k f.a) (s.opTd k f.b) true + s.kidCount k f * ceilDiv (s.opTd k f.c).count 1024 }

/-- BCAST.MMA: the copy of B in c has B's format and codes; its scales and its metadata other than a code-3 bitmap are
the member's own (log entry 16). -/
def bcastMmaIns : Ins :=
  { op := 0x81, d := .td, a := .td, b := .td, c := .td, cg := true, imm := collImm, sub := 0xF, rnd := true, fl := .both
    enc := fun _ f => collEnc true f
    uses := fun c f =>
      [{ i := f.a, sparse := [0, 2, 3] }, { i := f.b, sparse := [0, 1, 2, 3] }, { i := f.c, dst := true, sparse := [0, 1, 2, 3] }]
      ++ (if bitAt f.sub 0 then [{ i := f.d, sparse := [0, 2, 3] }] else [])
      ++ [{ i := f.d, dst := true, sparse := [0, 2, 3], auxDst := (c.tdAt f.d).scaled }]
    shape := fun s k f =>
      let b := s.opTd k f.b
      let c := s.opTd k f.c
      let m := mmaDest (s.opTd k f.a) b (s.opTd k f.d)
      if m = 4 ∨ c.fcode ≠ b.fcode ∨ c.sparse ≠ b.sparse ∨ c.scaled ≠ b.scaled then 4
      else if m ≠ 0 then m else if !c.sameShape b then 5 else s.groupCheck k f c
    cost := fun s k f => s.mmaCost k f (s.opTd k f.a) (s.opTd k f.b) true }

/-- The sources of BCAST.MMA that a member reads: A, and B at the root. -/
def bcastMmaSrc (root : Bool) (f : Fields) : List Use :=
  [{ i := f.a, sparse := [0, 2, 3] }] ++ (if root then [{ i := f.b, sparse := [0, 1, 2, 3] }] else [])

/-- REDUCE (R174). -/
def reduceIns : Ins :=
  { op := 0x82, d := .td, a := .td, c := .td, cg := true, imm := collImm, rnd := true, fl := .both
    enc := fun _ f => collEnc false f
    uses := fun _ f => [{ i := f.a }, { i := f.c, dst := true }, { i := f.d, dst := true }]
    shape := fun s k f =>
      let a := s.opTd k f.a
      let c := s.opTd k f.c
      let d := s.opTd k f.d
      let ok := if a.fcode = 8 then c.fcode == 8 && d.fcode == 8 else [6, 7].contains a.fcode && c.fcode == 7 && [6, 7].contains d.fcode
      if !ok then 4 else if !a.sameShape c || !a.sameShape d then 5 else s.groupCheck k f c
    cost := fun s k f => max 1 (s.kidCount k f * ceilDiv (s.opTd k f.c).count 1024) }

/-- BCAST (R173): with sub[0] operand a is one launch record of 64 bytes. -/
def bcastIns (src : List Use) : Ins :=
  { op := 0x83, d := .td, a := .td, cg := true, imm := collImm, sub := 1, fl := .both
    enc := fun _ f => collEnc true f
    uses := fun _ f => [{ i := f.a }, { i := f.d, dst := true }]
    shape := fun s k f =>
      let a := s.opTd k f.a
      let d := s.opTd k f.d
      if a.fcode ≠ d.fcode then 4
      else if !a.sameShape d || (bitAt f.sub 0 && a.rows * a.rowBytes != 64) then 5 else s.groupCheck k f d
    waits := some src }

/-- LSE.REDUCE (R174, R176). -/
def lseIns : Ins :=
  { op := 0x87, d := .td, a := .td, c := .td, cg := true, imm := collImm, fl := .both
    enc := fun _ f => collEnc true f
    uses := fun _ f => [{ i := f.a }, { i := f.c, dst := true }, { i := f.d, dst := true }]
    shape := fun s k f =>
      let a := s.opTd k f.a
      let c := s.opTd k f.c
      let d := s.opTd k f.d
      if a.fcode ≠ 7 ∨ c.fcode ≠ 7 ∨ d.fcode ≠ 7 then 4
      else if !a.sameShape c || !a.sameShape d || decide (a.n0 ≤ 16) then 5 else s.groupCheck k f c
    cost := fun s k f => max 1 (3 * s.kidCount k f * ceilDiv (s.opTd k f.c).count 1024) }

/-! ## Issue -/

/-- What waits in the window for a member that issues its instance: an abandon word, or chunks whose headers differ, whatever
collective and root their senders named (R172). -/
def State.collCheck (s : State) (k : Nat) : State :=
  match (s.ctx k).coll with
  | none => s
  | some c =>
    let g := s.grp c.g
    if s.wordFull g c.rank 0x8D0 && leAt (s.getWin g c.rank 0x8D0 4) 0 4 == c.seq then s.collAbort k 0x0B false none
    else
      let slots := (List.range g.radix).flatMap fun j => [slotOff j 0, slotOff j 1]
      let bad := (slots.any fun o =>
          let h := s.getWin g c.rank o 64
          s.wordFull g c.rank (o + 56) && leAt h 56 4 == c.seq && (isBcast c.op || !s.hdrAgrees k c h))
        || (s.wordFull g c.rank 0x838 && leAt (s.getWin g c.rank 0x800 56) 4 4 == c.seq && !s.hdrAgrees k c (s.getWin g c.rank 0x800 56))
      if bad then s.collAbort k 0x0B false none else s

/-- The instance begins at the member once its own contribution is in place (R168, R170); the instruction stays at its
place until the instance completes. -/
def Run.collBegin (r : Run) (op total : Nat) (atRoot : Bool) : Run :=
  if r.err.isSome then r else
    let k := r.k
    let f := r.f
    let g := r.s.grp f.cg
    let rank := (r.s.rankIn f.cg k).getD 0
    let root := collRoot f
    let seq := g.seq.get 0 rank + 1
    let c : Coll := {
      g := f.cg, rank, v := relRank g.size root rank, op, seq, imm := f.imm.toNat, root, f, total, last := r.s.ticks, poison := r.poison
      nv := r.fl.nv, of := r.fl.of, uf := r.fl.uf }
    let leaf := (r.s.kidsOf c).isEmpty
    let c := if isBcast op then { c with comb := if atRoot then c.nch else 0 }
             else if leaf then { c with comb := c.nch, ready := c.nch } else c
    let s := (r.s.updGrp f.cg fun g => { g with seq := g.seq.set 0 rank seq }).updCtx k ({ · with coll := some c })
    let s := s.collCheck k
    let s := if isBcast op && (s.ctx k).coll.isSome then s.markWord g rank 0x838 false else s
    let s := match isBcast op && (s.ctx k).coll.isSome, treeParent g.size g.radix root rank with
      | true, some p =>
        let j := c.v % g.radix
        (s.edge k g p { kind := 1, g := f.cg, dest := p, src := rank, j, seq } [(0x840 + 8 * j, leBytes 8 seq, true)] []).1
      | _, _ => s
    { r with s, fl := {}, poison := false, npc := some (s.ctx k).pc }

/-- A command that issues a collective instruction: a failure at issue also ends the instance at the other members (R172), unless
no collective instruction was fetched. -/
def collIssue (i : Ins) (e x : Nat) (f : Fields) (s : State) (run : Run → Run) : Res :=
  let k := 4 * e + x
  let t := issueCore i k f (s.slowed k f.met.slow) run
  let begun := (t.ctx k).coll.isSome || (t.grp f.cg).seq != (s.grp f.cg).seq
  due (s.canIssue e x) (s.issued f.met.slow
    (match (t.ctx k).failing with
     | some code => if begun || s.regionSize k < (s.ctx k).pc + 16 || !engOpcodes.contains (s.opAt k) then t else t.collFailIssue k f code
     | none => t))

/-- REDUCE: the own contribution is copied exactly into c; BF16 is widened with the flags of a conversion (03 R81). -/
def reduceRun (f : Fields) (r : Run) : Run :=
  let a := r.c.tdAt f.a
  let c := r.c.tdAt f.c
  let (r, rows) := r.allCodes a
  let r := r.clearSrcs reduceIns
  let wide := rows.map fun row => row.map fun v => if a.fcode = 6 then Fmt.fp32.round false (Fmt.bf16.decode v) else (v, {})
  let r := { ({ r with f := { f with feSet := false, fence := false } }.putFlagged c wide) with f }
  r.collBegin 0x82 (c.rows * c.rowBytes) (r.s.isRoot r.k f)

/-- REDUCE issued on a context. -/
def execReduce (e x : Nat) (f : Fields) (s : State) : Res :=
  collIssue reduceIns e x f s (reduceRun f)

/-- MMA.REDUCE: the product is written into c in FP32. -/
def mmaReduceRun (f : Fields) (sc : Scrim) (r : Run) : Run :=
  r.unlessPending sc fun r =>
    let a := r.c.tdAt f.a
    let c := r.c.tdAt f.c
    let (r, ma) := r.mat a
    let (r, mb) := r.mat (r.c.tdAt f.b)
    let r := r.clearSrcs mmaReduceIns
    let p := products ma mb a.n0 (bitAt f.sub 3) fun _ _ => 0
    let r := r.ctx (·.setAcc (f.sub / 2 % 4) (p.tiles.getLastD []))
    let r := { ({ r with f := { f with feSet := false, fence := false } }.putProduct c p sc) with f }
    r.collBegin 0x80 (r.s.streamLen r.k c) (r.s.isRoot r.k f)

/-- MMA.REDUCE issued on a context. -/
def execMmaReduce (e x : Nat) (f : Fields) (sc : Scrim) (s : State) : Res :=
  collIssue mmaReduceIns e x f s (mmaReduceRun f sc)

/-- LSE.REDUCE: the own rows are copied into c. -/
def lseRun (f : Fields) (r : Run) : Run :=
  let a := r.c.tdAt f.a
  let c := r.c.tdAt f.c
  let (r, rows) := r.allCodes a
  let r := r.clearSrcs lseIns
  let r := { ({ r with f := { f with feSet := false, fence := false } }.putCodes c rows) with f }
  r.collBegin 0x87 (c.rows * c.rowBytes) (r.s.isRoot r.k f)

/-- LSE.REDUCE issued on a context. -/
def execLseReduce (e x : Nat) (f : Fields) (s : State) : Res :=
  collIssue lseIns e x f s (lseRun f)

/-- The root of a broadcast copies the stream of `a` into its own receive operand. -/
def Run.rootCopy (r : Run) (a d : Td) : Run :=
  let s := r.s
  let n := s.streamLen r.k a
  let bad := s.streamBad r.k a 0 n
  let lines (t : Td) (wr : Bool) : List (Nat × Nat × Bool) := (cutPieces (r.c.pieces t) 0 n).map fun x => (s.tsAddr r.k x.1, x.2, wr)
  { r with s := s.streamWrite r.k d 0 (s.streamRead r.k a 0 n) bad, poison := r.poison || !bad.isEmpty
           seen := r.seen ++ lines a false ++ lines d true }

/-- The source of BCAST, which only the root reads. -/
def bcastSrc (root : Bool) (f : Fields) : List Use := if root then [{ i := f.a }] else []

/-- BCAST (R170, R173). -/
def bcastRun (root : Bool) (f : Fields) (r : Run) : Run :=
  let a := r.c.tdAt f.a
  let d := r.c.tdAt f.d
  if root then ((r.rootCopy a d).feClear (bcastSrc root f)).collBegin 0x83 (a.rows * a.rowBytes) true
  else r.collBegin 0x83 (d.rows * d.rowBytes) false

/-- BCAST issued on a context. -/
def execBcast (e x : Nat) (f : Fields) (s : State) : Res :=
  let root := s.isRoot (4 * e + x) f
  collIssue (bcastIns (bcastSrc root f)) e x f s (bcastRun root f)

/-- BCAST.MMA: the root sends B; the product runs at INSTANCE_COMPLETE. -/
def bcastMmaRun (root : Bool) (f : Fields) (r : Run) : Run :=
  let b := r.c.tdAt f.b
  let c := r.c.tdAt f.c
  if root then
    ((r.rootCopy b c).feClear [{ i := f.b, sparse := [0, 1, 2, 3] }]).collBegin 0x81 (r.s.streamLen r.k b) true
  else r.collBegin 0x81 (if c.sparse = 3 then 0 else c.rows * c.rowBytes) false

/-- BCAST.MMA issued on a context. -/
def execBcastMma (e x : Nat) (f : Fields) (s : State) : Res :=
  let root := s.isRoot (4 * e + x) f
  collIssue { bcastMmaIns with waits := some (bcastMmaSrc root f) } e x f s (bcastMmaRun root f)

/-! ## Chunks arrive (R169, R170, R172) -/

/-- Take the first flight from `src` to rank `to` of a kind; it must be the one given. -/
def State.takeFlight (s : State) (want : Flight) : Option State :=
  match s.flights.find? fun x => x.kind == want.kind && x.g == want.g && x.dest == want.dest && x.src == want.src with
  | some x => if x = want then some { s with flights := s.flights.erase x } else none
  | none => none

/-- An arrival at rank `r` of group `n` from rank `src`: a flight on this device, or from another device. -/
def State.arrive (s : State) (n r src : Nat) (want : Flight) : Option State :=
  let g := s.grp n
  if !s.rankLocal n r || decide (48 ≤ (g.ent r).eng) || decide (g.table.length ≤ src) then none
  else if (g.ent src).dev = s.devNum then s.takeFlight want else some s

/-- What arrives at rank `r` is held by the hub while a migration copies its engine (R179), and else takes effect. -/
def State.arrived (s : State) (n r size : Nat) (i : Instr) (go : State → State) : State :=
  let e := ((s.grp n).ent r).eng
  if (s.eng e).copying then s.holdInbound e (.cmd size i) else go s

/-- A chunk of a reduction lands in its buffer; one of an instance that has ended is dropped (log entry 15). -/
def State.placeChunk (s : State) (n r j : Nat) (h : ChunkHdr) (data : List Byte) (bad : List Nat) : State :=
  let g := s.grp n
  let k := g.ctxOf r
  if h.seq ≤ g.fin.get 0 r then s.giveCredit k g n h.src (h.index % 2)
  else
    let b := h.index % 2
    let s := s.putWin g r (bufOff j b) data none
    let s := bad.foldl (fun s i => match s.winByte g r (bufOff j b + 128 * i) (min 128 (data.length - 128 * i)) with
      | some a => s.poisonLines a (min 128 (data.length - 128 * i))
      | none => s) s
    let s := (s.putWin g r (slotOff j b) (hdrBytes h) none).putWin g r (slotOff j b + 56) (leBytes 8 (h.seq + 2 ^ 32 * h.index)) (some true)
    match s.collAt n r with
    | some (k, c) =>
      if c.seq ≠ h.seq then s
      else if !s.hdrAgrees k c (hdrBytes h) then s.collAbort k 0x0B false none
      else s.updColl k ({ · with last := s.ticks })
    | none => s

/-- A chunk of a broadcast lands in the receive area; its header's signal word counts the chunks placed. One that no instance of
this member awaits leaves only its header, which the member's next issue compares (R172). -/
def State.placeBcast (s : State) (n r : Nat) (h : ChunkHdr) (data : List Byte) (bad : List Nat) : State :=
  let g := s.grp n
  let signal (s : State) : State :=
    (s.putWin g r 0x800 (hdrBytes h) none).putWin g r 0x838 (leBytes 8 (h.index + 1)) (some true)
  match s.collAt n r with
  | none => if h.seq ≤ g.fin.get 0 r then s else signal s
  | some (k, c) =>
    if c.seq ≠ h.seq then (if h.seq < c.seq then s else signal s)
    else if !s.hdrAgrees k c (hdrBytes h) then s.collAbort k 0x0B false none
    else
      let d := c.recv (s.ctx k)
      let s := s.streamWrite k d (65536 * h.index) data bad
      let s := s.updMirror k fun m => { m with ins := m.ins ++ [(1, d.base + 65536 * h.index, data)] }
      (signal s).updColl k fun c => { c with total := h.total, comb := h.index + 1, last := s.ticks, poison := c.poison || !bad.isEmpty }

/-- A chunk reaches a member, to the progress of its sender where that is on this device. -/
def State.chunkIn (s : State) (g r j : Nat) (h : ChunkHdr) (data : List Byte) (bad : List Nat) : State :=
  (if isBcast h.opcode then s.placeBcast g r h data bad else s.placeChunk g r j h data bad).progress g h.src

/-- CHUNK_PLACED (R169 to R172). -/
def execChunkPlaced (g r j : Nat) (h : ChunkHdr) (data : List Byte) (bad : List Nat) (s : State) : Res :=
  let want : Flight := { kind := 0, g, dest := r, src := h.src, j, hdr := some h, data, bad, seq := h.seq }
  match s.arrive g r h.src want with
  | none => .fault .notDue
  | some t =>
    due (decide (j < 16) && decide (1 ≤ h.bytes) && decide (h.bytes ≤ 65536) && data.length == h.bytes)
      (t.arrived g r (data.length + 64) (.chunkPlaced g r j h data bad) (·.chunkIn g r j h data bad))

/-- A ready word reaches a member. -/
def State.readyIn (s : State) (g r j seq : Nat) : State :=
  (s.putWin (s.grp g) r (0x840 + 8 * j) (leBytes 8 seq) (some true)).progress g r

/-- READY_WORD_PLACED (R170). -/
def execReadyWordPlaced (g r j seq : Nat) (s : State) : Res :=
  let src := match s.collAt g r with
    | some (_, c) => ((s.kidsOf c).find? fun x => x.1 == j).map (·.2)
    | none => none
  let fl := s.flights.find? fun x => x.kind == 1 && x.g == g && x.dest == r && x.j == j
  let go (t : State) : State := t.arrived g r 8 (.readyWordPlaced g r j seq) (·.readyIn g r j seq)
  match fl with
  | some x => match s.arrive g r x.src { x with seq } with
    | some t => due (decide (j < 16)) (go t)
    | none => .fault .notDue
  | none => due (decide (j < 16) && s.rankLocal g r && decide (((s.grp g).ent r).eng < 48)
      && (match src with | some q => ((s.grp g).ent q).dev != s.devNum | none => true)) (go s)

/-- An abandon word reaches a member, and ends its current instance (R172). -/
def State.abandonIn (s : State) (g r src seq code : Nat) : State :=
  let t := s.putWin (s.grp g) r 0x8D0 (leBytes 8 (seq % 2 ^ 32 + 2 ^ 32 * (code % 256))) (some true)
  match t.collAt g r with
  | some (k, c) => if c.seq = seq then t.collAbort k 0x0B false (some src) else t
  | none => t

/-- ABANDON_WORD_PLACED (R172). -/
def execAbandonWordPlaced (g r src seq code : Nat) (s : State) : Res :=
  match s.arrive g r src { kind := 2, g, dest := r, src, j := 0, seq, code } with
  | none => .fault .notDue
  | some t => done (t.arrived g r 8 (.abandonWordPlaced g r src seq code) (·.abandonIn g r src seq code))

/-! ## Combining (R143, R174 to R176) -/

/-- The combine of two FP32 or INT32 codes (R174): 0 sum, 1 maximum, 2 minimum. -/
def combineCode (int : Bool) (op p q : Nat) : Nat × Sticky :=
  vecBin (if op = 0 then 0 else if op = 1 then 4 else 3) (if int then .int32 else .fp32) false p q

/-- The factor of a row in R176; that of the row that holds a finite maximum is exactly 1. -/
def lseFactor (a m : Num) : Nat × Sticky :=
  let x := Fmt.fp32.round false ((a.add m.neg).mul (Fmt.fp32.decode 0x3FB8AA3B))
  let y := vFn 0 x.1
  (y.1, x.2.or y.2)

/-- LSE combine of row `y` into row `x`, FP32 codes (R176, Table 5.9). -/
def lseRow (x y : List Nat) : List Nat × Sticky :=
  let d := x.length - 16
  let num (l : List Nat) (i : Nat) : Num := Fmt.fp32.decode (l.getD i 0)
  if y.getD (d + 1) 0 = 0 then (x, {}) else if x.getD (d + 1) 0 = 0 then (y, {}) else
    let m := (num x d).max2 (num y d)
    let tx := lseFactor (num x d) m
    let ty := lseFactor (num y d) m
    let mix (i : Nat) : Nat × Sticky :=
      let p := Fmt.fp32.round false ((num x i).mul (Fmt.fp32.decode tx.1))
      let r := Fmt.fp32.round false (((num y i).mul (Fmt.fp32.decode ty.1)).add (Fmt.fp32.decode p.1))
      (r.1, p.2.or r.2)
    let o := (List.range d).map mix
    let l := mix (d + 1)
    (o.map Prod.fst ++ [fp32 m, l.1, (x.getD (d + 2) 0 + y.getD (d + 2) 0) % 2 ^ 32, (x.getD (d + 3) 0 + y.getD (d + 3) 0) % 2 ^ 32]
      ++ List.replicate 12 0, o.foldl (fun st z => st.or z.2) ((tx.2.or ty.2).or l.2))

/-- Does child position `j` still send chunks? -/
def Coll.active (c : Coll) (j : Nat) : Bool := c.need.get 0 j == 0 || decide (65536 * c.comb < c.need.get 0 j)

/-- Is chunk `comb` of child `j` in its slot? -/
def State.slotReady (s : State) (c : Coll) (j : Nat) : Bool :=
  let g := s.grp c.g
  let off := slotOff j (c.comb % 2) + 56
  s.wordFull g c.rank off && leAt (s.getWin g c.rank off 8) 0 8 == c.seq + 2 ^ 32 * c.comb

/-- The bytes of the slot of child `j`, with its poisoned lines. -/
def State.slotData (s : State) (c : Coll) (j : Nat) : List Byte × List Nat :=
  let g := s.grp c.g
  let b := c.comb % 2
  let n := leAt (s.getWin g c.rank (slotOff j b) 64) 20 4
  (s.getWin g c.rank (bufOff j b) n, (List.range (ceilDiv n 128)).filter fun i =>
    match s.winByte g c.rank (bufOff j b + 128 * i) (min 128 (n - 128 * i)) with
    | some a => s.tsBad a (min 128 (n - 128 * i))
    | none => false)

/-- Add flags and poison to an instance. -/
def State.collFlags (s : State) (k : Nat) (st : Sticky) (poison : Bool) : State :=
  s.updColl k fun c => { c with nv := c.nv || st.nv, of := c.of || st.of, uf := c.uf || st.uf, poison := c.poison || poison }

/-- Combine a chunk of child `j` of a dense reduction, element by element. -/
def State.combineDense (s : State) (k : Nat) (c : Coll) (j : Nat) : State :=
  let d := c.recv (s.ctx k)
  let (data, bad) := s.slotData c j
  let o := 65536 * c.comb
  let own := unpack 32 (data.length / 4) (s.streamRead k d o data.length)
  let res := (own.zip (unpack 32 (data.length / 4) data)).map fun x => combineCode (d.fcode == 8) (bits c.imm 47 46) x.1 x.2
  let bad := (bad ++ s.streamBad k d o data.length).eraseDups
  (s.streamWrite k d o (packCodes 32 (res.map Prod.fst)) bad).collFlags k (res.foldl (fun st x => st.or x.2) {}) (!bad.isEmpty)

/-- Keep a chunk of child `j` whose rows or blocks straddle chunks. -/
def State.keepChunk (s : State) (k : Nat) (c : Coll) (j : Nat) : State :=
  let (data, bad) := s.slotData c j
  s.updColl k fun c =>
    let old := (c.streams.find? fun (x : Nat × List Byte) => x.1 == j).map (·.2) |>.getD []
    { c with
      streams := (c.streams.filter fun (x : Nat × List Byte) => x.1 != j) ++ [(j, old ++ data)]
      bads := c.bads ++ bad.map fun i => (j, 512 * c.comb + i) }

/-- The stream kept of child `j`. -/
def Coll.stream (c : Coll) (j : Nat) : List Byte := ((c.streams.find? fun (x : Nat × List Byte) => x.1 == j).map (·.2)).getD []

/-- The 128-byte lines of a stream that bytes `[o, o+n)` meet. -/
def linesAt (o n : Nat) : List Nat := if n = 0 then [] else (List.range ((o + n - 1) / 128 - o / 128 + 1)).map (o / 128 + ·)

/-- Poison lines of the stream of a tensor. -/
def State.streamPoison (s : State) (k : Nat) (d : Td) (ls : List Nat) : State :=
  ls.foldl (fun s i => (cutPieces ((s.ctx k).pieces d) (128 * i) 128).foldl (fun s x => s.poisonLines (s.tsAddr k x.1) x.2) s) s

/-- Combine row `i` of an LSE reduction from the kept streams, child positions ascending. A line that is poisoned in any of them
is poisoned in the result (R172). -/
def State.combineRow (s : State) (k : Nat) (c : Coll) (kids : List Nat) (i : Nat) : State :=
  let d := c.recv (s.ctx k)
  let n := d.rowBytes
  let own := unpack 32 d.n0 (s.streamRead k d (i * n) n)
  let bad := (linesAt (i * n) n).filter fun l => !(s.streamBad k d (128 * l) (min 128 (c.total - 128 * l))).isEmpty
    || kids.any fun j => c.bads.contains (j, l)
  let (row, st) := kids.foldl (fun acc j =>
    let (x, st) := lseRow acc.1 (unpack 32 d.n0 (slice (c.stream j) (i * n) n))
    (x, acc.2.or st)) (own, ({} : Sticky))
  ((s.streamWrite k d (i * n) (packCodes 32 row) []).streamPoison k d bad).collFlags k st (!bad.isEmpty)

/-- The streams that a compressed reduction combines: the own contribution, kept at position 16, and those of the children. -/
def unionParts (kids : List Nat) : List Nat := 16 :: kids

/-- The combined stream of a compressed reduction, as far as what has come determines it (R143): its bitmap, the union of the
bitmaps, and its elements in stored order, each with the flags of its additions and whether a poisoned line enters it. An absent
block is omitted. -/
def State.unionStream (s : State) (k : Nat) (c : Coll) (kids : List Nat) : List Byte × List (Nat × Sticky × Bool) :=
  let x := s.ctx k
  let d := c.recv x
  let bm := x.tdAt d.auxMeta
  let mb := x.mapBytes d
  let bb := d.blockBytes
  let (rb, cb) := d.blocks
  let parts := (unionParts kids).map fun j =>
    let st := c.stream j
    (j, st, bm.present (fun i n => slice st (i * bm.rowBytes) n) rb cb)
  let at_ (p : List Bool) (t : Nat) : Nat := mb + ((p.take t).filter id).length * bb
  let block (j : Nat) (st : List Byte) (p : List Bool) (t : Nat) : List (Nat × Sticky × Bool) :=
    (unpack 32 (bb / 4) (slice st (at_ p t) bb)).mapIdx fun i v => (v, {}, c.bads.contains (j, (at_ p t + 4 * i) / 128))
  let one (t : Nat) : List (Nat × Sticky × Bool) :=
    parts.foldl (fun acc x =>
      let (j, st, p) := x
      if !p.getD t false then acc
      else if acc.isEmpty then block j st p t
      else (acc.zip (block j st p t)).map fun v =>
        let r := combineCode false (bits c.imm 47 46) v.1.1 v.2.1
        (r.1, v.1.2.1.or r.2, v.1.2.2 || v.2.2.2)) []
  let out := (List.range (rb * cb)).map one
  ((List.range bm.rows).flatMap fun i => (bitmapRow bm cb (out.map (!·.isEmpty)) i).map (·.getD 0), out.flatten)

/-- Combine the chunks `comb` of the compressed partials (R143, R169): a block of a child never lies behind its place in the union,
so that they determine the combined stream to the same depth. -/
def State.combineBlocks (s : State) (k : Nat) (c : Coll) (kids : List Nat) : State :=
  let d := c.recv (s.ctx k)
  let (map, es) := s.unionStream k c kids
  let mb := map.length
  let lo := 65536 * c.comb
  let bytes := map ++ packCodes 32 (es.map (·.1))
  let now := (es.zipIdx).filter fun v => decide (lo ≤ mb + 4 * v.2) && decide (mb + 4 * v.2 < lo + 65536)
  let bad := ((now.filter (·.1.2.2)).map fun v => (mb + 4 * v.2) / 128).eraseDups
  let bad := bad ++ (linesAt lo (min 65536 (mb - lo))).filter fun l => (unionParts kids).any fun j => c.bads.contains (j, l)
  let s := (s.streamWrite k d lo ((bytes.drop lo).take 65536) []).streamPoison k d bad
  (s.collFlags k (now.foldl (fun a v => a.or v.1.2.1) {}) (!bad.isEmpty)).updColl k ({ · with total := bytes.length })

/-- Keep the own compressed contribution before the union overwrites it. -/
def State.keepOwn (s : State) (k : Nat) (c : Coll) : State :=
  if 0 < c.comb then s else
    let d := c.recv (s.ctx k)
    let n := s.streamLen k d
    let own := s.streamRead k d 0 n
    let bad := s.streamBad k d 0 n
    s.updColl k fun c => { c with streams := c.streams ++ [(16, own)], bads := c.bads ++ bad.map fun i => (16, i) }

/-- Once every child's stream is in, the rest of the union, which may be longer than each of them. -/
def State.restBlocks (s : State) (k : Nat) (kids : List Nat) : State :=
  match (s.ctx k).coll with
  | none => s
  | some c =>
    let s := (List.range (c.nch - c.comb)).foldl (fun s i => s.combineBlocks k { c with comb := c.comb + i } kids) s
    s.updColl k fun c => { c with comb := c.nch, ready := c.nch }

/-- The effect of combining chunk `comb` of the children that still send (R169): their slots become empty, their credits
full. -/
def State.combineChunk (s : State) (k : Nat) (c : Coll) : State :=
  let g := s.grp c.g
  let kids := s.kidsOf c
  let acts := kids.filter fun x => c.active x.1
  let d := c.recv (s.ctx k)
  let comp := d.sparse == 3
  let dense := !comp && c.op != 0x87
  let s := if comp then s.keepOwn k c else s
  let s := acts.foldl (fun s x =>
    let s := if dense then s.combineDense k c x.1 else s.keepChunk k c x.1
    let total := leAt (s.getWin g c.rank (slotOff x.1 (c.comb % 2)) 64) 24 8
    let s := s.updColl k fun c => { c with need := c.need.set 0 x.1 total }
    (s.markWord g c.rank (slotOff x.1 (c.comb % 2) + 56) false).giveCredit k g c.g x.2 (c.comb % 2)) s
  let s := s.updColl k fun c => { c with comb := c.comb + 1, last := s.ticks }
  match (s.ctx k).coll with
  | none => s
  | some c' =>
    let js := kids.map (·.1)
    if dense then s.updColl k ({ · with ready := c'.comb })
    else if comp then
      let s := s.combineBlocks k { c' with comb := c.comb } js
      if js.all fun j => !c'.active j then s.restBlocks k js else s.updColl k ({ · with ready := c'.comb })
    else
      let rb := d.rowBytes
      let rowsAt (n : Nat) : Nat := min c.total (65536 * n) / rb
      let s := (List.range (rowsAt c'.comb - rowsAt c.comb)).foldl (fun s i => s.combineRow k c' js (rowsAt c.comb + i)) s
      s.updColl k fun c => { c with ready := if rowsAt c'.comb * rb = c.total then c.nch else rowsAt c'.comb * rb / 65536 }

/-- Has every chunk of every child been combined? -/
def State.allIn (s : State) (c : Coll) : Bool := (s.kidsOf c).all fun x => !c.active x.1

/-- Does the context of an instance hold its engine? -/
def State.holds (s : State) (k : Nat) : Bool :=
  let e := k / 4
  (s.ctx k).st == 2 && (s.eng e).interval == some (k % 4) && (s.eng e).switching.isNone && !(s.eng e).copying && !(s.eng e).underTest

/-- CHUNK_COMBINE (R169, R175). -/
def execChunkCombine (g r : Nat) (s : State) : Res :=
  match s.collAt g r with
  | none => .fault .notDue
  | some (k, c) =>
    let acts := (s.kidsOf c).filter fun x => c.active x.1
    due (!isBcast c.op && s.holds k && !acts.isEmpty && acts.all fun x => s.slotReady c x.1)
      (s.combineChunk k c)

/-! ## Sending (R169, R170) -/

/-- CHUNK_SEND (R169): the next chunk of the subtree result, once the credit word of its buffer at the parent is full. -/
def execChunkSend (g r : Nat) (s : State) : Res :=
  match s.collAt g r with
  | none => .fault .notDue
  | some (k, c) =>
    let gr := s.grp g
    let b := c.sent % 2
    match s.parentOf c with
    | none => .fault .notDue
    | some p =>
      due (!isBcast c.op && s.holds k && decide (c.sent < c.ready) && s.wordFull gr r (0x8C0 + 8 * b))
        (let d := c.recv (s.ctx k)
         let o := 65536 * c.sent
         let n := min 65536 (c.total - o)
         let data := s.streamRead k d o n
         let bad := s.streamBad k d o n
         let h := s.header c (d.sparse == 3) c.sent n
         let j := c.v % gr.radix
         let s := s.markWord gr r (0x8C0 + 8 * b) false
         let (s, ids) := s.edge k gr p { kind := 0, g, dest := p, src := r, j, hdr := some h, data, bad, seq := c.seq }
           [(bufOff j b, data, false), (slotOff j b, hdrBytes h ++ leBytes 8 (c.seq + 2 ^ 32 * c.sent), true)] bad
         s.updColl k fun c => { c with sent := c.sent + 1, acks := c.acks ++ ids, last := s.ticks })

/-- May the next chunk go to child (j, rank)? -/
def State.canForward (s : State) (c : Coll) (x : Nat × Nat) : Bool :=
  let g := s.grp c.g
  let n := c.fwd.get 0 x.1
  decide (n < c.comb) && (decide (0 < n) ||
    (s.wordFull g c.rank (0x840 + 8 * x.1) && leAt (s.getWin g c.rank (0x840 + 8 * x.1) 4) 0 4 == c.seq))

/-- Forward the next chunk of a broadcast to one child. -/
def State.forward (s : State) (k : Nat) (c : Coll) (x : Nat × Nat) : State :=
  let g := s.grp c.g
  let i := c.fwd.get 0 x.1
  let d := c.recv (s.ctx k)
  let o := 65536 * i
  let n := min 65536 (c.total - o)
  let data := s.streamRead k d o n
  let bad := s.streamBad k d o n
  let h := s.header c (d.sparse == 3) i n
  let s := if i = 0 then s.markWord g c.rank (0x840 + 8 * x.1) false else s
  let (s, ids) := s.edge k g x.2 { kind := 0, g := c.g, dest := x.2, src := c.rank, j := x.1, hdr := some h, data, bad, seq := c.seq }
    [(g.recvOff + o, data, false), (0x800, hdrBytes h ++ leBytes 8 (i + 1), true)] bad
  s.updColl k fun c => { c with fwd := c.fwd.set 0 x.1 (i + 1), acks := c.acks ++ ids, last := s.ticks }

/-- BCAST_CHUNK_FORWARD (R170): the hub forwards to every child what the chunks placed and the ready words allow. -/
def execBcastChunkForward (g r : Nat) (s : State) : Res :=
  match s.collAt g r with
  | none => .fault .notDue
  | some (k, c) =>
    let ks := (s.kidsOf c).filter (s.canForward c)
    due (isBcast c.op && !ks.isEmpty && !(s.eng (k / 4)).copying)
      (ks.foldl (fun s x => match (s.ctx k).coll with
        | some c => s.forward k c x
        | none => s) s)

/-! ## Completion (R171, R173) -/

/-- Is everything that a member sent acknowledged as placed? A chunk that ended in an error never is. -/
def State.allAcked (s : State) (k : Nat) (c : Coll) : Bool :=
  !c.lost && c.acks.all (fun a => !(s.ctx k).pendingOps.contains a)
    && !(s.flights.any fun x => x.kind == 0 && x.g == c.g && x.src == c.rank && x.seq == c.seq)

/-- May the instance complete? -/
def State.collDone (s : State) (k : Nat) (c : Coll) : Bool :=
  s.holds k && s.allAcked k c &&
  (if isBcast c.op then c.total != 0 && c.comb == c.nch && (s.kidsOf c).all fun x => c.fwd.get 0 x.1 == c.nch
   else s.allIn c && (c.v == 0 || c.sent == c.nch))

/-- A launch record received by a launch broadcast is submitted under the owner of the group (13 R352). -/
def State.broadcastLaunch (s : State) (n : Nat) (d : List Byte) : State :=
  let l := launchOf (leAt d 8 8) (leAt d 16 8) (leAt d 24 8) (leAt d 32 4) none (some n)
  let ok := bits (leAt d 0 1) 7 4 == 0 && leAt d 1 1 == 6 && leAt d 2 2 == 0 && launchFormOk (leAt d 16 8) (leAt d 32 4)
    && (d.drop 36).all (· == 0)
  if ok then s.submit l (s.grp n).owner else s.launchDone l 1 0

/-- What the instruction still does when its instance completes. -/
def Run.collFinal (r : Run) (c : Coll) (sc : Scrim) : Run :=
  let f := c.f
  let d := r.c.tdAt f.d
  let t := r.c.tdAt f.c
  if c.op = 0x83 then
    let r := if bitAt f.sub 0 then r.upd fun s => s.broadcastLaunch c.g (s.streamRead r.k d 0 64) else r
    if f.feSet then
      let (s, ws) := r.s.feRanges r.k true (r.s.useWords r.k { i := f.d, dst := true })
      { r with s := s.feMark true ws }
    else r
  else if c.op = 0x81 then
    let (r, ma) := r.mat (r.c.tdAt f.a)
    let (r, mb) := r.mat t
    let (r, old) := if bitAt f.sub 0 then r.oldRows d else (r, [])
    let r := r.feClear [{ i := f.a, sparse := [0, 2, 3] }]
    let p := products ma mb (r.c.tdAt f.a).n0 (bitAt f.sub 3) fun m n => (old.getD m []).getD n 0
    (r.ctx (·.setAcc (f.sub / 2 % 4) (p.tiles.getLastD []))).putProduct d p sc
  else if c.v ≠ 0 then r
  else if c.op = 0x80 then
    let (r, m) := r.mat t
    let (r, scs, cs) := r.rounded d m.rows false
    (r.putScales d scs).putBlocks d cs m.present
  else
    let (r, rows) := r.allCodes t
    if c.op = 0x87 ∨ d.fcode = 8 then r.putCodes d rows
    else r.putVals d (rows.map fun row => row.map Fmt.fp32.decode) false

/-- INSTANCE_COMPLETE (R171). `sc` is what the Scrim saw in the product of BCAST.MMA. -/
def execInstanceComplete (g r : Nat) (sc : Scrim) (s : State) : Res :=
  match s.collAt g r with
  | none => .fault .notDue
  | some (k, c) =>
    due (s.collDone k c) <|
      if c.op = 0x81 ∧ (s.pendingRerun sc).isSome then s.updCtx k ({ · with rerun := s.pendingRerun sc }) else
      (let run : Run := { s, k, f := c.f, fl := { nv := c.nv, of := c.of, uf := c.uf }, poison := c.poison }
       let run := run.collFinal c sc
       let run := run.upd fun s => (s.updGrp g fun x => { x with fin := x.fin.set 0 r c.seq }).updCtx k ({ · with coll := none })
       match run.err with
       | some code => ((run.finish c.op).abandon k g r c.root c.seq code none).schEvent g 2 g c.seq r code
       | none => run.finish c.op)

/-! ## The watchdog (R180) -/

/-- The neighbours whose chunk, credit or ready word is awaited. -/
def State.awaited (s : State) (c : Coll) : List Nat :=
  let up := match s.parentOf c with
    | some p =>
      if isBcast c.op then (if c.total = 0 ∨ c.comb < c.nch then [p] else [])
      else if c.sent < c.ready ∧ !s.wordFull (s.grp c.g) c.rank (0x8C0 + 8 * (c.sent % 2)) then [p] else []
    | none => []
  let down := (s.kidsOf c).filter fun x =>
    if isBcast c.op then c.fwd.get 0 x.1 == 0 && decide (0 < c.comb) && !s.canForward c x
    else c.active x.1 && !s.slotReady c x.1
  up ++ down.map (·.2)

/-- COLLECTIVE_STALL (R180): SCH_CGn_WDOG ticks without progress. -/
def execCollectiveStall (g r : Nat) (s : State) : Res :=
  match s.collAt g r with
  | none => .fault .notDue
  | some (k, c) =>
    due (decide (c.last + bits (s.grp g).wdog 20 0 ≤ s.ticks))
      (let w := s.awaited c
       let s := ((s.updGrp g ({ · with stall := true })).updColl k ({ · with last := s.ticks })).inc (cgReg g 0x28)
       s.schEvent g 1 (g + 256 * digits (s.grp g).radix 16 c.v) c.seq (r + 2 ^ 16 * c.v)
         (w.foldl min (w.headD 0) + 2 ^ 16 * w.length))

end Sys2Proof.Machine
end

