-- ==== Sys2Proof/Machine/Expert.lean ====
section
/-! DEFINITION. Machine/Expert.lean: expert gating, DISPATCH and COMBINE (05 R144 to R153). -/

namespace Sys2Proof.Machine

/-! ## The expert table (R145) -/

/-- An entry of the expert table; none where a reserved bit is set. -/
def expertOf (d : List Byte) : Option Expert :=
  let w0 := leAt d 0 4
  let w1 := leAt d 4 4
  if bits w0 15 14 ≠ 0 ∨ bits w0 30 24 ≠ 0 ∨ bits w1 31 16 ≠ 0 ∨ leAt d 8 8 ≠ 0 then none
  else some { rank := bits w0 13 0, loc := bits w0 23 16, off := bitAt w0 31, cap := bits w1 15 0 }

/-- The expert table of `rows` rows, checked; none where it breaks R145. -/
def expertTable (size : Nat) (rows : List (List Byte)) : Option (List Expert) :=
  let es := rows.filterMap expertOf
  let names := es.map fun e => (e.rank, e.loc)
  if es.length = rows.length ∧ (es.all fun e => decide (e.rank < size)) ∧ names.eraseDups.length = names.length then some es else none

/-- Insert expert `i` by its local index. -/
def byLocal (t : List Expert) (i : Nat) : List Nat → List Nat
  | [] => [i]
  | j :: js => if (t.getD i { rank := 0, loc := 0, off := false, cap := 0 }).loc
                  < (t.getD j { rank := 0, loc := 0, off := false, cap := 0 }).loc then i :: j :: js else j :: byLocal t i js

/-- Expert `e` of a table. -/
def expertAt (t : List Expert) (e : Nat) : Expert := t.getD e { rank := 0, loc := 0, off := false, cap := 0 }

/-- The experts of a rank, by ascending local index. -/
def expertsOf (t : List Expert) (r : Nat) : List Nat :=
  ((List.range t.length).filter fun e => (expertAt t e).rank == r).foldl (fun l e => byLocal t e l) []

/-- Rows of a receive buffer: G times the capacities of the experts on a rank. -/
def recvRows (t : List Expert) (size r : Nat) : Nat :=
  size * ((expertsOf t r).map fun e => (expertAt t e).cap).foldl (· + ·) 0

/-- The first row from source `s` for the expert at local position `p` of rank `r` (R149). -/
def recvRow (t : List Expert) (size r p s : Nat) : Nat :=
  let cs := (expertsOf t r).map fun e => (expertAt t e).cap
  ((cs.take p).map (size * ·)).foldl (· + ·) 0 + s * cs.getD p 0

/-- The first returned row of expert `e`: P_e of R149. -/
def backRow (t : List Expert) (e : Nat) : Nat := ((t.take e).map (·.cap)).foldl (· + ·) 0

/-- The local position of a local index at a rank. -/
def localPos (t : List Expert) (r loc : Nat) : Option Nat :=
  firstIdx (expertsOf t r).length fun p => (expertAt t ((expertsOf t r).getD p 0)).loc == loc

/-! ## Choices and weights (R146, R147) -/

/-- The rank class of a score: 0 a number, 1 a NaN or +∞, 2 disabled. -/
def gateClass (off : Bool) (x : Num) : Nat := if off then 2 else match x with
  | .nan => 1 | .inf false => 1 | _ => 0

/-- Does candidate `x` rank before `y`: by class, then the greater score, then the lower expert? -/
def gateBefore (x y : Nat × Num × Nat) : Bool :=
  decide (x.1 < y.1) || (x.1 == y.1 &&
    (if x.1 = 0 then y.2.1.lt x.2.1 || (!x.2.1.lt y.2.1 && decide (x.2.2 < y.2.2)) else decide (x.2.2 < y.2.2)))

/-- Insert a candidate by rank. -/
def gateInsert (x : Nat × Num × Nat) : List (Nat × Num × Nat) → List (Nat × Num × Nat)
  | [] => [x]
  | y :: ys => if gateBefore x y then x :: y :: ys else y :: gateInsert x ys

/-- The k choices of a token: expert, score and whether R146 drops it. -/
def choices (t : List Expert) (k : Nat) (scores : List Num) : List (Nat × Num × Bool) :=
  (((scores.zipIdx.foldl (fun l x => gateInsert (gateClass (expertAt t x.2).off x.1, x.1, x.2) l) []).take k).map
    fun x => (x.2.2, x.2.1, x.1 != 0))

/-- FP32 addition of codes with flags. -/
def addF (p q : Nat × Sticky) : Nat × Sticky :=
  let r := vecBin 0 .fp32 false p.1 q.1
  (r.1, (p.2.or q.2).or r.2)

/-- exp2(round_fp32((s − m) × L2E)); −∞ gives +0. -/
def gateExp (m s : Num) : Nat × Sticky :=
  match s with
  | .inf true => (0, {})
  | _ =>
    let y := Fmt.fp32.round false ((s.add m.neg).mul (Fmt.fp32.decode 0x3FB8AA3B))
    let e := vFn 0 y.1
    (e.1, y.2.or e.2)

/-- e × reciprocal(S), rounded. -/
def gateDiv (e s : Nat × Sticky) : Nat × Sticky :=
  let r := vFn 2 s.1
  let w := vecBin 2 .fp32 false e.1 r.1
  (w.1, ((e.2.or s.2).or r.2).or w.2)

/-- The greatest of some scores. -/
def maxOf : List Num → Num
  | [] => .nan
  | x :: xs => xs.foldl Num.max2 x

/-- The weights of the choices of one token (Table 5.5); a score of −∞ has weight +0 in every mode. -/
def gateWeights (mode : Nat) (t : List Expert) (scores : List Num) (cs : List (Nat × Num × Bool)) : List (Nat × Sticky) :=
  let kept := (cs.filter fun c => !c.2.2).map fun c => c.2.1
  let ok := (scores.zipIdx.filter fun x => gateClass (expertAt t x.2).off x.1 == 0).map Prod.fst
  let put (g : Num → Nat × Sticky) : List (Nat × Sticky) :=
    cs.map fun c => if c.2.2 then (0, { nv := true }) else if c.2.1 = .inf true then (0, {}) else g c.2.1
  match mode with
  | 0 =>
    let m := maxOf ok
    let s := reduceTree addF (0, {}) (ok.map (gateExp m))
    put fun x => gateDiv (gateExp m x) s
  | 1 =>
    let m := maxOf kept
    let es := kept.map (gateExp m)
    let s := es.tail.foldl addF (es.headD (0, {}))
    put fun x => gateDiv (gateExp m x) s
  | 2 =>
    let sig (x : Num) : Nat × Sticky :=
      let y := Fmt.fp32.round false (x.neg.mul (Fmt.fp32.decode 0x3FB8AA3B))
      let e := vFn 0 y.1
      let d := vecBin 0 .fp32 false 0x3F800000 e.1
      let r := vFn 2 d.1
      (r.1, ((y.2.or e.2).or d.2).or r.2)
    let es := kept.map sig
    let s := es.tail.foldl addF (es.headD (0, {}))
    put fun x => gateDiv (sig x) s
  | _ => put fun x => Fmt.fp32.round false x

/-- One choice as the routing record holds it (Table 5.6). -/
structure Choice where
  expert : Nat
  cap : Bool
  nan : Bool
  slot : Nat
  weight : Nat
  deriving DecidableEq, Repr

/-- The slots of every choice in the order of R147; the counts by expert. -/
def assignSlots (t : List Expert) (rows : List (List (Nat × Num × Bool) × List (Nat × Sticky))) : List (List Choice) × Tab Nat :=
  rows.foldl (fun acc row =>
    let (cs, cnt) := (row.1.zip row.2).foldl (fun (a : List Choice × Tab Nat) x =>
      let e := x.1.1
      let w := x.2.1
      if x.1.2.2 then (a.1 ++ [{ expert := e, cap := false, nan := true, slot := 0xFFFF, weight := w }], a.2)
      else if a.2.get 0 e < (expertAt t e).cap then
        (a.1 ++ [{ expert := e, cap := false, nan := false, slot := a.2.get 0 e, weight := w }], a.2.set 0 e (a.2.get 0 e + 1))
      else (a.1 ++ [{ expert := e, cap := true, nan := false, slot := 0xFFFF, weight := w }], a.2)) ([], acc.2)
    (acc.1 ++ [cs], cnt)) ([], [])

/-- The eight bytes of a choice entry. -/
def Choice.bytes (c : Choice) : List Byte :=
  leBytes 1 c.expert ++ leBytes 1 (b2n c.cap + 2 * b2n c.nan) ++ leBytes 2 c.slot ++ leBytes 4 c.weight

/-- Read a choice entry. -/
def choiceOf (d : List Byte) : Choice :=
  { expert := leAt d 0 1, cap := bitAt (leAt d 1 1) 0, nan := bitAt (leAt d 1 1) 1, slot := leAt d 2 2, weight := leAt d 4 4 }

/-- The offset of the inbound counts in a routing record. -/
def countsOff (t k : Nat) : Nat := 64 + 64 * ceilDiv (t * k) 8

/-! ## Segments (R149 to R151) -/

/-- The 64 bytes of a segment header (Table 5.7). -/
def segHeader (x : Seg) (expert rowBytes fmt : Nat) : List Byte :=
  leBytes 4 x.inst ++ leBytes 2 x.src ++ leBytes 1 x.loc ++ leBytes 1 (b2n x.last + 2 * b2n x.combine) ++ leBytes 2 expert ++ leBytes 2 x.n
  ++ leBytes 4 rowBytes ++ leBytes 1 fmt ++ zeros 3 ++ leBytes 4 x.digest ++ zeros 40

/-- Bytes of a part in the holding store. -/
def Seg.size (x : Seg) : Nat := if x.hdr then 64 else x.data.length

/-- Has the member issued the instance of a part: DISPATCH, or COMBINE for a combine part? -/
def State.segIssued (s : State) (x : Seg) : Bool :=
  let m := (s.ctx ((s.grp x.g).ctxOf x.dst)).moe
  s.rankLocal x.g x.dst && m.g == x.g && m.rank == x.dst && m.inst == x.inst && (m.wait == if x.combine then 2 else 1)

/-- The destination row of a part: operand and first row. -/
def State.segRow (s : State) (x : Seg) : Option (Nat × Nat) :=
  let m := (s.ctx ((s.grp x.g).ctxOf x.dst)).moe
  if x.combine then
    (firstIdx m.table.length fun e => (expertAt m.table e).rank == x.src && (expertAt m.table e).loc == x.loc).map
      fun e => (m.f.a, backRow m.table e + x.slot)
  else (localPos m.table x.dst x.loc).map fun p => (m.f.c + 1, recvRow m.table (s.grp x.g).size x.dst p x.src + x.slot)

/-- Change the dispatch of a context. -/
def State.updMoe (s : State) (k : Nat) (h : Moe → Moe) : State := s.updCtx k fun c => { c with moe := h c.moe }

/-- Change what the hub keeps of dispatches. -/
def State.updHub (s : State) (h : MoeHub → MoeHub) : State := { s with moeHub := h s.moeHub }

/-- A part of an issued instance takes its place (R145, R149). A segment whose digest differs is dropped with its rows; rows that
come before their header do so before the digest is known. -/
def State.segPlace (s : State) (x : Seg) : State :=
  let k := (s.grp x.g).ctxOf x.dst
  let m := (s.ctx k).moe
  let size := (s.grp x.g).size
  if x.hdr then
    if x.digest ≠ m.digest then
      (s.event { blk := .psl, num := 4 }).updMoe k fun m => { m with
        fail := if m.fail.isSome then m.fail else some 0x0B, badSegs := m.badSegs ++ [(x.src, x.loc)] }
    else match localPos m.table x.dst x.loc with
      | some p => if x.combine then s else s.updMoe k fun m => { m with announced := m.announced.set none (p * size + x.src) (some x.n) }
      | none => s
  else if m.badSegs.contains (x.src, x.loc) then s
  else match s.segRow x with
    | none => s
    | some (i, row) =>
      let d := (s.ctx k).tdAt i
      let r : Run := { s, k, f := { m.f with feSet := false, fence := false }, poison := x.poison }
      let r := (List.range x.n).foldl (fun (r : Run) j =>
        r.write d.space (d.rowAt (row + j)) (((x.data.drop (j * d.rowBytes)).take d.rowBytes).map some) false) r
      r.s.updMoe k fun m =>
        let m := { m with fail := if m.fail.isSome then m.fail else r.err, poison := m.poison || x.poison }
        if x.combine then { m with rows := m.rows + x.n }
        else match localPos m.table x.dst x.loc with
          | some p => { m with placed := m.placed.upd 0 (p * size + x.src) (· + x.n) }
          | none => m

/-- A part arrives: placed, held, dropped, or refused as busy (R151). A segment dropped for an instance that is complete is counted
and reported once, with its header. A part from this device is held whatever the store holds, which stands for its source sending
it again. -/
def State.segArrive (s : State) (x : Seg) : State × Bool :=
  if s.moeHub.fin.contains (x.g, x.dst, x.inst, x.combine) then
    (if x.hdr then (s.event { blk := .psl, num := 5 }).updHub fun h => { h with dropped := h.dropped + 1 } else s, true)
  else if s.segIssued x then (s.segPlace x, true)
  else if x.far && decide (4 * 2 ^ 20 < x.size + (s.moeHub.held.map Seg.size).foldl (· + ·) 0) then (s, false)
  else (s.updHub fun h => { h with held := h.held ++ [x] }, true)

/-- A rank issues an instance, whose number is current again. -/
def State.segFresh (s : State) (g dst inst : Nat) (combine : Bool) : State :=
  s.updHub fun h => { h with fin := h.fin.filter (· != (g, dst, inst, combine)) }

/-- The parts held for an instance that a member now issues are placed in arrival order. Its table tells which parts from other
devices are for its experts (log entry 21). -/
def State.segRelease (s : State) (k g dst inst : Nat) (combine : Bool) : State :=
  let t := (s.ctx k).moe.table
  let mine (x : Seg) : Bool := x.g == g && x.inst == inst && x.combine == combine
    && (x.dst == dst || (x.far && !combine && (localPos t dst x.loc).isSome && (localPos t x.dst x.loc).isNone))
  let xs := s.moeHub.held.filter mine
  xs.foldl (fun s x => s.segPlace { x with dst }) (s.updHub fun h => { h with held := h.held.filter fun x => !mine x })

/-- Send the parts of one message to a rank: placed here, or as one dispatch message on the rank's connection. `parts`
gives each segment with its global expert, its rows and which rows are poisoned. -/
def State.segSend (s : State) (k : Nat) (g dst rowBytes fmt : Nat) (parts : List (Seg × Nat × List (List Byte × Bool))) : State × List (Nat × Nat) :=
  let gr := s.grp g
  let e := gr.ent dst
  if e.dev = s.devNum then
    (parts.foldl (fun s p =>
      let s := (s.segArrive p.1).1
      (p.2.2.zipIdx).foldl (fun s y =>
        (s.segArrive { p.1 with hdr := false, n := 1, slot := y.2, data := y.1.1, poison := y.1.2 }).1) s) s, [])
  else
    let c := s.conns.get {} e.conn
    if c.st ≠ 2 ∨ c.gen ≠ e.gen then ((s.updMoe k ({ · with lost := true })).holdErr k 9 false, [])
    else
      let out := parts.foldl (fun (acc : List Byte × List Nat) p =>
        let d := acc.1 ++ segHeader p.1 p.2.1 rowBytes fmt
        p.2.2.foldl (fun acc y =>
          let o := acc.1.length
          (acc.1 ++ y.1, if y.2 then acc.2 ++ (List.range ((o + y.1.length - 1) / 256 - o / 256 + 1)).map (o / 256 + ·) else acc.2)) (d, acc.2)) ([], [])
      let (s, i) := s.postMsg e.conn { id := 0, kind := 3, raddr := g, len := out.1.length, data := out.1, bad := out.2, src := .engine k }
      (s.updCtx k fun x => { x with pendingOps := x.pendingOps ++ [(e.conn, i)] }, [(e.conn, i)])

/-! ## DISPATCH -/

/-- k, gating mode and instance number of a dispatch immediate (Table 4.15). -/
def moeImm (f : Fields) : Nat × Nat × Nat := (f.imm.toNat % 16, bits f.imm.toNat 15 8, f.imm.toNat / 2 ^ 32)

/-- The bits that a dispatch immediate uses. -/
def moeImmBits : Nat := 0xFF0F + (2 ^ 32 - 1) * 2 ^ 32

/-- The rows of the expert table in the own tile store. -/
def State.tableRows (s : State) (k : Nat) (d : Td) : List (List Byte) :=
  (List.range d.rows).map fun i => s.ownBytes k (d.rowAt i) d.rowBytes

/-- Does a buffer lie on this device? -/
def State.onDevice (s : State) (k : Nat) (d : Td) : Bool :=
  d.space == 0 || (d.space == 1 && (s.places k 1 d.base d.span true).2.all fun p => match p.1 with
    | .remote _ _ => false
    | _ => true)

/-- DISPATCH in the opcode table (Table 5.3). -/
def dispatchIns : Ins :=
  { op := 0x84, d := .td, a := .td, b := .td, c := .td, cg := true, imm := moeImmBits, fl := .both
    enc := fun _ f => let m := moeImm f
                      decide (f.c < 63) && decide (1 ≤ m.1) && decide (m.1 ≤ 8) && decide (m.2.1 ≤ 3)
    uses := fun _ f =>
      [{ i := f.a }, { i := f.b, any := true }, { i := f.c }, { i := f.c + 1, dst := true, virt := true }, { i := f.d, dst := true }]
    shape := fun s k f =>
      let a := s.opTd k f.a
      let b := s.opTd k f.b
      let c := s.opTd k f.c
      let rb := s.opTd k (f.c + 1)
      let d := s.opTd k f.d
      let g := s.grp f.cg
      let m := moeImm f
      if ! [7, 6, 2].contains a.fcode || a.scaled || ! [6, 2, 3, 7].contains b.fcode || b.scaled || c.fcode != 8 || d.fcode != 9 then 5
      else if a.rank ≠ 2 ∨ b.rank ≠ 2 ∨ c.rank ≠ 2 ∨ d.rank ≠ 1 ∨ b.n1 ≠ a.n1 ∨ b.rowBytes % 64 ≠ 0 ∨ c.n0 ≠ 4 ∨ c.n1 ≠ a.n0
          ∨ 16384 < a.n1 ∨ 256 < a.n0 ∨ a.n0 < m.1 ∨ rb.fcode ≠ b.fcode ∨ rb.scaled ∨ rb.n0 ≠ b.n0 ∨ !s.onDevice k rb then 5
      else match s.rankIn f.cg k with
        | none => 0x0B
        | some r => match expertTable g.size (s.tableRows k c) with
          | none => 5
          | some t =>
            if rb.rows < recvRows t g.size r ∨ d.n0 < countsOff a.n1 m.1 + 2 * (expertsOf t r).length * g.size then 5 else 0
    cost := fun s k f =>
      let a := s.opTd k f.a
      let b := s.opTd k f.b
      a.rows * ceilDiv a.n0 256 * ceilDiv (moeImm f).1 8 + ceilDiv (b.rows * b.rowBytes) 1024 }

/-- Read rows with the poison of each. -/
def Run.rowsBad (r : Run) (d : Td) : Run × List (List Byte × Bool) :=
  let p := r.poison
  let (r, out) := r.rowsOf d.rows fun r i =>
    let (r, b) := ({ r with poison := false }).row d i
    (r, (b.map (·.getD 0), r.poison))
  ({ r with poison := p }, out)

/-- The routing record's header (Table 5.6). -/
def recordHead (inst k mode e t size l digest sent cap nan recv : Nat) : List Byte :=
  leBytes 4 inst ++ leBytes 1 k ++ leBytes 1 mode ++ leBytes 2 e ++ leBytes 4 t ++ leBytes 2 size ++ leBytes 2 l ++ leBytes 4 digest
  ++ leBytes 4 sent ++ leBytes 4 cap ++ leBytes 4 nan ++ leBytes 4 recv ++ zeros 20

/-- What DISPATCH does at issue: choices, weights and slots are found and recorded, and the messages leave (R146 to
R151). -/
def dispatchRun (f : Fields) (r : Run) : Run :=
  let a := r.c.tdAt f.a
  let (k, mode, inst) := moeImm f
  let (r, scores) := r.allCodes a
  let (r, tbl) := r.rowsOf (r.c.tdAt f.c).rows fun r i => r.row (r.c.tdAt f.c) i
  let tbl := tbl.map fun b => b.map (·.getD 0)
  let gatePoison := r.poison
  let (r, rows) := r.rowsBad (r.c.tdAt f.b)
  let r := r.clearSrcs dispatchIns
  if r.err.isSome then r else
    let g := r.s.grp f.cg
    let rank := (r.s.rankIn f.cg r.k).getD 0
    let t := tbl.filterMap expertOf
    let digest := crc32c (tbl.map (slice · 0 16)).flatten
    let per := scores.map fun row =>
      let v := row.map a.fmt.decode
      let cs := choices t k v
      (cs, gateWeights mode t v cs)
    let st := per.foldl (fun st p => p.2.foldl (fun st w => st.or w.2) st) ({} : Sticky)
    let (chosen, _) := assignSlots t per
    let entries := chosen.flatMap fun cs => cs.flatMap Choice.bytes
    let d := r.c.tdAt f.d
    let r := { ({ r with f := { f with feSet := false, fence := false } }.write 0 (d.base + 64) (entries.map some) false) with f }
    let flat := chosen.flatten
    let sent := (flat.filter fun c => !c.cap && !c.nan).length
    let m : Moe := {
      g := f.cg, rank, inst, wait := 1, f, table := t, digest, sent, dropCap := (flat.filter (·.cap)).length
      dropNan := (flat.filter (·.nan)).length, poison := gatePoison || rows.any (·.2), nv := st.nv, of := st.of, uf := st.uf }
    let pc := r.c.pc
    let s := (r.s.updCtx r.k ({ · with moe := m })).segFresh f.cg rank inst false
    let s := s.updHub fun h => { h with tabs :=
      { g := f.cg, rank, inst, table := t, digest } :: h.tabs.filter fun x => !(x.g == f.cg && x.rank == rank && x.inst == inst) }
    let bd := r.c.tdAt f.b
    let slots (e : Nat) : List (List Byte × Bool) :=
      (chosen.zipIdx).flatMap fun x => (x.1.filter fun c => c.expert == e && !c.cap && !c.nan).map fun _ => rows.getD x.2 ([], false)
    let (s, acks) := ((List.range g.size).filter fun q => !(expertsOf t q).isEmpty).foldl (fun (acc : State × List (Nat × Nat)) q =>
      let es := expertsOf t q
      let parts := (es.zipIdx).map fun x =>
        let rs := slots x.1
        (({ g := f.cg, src := rank, dst := q, inst, loc := (expertAt t x.1).loc, combine := false, hdr := true, n := rs.length,
            last := decide (x.2 + 1 = es.length), digest } : Seg), x.1, rs)
      let (s, ids) := acc.1.segSend r.k f.cg q bd.rowBytes bd.fcode parts
      (s, acc.2 ++ ids)) (s, [])
    let s := (s.updMoe r.k ({ · with acks })).segRelease r.k f.cg rank inst false
    { r with s, npc := some pc, poison := false }

/-- DISPATCH (R147). -/
def execDispatch (e x : Nat) (f : Fields) (s : State) : Res :=
  issue dispatchIns e x f s (dispatchRun f)

/-- Have all messages of an instance been placed at this member (R152)? -/
def Moe.allPlaced (m : Moe) (size : Nat) : Bool :=
  (List.range ((expertsOf m.table m.rank).length * size)).all fun i => match m.announced.get none i with
    | some n => decide (n ≤ m.placed.get 0 i)
    | none => false

/-- An instance of a member ends; parts that still come for it are dropped. -/
def State.moeEnd (s : State) (k : Nat) (combine : Bool) : State :=
  let m := (s.ctx k).moe
  (s.updMoe k ({ · with wait := 0 })).updHub fun h => { h with fin := (m.g, m.rank, m.inst, combine) :: h.fin }

/-- DISPATCH_COMPLETE (R152): counts and header, then the completion word. -/
def execDispatchComplete (e x : Nat) (s : State) : Res :=
  let k := 4 * e + x
  let m := (s.ctx k).moe
  let size := (s.grp m.g).size
  let mine (y : Seg) : Bool := y.g == m.g && y.src == m.rank && y.inst == m.inst && !y.combine
  let sentAll := !m.lost && m.acks.all (fun a => !(s.ctx k).pendingOps.contains a) && !(s.moeHub.held.any mine)
  due (m.wait == 1 && s.holds k && (m.fail.isSome || (sentAll && m.allPlaced size)))
    (match m.fail with
     | some code => (s.moeEnd k false).failCtx k code 0x84
     | none =>
       let d := (s.ctx k).tdAt m.f.d
       let a := (s.ctx k).tdAt m.f.a
       let (kk, mode, inst) := moeImm m.f
       let l := (expertsOf m.table m.rank).length
       let counts := (List.range (l * size)).map fun i => m.placed.get 0 i
       let r : Run := { s, k, f := m.f, fl := { nv := m.nv, of := m.of, uf := m.uf }, poison := m.poison }
       let r := r.write 0 (d.base + countsOff a.n1 kk) ((counts.flatMap fun n => leBytes 2 n).map some) false
       let head := recordHead inst kk mode a.n0 a.n1 size l m.digest m.sent m.dropCap m.dropNan (counts.foldl (· + ·) 0)
       let r := r.write 0 d.base (head.map some) false
       let r := r.write 0 (d.base + 56) ((leBytes 8 (inst + 2 ^ 32)).map some) m.f.feSet
       ({ r with s := r.s.moeEnd k false }).finish 0x84)

/-! ## COMBINE (R153) -/

/-- A field of the routing record named by operand b. -/
def State.recAt (s : State) (k : Nat) (f : Fields) (off n : Nat) : Nat :=
  leNat (s.ownBytes k ((s.opTd k f.b).base + off) n)

/-- The table of the DISPATCH of an instance, which COMBINE names by its number (R153). -/
def State.moeTab (s : State) (g rank inst : Nat) : MoeTab :=
  (s.moeHub.tabs.find? fun x => x.g == g && x.rank == rank && x.inst == inst).getD { g, rank, inst, table := [], digest := 0 }

/-- COMBINE in the opcode table. The table with its capacities is that of the member's DISPATCH of the same instance. -/
def combineIns : Ins :=
  { op := 0x85, d := .td, a := .td, b := .td, cg := true, imm := moeImmBits, rnd := true, fl := .both
    enc := fun _ f => let m := moeImm f
                      decide (f.a < 63) && decide (1 ≤ m.1) && decide (m.1 ≤ 8) && decide (m.2.1 ≤ 3)
    uses := fun _ f => [{ i := f.a }, { i := f.a + 1 }, { i := f.b }, { i := f.d, dst := true }]
    shape := fun s k f =>
      let a := s.opTd k f.a
      let o := s.opTd k (f.a + 1)
      let b := s.opTd k f.b
      let d := s.opTd k f.d
      let g := s.grp f.cg
      let i := moeImm f
      if ! [6, 7, 2, 3].contains a.fcode || a.scaled || b.fcode != 9 || ! [7, 6].contains d.fcode then 4
      else if a.rank ≠ 2 ∨ d.rank ≠ 2 ∨ b.rank ≠ 1 ∨ o.fcode ≠ a.fcode ∨ o.scaled ∨ o.n0 ≠ a.n0 ∨ d.n0 ≠ a.n0 ∨ b.n0 < 64 then 5
      else match s.rankIn f.cg k with
        | none => 0x0B
        | some r =>
          let m := s.moeTab f.cg r i.2.2
          if s.recAt k f 0 4 ≠ i.2.2 ∨ s.recAt k f 4 1 ≠ i.1 ∨ s.recAt k f 5 1 ≠ i.2.1 ∨ m.table.isEmpty ∨ s.recAt k f 16 4 ≠ m.digest
              ∨ s.recAt k f 8 4 ≠ d.n1 ∨ a.rows < backRow m.table m.table.length ∨ o.rows < recvRows m.table g.size r
              ∨ b.n0 < countsOff d.n1 i.1 + 2 * (expertsOf m.table r).length * g.size then 5 else 0
    cost := fun s k f => max 1 (s.recAt k f 20 4 * ceilDiv (s.opTd k f.a).n0 1024)
    waits := none }

/-- The sources that COMBINE reads at issue. -/
def combineSrc (f : Fields) : List Use := [{ i := f.a + 1 }, { i := f.b }]

/-- COMBINE at issue: the expert outputs go back to their sources. -/
def combineRun (f : Fields) (r : Run) : Run :=
  let g := r.s.grp f.cg
  let (k, _, inst) := moeImm f
  let m := r.s.moeTab f.cg ((r.s.rankIn f.cg r.k).getD 0) inst
  let o := r.c.tdAt (f.a + 1)
  let d := r.c.tdAt f.d
  let es := expertsOf m.table m.rank
  let (r, cnt) := r.read 0 ((r.c.tdAt f.b).base + countsOff d.n1 k) (2 * es.length * g.size)
  let cnt := cnt.map (·.getD 0)
  let count (p q : Nat) : Nat := leAt cnt (2 * (p * g.size + q)) 2
  let (r, rows) := r.rowsOf g.size fun r q => r.rowsOf es.length fun r p =>
    let (r, rs) := r.rowsOf (count p q) fun r i =>
      let old := r.poison
      let (r, b) := ({ r with poison := false }).row o (recvRow m.table g.size m.rank p q + i)
      ({ r with poison := old || r.poison }, (b.map (·.getD 0), r.poison))
    (r, rs)
  let r := r.feClear (combineSrc f)
  if r.err.isSome then r else
    let pc := r.c.pc
    let s := (r.s.segFresh f.cg m.rank inst true).updMoe r.k fun _ => {
      g := f.cg, rank := m.rank, inst, wait := 2, f, table := m.table, digest := m.digest, poison := r.poison }
    let s := if es.isEmpty then s else (rows.zipIdx).foldl (fun s x =>
      let parts := (x.1.zipIdx).map fun y =>
        let e := es.getD y.2 0
        (({ g := f.cg, src := m.rank, dst := x.2, inst, loc := (expertAt m.table e).loc, combine := true, hdr := true, n := y.1.length,
            last := decide (y.2 + 1 = es.length), digest := m.digest } : Seg), e, y.1)
      (s.segSend r.k f.cg x.2 o.rowBytes o.fcode parts).1) s
    { r with s := s.segRelease r.k f.cg m.rank inst true, npc := some pc, poison := false }

/-- COMBINE (R153). -/
def execCombine (e x : Nat) (f : Fields) (s : State) : Res :=
  issue { combineIns with waits := some (combineSrc f) } e x f s (combineRun f)

/-- One output row: each kept choice by a fused multiply-add in choice order. -/
def combineRow (a : Fmt) (cs : List Choice) (row : Choice → List Nat) (n : Nat) : List (Nat × Sticky) :=
  (cs.filter fun c => !c.cap && !c.nan).foldl (fun acc c =>
    (acc.zip (row c)).map fun x =>
      let r := Fmt.fp32.round false (((Fmt.fp32.decode c.weight).mul (a.decode x.2)).add (Fmt.fp32.decode x.1.1))
      (r.1, x.1.2.or r.2)) (List.replicate n (0, {}))

/-- COMBINE_COMPUTE (R153): as many rows are in place as the record shows sent. -/
def execCombineCompute (e x : Nat) (s : State) : Res :=
  let k := 4 * e + x
  let m := (s.ctx k).moe
  let f := m.f
  due (m.wait == 2 && s.holds k && (m.fail.isSome || decide (s.recAt k f 20 4 ≤ m.rows)))
    (match m.fail with
     | some code => (s.moeEnd k true).failCtx k code 0x85
     | none =>
       let a := (s.ctx k).tdAt f.a
       let d := (s.ctx k).tdAt f.d
       let kk := (moeImm f).1
       let r : Run := { s, k, f, poison := m.poison }
       let (r, ent) := r.read 0 (((s.ctx k).tdAt f.b).base + 64) (8 * d.n1 * kk)
       let ent := ent.map (·.getD 0)
       let (r, rows) := r.rowsOf d.n1 fun r t =>
         let cs := (List.range kk).map fun j => choiceOf (slice ent (8 * (t * kk + j)) 8)
         let kept := cs.filter fun c => !c.cap && !c.nan
         let (r, data) := kept.foldl (fun (acc : Run × List (Choice × List Nat)) c =>
           let (r, v) := acc.1.codes a (backRow m.table c.expert + c.slot)
           (r, acc.2 ++ [(c, v)])) (r, [])
         (r, combineRow a.fmt cs (fun c => ((data.find? fun y => y.1 == c).map (·.2)).getD []) d.n0)
       let r := rows.foldl (fun r row => row.foldl (fun r y => r.flag y.2) r) r
       let r := r.feClear [{ i := f.a }]
       let r := r.putVals d (rows.map fun row => row.map fun y => Fmt.fp32.decode y.1) false
       ({ r with s := r.s.moeEnd k true }).finish 0x85)

end Sys2Proof.Machine
end

