-- ==== Sys2Proof/Machine/Deliver.lean ====
section
/-! DEFINITION. Machine/Deliver.lean: what a Phisal frame does when it arrives: checks 7 and 8, placement, FENCE, ACK and
NAK, and the connection packets (09 R249 to R265; 10 R278 to R292). -/

namespace Sys2Proof.Machine

/-! ## Check 7 -/

/-- Is an opcode sequenced (10 R272)? -/
def sequenced (op : Nat) : Bool := [0x01, 0x02, 0x03, 0x04, 0x05, 0x35].contains op

/-- Does a context in a state accept an opcode (Table 9.12)? -/
def stAccepts (st op : Nat) : Bool :=
  if st = 1 then [0x30, 0x31, 0x32].contains op || sequenced op
  else if st = 2 then true
  else if st = 3 then [0x03, 0x10, 0x11, 0x33, 0x34].contains op
  else false

/-- What check 7 decides. -/
inductive Check7 where
  | pass
  | stale
  | spoof
  | reject (reason : Nat)
  deriving DecidableEq, Repr

/-- Are the values that a CONN.REQ carries within Table 9.11, with the packet size of the context? The spec names reason 3,
parameters refused, and gives no test (log entry 104). -/
def helloOk (x : Conn) (p : Pkt) : Bool :=
  let v (i n : Nat) : Nat := beNat (slice p.payload i n)
  decide (1 ≤ v 6 2) && decide (v 6 2 ≤ 1024) && v 8 1 == x.pktLog2 && decide (v 10 1 ≤ 7) && decide (16 ≤ v 11 2) && decide (v 11 2 ≤ 4096)

/-- Check 7 of Table 9.8, with the parts of R262 and R267 that need the context. -/
def State.check7 (s : State) (c op : Nat) (p : Pkt) : Check7 :=
  let x := s.conn c
  let named := p.dstConn / 2 ^ 20 % 16 == x.gen && p.pkey == x.pkey && stAccepts x.st op
  let from_ := p.encap == x.encap && (if p.encap = 2 then p.srcMac == x.peerMac else p.srcIp == x.peerIp)
    && (match p.sealed with
      | some y => y.dev == x.peerDev
      | none => true)
  if op = 0x30 then
    if x.st ≠ 1 ∧ x.st ≠ 2 then .reject 1
    else if named && from_ && beNat (slice p.payload 0 4) == x.peerConn && beNat (slice p.payload 4 2) == x.peerDev then
      if helloOk x p then .pass else .reject 3
    else .reject 2
  else if !named then .stale
  else if !from_ then .spoof
  else .pass

/-! ## Memory keys (09 R256, R257) -/

/-- The bytes of a memory region entry, from the cache or the table. A read that finds an error is not cached and
counts as not valid. -/
def State.region (s : State) (i : Nat) : State × List Byte :=
  match s.psl.mrCache.find? (·.1 == i) with
  | some e => (s, e.2)
  | none =>
    let (s, d) := s.memRead 1 (s.reg (pslReg 0x050) + 32 * i) 32
    if d.kind ≠ 0 then (s, zeros 32)
    else (s.updPsl fun p => { p with mrCache := ((i, d.data) :: p.mrCache).take 4096 }, d.data)

/-- Is a region entry valid (Table 9.10)? -/
def regionOk (d : List Byte) : Bool :=
  let b := leAt d 8 8
  let n := leAt d 16 8
  bitAt (leAt d 0 4) 0 && bits (leAt d 0 4) 31 28 == 0 && leAt d 6 2 == 0 && leAt d 24 8 == 0
  && b % 256 == 0 && n % 256 == 0 && decide (0 < n) && decide (b + n ≤ 2 ^ 50)

/-- The owner function of a region entry. -/
def regionOwner (d : List Byte) : Nat := bits (leAt d 0 4) 12 4

/-- Check 8 for WRITE and READ.REQ (R256): the region entry, or a NAK code. -/
def State.takeIn (s : State) (op : Nat) (p : Pkt) : State × (Nat ⊕ List Byte) :=
  let (s, d) := s.region (p.mkey / 65536 % 65536)
  let n := if op = 1 then p.payload.length else p.word 0 + 1
  let a := p.raddr + if op = 1 then p.msgOff else 0
  let off := a % 2 ^ 50
  let fe := op == 1 && p.has flFence && decide (0 < n)
  let hasFe := s.inSync off || (windowOf off).isSome
  if !regionOk d || leAt d 4 2 != p.mkey % 65536 || bits (leAt d 0 4) 27 13 != p.pkey % 0x8000 then (s, .inl 1)
  else if !bitAt (leAt d 0 4) (if op = 1 then 2 else 1) || (fe && hasFe && !bitAt (leAt d 0 4) 3) then (s, .inl 2)
  else if !(within off n (leAt d 8 8) (leAt d 16 8)) then (s, .inl 3)
  else if a / 2 ^ 50 ≠ s.devNum || !s.spanOk (regionOwner d) off n then (s, .inl 4)
  else if fe && !hasFe then (s, .inl 7)
  else (s, .inr d)

/-! ## Check 8 of the other opcodes -/

/-- The group named by a DISPATCH packet admits it (R249): a NAK code, or none. -/
def State.dispatchNak (s : State) (p : Pkt) : Option Nat :=
  let w := p.word 1
  let g := s.grp (bits w 27 24)
  let rows := p.word 2 / 65536
  if bits w 31 28 ≠ 0 then some 9
  else if !g.valid || g.pkey ≠ p.pkey || (s.localRanks g).isEmpty then some 1
  else if bitAt w 15 then if p.payload.length = 64 then none else some 9
  else if rows = 0 ∨ p.payload.length = 0 ∨ p.payload.length % rows ≠ 0 then some 9
  else none

/-- Is the sender of a DOMRST the parent, in the reset tree, of a local rank of the group (R265, 06 R185)? -/
def State.domParent (s : State) (g dev : Nat) : Bool :=
  let gr := s.grp g
  gr.valid && gr.owner == 0 && (s.localRanks gr).any fun r => match treeParent gr.size gr.radix 0 r with
    | some q => (gr.ent q).dev == dev
    | none => false

/-- Check 8: the region entry that admitted the packet (none needed for most opcodes), or a NAK code. -/
def State.check8 (s : State) (c op : Nat) (p : Pkt) : State × (Nat ⊕ List Byte) :=
  let x := s.conn c
  match op with
  | 0x01 => s.takeIn op p
  | 0x02 => s.takeIn op p
  | 0x03 => match x.reads.find? (·.seq == p.msgSeq) with
    | some r => if p.msgOff + p.payload.length ≤ r.len then (s, .inr []) else (s, .inl 9)
    | none => (s, .inl 9)
  | 0x05 => match s.dispatchNak p with
    | some e => (s, .inl e)
    | none => (s, .inr [])
  | 0x35 => if s.domParent (beNat (slice p.payload 0 4) % 16) x.peerDev then (s, .inr []) else (s, .inl 9)
  | _ => (s, .inr [])

/-! ## Placement (10 R278) -/

/-- Place the payload of a WRITE: the state and a NAK code, 0 where it is placed. -/
def State.placeWrite (s : State) (p : Pkt) (owner : Nat) : State × Nat :=
  let off := (p.raddr + p.msgOff) % 2 ^ 50
  let n := p.payload.length
  let fe := if p.has flFence then some true else none
  if n = 0 then (s, 0) else
  match windowOf off with
  | some (e, x, o) => match s.windowAddr (4 * e + x) o n (some owner) with
    | none => (s, 6)
    | some a => ((s.tsPut a (withBad p.payload p.badBlocks) fe).signalled a n, 0)
  | none =>
    let (s, k) := s.putMem 1 off (withBad p.payload p.badBlocks) fe
    (s, if k = 0 then 0 else if k = 3 then 6 else 5)

/-- Answer a READ.REQ: its response is queued (R249). -/
def State.placeRead (s : State) (c : Nat) (p : Pkt) (owner : Nat) : State × Nat :=
  let off := p.raddr % 2 ^ 50
  let n := p.word 0 + 1
  let answer (s : State) (d : List PByte) : State × Nat :=
    ((s.postMsg c {
      id := 0, kind := 4, len := n, data := d.map (·.1), bad := badOf (d.map some), seq := some p.msgSeq
      mkey := p.mkey }).1, 0)
  match windowOf off with
  | some (e, x, o) => match s.windowAddr (4 * e + x) o n (some owner) with
    | none => (s, 6)
    | some a => answer (s.useNoc hubAgent (a / 0x800000)) (s.tsPBytes a n)
  | none =>
    let (s, d, k) := s.memPBytes 1 off n
    if k = 2 then (s, 5) else answer s d

/-- Place a part of a READ.RESP, and end the read once every byte is placed (10 Table 10.3). -/
def State.placeResp (s : State) (c : Nat) (p : Pkt) : State :=
  match (s.conn c).reads.find? (·.seq == p.msgSeq) with
  | none => s
  | some r =>
    let d := (withBad p.payload p.badBlocks).map some
    let (s, ps) := s.dmaPlaces { r.dest with addr := r.dest.addr + p.msgOff } d.length true
    let (s, res) := s.dmaWrite ps d r.dest.strict {}
    let (st, det) := res.status
    let bad := if r.bad ≠ 0 then r.bad else if st ≠ 0 then 256 * st + det else if p.badBlocks.isEmpty then 0 else 4 * 256
    let got := r.got + p.payload.length
    if r.len ≤ got then
      (s.updConn c fun x => { x with reads := x.reads.filter (·.seq != p.msgSeq) }).opEnd r.src c r.msg (bad / 256) (bad % 256) r.len
    else s.updConn c fun x => { x with reads := x.reads.map fun y => if y.seq = p.msgSeq then { y with got, bad } else y }

/-- Place a DISPATCH packet (R249; 05 R149 to R151): NAK code 8 where the holding store is full. The receiving rank is
the lowest local one that hosts the expert, or the lowest for a combine (log entry 21). -/
def State.placeDispatch (s : State) (p : Pkt) : State × Nat :=
  let w := p.word 1
  let g := bits w 27 24
  let gr := s.grp g
  let hosts (r : Nat) : Bool := (localPos (s.ctx (gr.ctxOf r)).moe.table r (bits w 23 16)).isSome
  let ranks := s.localRanks gr
  let combine := bitAt w 14
  let dst := ((if combine then none else ranks.find? hosts).getD (ranks.headD 0))
  let seg : Seg := { g, src := bits w 13 0, dst, inst := p.word 0, loc := bits w 23 16, combine, hdr := bitAt w 15, far := true }
  if seg.hdr then
    let (s, ok) := s.segArrive { seg with
      n := leAt p.payload 10 2, last := bitAt (leAt p.payload 7 1) 0, digest := leAt p.payload 20 4 }
    (s, if ok then 0 else 8)
  else
    let rows := p.word 2 / 65536
    let rb := p.payload.length / rows
    let segs := (List.range rows).map fun i =>
      let d := (p.payload.drop (i * rb)).take rb
      let bad := (List.range 32).any fun b => p.badBlocks.contains b && overlaps (i * rb) rb (256 * b) 256
      { seg with n := 1, slot := p.word 2 % 65536 + i, data := d, poison := bad }
    let need : Nat := (segs.map Seg.size).foldl (fun (a b : Nat) => a + b) 0
    let held : Nat := (s.moeHub.held.map Seg.size).foldl (fun (a b : Nat) => a + b) 0
    if !s.segIssued seg && !s.moeHub.fin.contains (g, dst, seg.inst, combine) && decide (4 * 2 ^ 20 < need + held) then (s, 8)
    else (segs.foldl (fun s x => (s.segArrive x).1) s, 0)

/-- Send DOMRST, with its payload, to the devices of the children of every local rank, once to each (06 R185), which raises its
event. -/
def State.domSend (s : State) (g seq : Nat) : State :=
  let gr := s.grp g
  let kids := (s.localRanks gr).flatMap fun r => ((treeKids gr.size gr.radix 0 r).map fun k => gr.ent k.1).filter (·.dev != s.devNum)
  let devs := (kids.map (·.dev)).eraseDups
  let s := devs.foldl (fun s d => match kids.find? (·.dev == d) with
    | some e => (s.postMsg e.conn { id := 0, kind := 5, len := 8, data := beBytes 4 g ++ beBytes 4 seq }).1
    | none => s) s
  let s := if devs.isEmpty then s else s.event { blk := .sch, num := 5 }
  { s with boot := { s.boot with dom := some { g, seq, wait := devs, since := s.plumb.now } } }

/-- Does a DOMRST.ACK wait in a port, or is it leaving one? -/
def State.domAckOut (s : State) : Bool :=
  s.ports.any fun x => x.2.tx.any (·.op == 0x36) || (x.2.cur.map fun f => f.2.op == 0x36).getD false

/-- A device with no child left to wait for resets itself, once its own answer has left (06 R185, R265). -/
def State.domCheck (s : State) : State :=
  match s.boot.dom with
  | some d => if d.wait.isEmpty && !s.domAckOut then s.beginReset 4 else s
  | none => s

/-- An accepted DOMRST: answered, passed on, and then the reset, once the answer has left (R265). A second one of the same sequence
is only answered. -/
def State.placeDom (s : State) (c : Nat) (p : Pkt) : State :=
  let g := beNat (slice p.payload 0 4) % 16
  let s := s.sendCtl c 0x36 p.payload
  if s.boot.dom.isSome then s else (s.domSend g (beNat (slice p.payload 4 4))).domCheck

/-- Place a packet that check 8 has passed: the state and a NAK code, 0 where it is placed. -/
def State.placePkt (s : State) (c op : Nat) (p : Pkt) (entry : List Byte) : State × Nat :=
  match op with
  | 0x01 => s.placeWrite p (regionOwner entry)
  | 0x02 => s.placeRead c p (regionOwner entry)
  | 0x03 => (s.placeResp c p, 0)
  | 0x05 => s.placeDispatch p
  | 0x35 => (s.placeDom c p, 0)
  | _ => (s, 0)

/-! ## Receiver state (10 R279 to R288) -/

/-- e passes the packets placed ahead of it. -/
def advance (epsn : Nat) (arrived : List Nat) : Nat → Nat × List Nat
  | 0 => (epsn, arrived)
  | n + 1 => if arrived.contains epsn then advance ((epsn + 1) % 2 ^ 32) (arrived.filter (· != epsn)) n else (epsn, arrived)

/-- Count a CE mark (R292). -/
def State.countCe (s : State) (c : Nat) (p : Pkt) : State :=
  if p.ce && p.encap != 2 then (s.inc (Blk.cc.at 0 0x1B0)).updConn c fun x => { x with ceCnt := sat 16 (x.ceCnt + 1) } else s

/-- A packet has been placed (`code` 0) or refused: the receiver state moves, and an ACK goes where R284 asks. -/
def State.pktPlaced (s : State) (c op : Nat) (p : Pkt) (code : Nat) : State :=
  let x := s.conn c
  let atE := p.psn == x.epsn
  let s := if code = 0 then s.countCe c p else s.sendNak c p code
  let opens := code == 0 && !atE && !x.gapOpen
  let last := code == 0 && p.has flLast
  let s := s.updConn c fun x =>
    let x := if code = 0 then { x with
      sinceAck := x.sinceAck + 1, highPsn := if ahead p.psn x.highPsn then p.psn else x.highPsn } else x
    let x := if last then
        if atE then { x with doneSeq := p.msgSeq }
        else if !x.lastValid || ahead p.psn x.lastPsn then { x with lastValid := true, lastPsn := p.psn, lastSeq := p.msgSeq } else x
      else x
    let x := if opens then { x with gapOpen := true, reorderDl := (s.tick + x.reorderTo) % 2 ^ 32 } else x
    let (e, arr) := advance x.epsn (p.psn :: x.arrived) (x.arrived.length + 1)
    { x with epsn := e, arrived := arr, gapOpen := x.gapOpen && !arr.isEmpty }
  let y := s.conn c
  let passed := y.lastValid && ahead y.epsn y.lastPsn
  let s := if passed then s.updConn c fun x => { x with doneSeq := x.lastSeq, lastValid := false } else s
  let every := s.fld (Blk.cc.at 0 (0x04C + 0x10 * x.ccProf)) 14 8
  if passed || opens || (code == 0 && (p.has flAckreq || p.has flLast || p.has flFence || op == 4)) || decide (every ≤ (s.conn c).sinceAck)
  then s.sendAck c else s

/-- Record a packet that a recording group's owner consumes, at its placement (02 R55). -/
def State.recordPkt (s : State) (c op : Nat) (p : Pkt) : State :=
  if ! [0x01, 0x03, 0x05].contains op then s else
  match s.rpFn (s.conn c).owner 1 with
  | some r => s.record r 4 (4 * 2 ^ 24 + c) (s.conn c).peerDev (p.header op ++ p.payload)
  | none => s

/-- Place one packet, which is then an input of a group that records, and go on with its connection's state. The last part of a read
may be what a closing context waited for (09 R263). -/
def State.process (s : State) (c op : Nat) (p : Pkt) (entry : List Byte) : State :=
  let (s, code) := s.placePkt c op p entry
  let s := if code = 0 then s.recordPkt c op p else s
  let s := if code = 0 && op == 0x01 && p.msgOff == 0 then s.nvmPlaced c (p.raddr % 2 ^ 50) p.payload else s
  if code = 8 then s.sendNak c p 8
  else
    let s := s.pktPlaced c op p code
    if op = 0x03 then s.progressConn c else s

/-- Held FENCE packets that e has reached are placed in turn (R282). -/
def State.releaseHeld (c : Nat) : Nat → State → State
  | 0, s => s
  | n + 1, s =>
    let x := s.conn c
    match x.held.find? fun h => ((pktOf h.1).map fun y => y.2.psn) == some x.epsn with
    | none => s
    | some h => match pktOf h.1 with
      | none => s
      | some (op, p) => State.releaseHeld c n ((s.updConn c fun x => { x with held := x.held.filter (· != h) }).process c op p h.2)

/-- Bytes in the fence store, of one function or of all (R282; 12 R333). -/
def State.fenceBytes (s : State) (fn : Option Nat) : Nat :=
  s.conns.foldl (fun n x => if fn.isNone || fn == some x.2.owner then
    x.2.held.foldl (fun n h => n + ((pktOf h.1).map fun y => y.2.payload.length).getD 0) n else n) 0

/-- The engine whose migration copy holds a WRITE back (03 R86). -/
def State.heldBy (s : State) (op : Nat) (p : Pkt) : Option Nat :=
  if op ≠ 1 then none else
  match windowOf ((p.raddr + p.msgOff) % 2 ^ 50) with
  | some (e, _, _) => if (s.eng e).copying then some e else none
  | none => none

/-- A duplicate is counted, and the first of a tick answered (R279, R284, R292). -/
def State.duplicate (s : State) (c : Nat) (p : Pkt) : State :=
  let s := (s.inc (Blk.cc.at 0 0x180)).countCe c p
  if (s.conn c).dupAck then s else (s.updConn c ({ · with dupAck := true })).sendAck c

/-- A FENCE packet ahead of e is held, or refused as busy where no place is left (R282; 12 R333). -/
def State.holdFence (s : State) (c : Nat) (i : Instr) (p : Pkt) (entry : List Byte) : State :=
  let x := s.conn c
  let n := p.payload.length
  let lim := 16384 * s.fld (Blk.arb.at (x.owner / 128) (0x808 + 16 * (x.owner % 128))) 23 16
  if lim ≠ 0 ∧ lim < s.fenceBytes (some x.owner) + n then (s.inc (Blk.arb.at 0 0x060)).sendNak c p 8
  else if 4 ≤ x.held.length ∨ 2 ^ 22 < s.fenceBytes none + n then s.sendNak c p 8
  else (s.inc (Blk.cc.at 0 0x1C0)).updConn c fun y => { y with held := y.held ++ [(i, entry)] }

/-- A sequenced packet arrives: check 8 (Table 9.8), then its class by PSN (R279, R282). A packet that check 8 refuses draws its NAK
whatever its class; the PSN is consumed only in the window (R286). A READ.RESP that names no read is refused only where it is no
duplicate, since the read that it named may have ended (log entry 103). -/
def State.sequencedArrival (s : State) (c : Nat) (i : Instr) (op : Nat) (p : Pkt) : State :=
  match s.heldBy op p with
  | some e => s.holdInbound e (.cmd p.payload.length i)
  | none =>
    let x := s.conn c
    let inWin := decide ((p.psn + 2 ^ 32 - x.epsn) % 2 ^ 32 < x.window)
    let here := x.arrived.contains p.psn || x.held.any fun h => ((pktOf h.1).map fun y => y.2.psn) == some p.psn
    let dup := ahead x.epsn p.psn || (inWin && here)
    let (s, chk) := s.check8 c op p
    if dup || !inWin then
      match chk with
      | .inl code => if op = 0x03 then (if dup then s.duplicate c p else s.inc (Blk.cc.at 0 0x188)) else s.sendNak c p code
      | .inr _ => if dup then s.duplicate c p else s.inc (Blk.cc.at 0 0x188)
    else match s.rpFn x.owner 2, [0x01, 0x03, 0x05].contains op with
    | some r, true => s.updRep r fun g => { g with dropped := g.dropped + 1 }
    | _, _ =>
      match chk with
      | .inl code => (s.pktPlaced c op p code).releaseHeld c 4
      | .inr entry =>
        if p.has flFence && p.psn != x.epsn then s.holdFence c i p entry
        else (s.process c op p entry).releaseHeld c 4

/-! ## ACK and NAK at the sender (10 R285 to R289) -/

/-- An ACK arrives (R284, R287). -/
def State.ackArrival (s : State) (c : Nat) (p : Pkt) : State :=
  let x := s.conn c
  let s := s.updConn c fun x => { x with ceEcho := sat 16 (x.ceEcho + p.word 0 % 65536) }
  let moves := ahead p.psn x.una && !ahead p.psn x.top
  let s := if !moves then s else
    let n := (p.psn + 2 ^ 32 - x.una) % 2 ^ 32
    let left := x.sent.drop n
    let gone := x.flying.filter fun m => !left.any (·.msg == m.id)
    let s := gone.foldl (fun s m => if m.kind = 1 then s else s.msgEnd c m 0 0) s
    s.updConn c fun x => { x with
      una := p.psn, sent := left, flying := x.flying.filter fun m => left.any (·.msg == m.id)
      round := 0, rtoTick := s.tick % 65536, acked := sat 16 (x.acked + n)
      nextPsn := if ahead p.psn x.nextPsn then p.psn else x.nextPsn
      gbn := x.gbn && (if ahead p.psn x.nextPsn then p.psn else x.nextPsn) != x.top
      busy := x.busy.filter fun b => left.any (·.psn == b.1) }
  let s := s.updConn c fun x =>
    let x := if x.gapTimer && ahead p.psn x.gapPsn then { x with gapTimer := false } else x
    if ahead ((p.word 1 + 1) % 2 ^ 32) p.psn && (!x.gapTimer || ahead p.psn x.gapPsn) then
      { x with gapTimer := true, gapPsn := p.psn, gapTick := s.tick % 65536 }
    else x
  s.progressConn c

/-- A NAK arrives (R286, R289). -/
def State.nakArrival (s : State) (c : Nat) (p : Pkt) : State :=
  let x := s.conn c
  let code := p.word 0 % 256
  let s := s.inc (pslReg 0x0B0)
  match x.sent.find? (·.psn == p.psn) with
  | none => s
  | some k =>
    if code = 8 then (s.inc (Blk.cc.at 0 0x1A8)).updConn c fun x => { x with busy := x.busy ++ [(p.psn, s.ticks)] }
    else match (x.flying ++ x.cur.toList).find? (·.id == k.msg) with
      | none => s
      | some m =>
        let s := match x.reads.find? (·.msg == m.id) with
          | some r => ((s.updConn c fun x => { x with reads := x.reads.filter (·.msg != m.id) }).nvmEnded c m 5).opEnd r.src c r.msg 5 code 0
          | none => s.msgEnd c m 5 code
        let s := s.updConn c fun x => match x.cur with
          | some y => if y.id = m.id then { x with cur := none, flying := x.flying ++ [{ y with done := true }] } else x
          | none => x
        s.progressConn c

/-! ## Connection packets (09 R262, R263) -/

/-- What the peer's first CONN.REQ or CONN.ACCEPT tells (R261, 10 R274), be it met in opening or, after a data packet has opened the
context, in open. -/
def State.learn (s : State) (c : Nat) (p : Pkt) : State :=
  s.updConn c fun x => if x.peerKnown then x else { x with
    peerKnown := true, peerRetry := beNat (slice p.payload 10 1), peerRexmit := beNat (slice p.payload 11 2)
    window := min x.window (beNat (slice p.payload 6 2)) }

/-- Answer a CONN.REQ with CONN.REJECT, to the requester's connection in its payload (R262). -/
def State.reject (s : State) (c : Nat) (p : Pkt) (reason : Nat) : State :=
  (s.queuePkt p.port 0xC000 0 0 none (beNat (slice p.payload 4 2)) p.srcMac 0x32 {
    encap := p.encap, dstIp := p.srcIp, udpPort := s.fld (pslReg 0x040) 15 0, flags := flFirst + flLast, pkey := p.pkey
    dstConn := beNat (slice p.payload 0 4) % 2 ^ 24, payload := s.hello c reason } none).1

/-- An unsequenced packet that check 7 has passed. -/
def State.ctlArrival (s : State) (c op : Nat) (p : Pkt) : State :=
  let x := s.conn c
  match op with
  | 0x10 => s.ackArrival c p
  | 0x11 => s.nakArrival c p
  | 0x30 =>
    let s := s.learn c p
    let s := if x.st = 1 then s.openConn c else s
    s.sendCtl c 0x31 (s.hello c 0)
  | 0x31 => if x.st = 1 then (s.learn c p).openConn c else if x.st = 2 then s.learn c p else s
  | 0x32 => if x.st = 1 then (s.connOutcome c 5 0).updPsl (fun q => { q with
        stat := match x.cmdWin with
          | some w => q.stat.set (0, 0, 0) w (5, x.gen, beNat (slice p.payload 9 1))
          | none => q.stat }) |>.freeConn c
      else s
  | 0x33 => if x.st = 2 then s.startClose c false else (s.updConn c ({ · with closePeer := true })).progressConn c
  | 0x34 => if x.st = 3 ∧ x.closeSent then s.freeConn c else s
  | 0x36 => match s.boot.dom with
    | some d =>
      if d.g = beNat (slice p.payload 0 4) % 16 ∧ d.seq = beNat (slice p.payload 4 4) then
        State.domCheck { s with boot := { s.boot with dom := some { d with wait := d.wait.filter (· != x.peerDev) } } }
      else s
    | none => s
  | _ => s

/-- An arrival meets its context (checks 7 and 8). A data packet opens one in opening only if it passes every check (R262). -/
def State.meetConn (s : State) (c : Nat) (i : Instr) (op : Nat) (p : Pkt) : State :=
  match s.check7 c op p with
  | .stale => s.drop (pslReg 0x098)
  | .spoof => s.drop (pslReg 0x0A0)
  | .reject r => s.reject c p r
  | .pass =>
    if !sequenced op then s.ctlArrival c op p
    else if (s.conn c).st = 1 then match s.check8 c op p with
      | (s, .inl code) => s.sendNak c p code
      | (s, .inr _) => (s.openConn c).sequencedArrival c i op p
    else s.sequencedArrival c i op p

/-- An arrival looks its context up; a miss waits for the fill (10 R297). One whose access waits at a fenced bank is held there, in
arrival order (07 R206). -/
def State.arriveConn (s : State) (i : Instr) (op : Nat) (p : Pkt) : State :=
  let c := p.dstConn % 2 ^ 20
  if (s.cached c).isSome then
    let s := s.cacheHit c
    let t := s.meetConn c i op p
    if t.mem.stalled = s.mem.stalled then t else s.updStack (t.mem.stalled.getD 0) fun k => { k with held := k.held ++ [i] }
  else s.cacheMiss c i

/-- The frame of a command that is not Phisal after all, as the cores receive it (check 2). -/
def Pkt.asFrame (op : Nat) (p : Pkt) : EthFrame :=
  { bytes := p.frameBytes, dst := 0, src := p.srcMac
    body := Config.outerHeader p.encap p.srcIp p.dstIp p.udpPort ++ p.covered op ++ beBytes 4 p.icrc.toNat }

/-- The same command with its packet as the checks leave it (payload in clear). -/
def withPkt (i : Instr) (p : Pkt) : Instr :=
  match i with
  | .write _ => .write p
  | .readReq _ => .readReq p
  | .readResp _ => .readResp p
  | .flush _ => .flush p
  | .dispatchPacket _ => .dispatchPacket p
  | .ack _ => .ack p
  | .nak _ => .nak p
  | .connReq _ => .connReq p
  | .connAccept _ => .connAccept p
  | .connReject _ => .connReject p
  | .connClose _ => .connClose p
  | .connClosed _ => .connClosed p
  | .domrst _ => .domrst p
  | .domrstAck _ => .domrstAck p
  | other => other

/-- A frame of a connection opcode arrives (Table 9.8). -/
def State.phisalArrive (s : State) (i : Instr) (op : Nat) (p : Pkt) : State :=
  if !s.isPhisal p then s.coreDeliver p.port 0 (Pkt.asFrame op p)
  else match s.arrival op p with
    | (s, none) => s
    | (s, some q) => s.arriveConn (withPkt i q) op q

/-- A frame of a connection opcode arrives at a device that is running. -/
def arriving (i : Instr) (op : Nat) (p : Pkt) (s : State) : Res := due (s.glb.service != 0) (s.phisalArrive i op p)

/-- WRITE (10 R278). -/
def execWrite (p : Pkt) (s : State) : Res := arriving (.write p) 0x01 p s
/-- READ.REQ (09 R249). -/
def execReadReq (p : Pkt) (s : State) : Res := arriving (.readReq p) 0x02 p s
/-- READ.RESP (10 R285). -/
def execReadResp (p : Pkt) (s : State) : Res := arriving (.readResp p) 0x03 p s
/-- FLUSH (10 R283). -/
def execFlush (p : Pkt) (s : State) : Res := arriving (.flush p) 0x04 p s
/-- DISPATCH (09 R249). -/
def execDispatchPacket (p : Pkt) (s : State) : Res := arriving (.dispatchPacket p) 0x05 p s
/-- ACK (10 R287). -/
def execAck (p : Pkt) (s : State) : Res := arriving (.ack p) 0x10 p s
/-- NAK (10 R286, R289). -/
def execNak (p : Pkt) (s : State) : Res := arriving (.nak p) 0x11 p s
/-- CONN.REQ (R262). -/
def execConnReq (p : Pkt) (s : State) : Res := arriving (.connReq p) 0x30 p s
/-- CONN.ACCEPT (R262). -/
def execConnAccept (p : Pkt) (s : State) : Res := arriving (.connAccept p) 0x31 p s
/-- CONN.REJECT (R262). -/
def execConnReject (p : Pkt) (s : State) : Res := arriving (.connReject p) 0x32 p s
/-- CONN.CLOSE (R263). -/
def execConnClose (p : Pkt) (s : State) : Res := arriving (.connClose p) 0x33 p s
/-- CONN.CLOSED (R263). -/
def execConnClosed (p : Pkt) (s : State) : Res := arriving (.connClosed p) 0x34 p s
/-- DOMRST (R265). -/
def execDomrst (p : Pkt) (s : State) : Res := arriving (.domrst p) 0x35 p s
/-- DOMRST.ACK (06 R185). -/
def execDomrstAck (p : Pkt) (s : State) : Res := arriving (.domrstAck p) 0x36 p s

/-- DOMRST_ACK_TIMEOUT (06 R185): 1 ms without every acknowledgement. The outcome is written in the reset record, and the device
resets itself. -/
def execDomrstAckTimeout (s : State) : Res :=
  match s.boot.dom with
  | some d => due (decide (d.since + 1000000 ≤ s.plumb.now)) (s.beginReset 4 d.wait.length)
  | none => .fault .notDue

end Sys2Proof.Machine
end

