-- ==== Sys2Proof/Machine/Fabric.lean ====
section
/-! DEFINITION. Machine/Fabric.lean: the network-on-chip planes, the tile routers, tile-store scrubbing and the end of a
migration's copy (01 R24 to R26, 03 R65 to R68, R86, 17 R451). -/

namespace Sys2Proof.Machine

/-! ## Planes (01 R24 to R26) -/

/-- Change the planes. -/
def State.updNoc (s : State) (g : Noc → Noc) : State := { s with noc := g s.noc }

/-- The state of a plane. -/
def Noc.st (n : Noc) (p : Nat) : Nat := if p = 0 then n.st0 else n.st1

/-- Change the state of a plane; one that returns must fail a new test before it counts as failed again. -/
def Noc.setSt (n : Noc) (p v : Nat) : Noc :=
  let keep := v == 2
  if p = 0 then { n with st0 := v, passed0 := n.passed0 && keep } else { n with st1 := v, passed1 := n.passed1 && keep }

/-- GLB_NOC (17 Table 17.19). -/
def State.nocWord (s : State) : Nat := s.reg 0x64 % 4 + 256 * s.noc.st0 + 1024 * s.noc.st1

/-- A plane changes state, with its audit record (17 R451). -/
def State.planeSt (s : State) (p v : Nat) : State :=
  let old := s.nocWord
  let s := s.updNoc fun n => n.setSt p v
  s.auditDev 0x64 old s.nocWord

/-- May a transfer of a pair still arrive on plane `p`: the plane is in service, or it drains and the pair's final marker has not
arrived (R25)? After that marker, which is the last of its stream (R23), the pair has nothing more on the plane. -/
def Noc.carries (n : Noc) (p src dst : Nat) : Bool := n.st p == 0 || (n.st p == 1 && n.awaiting.contains (src, dst))

/-- The plane of a transfer to line address `a` (R24): bit 8 of the address, but where the other plane is not in service. -/
def Noc.planeOk (n : Noc) (p a : Nat) : Bool := decide (p < 2) && (p == a / 256 % 2 || n.st (1 - p) != 0)

/-- Does a fenced transfer still wait: for its marker on the other plane (R24), or, while that plane drains, for the final marker
of its source (R25)? With one plane in service there is nothing to wait for. -/
def Noc.holds (n : Noc) (h : Fenced) : Bool :=
  (n.st (1 - h.plane) == 0 && !h.marked) || (n.st (1 - h.plane) == 1 && n.awaiting.contains (h.src, h.dst))

/-! ## Routers (03 R67, R68) -/

/-- An inbound transfer is placed, or reported to its source as a bus error where its granules are not those of a resident
context. A FENCE transfer then sets its words full. -/
def State.routerPlace (s : State) (e x off : Nat) (fn : Option Nat) (d : List Byte) (fence poison : Bool) : State :=
  match s.windowAddr (4 * e + x) off d.length fn with
  | some a => s.tsPlace a d (if fence then some true else none) poison
  | none => s.emit (.bounced e x off)

/-- A command held on its way to a tile goes on. -/
def State.releaseCmd (s : State) (i : Instr) : State :=
  match i with
  | .routerInboundTransfer _ _ e x off fn d fence poison _ =>
    if (s.eng e).copying then s.holdInbound e (.cmd d.length i) else s.routerPlace e x off fn d fence poison
  | .chunkPlaced g r j h data bad => s.chunkIn g r j h data bad
  | .readyWordPlaced g r j seq => s.readyIn g r j seq
  | .abandonWordPlaced g r src seq code => s.abandonIn g r src seq code
  | i => match pktOf i with
    | some (op, p) => s.arriveConn i op p
    | none => s

/-- Fenced transfers that need wait no longer are applied, in the order in which they came. -/
def State.releaseFenced (s : State) : State :=
  let go := s.noc.fenced.filter fun h => !s.noc.holds h
  go.foldl (fun s h => s.releaseCmd h.cmd) (s.updNoc fun n => { n with fenced := n.fenced.filter n.holds })

/-- A fenced transfer arrives on plane `p` (R24): its marker may have come before it. -/
def State.fencedArrival (s : State) (src dst p : Nat) (i : Instr) : State :=
  let m := (src, dst, 1 - p)
  (s.updNoc fun n => { n with
    markers := n.markers.erase m
    fenced := n.fenced ++ [{ src, dst, plane := p, marked := n.markers.contains m, cmd := i }] }).releaseFenced

/-- ROUTER_INBOUND_TRANSFER (R67) from agent `src` on plane `p`: `fn` is the function whose window access it is, if it is one. While
a migration copies the engine, the hub holds it (03 R86). -/
def execRouterInboundTransfer (src p e x off : Nat) (fn : Option Nat) (data : List Byte) (fence poison parityErr : Bool)
    (s : State) : Res :=
  let i : Instr := .routerInboundTransfer src p e x off fn data fence poison parityErr
  let t := s.tileOf e
  due (decide (e < 48) && decide (x < 4) && decide (src ≤ hubAgent) && !data.isEmpty && s.noc.carries p src t && s.noc.planeOk p off) <|
    let s := s.useNoc src t
    if parityErr then s.routerParity e
    else if fence then s.fencedArrival src t p i
    else s.releaseCmd i

/-- NOC_FENCE_MARKER (R24) on plane `p`: it marks the oldest transfer of its pair that came on the other plane and has no marker; a
marker that comes first is kept. -/
def execNocFenceMarker (src dst p : Nat) (s : State) : Res :=
  due (decide (p < 2) && decide (src ≤ hubAgent) && decide (dst ≤ hubAgent) && s.noc.carries p src dst) <|
    let mine (h : Fenced) : Bool := h.src == src && h.dst == dst && h.plane == 1 - p && !h.marked
    match s.noc.fenced.findIdx? mine with
    | none => s.updNoc fun n => { n with markers := n.markers ++ [(src, dst, p)] }
    | some i => (s.updNoc fun n => { n with fenced := n.fenced.modify i ({ · with marked := true }) }).releaseFenced

/-! ## Retiring a plane (R25, R26) -/

/-- PLANE_RETIRE: from the boundary at which GLB_NOC takes plane `p` out, a final marker is due from every source to every
destination that it used in the tick before. -/
def execPlaneRetire (p : Nat) (s : State) : Res :=
  due (decide (p < 2) && bitAt (s.reg 0x64) p && s.noc.st p == 0) <|
    let s := s.updNoc fun n => { n with retiredAt := s.ticks, awaiting := n.lastUsed }
    (s.planeSt p (if s.noc.awaiting.isEmpty then 2 else 1)).releaseFenced

/-- The plane that drains, if one does. -/
def State.draining (s : State) : Option Nat := [0, 1].find? fun p => s.noc.st p == 1

/-- PLANE_FINAL_MARKER: the plane is closed for a source, and what waited for that goes on. -/
def execPlaneFinalMarker (src dst : Nat) (s : State) : Res :=
  match s.draining with
  | none => .fault .notDue
  | some p =>
    due (s.noc.awaiting.contains (src, dst)) <|
      let s := s.updNoc fun n => { n with
        awaiting := n.awaiting.filter (· != (src, dst)), markers := n.markers.filter (· != (src, dst, p)) }
      (if s.noc.awaiting.isEmpty then s.planeSt p 2 else s).releaseFenced

/-- A transfer outstanding on a failed plane is reported to its requester as a bus error. -/
def State.bounce (s : State) (i : Instr) : State :=
  match i with
  | .routerInboundTransfer _ _ e x off _ _ _ _ _ => s.emit (.bounced e x off)
  | _ => s

/-- PLANE_FAIL_TIMEOUT: 8 ticks after the boundary a final marker is still missing. A transfer that waits for something on that plane
is outstanding on it and ends with bus error; one that waits for a marker on the other plane goes on waiting. -/
def execPlaneFailTimeout (s : State) : Res :=
  match s.draining with
  | none => .fault .notDue
  | some p =>
    due (decide (s.noc.retiredAt + 8 ≤ s.ticks) && !s.noc.awaiting.isEmpty) <|
      let lost := s.noc.fenced.filter fun h => h.plane != p
      let s := (s.updNoc fun n => { n with
        awaiting := [], fenced := n.fenced.filter fun h => h.plane == p, markers := n.markers.filter fun m => m.2.2 != p }).planeSt p 3
      lost.foldl (fun s h => s.bounce h.cmd) (s.event { blk := .glb, num := 8 })

/-- PLANE_RETURN (R26): GLB_NOC returns a plane that is out; one that failed must have passed a test (17 R451). -/
def execPlaneReturn (p : Nat) (s : State) : Res :=
  due (decide (p < 2) && !bitAt (s.reg 0x64) p
      && (s.noc.st p == 2 || (s.noc.st p == 3 && (if p = 0 then s.noc.passed0 else s.noc.passed1)))) (s.planeSt p 0)

/-! ## Scrubbing (03 R65, R66) -/

/-- TILE_SCRUB. -/
def execTileScrub (t w : Nat) (err : TileErr) (s : State) : Res :=
  due (decide (t < 52) && decide (w < 0x100000)) (s.scrubWord t w err)

/-- FORCED_SCRUB_CYCLE: the same read, in a cycle taken from every other unit. -/
def execForcedScrubCycle (t w : Nat) (err : TileErr) (s : State) : Res :=
  due (decide (t < 52) && decide (w < 0x100000)) (s.scrubWord t w err)

/-! ## The end of a migration's copy (03 R86) -/

/-- MIGRATION_COPY_COMPLETE: the engine is on its new tile, and what the hub held is placed in arrival order. -/
def execMigrationCopyComplete (e : Nat) (s : State) : Res :=
  match (s.eng e).migrTo with
  | none => .fault .notDue
  | some t =>
    due (decide (e < 48) && (s.eng e).copying) <|
      let held := (s.eng e).heldIn ++ (s.eng e).waitIn
      held.foldl (fun s h => match h with
        | .cmd _ i => s.releaseCmd i
        | .put off d fe poison => (s.tsWrite (0x800000 * t + off) d fe poison).mirrorIn (0x800000 * t + off) d)
        ((s.migrated e t).updEng e ({ · with heldIn := [], waitIn := [] }))

end Sys2Proof.Machine
end

