-- ==== Sys2Proof/Machine/Shaper.lean ====
section
/-! DEFINITION. Machine/Shaper.lean: the choice of a tag-order arbiter and the token-bucket shapers
(12_arbitration_shaping_and_isolation.md R323, R328 to R330). -/

namespace Sys2Proof.Machine

/-- Units charged to a tag of weight `d`, in steps of 2^-32 (R323). -/
def tagCost (n d : Nat) : Nat := 2 ^ 32 * n / max 1 d

/-- The child with the smallest tag, then the earliest age, then the lowest number: children are (number, tag, age). -/
def tagPick : List (Nat × Nat × Nat) → Option Nat
  | [] => none
  | x :: xs => some ((xs.foldl (fun (b y : Nat × Nat × Nat) =>
      if y.2.1 < b.2.1 ∨ (y.2.1 = b.2.1 ∧ (y.2.2 < b.2.2 ∨ (y.2.2 = b.2.2 ∧ y.1 < b.1))) then y else b) x).1)

/-- A register of shaper `j`: 0 its rate, 4 its bucket, 8 its credit (Table 12.11). -/
def shpReg (j off : Nat) : Nat := Blk.shp.at (j / 128) (0x800 + 16 * (j % 128) + off)

/-- Is shaper `j` enabled? -/
def State.shpOn (s : State) (j : Nat) : Bool := bitAt (s.reg (shpReg j 0)) 31

/-- The credit of shaper `j`. -/
def State.shpCredit (s : State) (j : Nat) : Int := signed 64 (s.reg (shpReg j 8))

/-- Does shaper `j` takeIn a unit (R330)? -/
def State.shpOk (s : State) (j : Nat) : Bool := !s.shpOn j || decide (0 ≤ s.shpCredit j)

/-- Set the credit of shaper `j`. -/
def State.shpSet (s : State) (j : Nat) (v : Int) : State := s.setReg (shpReg j 8) (unsigned 64 v)

/-- The bucket of shaper `j` in bytes. -/
def State.shpBucket (s : State) (j : Nat) : Int := (1024 * s.fld (shpReg j 4) 15 0 : Nat)

/-- Charge shaper `j` for a unit of `n` bytes in `k` frames (R329). -/
def State.shpCharge (s : State) (j n k : Nat) : State :=
  if s.shpOn j then s.shpSet j (s.shpCredit j - ((n : Int) + signed 8 (s.fld (shpReg j 4) 23 16) * (k : Int))) else s

/-- Refill shaper `j` at a boundary (R330). -/
def State.shpRefill (s : State) (j : Nat) : State :=
  if s.shpOn j then
    s.shpSet j (min (s.shpCredit j + (s.fld (shpReg j 0) 23 0 * 2 ^ s.tickLog / 8000 : Nat)) (s.shpBucket j))
  else s

/-- The shapers that are enabled, by the registers listed. -/
def State.shpAll (s : State) : List Nat :=
  (s.regs.filterMap fun e =>
    let a := e.1
    if shpReg 0 0 ≤ a ∧ a < shpReg 4800 0 ∧ a % 4096 ≥ 0x800 ∧ a % 16 = 0 then
      some (128 * ((a - Blk.shp.at 0 0) / 4096) + (a % 4096 - 0x800) / 16) else none).filter fun j => decide (j < 4800) && s.shpOn j

end Sys2Proof.Machine
end

