-- ==== Sys2Proof/Machine/Send.lean ====
section
/-! DEFINITION. Machine/Send.lean: what a connection sends, its timers, its rate, the sweep of the context cache, and the
frames that ports transmit (09 R257, R266 to R269; 10 R272 to R297; 11 R301, R319; 12 R322 to R325). -/

namespace Sys2Proof.Machine

/-! ## Packets of a message -/

/-- The opcode of a message kind. -/
def msgOp (kind : Nat) : Nat := [0x01, 0x02, 0x04, 0x05, 0x03, 0x35].getD kind 0

/-- The part of a dispatch message at `off`: its bytes and extension words (09 R249): one segment header, or whole rows of
one segment. `pos` is where a segment starts. -/
def dispatchCut (g size : Nat) (data : List Byte) (off : Nat) : Nat → Nat → Nat × List W32
  | 0, _ => (0, [])
  | n + 1, pos =>
    let h := slice data pos 64
    let rows := leAt h 10 2
    let rb := max 1 (leAt h 12 4)
    let w1 := 2 ^ 24 * (g % 16) + 2 ^ 16 * leAt h 6 1 + 2 ^ 14 * b2n (bitAt (leAt h 7 1) 1) + leAt h 4 2 % 2 ^ 14
    let words (b : Nat) (w2 : Nat) : List W32 := [BitVec.ofNat 32 (leAt h 0 4), BitVec.ofNat 32 (w1 + 2 ^ 15 * b), BitVec.ofNat 32 w2]
    if off ≤ pos then (64, words 1 0)
    else if off < pos + 64 + rows * rb then
      let slot := (off - pos - 64) / rb
      let cnt := min (rows - slot) (max 1 (size / rb))
      (cnt * rb, words 0 (2 ^ 16 * cnt + slot))
    else dispatchCut g size data off n (pos + 64 + rows * rb)

/-- Bytes of the packet of message `m` at `off`, and its extension words (R244, R248). -/
def cutPkt (x : Conn) (m : Msg) (off : Nat) : Nat × List W32 :=
  let size := 2 ^ x.pktLog2
  match m.kind with
  | 1 => (0, [BitVec.ofNat 32 (m.len - 1)])
  | 2 => (0, [])
  | 3 => dispatchCut m.raddr size m.data off (m.data.length + 1) 0
  | _ => (min size (m.len - off), [])

/-- The poison word of the bytes `[off, off + n)` of a message. -/
def poisonWord (m : Msg) (off n : Nat) : Nat :=
  ((List.range 32).filter fun i => decide (256 * i < n) && m.bad.any fun b =>
    overlaps (256 * b) 256 (off + 256 * i) (min 256 (n - 256 * i))).foldl (fun a i => a + 2 ^ i) 0

/-- The opcode and packet of a sent record, `retry` where it is re-sent (Tables 9.4 to 9.6). -/
def buildPkt (x : Conn) (m : Msg) (k : SentPkt) (retry : Bool) : Pkt :=
  let bad := poisonWord m k.off k.len
  let one := m.kind == 1 || m.kind == 2
  let first := k.off == 0
  { flags := (if first then flFirst else 0) + (if k.last then flLast else 0)
      + (if m.kind == 2 || (m.fence && first) || (m.fenceLast && k.last) || m.fenceAll then flFence else 0)
      + (if bad ≠ 0 then flPoison else 0) + (if retry then flRetry else 0)
    msgSeq := k.seq, psn := k.psn, msgOff := k.off
    raddr := if m.kind ≤ 1 then m.raddr else 0, mkey := if m.kind ≤ 1 then m.mkey else 0
    ext := (if bad ≠ 0 then [BitVec.ofNat 32 bad] else []) ++ (cutPkt x m k.off).2
    payload := if one then [] else slice m.data k.off k.len }

/-- A message of a connection by its number. -/
def Conn.message (x : Conn) (id : Nat) : Option Msg := (x.cur.toList ++ x.flying).find? (·.id == id)

/-- Bytes that the last frame offered to a port occupies, with preamble and gap. -/
def State.lastBytes (s : State) (q : Nat) : Nat := (((s.port q).tx.getLast?).map (·.bytes + 20)).getD 0

/-- Put one packet on the port of path number `n`: its pacer pays for the frame (R275, R276). False where no port took it. -/
def State.sendOne (s : State) (c n : Nat) (m : Msg) (k : SentPkt) (retry : Bool) : State × Bool :=
  match s.pick (s.conn c) (n % ((s.conn c).pathsM1 + 1)) with
  | none => (s, false)
  | some at_ =>
    let first := if k.last && m.kind == 0 && !m.done then some m.id else none
    match s.connPkt c at_ k.op (buildPkt (s.conn c) m k retry) first with
    | (s, true) => (s.updConn c fun x => { x with credit := x.credit - (s.lastBytes at_.1 : Int) }, true)
    | (s, false) => (s, false)

/-- The message that a connection goes on with, and its sequence number: the one begun, or the next queued. A masked
function starts no message of its own (13 R361), and a storage capsule or response waits for its turn (14 R376). -/
def State.nextMessage (s : State) (c : Nat) : Option (Msg × Nat × Nat) :=
  let x := s.conn c
  match x.cur with
  | some m => some (m, x.curSeq, x.curOff)
  | none =>
    let held := (s.fns.get {} x.owner).st == 2
    (x.queue.find? fun m => (!held || m.kind == 4) && !s.nvmHolds c m).map fun m => (m, m.seq.getD x.nextMsg, 0)

/-- A message starts: it leaves the queue and takes its sequence number; a read is recorded (R272, R285). -/
def State.startMessage (s : State) (c : Nat) (m : Msg) (seq : Nat) : State :=
  (s.nvmStarted c m).updConn c fun x => { x with
    queue := x.queue.filter (·.id != m.id), cur := some m, curSeq := seq, curOff := 0
    nextMsg := if m.seq.isSome then x.nextMsg else (x.nextMsg + 1) % 65536
    reads := match m.rd with
      | some e => x.reads ++ [{ seq, msg := m.id, dest := e, len := m.len, src := m.src }]
      | none => x.reads }

/-- A connection sends its next packet: a packet again while go-back-N runs, else a new one; none where nothing may
be sent (R272 to R276, R287). -/
def State.sendNext (s : State) (c : Nat) : Option State :=
  let x := s.conn c
  if (x.st ≠ 2 ∧ x.st ≠ 3) ∨ x.credit < 0 then none
  else if x.nextPsn ≠ x.top then
    match x.sent[(x.nextPsn + 2 ^ 32 - x.una) % 2 ^ 32]? with
    | none => none
    | some k => match x.message k.msg with
      | none => none
      | some m => match s.sendOne c (k.psn + x.round) m k true with
        | (_, false) => none
        | (s, true) => some (s.updConn c fun x =>
            let n := (x.nextPsn + 1) % 2 ^ 32
            { x with nextPsn := n, gbn := x.gbn && n != x.top })
  else if x.window ≤ x.sent.length then none
  else match s.nextMessage c with
    | none => none
    | some (m, seq, off) =>
      let n := (cutPkt x m off).1
      let k : SentPkt := {
        psn := x.top, msg := m.id, op := msgOp m.kind, seq, off, len := n, last := m.kind == 1 || m.kind == 2 || decide (m.len ≤ off + n) }
      match s.sendOne c x.top m k false with
      | (_, false) => none
      | (s, true) =>
        let s := if x.cur.isSome then s else s.startMessage c m seq
        some (s.updConn c fun y => { y with
          sent := y.sent ++ [k], nextPsn := (k.psn + 1) % 2 ^ 32
          rtoTick := if x.sent.isEmpty then s.tick % 65536 else y.rtoTick
          cur := if k.last then none else y.cur, curOff := off + n
          flying := if k.last then y.flying ++ y.cur.toList else y.flying })

/-- PACKET_SEND (R272 to R276, R297): a send whose context is not cached waits for its fill. -/
def execPacketSend (c : Nat) (s : State) : Res :=
  match s.sendNext c with
  | none => .fault .notDue
  | some t =>
    if (s.cached c).isSome then done ((s.cacheHit c).sendNext c |>.getD t)
    else due (!s.psl.fills.any (·.conn == c)) (s.cacheMiss c (.packetSend c))

/-! ## Timers (R287 to R289) -/

/-- An expiry: the next retry round, or failure past the limit (R287, R291). -/
def State.goBackN (s : State) (c : Nat) : State :=
  let x := s.conn c
  if x.retryMax < x.round + 1 then (s.inc (Blk.cc.at 0 0x1A0)).failConn c
  else (s.inc (Blk.cc.at 0 0x198)).updConn c fun x =>
    { x with round := x.round + 1, nextPsn := x.una, gapTimer := false, gbn := true, rtoTick := s.tick % 65536, busy := [] }

/-- Has the gap timer of connection `c` expired? -/
def State.gapDue (s : State) (c : Nat) : Bool :=
  let x := s.conn c
  x.gapTimer && decide (x.reorderTo ≤ (s.tick + 65536 - x.gapTick) % 65536) && !ahead x.una x.gapPsn

/-- Has its retransmit timer expired? -/
def State.rtoDue (s : State) (c : Nat) : Bool :=
  let x := s.conn c
  !x.sent.isEmpty && decide (x.rexmitTo ≤ (s.tick + 65536 - x.rtoTick) % 65536)

/-- Is its reorder deadline reached? -/
def State.reorderDue (s : State) (c : Nat) : Bool :=
  let x := s.conn c
  x.gapOpen && !ahead x.reorderDl (s.tick % 2 ^ 32)

/-- GAP_TIMER_EXPIRY. -/
def execGapTimerExpiry (c : Nat) (s : State) : Res := due ((s.cached c).isSome && s.gapDue c) (s.goBackN c)

/-- RETRANSMIT_TIMEOUT. -/
def execRetransmitTimeout (c : Nat) (s : State) : Res := due ((s.cached c).isSome && s.rtoDue c) (s.goBackN c)

/-- The deadline's ACK and the next deadline (R288). -/
def State.reorderAck (s : State) (c : Nat) : State :=
  ((s.sendAck c).inc (Blk.cc.at 0 0x190)).updConn c fun x => { x with reorderDl := (s.tick + x.reorderTo) % 2 ^ 32 }

/-- REORDER_DEADLINE. -/
def execReorderDeadline (c : Nat) (s : State) : Res := due ((s.cached c).isSome && s.reorderDue c) (s.reorderAck c)

/-- BUSY_RESEND (R289). -/
def execBusyResend (c : Nat) (s : State) : Res :=
  let x := s.conn c
  match x.busy.find? fun b => decide (b.2 < s.ticks) with
  | none => .fault .notDue
  | some b => match x.sent.find? (·.psn == b.1) with
    | none => .fault .notDue
    | some k => match x.message k.msg with
      | none => .fault .notDue
      | some m => match s.sendOne c (k.psn + x.round + 1) m k true with
        | (_, false) => .fault .notDue
        | (t, true) => due (decide (0 ≤ x.credit)) (t.updConn c fun y => { y with busy := y.busy.filter (· != b) })

/-! ## The context cache (R295 to R297) -/

/-- What waited for a fill runs with the context present. -/
def State.fillServe (s : State) (c : Nat) (cmds : List Instr) : State :=
  cmds.foldl (fun s i => match pktOf i with
    | some (op, p) => s.meetConn c i op p
    | none => s) s

/-- A fill that finds a data error: it is counted, its event raised, the arrivals dropped, and the context fails (R291). -/
def State.fillBad (s : State) (c : Nat) : State :=
  ((s.inc (Blk.ctx.at 0 0x078)).event { blk := .ctx, num := 1, addr := some c }).failConn c

/-- CTX_FILL_COMPLETE: `bad` where the read of the line finds an uncorrectable error. A free context is not cached. -/
def execCtxFillComplete (c : Nat) (bad : Bool) (s : State) : Res :=
  match s.psl.fills.find? (·.conn == c) with
  | none => .fault .notDue
  | some y =>
    let drop (s : State) : State := s.updPsl fun p => { p with fills := p.fills.filter (·.conn != c) }
    let (t, d) := s.memRead 5 (s.reg (pslReg 0x058) + 256 * c) 256
    if (s.conn c).st = 0 then done ((drop t).fillServe c y.cmds)
    else if bad || d.kind != 0 then done ((drop t).fillBad c)
    else if (s.cached c).isSome || (t.cacheWay c).isSome then done (((drop t).cacheFill c).fillServe c y.cmds)
    else due (!y.waited) ((s.inc (Blk.ctx.at 0 0x070)).updPsl fun p =>
      { p with fills := p.fills.map fun z => if z.conn = c then { z with waited := true } else z })

/-- CTX_SWEEP_VISIT (R296): the timers run, and once in each aging period the entry ages. -/
def execCtxSweepVisit (slice set way : Nat) (s : State) : Res :=
  let k := (1024 * (slice % 4) + set % 1024) * 16 + way % 16
  match s.psl.cache.get none k with
  | none => done s
  | some e =>
    let c := e.conn
    let s := if s.gapDue c || s.rtoDue c then s.goBackN c else s
    let s := if s.reorderDue c then s.reorderAck c else s
    let r := s.reg (Blk.ctx.at 0 0x040)
    let period := s.ticks / 2 ^ bits r 3 0
    if (s.conn c).pinned || bits r 6 4 = 0 || e.aged = period then done s
    else if bits r 6 4 ≤ e.age then
      done (((if e.changed then s.writeBack c else s).cachePut k none).inc (Blk.ctx.at 0 0x068))
    else done (s.updPsl fun p => { p with cache := p.cache.upd none k fun y => y.map ({ · with age := e.age + 1, aged := period }) })

/-! ## At a boundary -/

/-- Refill a pacer (R276). -/
def State.pacerRefill (s : State) (c : Nat) : State :=
  s.updConn c fun x =>
    { x with credit := min (x.credit + (x.rate * 2 ^ s.tickLog / 8000 : Nat)) (2 * x.rate * 2 ^ s.tickLog / 8000 : Nat) }

/-- The contexts that the cache holds. -/
def State.cachedConns (s : State) : List Nat := s.psl.cache.filterMap fun e => e.2.map (·.conn)

/-- What a boundary does to one cached connection: rate, pacer, duplicate ACKs and the coalesced ACK (R276, R284, R293). -/
def State.connBoundary (s : State) (c : Nat) : State :=
  let st := (s.conn c).st
  if st ≠ 2 ∧ st ≠ 3 then s else
    let s := ((s.rateUpdate c).pacerRefill c).updConn c ({ · with dupAck := false })
    if (s.conn c).sinceAck = 0 then s else s.sendAck c

/-! ## Memory-region invalidation and sealing keys (09 R257, R268) -/

/-- PSL_MR_INV with go set: the entry leaves the cache, and what was admitted under it is awaited. -/
def State.mrInvStart (s : State) (i : Nat) : State :=
  let awaits := s.conns.flatMap fun (e : Nat × Conn) =>
    (e.2.held.filterMap fun h => match pktOf h.1 with
      | some (_, p) => if h.2 ≠ [] ∧ p.mkey / 65536 % 65536 = i then some (e.1, 2 * p.psn) else none
      | none => none)
    ++ ((e.2.queue ++ e.2.cur.toList ++ e.2.flying).filterMap fun m =>
      if m.kind = 4 ∧ m.mkey / 65536 % 65536 = i then some (e.1, 2 * m.id + 1) else none)
  s.updPsl fun p => { p with mrCache := p.mrCache.filter (·.1 != i), mrInv := some (i, awaits) }

/-- Is an awaited access still open? -/
def State.mrOpen (s : State) (w : Nat × Nat) : Bool :=
  let x := s.conn w.1
  if w.2 % 2 = 0 then x.held.any fun h => ((pktOf h.1).map fun y => y.2.psn) == some (w.2 / 2)
  else (x.queue ++ x.cur.toList ++ x.flying).any (·.id == w.2 / 2)

/-- MR_INV_COMPLETE. -/
def execMrInvComplete (s : State) : Res :=
  match s.psl.mrInv with
  | some (_, ws) => due (!ws.any s.mrOpen) (s.updPsl ({ · with mrInv := none }))
  | none => .fault .notDue

/-- KEY_DERIVATION_COMPLETE: the key of the staged epoch reaches every port die. -/
def execKeyDerivationComplete (n : Nat) (s : State) : Res :=
  match s.psl.deriving_.find? fun d => d.1 == n && !s.psl.keys.contains (n, d.2.1) with
  | some d => done (s.deriveKey.updPsl fun p => { p with
      keys := p.keys ++ [(n, d.2.1)], deriving_ := if d.2.2 then p.deriving_ else p.deriving_.filter (· != d) })
  | none => .fault .notDue

/-! ## Transmission (11 R301; 12 R322 to R325) -/

/-- The frame in transmission has left: it is counted, and a WRITE whose last packet it carries completes (10 R285); one of an engine
is awaited until it is acknowledged, since its NAK is reported to the engine (09 R250, 04 R123). A frame of the cores that waited for room may follow. A DOMRST.ACK that leaves may be what
a domain reset waited for. -/
def State.frameEnd (s : State) (q : Nat) : State :=
  match (s.port q).cur with
  | none => s
  | some (_, f) =>
    let s := (s.updPort q ({ · with cur := none })).coreSend
    let s := ((s.inc (macReg q 0x178)).inc (macReg q 0x180) f.bytes).emit (.frame q f)
    let s := match f.pfc with
      | some (p, _) => s.inc (macReg q (0x240 + 8 * p))
      | none => s
    let s := if f.op = 0x36 then s.domCheck else s
    match f.conn, f.first with
    | some c, some id => match (s.conn c).message id with
      | some m => match m.src with
        | .engine _ => s
        | _ => s.msgEnd c m 0 0
      | none => s
    | _, _ => s

/-- The transmissions that have ended by now end. -/
def State.portsEnd (s : State) : State :=
  (List.range 24).foldl (fun s q => match (s.port q).cur with
    | some (t, _) => if t ≤ s.plumb.now then s.frameEnd q else s
    | none => s) s

/-- Seal a packet as it leaves port `q` (09 R266 to R268). -/
def State.sealPkt (s : State) (q op : Nat) (p : Pkt) : State × Pkt :=
  if !p.has flSealed then (s, p) else
    let n := (s.partOf p.pkey).getD 0
    let x : Seal := { dev := s.devNum, port := q, boot := s.psl.boot, count := s.psl.sealCnt.get 0 q, epoch := s.epoch n, tag := [] }
    let key := s.sealKey p.pkey x.epoch
    let nonce := (sealField x).take 12
    let d := gcmCrypt key nonce p.payload
    (s.updPsl fun y => { y with sealCnt := y.sealCnt.set 0 q (x.count + 1) },
     { p with payload := d, sealed := some { x with tag := gcmTag key nonce (p.aad op x) d } })

/-- Complete a frame whose first symbol leaves at count `t`: Plumb timestamps, seal, integrity check and the UDP checksum of IPv6 (02
R37, 09 R239). -/
def State.stamp (s : State) (q t : Nat) (f : Frame) : State × Frame :=
  match f.pkt with
  | none => (s, f)
  | some p =>
    let p := if f.op = 0x21 then { p with payload := splice p.payload 8 (beBytes 8 t) } else p
    let s := match f.op, f.first with
      | 0x20, some i => { s with plumb := { s.plumb with ups := s.plumb.ups.upd {} i fun (u : UpEntry) => { u with out := u.out.map fun (y : Nat × Nat) => (y.1, t) } } }
      | _, _ => s
    let (s, p) := s.sealPkt q f.op p
    let sum := if p.encap = 1 then udpSum6 p.srcIp p.dstIp f.sport p.udpPort (p.covered f.op ++ beBytes 4 (p.check f.op)) else 0
    (s, { f with udpSum := sum, pkt := some { p with icrc := BitVec.ofNat 32 (p.check f.op) } })

/-- Start a queued frame: the one before it has ended. -/
def State.startFrame (s : State) (q : Nat) (f : Frame) : State :=
  let t := max s.plumb.now (((s.port q).cur.map Prod.fst).getD 0)
  let rate := max 1 (modeRate (s.port q).mode)
  let (s, g) := (s.frameEnd q).stamp q t f
  let fin := t + ((f.bytes + 20) * 8 + rate - 1) / rate
  s.updPort q fun x => { x with tx := x.tx.erase f, cur := some (fin, g), idleAt := fin }

/-- Frames that the arbiters of port `q` may send at priority `p`: held ones go first (11 R319). -/
def State.ready (s : State) (q p : Nat) (heldOnly : Bool) : List Frame :=
  (s.port q).tx.filter fun f => f.prio == p && f.pfc.isNone && !f.plumb && (!heldOnly || f.held)

/-- Is priority `p` eligible (12 R324)? -/
def State.prioOk (s : State) (q p : Nat) (heldOnly : Bool) : Bool :=
  !(s.ready q p heldOnly).isEmpty && !s.paused q p && !(s.prio q p).stalled && s.shpOk (4608 + 8 * q + p)

/-- The frame of priority `p` that goes next: of held frames the first, else the function stream by tag order. -/
def State.streamPick (s : State) (q p : Nat) (heldOnly : Bool) : Option Frame :=
  let fs := s.ready q p heldOnly
  if heldOnly then fs.head? else
    let x := s.prio q p
    match tagPick (x.streams.filter fun y => fs.any fun f => f.fn == y.1) with
    | some fn => fs.find? fun f => f.fn == fn
    | none => fs.head?

/-- Charge the two tiers for a frame of `n` units (R323, R325, R329). -/
def State.chargeTx (s : State) (q : Nat) (f : Frame) (n : Nat) : State :=
  let p := f.prio
  let conns := (((s.ready q p false).filter fun g => g.fn == f.fn).map fun g => g.conn).eraseDups
  let d := min conns.length (s.fld (Blk.arb.at (f.fn / 128) (0x804 + 16 * (f.fn % 128))) 20 0)
  let w := s.fld (Blk.arb.at 0 (0x100 + 8 * q)) (8 * p + 7) (8 * p)
  let tag := (s.prio q p).tag
  let s := s.updPort q ({ · with vt := tag })
  let s := s.updPrio q p fun x =>
    let x := { x with tag := tag + tagCost n w, maxWait := max x.maxWait (s.plumb.now - f.at_) }
    if f.held then x else match x.streams.find? (·.1 == f.fn) with
      | some y => { x with vt := y.2.1, streams := x.streams.map fun z => if z.1 = f.fn then (z.1, z.2.1 + tagCost n d, z.2.2) else z }
      | none => x
  s.shpCharge (4608 + 8 * q + p) n 1

/-- The priorities that are eligible enter the arbiter of the port (R323). -/
def State.enterPrios (s : State) (q : Nat) (heldOnly : Bool) : State :=
  (List.range 8).foldl (fun s p =>
    let ok := s.prioOk q p heldOnly
    let age := ((s.ready q p heldOnly).head?.map (·.at_)).getD 0
    let v := (s.port q).vt
    s.updPrio q p fun x =>
      if ok && !x.wasElig then { x with wasElig := true, tag := max x.tag v, age := max age x.freeAt } else { x with wasElig := ok }) s

/-- The next frame of port `q`: PFC frames, then Plumb frames (held back while priority 7 is paused: DEDUCED), then the
arbiters. -/
def State.nextFrame (s : State) (q : Nat) : Option State :=
  let x := s.port q
  match x.tx.find? (·.pfc.isSome) with
  | some f => some (s.startFrame q f)
  | none =>
    match x.tx.find? (fun f => f.plumb && !s.paused q 7 && !(s.prio q 7).stalled) with
    | some f => some (s.startFrame q f)
    | none =>
      let heldOnly := (List.range 8).any fun p => s.prioOk q p true
      let t := s.enterPrios q heldOnly
      match tagPick (((List.range 8).filter fun p => (t.prio q p).wasElig).map fun p => (p, (t.prio q p).tag, (t.prio q p).age)) with
      | none => none
      | some p => (t.streamPick q p heldOnly).map fun f =>
        let t := (t.chargeTx q f (f.bytes + 20)).startFrame q f
        t.updPrio q p fun y => { y with wasElig := y.wasElig && t.prioOk q p false }

/-- FRAME_TRANSMIT: the next frame starts once the one before it has left. -/
def execFrameTransmit (q : Nat) (s : State) : Res :=
  if s.portUp q && !(s.port q).fault && !(s.port q).lpiTx then
    match s.nextFrame q with
    | some t => done t
    | none => .fault .notDue
  else .fault .notDue

end Sys2Proof.Machine
end

