-- ==== Sys2Proof/Machine/Align.lean ====
section
/-! DEFINITION. Machine/Align.lean: the Plumb counter's alignment to its upstream, and a change of tick length
(02 R35 to R42, 09 R253). -/

namespace Sys2Proof.Machine

/-- Change the Plumb state. -/
def State.updPlumb (s : State) (g : Plumb → Plumb) : State := { s with plumb := g s.plumb }

/-- Is the device the root (R35)? -/
def State.plumbRoot (s : State) : Bool := s.fld 0x1048 6 5 == 1

/-- The alignment state (R39): the root is always locked. -/
def State.alignSt (s : State) : Nat := if s.plumbRoot then 2 else s.plumb.st

/-- The hop count: 0 at the root (R36). -/
def State.hopCount (s : State) : Nat := if s.plumbRoot then 0 else s.plumb.hop

/-- The port and partner of a valid upstream entry (Table 2.2). -/
def State.upstream (s : State) (i : Nat) : Option (Nat × Nat) :=
  let v := s.reg (0x1050 + 4 * i)
  if i < 4 ∧ bitAt v 31 then some (bits v 4 0, bits v 21 8) else none

/-- An upstream entry's state. -/
def State.up (s : State) (i : Nat) : UpEntry := s.plumb.ups.get {} i

/-- Change an upstream entry. -/
def State.updUp (s : State) (i : Nat) (g : UpEntry → UpEntry) : State := s.updPlumb fun x => { x with ups := x.ups.upd {} i g }

/-- Is an entry usable (R36)? -/
def State.usable (s : State) (i : Nat) : Bool := (s.upstream i).isSome && (s.up i).lastGood && !(s.up i).silent

/-- The first usable entry. -/
def State.firstUp (s : State) : Option Nat := firstIdx 4 s.usable

/-- The port of the entry in use; 0xFF for none (Table 17.20). The entry that fell silent stays in use in holdover, and the hop
count keeps its last value while the follower is unlocked: the spec says neither (DESIGN CHOICE, log entry 93). -/
def State.upPort (s : State) : Option Nat :=
  if s.plumbRoot then none else s.plumb.use.bind fun i => (s.upstream i).map Prod.fst

/-- PLUMB_STAT (Table 2.2). -/
def State.plumbStat (s : State) : Nat := s.alignSt + 4 * (s.upPort.getD 0) + 256 * (s.hopCount % 256)

/-- A signed value of 32 bits, saturating. -/
def satInt32 (v : Int) : Int := if v < -(2 ^ 31) then -(2 ^ 31) else if 2 ^ 31 - 1 < v then 2 ^ 31 - 1 else v

/-- A change of alignment state and its event (R39, R41; 17 Table 17.20). An unlocked counter runs free, and one in holdover
keeps the learned rate (Table 2.1). -/
def State.alignTo (s : State) (new : Nat) : State :=
  let old := s.alignSt
  let s := s.updPlumb fun x =>
    let x := { x with st := new, good := if new = old then x.good else 0 }
    if new = old then x
    else if new = 0 then { x with use := none, c := 0, holdAt := none }
    else if new = 3 then { x with c := x.f, holdAt := some x.now }
    else { x with holdAt := none }
  if new = old then s else
    let s := s.event {
      blk := .plumb, num := 1, p0 := new + 4 * old, p1 := s.hopCount, p2 := s.upPort.getD 0xFF
      p3 := unsigned 32 (satInt32 s.plumb.offset) }
    if new = 2 ∧ 3 < s.hopCount ∧ !s.plumbRoot then s.event { blk := .plumb, num := 3 } else s

/-- Use an entry: the hop count is its partner's plus one (R36). -/
def State.useUp (s : State) (i : Nat) : State := s.updPlumb fun x => { x with use := some i, hop := (x.ups.get {} i).hop + 1 }

/-- The entry in use may have stopped being usable: the follower moves to the first usable one, goes to holdover where a locked
one's fell silent, or is unlocked (R36, Table 2.1). -/
def State.reselect (s : State) (silent : Bool) : State :=
  if s.plumbRoot then s else
  match s.firstUp with
  | some i => if s.plumb.st = 1 ∨ s.plumb.st = 2 then s.useUp i else s
  | none =>
    if s.plumb.st = 2 then (if silent then s.alignTo 3 else s.alignTo 0)
    else if s.plumb.st = 1 then s.alignTo 0
    else s

/-- The counter steps (R38): every outstanding mark is cancelled. The fraction of a count is cleared, the next mark of each
entry may go at once, and its count of unanswered marks starts again: the spec says none of these (DESIGN CHOICE, log entry
94). -/
def State.stepTo (s : State) (v : Nat) : State :=
  s.updPlumb fun x => { x with
    now := v % 2 ^ 64, frac := 0, ups := x.ups.map fun u => (u.1, { u.2 with out := none, sentAt := none }) }

/-- The slew limit in units of 2^-32 counts per count. -/
def State.slewMax (s : State) : Int := (2 ^ 32 * s.fld 0x1048 23 16 / 1000000 : Nat)

/-- A value held within a limit on both sides. -/
def clampInt (m v : Int) : Int := if v < -m then -m else if m < v then m else v

/-- The rate correction and the learned rate after an answer (R38): offset / 65,536 is offset × 2^16 of their units, and
offset / (16 × 65,536) offset × 2^12. -/
def State.slew (s : State) (off : Int) : State :=
  s.updPlumb fun x => { x with c := clampInt s.slewMax (x.f + 2 ^ 16 * off), f := clampInt s.slewMax (x.f + 2 ^ 12 * off) }

/-- An answer on the entry in use gives an offset (R38, Table 2.1). -/
def State.align (s : State) (off : Int) : State :=
  let a := off.natAbs
  if s.plumb.st = 0 then (s.stepTo (unsigned 64 ((s.plumb.now : Int) + off))).alignTo 1
  else
    let s := s.updPlumb fun x => { x with good := if a ≤ 25 then x.good + 1 else 0 }
    let new :=
      if s.plumb.st = 3 then (if a ≤ 25 then 2 else if a ≤ 1000 then 1 else 0)
      else if s.plumb.st = 2 then (if 1000 < a then 0 else 2)
      else if 4 ≤ s.plumb.good then 2 else 1
    let s := s.alignTo new
    if new = 0 then s else s.slew off

/-! ## Marks (R37, 09 R253) -/

/-- The payload of a mark (09 Table 9.6). -/
def State.markBody (s : State) (seq : Nat) : List Byte :=
  beBytes 2 s.devNum ++ beBytes 1 s.hopCount ++ beBytes 1 s.alignSt ++ beBytes 4 seq ++ zeros 24

/-- Send a mark on an entry: on a switched hop to the addresses of the neighbour table, else directly. A MAC address that the
table does not hold is a free value (log entry 31). -/
def State.sendMark (s : State) (q dev i seq : Nat) : State :=
  let (s, nb) := s.neighbour dev
  let (s, mac) := match nb with
    | some e => (s, e.mac)
    | none => let (v, t) := s.free
              (t, v.toNat % 2 ^ 48)
  let (encap, ip) := match nb with
    | some e => if e.ip = 0 then (2, 0) else (b2n e.ipv6, e.ip)
    | none => (2, 0)
  (s.queuePkt q 0 7 0 none dev mac 0x20 {
    encap, dstIp := ip, udpPort := s.fld (pslReg 0x040) 15 0, pkey := 0xFFFF, dstConn := 0xFFFFFF, flags := flFirst + flLast
    payload := s.markBody seq } (some i)).1

/-- PLUMB_MARK_SEND (R37): every 65,536 counts on each valid entry; the mark before it, if unanswered, counts. -/
def execPlumbMarkSend (i : Nat) (s : State) : Res :=
  match s.upstream i with
  | none => .fault .notDue
  | some (q, dev) =>
    let u := s.up i
    due (!s.plumbRoot && (match u.sentAt with
      | some t => decide (t + 65536 ≤ s.plumb.now)
      | none => true)) <|
      let seq := (u.nextSeq + 1) % 2 ^ 32
      (s.updUp i fun u => { u with
        out := some (seq, s.plumb.now), nextSeq := seq, sentAt := some s.plumb.now
        unanswered := if u.out.isSome then u.unanswered + 1 else 0 }).sendMark q dev i seq

/-- PLUMB_ENTRY_SILENT (R36): 8 marks in a row went unanswered. -/
def execPlumbEntrySilent (i : Nat) (s : State) : Res :=
  let u := s.up i
  let late := match u.sentAt with
    | some t => u.out.isSome && decide (t + 65536 ≤ s.plumb.now)
    | none => false
  due ((s.upstream i).isSome && !s.plumbRoot && !u.silent && decide (8 ≤ u.unanswered + b2n late))
    ((s.updUp i ({ · with silent := true })).reselect (s.plumb.use == some i))

/-- A mark that finds every place taken is dropped and counted; its event follows at the end of the tick (R37, log entry 32). -/
def State.dropMark (s : State) (q dev : Nat) : State :=
  (s.inc (pslReg 0x0B8)).updPlumb fun x => { x with
    dropCount := x.dropCount + 1, dropFirst := if x.dropFirst.isSome then x.dropFirst else some (dev, q) }

/-- A mark is answered to where it came from (R253): t2 is now, t3 is written as the answer leaves. -/
def State.answerMark (s : State) (p : Pkt) (dev : Nat) : State :=
  (s.queuePkt p.port 0 7 0 none dev p.srcMac 0x21 {
    encap := p.encap, dstIp := p.srcIp, udpPort := s.fld (pslReg 0x040) 15 0, pkey := 0xFFFF, dstConn := 0xFFFFFF
    flags := flFirst + flLast
    payload := beBytes 8 s.plumb.now ++ zeros 8 ++ beBytes 2 s.devNum ++ beBytes 1 s.hopCount ++ beBytes 1 s.alignSt
      ++ slice p.payload 4 4 ++ zeros 8 } none).1

/-- PLUMB_MARK: a partner is a port and a sender, of at most 1,024. -/
def execPlumbMark (p : Pkt) (s : State) : Res :=
  due (s.glb.service != 0) <|
    if !s.isPhisal p then s.coreDeliver p.port 0 (Pkt.asFrame 0x20 p)
    else match s.arrival 0x20 p with
      | (s, none) => s
      | (s, some p) =>
        let dev := beNat (slice p.payload 0 2) % 0x4000
        let known := s.plumb.partners.any fun y => y.port == p.port && y.dev == dev
        if !known && decide (1024 ≤ s.plumb.partners.length) then s.dropMark p.port dev
        else (s.updPlumb fun x => { x with
          partners := (x.partners.filter fun y => !(y.port == p.port && y.dev == dev)) ++ [{ port := p.port, dev, last := x.now }] }).answerMark
            p dev

/-- PLUMB_PARTNER_EXPIRE: no mark for 8 × 65,536 counts. -/
def execPlumbPartnerExpire (port dev : Nat) (s : State) : Res :=
  due (s.plumb.partners.any fun y => y.port == port && y.dev == dev && decide (y.last + 8 * 65536 ≤ s.plumb.now))
    (s.updPlumb fun x => { x with partners := x.partners.filter fun y => !(y.port == port && y.dev == dev) })

/-- The entry on which an answer is used (R37): its port, its partner, and the number of its outstanding mark. -/
def State.answerEntry (s : State) (p : Pkt) : Option Nat :=
  if s.plumbRoot then none else
    firstIdx 4 fun i => s.upstream i == some (p.port, beNat (slice p.payload 16 2) % 0x4000)
      && ((s.up i).out.map Prod.fst) == some (beNat (slice p.payload 20 4))

/-- An answer that is used: what it reports, and on the entry that the follower then uses the offset (R36 to R39). R37 and R38
speak of each answer that is used, and R36 of one entry that a follower uses: an answer on another entry gives no offset, no
slew and no new PLUMB_OFFSET (DESIGN CHOICE, log entry 95). -/
def State.takeAnswer (s : State) (p : Pkt) (i : Nat) : State :=
  let t1 : Int := (((s.up i).out.map Prod.snd).getD 0 : Nat)
  let t2 : Int := (beNat (slice p.payload 0 8) : Nat)
  let t3 : Int := (beNat (slice p.payload 8 8) : Nat)
  let t4 : Int := (s.plumb.now : Nat)
  let hop := beNat (slice p.payload 18 1)
  let s := s.updUp i fun u => { u with
    out := none, unanswered := 0, silent := false, hop, lastGood := beNat (slice p.payload 19 1) % 4 == 2 && decide (hop < 15) }
  let s := s.reselect false
  if s.firstUp ≠ some i then s else
    let off := signed 64 (unsigned 64 ((t2 - t1) - (t4 - t3))) / 2
    ((s.useUp i).updPlumb fun x => { x with offset := off }).align off

/-- PLUMB_ANSWER: one that no entry awaits is dropped and counted. -/
def execPlumbAnswer (p : Pkt) (s : State) : Res :=
  due (s.glb.service != 0) <|
    if !s.isPhisal p then s.coreDeliver p.port 0 (Pkt.asFrame 0x21 p)
    else match s.arrival 0x21 p with
      | (s, none) => s
      | (s, some p) => match s.answerEntry p with
        | none => s.inc (pslReg 0x0B8)
        | some i => s.takeAnswer p i

/-- HOLDOVER_EVENT: 1 s in holdover (Table 2.1). -/
def execHoldoverEvent (s : State) : Res :=
  match s.plumb.holdAt with
  | some t =>
    due (s.alignSt == 3 && decide (t + 1000000000 ≤ s.plumb.now))
      ((s.updPlumb ({ · with holdAt := none })).event { blk := .plumb, num := 2 })
  | none => .fault .notDue

end Sys2Proof.Machine
end

