-- ==== Sys2Proof/Machine/Attn.lean ====
section
/-! DEFINITION. Machine/Attn.lean: ATTN.BLOCK, block-sparse attention (05 R154 to R159). -/

namespace Sys2Proof.Machine

/-- Blocks selected per head, log2 of the block length, and the scale (Table 4.15). -/
def attnImm (f : Fields) : Nat × Nat × Nat := (f.imm.toNat % 256, bits f.imm.toNat 11 8, f.imm.toNat / 2 ^ 32)

/-- Bytes of a block record (R155). -/
def attnRecord (a c : Td) : Nat := 2 * c.n1 * c.n0 * a.fmt.bits / 8

/-- ATTN.BLOCK in the opcode table (Table 5.8). The cost sums the parts that Table 4.14 names (log entry 17). -/
def attnIns : Ins :=
  { op := 0x86, d := .td, a := .td, b := .td, c := .td, imm := 0xFFF + (2 ^ 32 - 1) * 2 ^ 32, fl := .both
    rnd := true, enc := fun _ f => let m := attnImm f
                      decide (f.c < 63) && decide (1 ≤ m.1) && decide (m.1 ≤ 64) && decide (6 ≤ m.2.1) && decide (m.2.1 ≤ 12)
    uses := fun _ f =>
      [{ i := f.a }, { i := f.b }, { i := f.c, any := true }, { i := f.c + 1, dst := true }, { i := f.d, dst := true }]
    shape := fun s k f =>
      let a := s.opTd k f.a
      let b := s.opTd k f.b
      let c := s.opTd k f.c
      let g := s.opTd k (f.c + 1)
      let d := s.opTd k f.d
      let m := attnImm f
      if ! [2, 3, 6].contains a.fcode || a.scaled || ! [0, 1, 2, 3, 6].contains b.fcode || b.scaled || c.fcode != a.fcode || c.scaled
          || g.fcode != 9 || d.fcode != 7 then 4
      else if a.rank ≠ 3 ∨ b.rank ≠ 3 ∨ c.rank ≠ 4 ∨ d.rank ≠ 3 ∨ a.n0 % 32 ≠ 0 ∨ a.n0 < 64 ∨ 256 < a.n0 ∨ 64 < a.n1 ∨ 16 < a.n2
          ∨ b.n0 ≠ a.n0 ∨ 65536 < b.n1 ∨ b.n2 ≠ a.n2 ∨ c.n0 ≠ a.n0 ∨ c.n1 ≠ 2 ^ m.2.1 ∨ c.n2 ≠ b.n1 ∨ c.n3 ≠ a.n2
          ∨ g.count < min m.1 b.n1 * attnRecord a c ∨ d.n0 ≠ a.n0 + 16 ∨ d.n1 ≠ a.n1 ∨ d.n2 ≠ a.n2 then 5 else 0
    cost := fun s k f =>
      let a := s.opTd k f.a
      let b := s.opTd k f.b
      let c := s.opTd k f.c
      let n := min (attnImm f).1 b.n1
      let t := n * c.n1
      a.n2 * (ceilDiv b.n1 64 * ceilDiv a.n0 (kStep a b) + ceilDiv b.n1 256 * ceilDiv n 8 + ceilDiv (n * attnRecord a c) 1024
        + ceilDiv t 64 * ceilDiv a.n0 (kStep a c) + ceilDiv a.n0 64 * ceilDiv t 16) }

/-- The FP32 dot product of two rows on the matrix unit: groups of 32 in ascending order (03 R71). -/
def dot (x y : List Num) : Nat × Sticky :=
  (List.range (ceilDiv x.length 32)).foldl (fun acc j =>
    let (z, st) := accUpdate acc.1 (groupSum x y [] [] j)
    (z, acc.2.or st)) (0, {})

/-- The selected blocks of a head: the best by their scores, in ascending order (R156). -/
def attnBlocks (qs sums : List (List Num)) (n : Nat) : List Nat × Sticky :=
  let sel := sums.map fun row => qs.foldl (fun (acc : Option Num × Sticky) q =>
    let (z, st) := dot q row
    let v := Fmt.fp32.decode z
    (some (match acc.1 with | some m => m.max2 v | none => v), acc.2.or st)) (none, {})
  let best := topk (sel.map fun x => x.1.getD .nan) n
  (best.foldl (fun l j => insNat j l) [], sel.foldl (fun st x => st.or x.2) {})

/-- One partial row (R156, R157, Table 5.9): `ks` are the gathered keys with whether each is masked, `vs` the values by
token; `tz` is the mode by which p is rounded to BF16 (04 R91). -/
def attnRow (q : List Num) (ks : List (List Num × Bool)) (vs : List (List Num)) (scale n : Nat) (tz : Bool) : List Nat × Sticky :=
  let d := q.length
  let xs := ks.map fun k =>
    let (z, st) := dot q k.1
    let (x, st') := Fmt.fp32.round false ((Fmt.fp32.decode scale).mul (Fmt.fp32.decode z))
    let v := Fmt.fp32.decode x
    let out := gone v
    (v, out, if out then ({ nv := !k.2 } : Sticky) else st.or st')
  let kept := (xs.filter fun x => !x.2.1).map (·.1)
  let st0 := xs.foldl (fun st x => st.or x.2.2) ({} : Sticky)
  match kept with
  | [] => (List.replicate d 0 ++ [0xFF800000, 0, 0, n] ++ List.replicate 12 0, st0)
  | x0 :: rest =>
    let m := rest.foldl Num.max2 x0
    let ps := xs.map fun x => if x.2.1 then (0, ({} : Sticky)) else
      let y := Fmt.fp32.round false ((x.1.add m.neg).mul (Fmt.fp32.decode 0x3FB8AA3B))
      let e := vFn 0 y.1
      let b := Fmt.bf16.round tz (Fmt.fp32.decode e.1)
      (b.1, (y.2.or e.2).or b.2)
    let sum (p q : Nat × Sticky) : Nat × Sticky :=
      let r := vecBin 0 .fp32 false p.1 q.1
      (r.1, (p.2.or q.2).or r.2)
    let l := reduceTree sum (0, {}) (ps.map fun p => (65536 * p.1, p.2))
    let pv := ps.map fun p => Fmt.bf16.decode p.1
    let zero : Num := .fin false 0 0
    let o := (List.range d).map fun i =>
      dot pv ((vs.zip xs).map fun x => if x.2.2.1 then zero else x.1.getD i zero)
    (o.map Prod.fst ++ [fp32 m, l.1, kept.length % 2 ^ 32, n] ++ List.replicate 12 0, o.foldl (fun st x => st.or x.2) (st0.or l.2))
where
  /-- Is a score excluded: NaN or +∞? -/
  gone (v : Num) : Bool := match v with
    | .nan => true
    | .inf false => true
    | _ => false

/-- Write gathered bytes into the gather buffer. Where the last record, at byte `last`, is lost to an error, what lies before the loss
is written, and the lost line poisoned (07 Table 7.3). -/
def Run.gather (r : Run) (g : Td) (all : List (Option Byte)) (last : Nat) : Run :=
  let put (r : Run) (o : Nat) (d : List (Option Byte)) : Run :=
    ((cutPieces (r.c.pieces g) o d.length).foldl (fun (acc : Run × List (Option Byte)) x =>
      (acc.1.write 0 x.1 (acc.2.take x.2) false, acc.2.drop x.2)) (r, d)).1
  match r.stopped, r.cut with
  | true, some (o, m) =>
    let r := { (put { r with poison := false } 0 (all.take (last + o))) with poison := true }
    put r (last + o) ((all.drop (last + o)).take m)
  | _, _ => put r 0 all

/-- One head: score, gather, compute and write its rows. After an error nothing more is done. -/
def attnHead (f : Fields) (qs sums : List (List (List Num))) (badQ : Bool) (r : Run) (h : Nat) : Run :=
  if r.err.isSome then r else
    let a := r.c.tdAt f.a
    let c := r.c.tdAt f.c
    let g := r.c.tdAt (f.c + 1)
    let d := r.c.tdAt f.d
    let (nsel, _, scale) := attnImm f
    let n := min nsel c.n2
    let (blocks, st) := attnBlocks (qs.getD h []) (sums.getD h []) n
    let size := attnRecord a c
    let (r, recs) := ({ r with poison := false }).rowsOf blocks.length fun r i =>
      if r.stopped then (r, []) else r.read c.space (c.base + h * c.s3 + blocks.getD i 0 * c.s2) size
    let bad := r.poison
    let r := r.gather g recs.flatten (((recs.filter (!·.isEmpty)).length - 1) * size)
    if r.err.isSome then { r with poison := bad || badQ } else
      let w := a.fmt.bits
      let el := c.n0 * w / 8
      let ks := recs.flatMap fun b => (List.range c.n1).map fun t =>
        let cs := unpack w c.n0 ((slice (b.map (·.getD 0)) (t * el) el))
        (cs.map a.fmt.decode, cs.headD 0 == a.fmt.nanCode)
      let vs := recs.flatMap fun b =>
        let rows := (List.range c.n0).map fun i =>
          (unpack w c.n1 (slice (b.map (·.getD 0)) (c.n1 * el + i * (c.n1 * w / 8)) (c.n1 * w / 8))).map a.fmt.decode
        (List.range c.n1).map fun t => rows.map fun row => row.getD t .nan
      let r := { r.flag st with poison := bad || badQ }
      (((qs.getD h []).zipIdx).foldl (fun (r : Run) x =>
        let (row, st) := attnRow x.1 ks vs scale n r.tz
        (r.flag st).putRow d (h * d.n1 + x.2) ((packCodes 32 row).map some)) r)

/-- ATTN.BLOCK (R156). -/
def attnRun (f : Fields) (r : Run) : Run :=
  let a := r.c.tdAt f.a
  let b := r.c.tdAt f.b
  let (r, q) := r.rowsOf a.rows fun r i => let (r, cs) := r.codes a i; (r, cs.map a.fmt.decode)
  let (r, m) := r.rowsOf b.rows fun r i => let (r, cs) := r.codes b i; (r, cs.map b.fmt.decode)
  let heads (n : Nat) (l : List (List Num)) : List (List (List Num)) := (List.range a.n2).map fun h => (l.drop (h * n)).take n
  let badQ := r.poison
  let r := ((List.range a.n2).foldl (fun (acc : Run × Bool) h =>
    let r := attnHead f (heads a.n1 q) (heads b.n1 m) badQ acc.1 h
    (r, acc.2 || r.poison)) (r, badQ))
  ({ r.1 with poison := r.2 }).clearSrcs attnIns

/-- ATTN.BLOCK issued on a context. -/
def execAttnBlock (e x : Nat) (f : Fields) (s : State) : Res :=
  issue attnIns e x f s (attnRun f)

end Sys2Proof.Machine
end

