-- ==== Sys2Proof/Machine/Blackbox.lean ====
section
/-! DEFINITION. Machine/Blackbox.lean: freezing the event ring, flushing it to the black box, and the audit ring in MRAM
(15 R402 to R408). -/

namespace Sys2Proof.Machine

/-- Change the records. -/
def State.updRecs (s : State) (g : Recs → Recs) : State := { s with recs := g s.recs }

/-! ## Freezing (R403) -/

/-- A freeze begins, with the limit now set. -/
def State.freeze (s : State) : State :=
  if s.recs.frozen then s else s.updRecs fun r => { r with
    frozen := true, freezeTick := s.ticks, freezeLim := 2 ^ s.fld 0x6040 12 8, freezeCount := 0, freezeFirst := none }

/-- A freeze ends. -/
def State.unfreeze (s : State) : State := s.updRecs ({ · with frozen := false })

/-- FREEZE_LIMIT: the freeze has lasted 2^freeze_max_log2 ticks. -/
def execFreezeLimit (s : State) : Res :=
  let r := s.recs
  due (r.frozen && decide (r.freezeTick + r.freezeLim ≤ s.ticks))
    (let old := s.reg 0x6040
     let s := s.unfreeze.setReg 0x6040 (old / 2 * 2)
     (s.audit { org := .island, kind := 0, sec := true, addr := 0x6040, old, new := old / 2 * 2 }).event {
       blk := .evr, num := 1, p0 := r.freezeCount })

/-! ## Flushing (R404 to R406) -/

/-- Records `a` to `b` - 1 of the ring, oldest first. -/
def Recs.between (r : Recs) (a b : Nat) : List EvRec :=
  (List.range (b - a)).filterMap fun i => r.ring.get none ((a + i) % 65536)

/-- The records of a first-failure area, newest first: the fault record and the 4,095 before it that the ring holds, or after a
power-fail warning the newest 4,096. -/
def Recs.firstFailure (r : Recs) : List EvRec :=
  let last := match r.flushFault with
    | some n => n + 1
    | none => r.prod
  (r.between (max (last - 4096) (r.prod - 65536)) last).reverse

/-- Groups of 8 records that are tagged, and blocks of 16 bytes that this takes. -/
def groups (n : Nat) : Nat := (n + 7) / 8

/-- A power-fail flush has time for 281 groups (Table 15.8). -/
def powerGroups : Nat := 281

/-- Records whose group has its tag: all of them, or the first `n`. -/
def tagFirst (n : Nat) (rs : List EvRec) : List (EvRec × TagState) :=
  rs.zipIdx.map fun x => (x.1, if x.2 < n then TagState.verified else TagState.invalid)

/-- The queued audit records enter the MRAM ring with their tags (R408). -/
def State.audDrain (s : State) (n : Nat) : State :=
  let q := s.recs.audQueue.take n
  if q.isEmpty then s else
    let s := (s.useKey (keyName 6 0)).inc (Blk.cmac.at 0 0x048) (3 * q.length)
    let s := s.inc (Blk.aud.at 0 0x060) q.length
    s.updRecs fun r => { r with
      audQueue := r.audQueue.drop n, audMram := ((q.reverse.map fun x => (x, TagState.verified)) ++ r.audMram).take 65536
      audMramProd := r.audMramProd + q.length }

/-- The first-failure area of this power cycle is filled, with as many groups tagged as there is time for; how many. -/
def State.fillFirst (s : State) (left : Nat) : State × Nat :=
  let r := s.recs
  if r.ffWritten || (r.flushFault.isNone && !r.flushPower) then (s, 0) else
    let rs := r.firstFailure
    let n := min left (groups rs.length)
    (s.updRecs fun r => { r with
      ffWritten := true, firstFail := ((s.glb.cycles, tagFirst (8 * n) rs) :: r.firstFail).take 8 }, n)

/-- The flush writes every unflushed record and tags it. -/
def State.flushDone (s : State) : State :=
  let power := s.recs.flushPower
  let (s, a) := s.fillFirst (if power then powerGroups else 2 ^ 32)
  let s := if power then s.audDrain 1024 else s
  let r := s.recs
  let rs := (r.between r.flushIdx (max r.flushTo r.flushIdx)).reverse
  let room := if power then powerGroups - a else 2 ^ 32
  let n := min room (groups rs.length)
  let tagged := min rs.length (8 * n)
  let lost := r.lost
  let s := (s.useKey (keyName 5 s.glb.cycles)).inc (Blk.cmac.at 0 0x048) (16 * (a + n))
  let s := (s.updRecs fun r => { r with
    flushing := false, flushFault := none, flushPower := false, flushIdx := max r.flushTo r.flushIdx, lost := 0
    rolling := (tagFirst (8 * n) rs ++ r.rolling).take 262144, rollProd := r.rollProd + rs.length
    untagged := r.untagged + (rs.length - tagged) }).inc 0x6080
  let s := s.event { blk := .evr, num := 2, p0 := rs.length, p1 := tagged }
  if lost = 0 then s else s.event { blk := .evr, num := 3, p0 := lost }

/-- FLUSH_COMPLETE. -/
def execFlushComplete (s : State) : Res := due s.recs.flushing s.flushDone

/-! ## Reading (Table 15.9) -/

/-- The record at slot `i` of an area of `cap` slots kept newest first, of which `prod` records ever entered. -/
def slotOf {α : Type} (l : List α) (cap prod i : Nat) : Option α :=
  if prod ≤ i ∨ cap ≤ i then none else l[prod - 1 - (i + cap * ((prod - 1 - i) / cap))]?

/-- The record that an area, power cycles back and index select (EVR_RD_SEL, EVR_RD_IDX). -/
def State.boxRec (s : State) (area back i : Nat) : Option (EvRec × TagState) :=
  let r := s.recs
  match area with
  | 0 => if 65536 ≤ i then none else (r.ring.get none i).map fun x => (x, TagState.untagged)
  | 1 => if s.glb.cycles < back then none else
      (r.firstFail.find? fun x => x.1 == s.glb.cycles - back).bind fun x => x.2[i]?
  | 2 => slotOf r.rolling 262144 r.rollProd i
  | _ => slotOf r.health 16384 r.healthProd i

/-- EVR_RD_STAT. -/
def boxStat : Option (EvRec × TagState) → Nat
  | none => 4
  | some (_, .verified) => 1
  | some (_, .untagged) => 2
  | some (_, .invalid) => 0

/-- EVR_RD_DATA: 32 bytes. -/
def boxData : Option (EvRec × TagState) → List Byte
  | none => zeros 32
  | some (r, t) => r.bytes (t == .invalid)

/-- The audit record at an index of the MRAM ring. -/
def State.audRec (s : State) (i : Nat) : Option (AudRec × TagState) := slotOf s.recs.audMram 65536 s.recs.audMramProd i

end Sys2Proof.Machine
end

