-- ==== Sys2Proof/Machine/Cluster.lean ====
section
/-! DEFINITION. Machine/Cluster.lean: the application cores' directory, offlining and neighbour cache (14 R365 to R375). -/

namespace Sys2Proof.Machine

/-- Change the core cluster. -/
def State.updCores (s : State) (g : Cores → Cores) : State := { s with cores := g s.cores }

/-- The home slice of a line, bits [9:6] of its address; lines are numbered by address / 64 (R365). -/
def homeSlice (line : Nat) : Nat := line % 16

/-- The requesters of one cycle in the order in which they get the line: rotating from the slice's pointer (R368). -/
def ownOrder (ptr : Nat) (reqs : List Nat) : List Nat :=
  ((List.range 16).map fun i => (ptr + i) % 16).filter reqs.contains

/-- The requesters get the line in their order, and the last one keeps it modified (R368). Only a conflict moves the pointer. -/
def State.ownLine (s : State) (line : Nat) (ord : List Nat) : State :=
  let s := if 1 < ord.length then
      (s.inc (Blk.core.at 0 0x058)).updCores fun c => { c with ptr := c.ptr.set 0 (homeSlice line) ((ord.headD 0 + 1) % 16) }
    else s
  s.updCores fun c => { c with dir := c.dir.set {} line { modified := true, sharers := 1#16 <<< ord.getLastD 0 } }

/-- The line leaves every cache. -/
def State.dropLine (s : State) (line : Nat) : State := s.updCores fun c => { c with dir := c.dir.set {} line {} }

/-- An uncorrectable word of the L2 or the L3 is counted and raises CORE event 0x02 (R369; 17 Table 17.11). -/
def State.cacheUe (s : State) : State := (s.inc (Blk.core.at 0 0x068)).event { blk := .core, num := 2 }

/-- The access meets an error of the L2 or the L3 (R369): the state, and whether the line can then be had. A clean line is refetched
from HBM, and is in no cache where that read fails; a modified one is written to HBM poisoned. -/
def State.cacheErr (s : State) (line : Nat) (err : CacheErr) : State × Bool :=
  let a := s.infraBase + 64 * line
  match err with
  | .none => (s, true)
  | .corrected => (s.inc (Blk.core.at 0 0x060), true)
  | .clean =>
    let (s, d) := (s.cacheUe.dropLine line).memRead 3 a 64
    (s, d.kind == 0)
  | .modified data => (((s.cacheUe.dropLine line).writePiece 3 (a / 256 * 256) (a % 256) data true none).1, false)

/-- May an error of this kind lie in the line as the directory has it? A line that no core has modified may lie clean in a cache, since
the reads of the cores are no commands (DESIGN CHOICE, log entry 73). -/
def DirEnt.mayErr (e : DirEnt) (err : CacheErr) : Bool :=
  match err with
  | .none | .corrected => true
  | .clean => !e.modified
  | .modified data => e.modified && data.length == 64

/-- OWNERSHIP_REQUEST (R368, R369): each requester holds the line modified until its access is done. Where the line is lost, the cores
that ask take the load access fault of 07 Table 7.3. -/
def execOwnershipRequest (line : Nat) (reqs : List Nat) (err : CacheErr) (s : State) : Res :=
  let ord := ownOrder (s.cores.ptr.get 0 (homeSlice line)) reqs
  let (t, ok) := s.cacheErr line err
  dueMem s (!reqs.isEmpty && reqs.all (fun n => decide (n < 16) && s.coreOnline n) && (s.cores.dir.get {} line).mayErr err)
    (if ok then t.ownLine line ord else t)

/-- CORE_OFFLINE (R370): the core's modified lines are written back into the L3 and its directory entries are cleared. -/
def execCoreOffline (n : Nat) (s : State) : Res :=
  due (decide (n < 16) && bitAt (s.reg (Blk.core.at 0 0x040)) n && !s.cores.offline.getLsbD n)
    ((s.updCores fun c => { c with
        offline := c.offline ||| (1#16 <<< n)
        dir := c.dir.filterMap fun (x : Nat × DirEnt) =>
          let e : DirEnt := { x.2 with sharers := x.2.sharers &&& ~~~(1#16 <<< n) }
          if e = {} then none else some (x.1, e) }).event { blk := .core, num := 1 })

/-- Cores whose offline bit is clear again are online from the boundary (R370). -/
def State.coresOnline (s : State) : State :=
  (List.range 16).foldl (fun s n =>
    if s.cores.offline.getLsbD n && !bitAt (s.reg (Blk.core.at 0 0x040)) n then
      (s.updCores fun c => { c with offline := c.offline &&& ~~~(1#16 <<< n) }).event { blk := .core, num := 1 }
    else s) s

/-- NB_SWEEP_VISIT (R375): the sweep and the aging of R228, under CORE_CTRL.nb_sweep_log2 and nb_age. -/
def execNbSweepVisit (set : Nat) (s : State) : Res :=
  let amax := s.fld (Blk.core.at 0 0x040) 22 20
  let period := 2 ^ s.fld (Blk.core.at 0 0x040) 19 16
  due (decide (set < 256) && set == s.cores.nbSweep && decide (256 * s.cores.nbFrom + set * period ≤ 256 * s.ticks))
    (let s := s.updCores fun c => { c with
       nbSweep := (set + 1) % 256, nbFrom := if set = 255 then c.nbFrom + period else c.nbFrom }
     if amax = 0 then s else
       (List.range 4).foldl (fun s i => match s.cores.nb.get none (4 * set + i) with
         | none => s
         | some e => s.updCores fun c => { c with
             nb := c.nb.set none (4 * set + i) (if amax ≤ e.age then none else some { e with age := e.age + 1 }) }) s)

/-- CORE_NB_INV (R375): one entry goes. -/
def State.nbDrop (s : State) (dev : Nat) : State :=
  s.updCores fun c => { c with nb := c.nb.filter fun (x : Nat × Option NbEnt) => (x.2.map (·.dev)) != some dev }

/-- Is a post count at most a ring ahead of the done count (R374)? -/
def State.postOk (s : State) (ring v : Nat) : Bool :=
  decide ((v + 2 ^ 32 - s.reg (ring + 0x10)) % 2 ^ 32 ≤ 2 ^ s.fld (ring + 8) 4 0)

/-- CORE_STAT (Table 14.9). -/
def State.coreStat (s : State) : Nat :=
  (if s.cores.running then (~~~s.cores.offline).toNat else 0)
  + 65536 * ((s.hlth.tests.filter (·.1 == 3)).foldl (fun a x => a ||| 2 ^ (x.2.1 % 16)) 0)

end Sys2Proof.Machine
end

