-- ==== Sys2Proof/Machine/Queue.lean ====
section
/-! DEFINITION. Machine/Queue.lean: functions, work queues and event queues: fetching, the issue arbiter, completions, masking
and resets (12 R322 to R329; 13 R343 to R350, R353 to R363). -/

namespace Sys2Proof.Machine

/-- A work queue. -/
def State.wq (s : State) (q : Nat) : Wq := s.wqs.get {} q

/-- Change a work queue. -/
def State.updWq (s : State) (q : Nat) (g : Wq → Wq) : State := { s with wqs := s.wqs.upd {} q g }

/-- A function. -/
def State.fn (s : State) (f : Nat) : Fn := s.fns.get {} f

/-- Change a function. -/
def State.updFn (s : State) (f : Nat) (g : Fn → Fn) : State := { s with fns := s.fns.upd {} f g }

/-- Change an event queue. -/
def State.updEvq (s : State) (q : Nat) (g : Evq → Evq) : State := { s with evqs := s.evqs.upd {} q g }

/-! ## Descriptors (Tables 13.4 to 13.7) -/

/-- A work entry as fetched. -/
def descOf (d : List Byte) : Desc := {
  ctl := leAt d 0 1, op := leAt d 1 1, rsv := leAt d 2 2, cookie := leAt d 4 4, o8 := leAt d 8 8, o16 := leAt d 16 8
  o24 := leAt d 24 8, o32 := leAt d 32 4, o36 := leAt d 36 4, o40 := leAt d 40 4, rest := leAt d 44 20 }

/-- Is the fence bit set? -/
def Desc.fence (d : Desc) : Bool := bitAt d.ctl 1

/-- A length from 1 to 2^32. -/
def lenOk (n : Nat) : Bool := decide (1 ≤ n) && decide (n ≤ 2 ^ 32)

/-- Is an entry well formed (R359)? -/
def Desc.ok (d : Desc) : Bool :=
  bitAt d.ctl 0 && decide (d.ctl < 16) && d.rsv == 0 && d.rest == 0 &&
  (match d.op with
    | 0x01 => d.o8 == 0 && d.o16 == 0 && d.o24 == 0 && d.o32 == 0 && d.o36 == 0 && d.o40 == 0
    | 0x02 => decide (d.o32 < 256) && decide (d.o32 % 16 ≤ 5) && decide (d.o32 / 16 ≤ 5) && lenOk d.o24 && d.o36 == 0 && d.o40 == 0
    | 0x03 => decide (d.o32 ≤ 5) && lenOk d.o24 && decide (d.o36 < 2 ^ 24)
    | 0x04 => d.o32 % 16 == 0 && decide (d.o32 / 16 ≤ 5) && lenOk d.o24 && decide (d.o36 < 2 ^ 24)
    | 0x05 => d.o8 == 0 && d.o16 == 0 && d.o24 == 0 && d.o32 == 0 && d.o40 == 0 && decide (d.o36 < 2 ^ 24)
    | 0x06 => launchFormOk d.o16 d.o32 && d.o36 == 0 && d.o40 == 0
    | n => decide (0x20 ≤ n) && decide (n ≤ 0x23) && d.o16 == 0 && d.o24 == 0 && d.o32 == 0 && d.o36 == 0 && d.o40 == 0)

/-- Does a descriptor use a privileged opcode or space (Tables 13.5, 13.7)? -/
def Desc.privileged (d : Desc) : Bool :=
  decide (0x20 ≤ d.op) || (decide (2 ≤ d.op) && decide (d.op ≤ 4) && (decide (2 ≤ d.o32 % 16) || decide (2 ≤ d.o32 / 16)))

/-- Descriptors issued and not completed. -/
def Wq.issued (w : Wq) : List Job := w.jobs.filter fun j => j.stage != 0

/-- Descriptors fetched and not issued. -/
def Wq.fetched (w : Wq) : List Job := w.jobs.filter fun j => j.stage == 0

/-- Is there a completion entry to reserve (R349)? -/
def Wq.room (w : Wq) : Bool := decide ((w.cqProd + 2 ^ 32 - w.cqCons) % 2 ^ 32 + w.issued.length < 2 ^ w.cfg.cqLog)

/-! ## Function states (R360) -/

/-- FN_f_STAT (Table 13.15). -/
def State.fnStat (s : State) (f : Nat) : Nat :=
  let x := s.fn f
  x.st + 4 * x.reason + 16 * b2n x.bound + 2 ^ 15 * (s.wqs.filter fun w => w.2.st == 1 && w.2.cfg.owner == f).length

/-- A function changes state: audit record, event, and a kind 0x05 record to PF0 and to the function (R360). -/
def State.setFn (s : State) (f st reason flushed : Nat) : State :=
  let old := s.fnStat f
  let s := s.updFn f ({ · with st, reason })
  let s := s.auditDev (Blk.fn.at (f / 128) (0x800 + 16 * (f % 128))) old (s.fnStat f) true
  let s := s.event { blk := .fn, inst := f / 128, num := 1, fn := f }
  let r : EvqRec := { kind := 5, src := 7 * 2 ^ 24 + f, p0 := f + 512 * st + 2048 * reason, p1 := flushed }
  let s := s.notify 0 r
  if f = 0 then s else s.notify f r

/-- The contexts that a function owns. -/
def State.ctxsOf (s : State) (f : Nat) : List Nat := (List.range 192).filter fun k => s.owner k == f

/-- What masking does to the silent-error checks of a context: a pending Stipple comparison is discarded without a verdict, and a
Scrim re-run that is pending is abandoned (01 Table 1.10 entries S, P). -/
def State.maskChecks (s : State) (k : Nat) : State :=
  (match s.checkOf k with
   | some c => s.abandonCheck c 2
   | none => s).dropRerun k

/-- What masking stops (R361; 01 Table 1.10 H, P, S): contexts are held at the next boundary, collective instances end, and
the groups that the function feeds end. -/
def State.quiesce (s : State) (f : Nat) : State :=
  let s := s.maskInstances f
  let s := (s.ctxsOf f).foldl (fun s k => (s.holdCtx k).maskChecks k) s
  (List.range 4).foldl (fun s r => if (s.rep r).live && s.rpOwner r == f then s.updRep r ({ · with stopAt := true }) else s) s

/-- A function is masked with a reason (R361). -/
def State.maskFn (s : State) (f reason : Nat) : State := (s.setFn f 2 reason 0).quiesce f

/-! ## The issue arbiter (12 R322 to R325) -/

/-- The class at which a queue is served: 8 for a privileged ring; at most its function's class_max (R327). -/
def State.qClass (s : State) (w : Wq) : Nat :=
  if w.cfg.priv then 8 else min w.cfg.cls (s.fld (Blk.arb.at (w.cfg.owner / 128) (0x800 + 16 * (w.cfg.owner % 128))) 26 24)

/-- Is a queue eligible (R324, R348, R349)? Its next descriptor must have been fetched (DEDUCED, log entry 22). -/
def State.qElig (s : State) (w : Wq) : Bool :=
  w.st == 1 && (s.fn w.cfg.owner).st == 1 && (s.glb.service == 1 || s.glb.service == 2) && w.room
  && (!w.cfg.shaped || s.shpOk w.cfg.shaper) && s.shpOk (4096 + w.cfg.owner)
  && (match w.fetched with
    | [] => false
    | j :: _ => !j.d.fence || w.issued.isEmpty)

/-- Change the arbiter. -/
def State.updArb (s : State) (g : Arb → Arb) : State := { s with arb := g s.arb }

/-- A child enters or leaves an arbiter with virtual time `v` (R323). -/
def ArbKid.enter (k : ArbKid) (ok : Bool) (v age : Nat) : ArbKid :=
  if ok && !k.elig then { tag := max k.tag v, age, elig := true } else { k with elig := ok }

/-- The queues of a class and function that are eligible. -/
def State.eligQueues (s : State) (c f : Nat) : List Nat :=
  (s.wqs.filter fun x => x.2.cfg.owner == f && s.qElig x.2 && s.qClass x.2 == c).map Prod.fst

/-- Eligibility of every queue and function is brought up to date (R323, R324). A queue that changes class keeps its age
(R327). -/
def State.arbEnter (s : State) : State :=
  let s := s.wqs.foldl (fun s x =>
    let c := s.qClass x.2
    let ok := s.qElig x.2
    let was := (List.range 9).find? fun d => d != c && (s.arb.qs.get {} (16 * x.1 + d)).elig
    let age := match was with
      | some d => (s.arb.qs.get {} (16 * x.1 + d)).age
      | none => s.plumb.now
    let s := match was with
      | some d => s.updArb fun a => { a with qs := a.qs.upd {} (16 * x.1 + d) ({ · with elig := false }) }
      | none => s
    s.updArb fun a => { a with
      qs := a.qs.upd {} (16 * x.1 + c) fun k => k.enter ok (a.qV.get 0 (512 * c + x.2.cfg.owner)) age }) s
  let owners := (s.wqs.map fun x => x.2.cfg.owner).eraseDups
  (List.range 9).foldl (fun s c => owners.foldl (fun s f =>
    let ok := !(s.eligQueues c f).isEmpty
    s.updArb fun a => { a with fns := a.fns.upd {} (512 * c + f) fun k => k.enter ok (a.fnV.get 0 c) s.plumb.now }) s) s

/-- Bytes that a descriptor moves, and the Phisal packets that it sends, at least 1 (R329). -/
def State.descCost (s : State) (d : Desc) : Nat × Nat :=
  if d.op = 2 ∨ d.op = 4 then (d.o24, 1)
  else if d.op = 3 then (d.o24, max 1 ((d.o24 + 2 ^ (s.conn (d.o36 % 2 ^ 20)).pktLog2 - 1) / 2 ^ (s.conn (d.o36 % 2 ^ 20)).pktLog2))
  else (0, 1)

/-- The doorbell time of the oldest unissued descriptor, if any is released. -/
def Wq.headSince (w : Wq) : Option Nat :=
  let head := (w.c + 2 ^ 32 - w.fetched.length) % 2 ^ 32
  if head = w.p then none else (w.doors.find? fun x => ahead x.1 head).map Prod.snd

/-- Descriptors released and not issued (R331). -/
def Wq.depthNow (w : Wq) : Nat := (w.p + 2 ^ 32 - w.c) % 2 ^ 32 + w.fetched.length

/-- Issue the next descriptor of a queue: it is charged to its shapers (R328, R329, R348). -/
def State.issueNext (s : State) (q : Nat) : State :=
  match (s.wq q).fetched with
  | [] => s
  | j :: _ =>
    let w := s.wq q
    let (n, k) := s.descCost j.d
    let s := if w.cfg.shaped then s.shpCharge w.cfg.shaper n k else s
    let s := s.shpCharge (4096 + w.cfg.owner) n k
    let wait := (w.headSince.map fun t => s.plumb.now - t).getD 0
    s.updWq q fun w => { w with
      maxDelay := max w.maxDelay wait, doors := w.doors.filter fun x => ahead x.1 ((j.entry + 1) % 2 ^ 32)
      jobs := w.jobs.map fun y => if y.entry = j.entry ∧ y.stage = 0 then { y with stage := 1 } else y }

/-- One burst: up to `b` descriptors while the queue stays eligible; how many were issued. -/
def State.burst (q : Nat) : Nat → State → State × Nat
  | 0, s => (s, 0)
  | b + 1, s =>
    if !s.qElig (s.wq q) then (s, 0)
    else
      let (t, n) := State.burst q b (s.issueNext q)
      (t, n + 1)

/-- One grant of the issue arbiter, if any queue is eligible (R322, R323, R325). -/
def State.grantIssue (s : State) : Option State :=
  let s := s.arbEnter
  let owners := (s.wqs.map fun x => x.2.cfg.owner).eraseDups
  match ((List.range 9).reverse).find? fun c => owners.any fun f => (s.arb.fns.get {} (512 * c + f)).elig with
  | none => none
  | some c =>
    let kid (t : Tab ArbKid) (k i : Nat) : Nat × Nat × Nat := (i, (t.get {} k).tag, (t.get {} k).age)
    match tagPick ((owners.filter fun f => (s.arb.fns.get {} (512 * c + f)).elig).map fun f => kid s.arb.fns (512 * c + f) f) with
    | none => none
    | some f =>
      let qs := s.eligQueues c f
      match tagPick (qs.map fun q => kid s.arb.qs (16 * q + c) q) with
      | none => none
      | some q =>
        let d := min (qs.foldl (fun n x => n + (s.wq x).cfg.weight) 0) (s.fld (Blk.arb.at (f / 128) (0x800 + 16 * (f % 128))) 23 0)
        let (t, n) := State.burst q (s.wq q).cfg.burst s
        some (State.arbEnter (t.updArb fun a => { a with
          qV := a.qV.set 0 (512 * c + f) (a.qs.get {} (16 * q + c)).tag
          fnV := a.fnV.set 0 c (a.fns.get {} (512 * c + f)).tag
          qs := a.qs.upd {} (16 * q + c) fun k => { k with tag := k.tag + tagCost n (s.wq q).cfg.weight }
          fns := a.fns.upd {} (512 * c + f) fun k => { k with tag := k.tag + tagCost n d } }))

/-- DESCRIPTOR_ISSUE. -/
def execDescriptorIssue (s : State) : Res :=
  match s.grantIssue with
  | some t => done t
  | none => .fault .notDue

/-! ## Completions (R349) -/

/-- Write to a ring of a queue: host memory of its owner or the infrastructure partition. -/
def State.ringWrite (s : State) (w : Wq) (a : Nat) (d : List Byte) : State :=
  if w.cfg.infra then (s.memWrite 2 a d).1 else s.emit (.hostWrite w.cfg.owner a d false)

/-- Write a completion entry (Table 13.8) and, where asked, its event-queue record. -/
def State.complete (s : State) (q : Nat) (j : Job) : State :=
  let w := s.wq q
  let bs := leBytes 1 (1 + 2 * b2n j.late) ++ leBytes 1 j.d.op ++ leBytes 1 j.status ++ leBytes 1 j.detail ++ leBytes 4 j.d.cookie
    ++ leBytes 4 j.entry ++ leBytes 4 j.extra ++ leBytes 8 j.bytes ++ leBytes 8 s.plumb.now
  let s := s.ringWrite w (w.cfg.cqBase + 32 * (w.cqProd % 2 ^ w.cfg.cqLog)) bs
  let n := (w.cqProd + 1) % 2 ^ 32
  let s := s.updWq q ({ · with cqProd := n })
  if bitAt j.d.ctl 2 && w.cfg.evqValid then s.evqSend w.cfg.evq { kind := 1, src := 2 * 2 ^ 24 + q, p0 := q, p1 := n } else s

/-- A drained queue is disabled, and every WQ.DISABLE that drains it finishes (R350). -/
def State.drainStep (s : State) (q : Nat) : State :=
  let w := s.wq q
  if w.st = 2 ∧ (w.issued.filter fun j => !w.disabler.contains (q, j.entry)).isEmpty then
    w.disabler.foldl (fun s x => s.jobDone x.1 x.2 0 0) (s.updWq q ({ · with st := 0, disabler := [] }))
  else s

/-! ## Removal and resets of functions (R362, R363) -/

/-- The work queues of a function. -/
def State.wqsOf (s : State) (f : Nat) : List Nat := (s.wqs.filter fun w => w.2.cfg.owner == f).map Prod.fst

/-- The descriptors of a function that are issued and not completed: (queue, job). -/
def State.jobsOf (s : State) (f : Nat) : List (Nat × Job) := (s.wqsOf f).flatMap fun q => (s.wq q).issued.map fun j => (q, j)

/-- Force-close every connection of a function: the state and the operations flushed. -/
def State.closeAll (s : State) (f : Nat) : State × Nat :=
  (s.connsOf f).foldl (fun acc c =>
    let (t, n) := acc.1.forceClose c
    (t, acc.2 + n)) (s, 0)

/-- Remove the translation-cache and ATS entries of a function. -/
def State.xltDrop (s : State) (f : Nat) (p : Option Nat → Bool) : State :=
  { s with xlt := { s.xlt with
      cache := s.xlt.cache.filter fun (x : Nat × Option XltEnt) => match x.2 with
        | some e => !(e.fn == f && p e.tag)
        | none => true
      walk := s.xlt.walk.filter fun (x : Nat × Option WalkEnt) => match x.2 with
        | some e => !(e.fn == f && p (some e.tag))
        | none => true } }

/-- Disable the work queues and event queues of a function. -/
def State.disableQueues (s : State) (f : Nat) : State :=
  let s := (s.wqsOf f).foldl (fun s q => s.updWq q ({ · with st := 0, jobs := [], disabler := [] })) s
  { s with evqs := s.evqs.map fun (x : Nat × Evq) => if x.2.owner = f then (x.1, { x.2 with valid := false, armed := false, msgDue := false }) else x }

/-- FN.REMOVE goes on as far as it can (R362). A LAUNCH whose context is held ends flushed in step 3 (DEDUCED, log entry
23). -/
def State.removeStep (s : State) (f : Nat) : State :=
  match (s.fn f).removal with
  | none => s
  | some (q, n, cnt) =>
    if (s.jobsOf f).any fun x => x.2.d.op != 6 && x.2.stage != 3 then s else
      let live := (s.ctxsOf f).filter fun k => (s.ctx k).launch.isSome
      let s := (s.ctxsOf f).foldl (fun s k => s.flushCtx k) s
      let cnt := cnt + live.length
      if !(s.jobsOf f).isEmpty then s.updFn f ({ · with removal := some (q, n, cnt) }) else
        let s := ((s.xltDrop f fun _ => true).disableQueues f).updFn f ({ · with removal := none })
        (s.setFn f 0 0 cnt).jobDone q n 0 0 0 false cnt

/-- VF Enable cleared: a VF that is not disabled is closed, emptied and disabled (DEDUCED, log entry 24). -/
def State.disableVf (s : State) (f : Nat) : State :=
  if (s.fn f).st = 0 then s else
    let (s, n) := (s.quiesce f).closeAll f
    let s := (s.ctxsOf f).foldl (fun s k => s.flushCtx k) s
    (((s.xltDrop f fun _ => true).disableQueues f).updFn f ({ · with flrAt := none, removal := none })).setFn f 0 0 n

/-- A function-level reset ends: queues are disabled and the function is active again (Table 13.14). PF0's reset ends with
every VF's and clears VF Enable. -/
def State.flrEnd (s : State) (f : Nat) (bound : Bool) : State :=
  let n := (s.fn f).flushed
  let s := if bound then (s.updFn f ({ · with bound := true })).event { blk := .fn, inst := f / 128, num := 3, fn := f } else s
  let s := { s with pcieRds := s.pcieRds.filter fun r => (s.wq r.q).cfg.owner != f }
  let s := (((s.xltDrop f fun _ => true).disableQueues f).updFn f ({ · with flrAt := none, emptied := false })).setFn f 1 0 n
  let s := (s.ctxsOf f).foldl (fun s k => if (s.ctx k).dbgHold then s else s.releaseCtx k) s
  if f = 0 then (List.range 511).foldl (fun s i => s.disableVf (i + 1)) s else s

/-- May the reset of a function end: contexts emptied, descriptors done, no PCIe read outstanding? -/
def State.flrReady (s : State) (f : Nat) : Bool :=
  (s.fn f).st == 3 && (s.fn f).emptied && (s.jobsOf f).isEmpty && !s.pcieRds.any fun r => (s.wq r.q).cfg.owner == f

/-- Resets that can end do so: those of VFs first, and PF0's once no VF is resetting. -/
def State.flrStep (s : State) : State :=
  let s := (s.fns.keys).foldl (fun s f => if f ≠ 0 ∧ s.flrReady f then s.flrEnd f false else s) s
  if s.flrReady 0 && !(s.fns.any fun x => x.1 != 0 && x.2.st == 3) then s.flrEnd 0 false else s

/-- The mailboxes of a VF are cleared; a pending message is dropped with a timed-out record to PF0 (Table 13.14). -/
def State.clearBoxes (s : State) (f : Nat) : State :=
  [2 * f, 2 * f + 1].foldl (fun s b =>
    let m := s.box b
    let s := if m.busy then mbxRec b 0 f 3 m.seq s else s
    s.updBox b fun _ => {}) s

/-- A function-level reset begins (R363): the function is masked and resetting, what was not issued is discarded, and its
connections are closed. -/
def State.flrStart (s : State) (f : Nat) : State :=
  let was := (s.fn f).st
  let s := (s.inc (Blk.fn.at 0 0x0B0)).updFn f ({ · with flrAt := some s.plumb.now, bound := false, emptied := false, flushed := 0 })
  let s := s.setFn f 3 3 0
  let s := if was = 1 then s.quiesce f else s
  let s := (s.wqsOf f).foldl (fun s q => s.updWq q fun w => { w with jobs := w.issued }) s
  let s := if f = 0 then s else s.clearBoxes f
  let (s, n) := s.closeAll f
  s.updFn f ({ · with flushed := n })

/-- The next boundary of a reset: the contexts are held, emptied and cleared (Table 13.14). -/
def State.flrBoundary (s : State) (f : Nat) : State :=
  if (s.fn f).st ≠ 3 || (s.fn f).emptied then s else
    let n := ((s.ctxsOf f).filter fun k => (s.ctx k).launch.isSome).length
    let s := (s.ctxsOf f).foldl (fun s k => s.flushCtx k) s
    s.updFn f fun x => { x with emptied := true, flushed := x.flushed + n }

/-- A function-level reset: a second one is absorbed, and a disabled function accepts none (R338). That of PF0 resets every
function. -/
def State.flr (s : State) (fn : Nat) : State :=
  let fs := if fn = 0 then (s.fns.filter fun x => x.2.st == 1 || x.2.st == 2).map Prod.fst else [fn]
  if (s.fn fn).st = 1 ∨ (s.fn fn).st = 2 then (fs.foldl (fun s f => s.flrStart f) s).arbEnter else s

/-- FLR (R363). -/
def execFlr (fn : Nat) (s : State) : Res := done (s.flr fn)

/-- FLR_BOUND: 100 ms after the reset began, what is outstanding is abandoned as flushed. -/
def execFlrBound (fn : Nat) (s : State) : Res :=
  match (s.fn fn).flrAt with
  | some t =>
    due ((s.fn fn).st == 3 && decide (t + 100000000 ≤ s.plumb.now))
      ((let n := (s.jobsOf fn).length
        let s := s.flrBoundary fn
        (s.updFn fn fun x => { x with flushed := x.flushed + n }).flrEnd fn true).flrStep)
  | none => .fault .notDue

/-- VF_ENABLE (R338): with `en`, VFs 1 to `num` become active. -/
def execVfEnable (num : Nat) (en : Bool) (s : State) : Res :=
  done (if en then (List.range (min num 511)).foldl (fun s i => if (s.fn (i + 1)).st = 0 then s.setFn (i + 1) 1 0 0 else s) s
    else (List.range 511).foldl (fun s i => s.disableVf (i + 1)) s)

/-- FN_f_CMD.unmask (R361): the contexts that only the mask held are released. -/
def State.unmaskFn (s : State) (f : Nat) : State :=
  let s := s.setFn f 1 0 0
  ((s.ctxsOf f).foldl (fun s k => if (s.ctx k).dbgHold then s else s.releaseCtx k) s).arbEnter

/-- FN_f_CMD (Table 13.15): none where the write is refused (a mask of a function that is not active, an unmask of one
that is not masked, or both bits: DEDUCED, log entry 25). -/
def State.fnCommand (s : State) (f v : Nat) : Option State :=
  match v % 4 with
  | 0 => some s
  | 1 => if (s.fn f).st = 1 then some ((s.maskFn f 1).arbEnter) else none
  | 2 => if (s.fn f).st = 2 ∧ (s.fn f).removal.isNone then some (s.unmaskFn f) else none
  | _ => none

/-- DESCRIPTOR_COMPLETE: the first job that has finished writes its completion; one with err_only that succeeded, or of a
function that is resetting, releases its reservation without writing. -/
def execDescriptorComplete (q n : Nat) (s : State) : Res :=
  let w := s.wq q
  match w.jobs.find? (·.stage == 3) with
  | none => .fault .notDue
  | some j =>
    let quiet := (bitAt j.d.ctl 3 && j.status == 0) || (s.fn w.cfg.owner).st == 3 || w.st == 0
    let s := if quiet then s else s.complete q j
    let s := s.updWq q fun w => { w with jobs := w.jobs.filter fun y => !(y.entry == j.entry && y.stage == 3) }
    due (j.entry == n) (((s.drainStep q).removeStep w.cfg.owner).flrStep).arbEnter

/-! ## Malformed entries and the device halt (R359) -/

/-- The device halts: every function is masked, every context held, every transmitter silenced, the ring flushed (the event
is a fault), and the halt reported. -/
def State.halt (s : State) (cause q entry : Nat) : State :=
  let s := { s with glb := { s.glb with service := 3, haltCause := cause, haltQ := q, haltEntry := entry } }
  let s := (s.fns.filter fun x => x.2.st == 1).foldl (fun s x => s.maskFn x.1 1) s
  let s := (List.range 192).foldl (fun s k => s.holdCtx k) s
  ((s.silencePorts).event { blk := .glb, num := 2 }).pldm { what := 2, p0 := cause, p1 := q }

/-- A malformed entry or doorbell of queue `q`. -/
def State.malformed (s : State) (q entry : Nat) (d : Desc) (doorbell : Bool) : State :=
  let w := s.wq q
  let s := s.inc (Blk.fn.at 0 0x0A0)
  if w.cfg.priv then s.halt (if doorbell then 2 else 1) q entry else
    let s := (s.updWq q ({ · with st := 3 })).event { blk := .fn, inst := w.cfg.owner / 128, num := 2, fn := w.cfg.owner }
    let s := if w.room then s.complete q { entry, d, status := 1 } else s
    if (s.fn w.cfg.owner).st = 1 ∨ (s.fn w.cfg.owner).st = 2 then (s.maskFn w.cfg.owner 2).arbEnter else s

/-! ## Doorbells and fetch (R342, R346, R347, R349, R356) -/

/-- Does a function take doorbells: enabled and not resetting? -/
def State.takes (s : State) (f : Nat) : Bool := (s.fn f).st == 1 || (s.fn f).st == 2

/-- The valid queue of a function's slot. -/
def State.slotQueue (s : State) (f slot : Nat) : Option Nat :=
  (s.wqs.find? fun x => x.2.st != 0 && x.2.cfg.owner == f && x.2.cfg.slot == slot).map Prod.fst

/-- WQ_DOORBELL (R347). A slot of no valid queue, and a queue that does not run, ignore it (DEDUCED, log entry 26). Under
replay a doorbell of the group's owner is dropped and counted (02 R58). -/
def execWqDoorbell (fn slot : Nat) (v : W32) (s : State) : Res :=
  match s.slotQueue fn slot with
  | none => done s
  | some q =>
    let w := s.wq q
    if !s.takes fn || w.st != 1 || v.toNat == w.p then done s
    else match s.rpFn fn 2 with
      | some r => done (s.updRep r fun g => { g with dropped := g.dropped + 1 })
      | none =>
        if 2 ^ w.cfg.wqLog < (v.toNat + 2 ^ 32 - w.c) % 2 ^ 32 then done (s.malformed q w.c {} true)
        else done ((s.updWq q fun w => { w with p := v.toNat, doors := w.doors ++ [(v.toNat, s.plumb.now)] }).arbEnter)

/-- CQ_CONSUMER_WRITE (R349). -/
def execCqConsumerWrite (fn slot : Nat) (v : W32) (s : State) : Res :=
  match s.slotQueue fn slot with
  | none => done s
  | some q => done (if s.takes fn then (s.updWq q ({ · with cqCons := v.toNat })).arbEnter else s)

/-- EVQ_DOORBELL (R356): arming while records lie unread sends at once (DEDUCED, log entry 27). -/
def execEvqDoorbell (fn slot count : Nat) (arm : Bool) (s : State) : Res :=
  match s.evqs.find? fun x => x.2.valid && x.2.owner == fn && x.2.slot == slot with
  | none => done s
  | some (q, _) =>
    if !s.takes fn then done s else
      done (s.updEvq q fun v =>
        let v := { v with cons := count % 2 ^ 31 }
        if !arm then v else if v.unread = 0 then { v with armed := true } else { v with armed := false, msgDue := true })

/-- May a queue fetch: enabled, its function active, entries released, and fewer than a burst prefetched? -/
def State.canFetch (s : State) (w : Wq) : Bool :=
  w.st == 1 && (s.fn w.cfg.owner).st == 1 && (s.glb.service == 1 || s.glb.service == 2)
  && decide (w.fetched.length < w.cfg.burst)

/-- Fetch the entry at C (R346): well formed, it is consumed and its own byte cleared. The bytes of an entry in host memory
come with the command. -/
def State.fetch (s : State) (q : Nat) (host : List Byte) : State :=
  let w := s.wq q
  let a := w.cfg.wqBase + 64 * (w.c % 2 ^ w.cfg.wqLog)
  let (s, d) := if w.cfg.infra then
      let (t, r) := s.memRead 2 a 64
      (t, r.data)
    else (s, slice host 0 64)
  let d := descOf d
  if !d.ok then s.malformed q w.c d false else
    let s := s.ringWrite w a [0]
    (s.updWq q fun w => { w with c := (w.c + 1) % 2 ^ 32, jobs := w.jobs.filter (·.stage == 0) ++ [{ entry := w.c, d }] ++ w.jobs.filter (·.stage != 0) }).arbEnter

/-- DESCRIPTOR_FETCH: the doorbell that released the entry is consumed here, and recorded (02 R55). Each fetch writes one
doorbell record, with the producer count then in force, so a doorbell that releases several entries gives as many (DESIGN
CHOICE, log entry 98). Under replay the trace gives the doorbell: the queue waits for its tick, and an entry that the trace
does not release diverges (02 R58, R59). -/
def execDescriptorFetch (q : Nat) (host : List Byte) (s : State) : Res :=
  let w := s.wq q
  let consumer := 2 * 2 ^ 24 + q
  match s.rpFn w.cfg.owner 2 with
  | some r =>
    dueMem s (s.canFetch w && (w.c != w.p || (s.traceNext r fun x => x.consumer == consumer).isSome)) <|
      match s.replay r 2 consumer with
      | (t, .got pl) =>
        let p := leAt pl 4 4
        (t.updWq q fun w => { w with p, doors := w.doors ++ [(p, s.plumb.now)] }).fetch q host
      | (t, _) => t
  | none =>
    let s := match s.rpFn w.cfg.owner 1 with
      | some r => s.record r 2 (2 * 2 ^ 24 + q) 0 (leBytes 4 q ++ leBytes 4 w.p)
      | none => s
    dueMem s (s.canFetch w && w.c != w.p) (s.fetch q host)

/-! ## MSI-X (R356) -/

/-- MSIX_SEND of event queue `v`: a masked vector pends. -/
def execMsixSend (v : Nat) (s : State) : Res :=
  let x := s.evqs.get {} v
  due (x.valid && x.msgDue && s.takes x.owner
      && (match x.lastMsg with
        | some t => decide (t + 1000 * x.moderation ≤ s.plumb.now)
        | none => true)) <|
    let s := s.updEvq v ({ · with msgDue := false, lastMsg := some s.plumb.now })
    if (s.fn x.owner).unmasked.getLsbD x.vector then s.emit (.msix x.owner x.vector)
    else s.updFn x.owner fun f => { f with pba := f.pba ||| (1#32 <<< x.vector) }

/-- MSIX_VECTOR_UNMASK: a pending message is sent. -/
def execMsixVectorUnmask (fn v : Nat) (s : State) : Res :=
  due (s.takes fn && decide (v < 32)) <|
    let pend := (s.fn fn).pba.getLsbD v
    let s := s.updFn fn fun f => { f with unmasked := f.unmasked ||| (1#32 <<< v), pba := f.pba &&& ~~~(1#32 <<< v) }
    if pend then s.emit (.msix fn v) else s

end Sys2Proof.Machine
end

