-- ==== Sys2Proof/Machine/Rings.lean ====
section
/-! DEFINITION. Machine/Rings.lean: the work descriptors, the tables they load, and what the host links bring (13 R339, R340,
R343 to R345, R350, R351, R354, R362; 16 R410). -/

namespace Sys2Proof.Machine

/-! ## Misses (08 R229, R234) -/

/-- A range that a command translates: where, how many bytes, and whether it is written. -/
structure Need where
  at_ : DmaEnd
  len : Nat
  wr : Bool
  deriving DecidableEq, Repr

/-- Change the translation unit. -/
def State.updXlt (s : State) (g : Xlt → Xlt) : State := { s with xlt := g s.xlt }

/-- The pages that a range translates: guest pages, or host pages of a function whose host has enabled ATS. -/
def State.wants (s : State) (x : Need) : List Want :=
  let page (tag : Option Nat) : List Want :=
    (pagePieces x.at_.addr x.len).map fun p => { fn := x.at_.fn, tag, page := p.1 / 4096, wr := x.wr }
  if x.at_.space = 1 then page (some x.at_.tag)
  else if x.at_.space = 0 && (s.fn x.at_.fn).atsOn then page none
  else []

/-- A page is asked for, unless it is already: a guest page joins a walk or a queued miss, or is queued while fewer than 64
misses of its function are (R229); a host page is requested of the host (R234). -/
def State.askPage (s : State) (w : Want) : State :=
  match w.tag with
  | some t =>
    let same (m : Miss) : Bool := m.fn == w.fn && m.tag == t && m.page == w.page
    if (s.xlt.walkers.any fun x => x.2.any same) || s.xlt.misses.any same
        || decide (64 ≤ (s.xlt.misses.filter fun m => m.fn == w.fn).length) then s
    else s.updXlt fun x => { x with misses := x.misses ++ [{ fn := w.fn, tag := t, page := w.page, since := s.ticks }] }
  | none =>
    if s.xlt.ats.any fun a => a.fn == w.fn && a.page == w.page then s
    else s.updXlt fun x => { x with ats := x.ats ++ [{ fn := w.fn, page := w.page, since := s.ticks }] }

/-- Every page that a waiting command lacks is asked for, in the order of the commands. -/
def State.askPages (s : State) : State := (s.xlt.waits.flatMap (·.left)).foldl State.askPage s

/-- Run a command with the pages that it translates, or let it wait for those that the caches do not hold. -/
def State.orWait (s : State) (i : Instr) (need : List Need) (run : List Given → State → State) : State :=
  let ws := (need.flatMap s.wants).eraseDups
  let (s, given, left) := ws.foldl (fun (acc : State × List Given × List Want) w =>
    match acc.1.lookup w with
    | (t, some got) => (t, acc.2.1 ++ [{ want := w, got }], acc.2.2)
    | (t, none) => (t, acc.2.1, acc.2.2 ++ [w])) (s, [], [])
  if left.isEmpty then run given s
  else (s.updXlt fun x => { x with waits := x.waits ++ [{ cmd := i, left, given }] }).askPages

/-! ## Work descriptors that move data (Tables 13.5 to 13.7) -/

/-- One end of a descriptor's transfer. -/
def Wq.side (w : Wq) (d : Desc) (space addr : Nat) (given : List Given := []) : DmaEnd :=
  { space, fn := w.cfg.owner, tag := w.cfg.tag, addr, strict := d.fence, given }

/-- The source and destination spaces. -/
def Desc.srcSpace (d : Desc) : Nat := d.o32 % 16

/-- The destination space. -/
def Desc.dstSpace (d : Desc) : Nat := d.o32 / 16

/-- The ranges that a data descriptor translates: its local ends, and the remote address under the queue's tag. -/
def Wq.needs (w : Wq) (d : Desc) : List Need :=
  if d.op = 2 then [⟨w.side d d.srcSpace d.o8, d.o24, false⟩, ⟨w.side d d.dstSpace d.o16, d.o24, true⟩]
  else if d.op = 3 then [⟨w.side d d.srcSpace d.o8, d.o24, false⟩, ⟨w.side d 1 d.o16, d.o24, true⟩]
  else if d.op = 4 then [⟨w.side d 1 d.o16, d.o24, false⟩, ⟨w.side d d.dstSpace d.o8, d.o24, true⟩]
  else []

/-- The job of entry `n` of queue `q` at a stage. -/
def State.jobAt (s : State) (q n stage : Nat) : Option Job := (s.wq q).jobs.find? fun j => j.entry == n && j.stage == stage

/-- Change the running job. -/
def State.updJob (s : State) (q n : Nat) (g : Job → Job) : State :=
  s.updWq q fun w => { w with jobs := w.jobs.map fun j => if j.entry = n ∧ j.stage < 3 then g j else j }

/-- A running job ends with what its transfer met. -/
def State.endWith (s : State) (q n : Nat) (r : DmaRes) : State :=
  let (st, de) := r.status
  s.jobDone q n st de r.moved

/-- Does a source lie behind PCIe, so that its bytes come from outside? -/
def outside (space : Nat) : Bool := space == 0 || (decide (2 ≤ space) && decide (space ≤ 4))

/-- A read is issued on a PCIe controller with the lowest free tag (R340). -/
def State.pcieRead (s : State) (q n c addr len off : Nat) (at_ : Bool) : State :=
  let t := (firstIdx 1024 fun t => !s.pcieRds.any fun r => r.ctl == c && r.tag == t).getD 1024
  { s with pcieRds := s.pcieRds ++ [{ ctl := c, tag := t, q, n, addr, len, off, at_, since := s.plumb.now }] }

/-- Pieces that follow each other at one place become one. -/
def joinPlaces : List (DPlace × Nat) → List (DPlace × Nat)
  | [] => []
  | x :: t => match joinPlaces t with
    | [] => [x]
    | y :: r => match x.1, y.1 with
      | .host f a true, .host _ b true => if b = a + x.2 then (.host f a true, x.2 + y.2) :: r else x :: y :: r
      | _, _ => x :: y :: r

/-- The bytes of a range of `n` that have come, by offset. -/
def gathered (n : Nat) (ps : List (Nat × List Byte)) : List (Option PByte) :=
  ps.foldl (fun b p => b.take p.1 ++ p.2.map (fun x => some (x, false)) ++ b.drop (p.1 + p.2.length)) (List.replicate n none)

/-- The bytes of a descriptor's source: read where they lie, or `got` where they have come over PCIe. -/
def State.srcRead (s : State) (q : Nat) (d : Desc) (given : List Given) (got : List (Option PByte) × DmaRes ⊕ List Byte) :
    State × List (Option PByte) × DmaRes :=
  match got with
  | .inl x => (s, x)
  | .inr ext =>
    let (s, ps) := s.dmaPlaces ((s.wq q).side d d.srcSpace d.o8 given) d.o24 false
    s.dmaRead ps ext

/-- COPY: the bytes that can be read are written where they can be written (08 R219). -/
def State.copyRun (s : State) (q n : Nat) (d : Desc) (given : List Given) (got : List (Option PByte) × DmaRes ⊕ List Byte) : State :=
  let (s, b, r) := s.srcRead q d given got
  let (s, ds) := s.dmaPlaces ((s.wq q).side d d.dstSpace d.o16 given) d.o24 true
  let (s, r) := s.dmaWrite ds b d.fence r
  s.endWith q n r

/-- The connection that a descriptor names, where it is open and the owner's (status 0x08). -/
def State.wqConn (s : State) (q : Nat) (d : Desc) : Option Nat :=
  let c := d.o36 % 2 ^ 20
  let x := s.conn c
  if x.st = 2 ∧ x.gen = bits d.o36 23 20 ∧ x.owner = (s.wq q).cfg.owner then some c else none

/-- A stretch of a remote range: its offset and length, and its fabric physical address where it is at the peer. -/
structure Stretch where
  off : Nat
  len : Nat
  pa : Option Nat
  deriving DecidableEq, Repr

/-- Contiguous stretches become one. -/
def joinStretch : List Stretch → List Stretch
  | [] => []
  | x :: t => match joinStretch t with
    | [] => [x]
    | y :: r => match x.pa, y.pa with
      | some a, some b => if b = a + x.len then { x with len := x.len + y.len } :: r else x :: y :: r
      | none, none => { x with len := x.len + y.len } :: y :: r
      | _, _ => x :: y :: r

/-- The remote range of a descriptor, translated page by page under the queue's tag (Table 13.6). -/
def State.remoteRange (s : State) (q c : Nat) (d : Desc) (wr : Bool) (given : List Given) : State × List Stretch × DmaRes :=
  let w := s.wq q
  let dev := (s.conn c).peerDev
  let (s, xs, r) := (pagePieces d.o16 d.o24).foldl (fun (acc : State × List Stretch × DmaRes) p =>
    match acc.1.translateIn given w.cfg.owner w.cfg.tag p.1 wr with
    | (t, .inl pa) =>
      if pa / 2 ^ 50 = dev then (t, acc.2.1 ++ [⟨p.1 - d.o16, p.2, some pa⟩], acc.2.2)
      else (t, acc.2.1 ++ [⟨p.1 - d.o16, p.2, none⟩], acc.2.2.note 9)
    | (t, .inr f) => (t, acc.2.1 ++ [⟨p.1 - d.o16, p.2, none⟩], { acc.2.2 with fault := some (acc.2.2.fault.getD f) })) (s, [], {})
  (s, joinStretch xs, r)

/-- Post the messages of a descriptor; with none it ends at once. What was met before stands as its status. -/
def State.postAll (s : State) (q n c : Nat) (r : DmaRes) (ms : List Msg) : State :=
  let (st, de) := r.status
  if ms.isEmpty then s.jobDone q n st de else
    let s := s.updJob q n ({ · with parts := ms.length, status := st, detail := de })
    ms.foldl (fun s m => (s.postMsg c m).1) s

/-- WRITE: one message for each run of source bytes and stretch of the remote range. -/
def State.writeRun (s : State) (q n : Nat) (d : Desc) (given : List Given) (got : List (Option PByte) × DmaRes ⊕ List Byte) : State :=
  match s.wqConn q d with
  | none => s.jobDone q n 8 0
  | some c =>
    let (s, xs, r) := s.remoteRange q c d true given
    let (s, b, r') := s.srcRead q d given got
    let r := { st := if r'.st = 0 then r.st else r'.st, fault := r'.fault <|> r.fault, moved := 0 }
    let ms := xs.flatMap fun x => match x.pa with
      | none => []
      | some pa =>
        let part := (b.drop x.off).take x.len
        (knownRuns 0 (part.map fun y => y.map Prod.fst)).map fun k => {
          id := 0, kind := 0, raddr := pa + k.1, mkey := d.o40, len := k.2.length, data := k.2, fenceLast := d.fence
          bad := badOf ((part.drop k.1).take k.2.length), src := MsgSrc.wq q n : Msg }
    s.postAll q n c r ms

/-- READ: one request for each stretch of the remote range. -/
def State.readRun (s : State) (q n : Nat) (d : Desc) (given : List Given) : State :=
  match s.wqConn q d with
  | none => s.jobDone q n 8 0
  | some c =>
    let (s, xs, r) := s.remoteRange q c d false given
    let ms := xs.filterMap fun x => x.pa.map fun pa => {
      id := 0, kind := 1, raddr := pa, mkey := d.o40, len := x.len
      rd := some ((s.wq q).side d d.dstSpace (d.o8 + x.off) (given.filter (·.want.wr))), src := MsgSrc.wq q n : Msg }
    s.postAll q n c r ms

/-- The source of a descriptor has been read: it goes on, or ends with bus error where a read failed. -/
def State.srcDone (s : State) (q n : Nat) (j : Job) : State :=
  if j.srcBad then s.jobDone q n 0xA 0 else
    let got := (gathered j.d.o24 j.src, { fault := j.srcFault })
    if j.d.op = 2 then s.copyRun q n j.d j.given (.inl got) else s.writeRun q n j.d j.given (.inl got)

/-- A descriptor reads its source over PCIe: one read for each piece, at a translated address where ATS gives one (08 R234). A
piece whose translation is refused is not read (08 R235). -/
def State.hostRead (s : State) (q n : Nat) (j : Job) (given : List Given) : State :=
  let w := s.wq q
  let (s, ps) := s.dmaPlaces (w.side j.d j.d.srcSpace j.d.o8 given) j.d.o24 false
  let (s, _, fault) := (joinPlaces ps).foldl (fun (acc : State × Nat × Option Nat) p =>
    let (s, off, fault) := acc
    match p.1 with
    | .host fn a at_ => (s.pcieRead q n (s.ctlOf fn) a p.2 off at_, off + p.2, fault)
    | .bus c a => (s.pcieRead q n c a p.2 off false, off + p.2, fault)
    | .fault c => (s, off + p.2, some (fault.getD c))
    | _ => (s, off + p.2, fault)) (s, 0, none)
  let s := s.updJob q n ({ · with given, srcFault := fault })
  if s.pcieRds.any fun r => r.q == q && r.n == n then s else s.srcDone q n { j with given, srcFault := fault }

/-- FLUSH (10 R283). -/
def State.flushRun (s : State) (q n : Nat) (d : Desc) : State :=
  match s.wqConn q d with
  | none => s.jobDone q n 8 0
  | some c => (s.postMsg c { id := 0, kind := 2, fence := true, src := .wq q n }).1

/-- Run a data descriptor that is at stage 2 and has its pages. A source behind PCIe whose bytes did not come with the command is
asked for. -/
def State.wdGo (s : State) (i : Instr) (given : List Given) : State :=
  match i with
  | .wdCopy q n src bad => match s.jobAt q n 2 with
    | none => s
    | some j =>
      if bad then s.jobDone q n 0xA 0
      else if outside j.d.srcSpace && src.isEmpty then s.hostRead q n j given
      else s.copyRun q n j.d given (.inr src)
  | .wdWrite q n src => match s.jobAt q n 2 with
    | none => s
    | some j =>
      if outside j.d.srcSpace && src.isEmpty && (s.wqConn q j.d).isSome then s.hostRead q n j given
      else s.writeRun q n j.d given (.inr src)
  | .wdRead q n => match s.jobAt q n 2 with
    | none => s
    | some j => s.readRun q n j.d given
  | _ => s

/-- Run a data descriptor of entry `n` of queue `q`, or let it wait for its pages. -/
def State.wdRun (s : State) (q n : Nat) (i : Instr) : State :=
  match s.jobAt q n 2 with
  | none => s
  | some j => s.orWait i ((s.wq q).needs j.d) fun given s => s.wdGo i given

/-- An issued descriptor runs: a privileged opcode or space on another queue completes with status privilege. -/
def wdExec (op q n : Nat) (s : State) (run : State → Job → State) : Res :=
  match s.jobAt q n 1 with
  | none => .fault .notDue
  | some j =>
    dueMem s (j.d.op == op) <|
      let s := s.updJob q n ({ · with stage := 2 })
      if !(s.wq q).cfg.priv && j.d.privileged then s.jobDone q n 2 0 else run s j

/-- WD_NOP. -/
def execWdNop (q n : Nat) (s : State) : Res := wdExec 1 q n s fun s _ => s.jobDone q n 0 0

/-- WD_COPY: `src` holds the bytes that the host returns for a source behind PCIe, `bad` that its read failed. -/
def execWdCopy (q n : Nat) (src : List Byte) (bad : Bool) (s : State) : Res :=
  wdExec 2 q n s fun s _ => s.wdRun q n (.wdCopy q n src bad)

/-- WD_WRITE. -/
def execWdWrite (q n : Nat) (src : List Byte) (s : State) : Res :=
  wdExec 3 q n s fun s _ => s.wdRun q n (.wdWrite q n src)

/-- WD_READ. -/
def execWdRead (q n : Nat) (s : State) : Res := wdExec 4 q n s fun s _ => s.wdRun q n (.wdRead q n)

/-- WD_FLUSH. -/
def execWdFlush (q n : Nat) (s : State) : Res := wdExec 5 q n s fun s j => s.flushRun q n j.d

/-- LAUNCH (R351). -/
def execLaunch (q n : Nat) (s : State) : Res :=
  wdExec 6 q n s fun s j => s.submit (launchOf j.d.o8 j.d.o16 j.d.o24 j.d.o32 (some (q, n)) none) (s.wq q).cfg.owner

/-! ## Reads over PCIe (R340) -/

/-- The read that a completion answers ends; with its last read the descriptor goes on. -/
def State.pcieDone (s : State) (r : PcieRd) (data : List Byte) (bad : Bool) : State :=
  let s := s.updJob r.q r.n fun j => if bad then { j with srcBad := true } else { j with src := j.src ++ [(r.off, data)] }
  match s.jobAt r.q r.n 2 with
  | none => s
  | some j => if s.pcieRds.any fun x => x.q == r.q && x.n == r.n then s else s.srcDone r.q r.n j

/-- PCIE_COMPLETION: data for a read, poisoned or failed where `bad`; one that answers no read is discarded and counted (log
entry 28). -/
def execPcieCompletion (ctl tag : Nat) (data : List Byte) (bad : Bool) (s : State) : Res :=
  match s.pcieRds.find? fun r => r.ctl == ctl && r.tag == tag with
  | none => due (decide (ctl < 4)) ((s.inc (Blk.pcie.at ctl 0x050)).event { blk := .pcie, inst := ctl, num := 2 })
  | some r =>
    dueMem s (bad || data.length == r.len)
      (let s := { s with pcieRds := s.pcieRds.filter fun x => !(x.ctl == ctl && x.tag == tag) }
       let s := if bad then s.inc (Blk.pcie.at ctl 0x060) else s
       (s.pcieDone r data bad).flrStep)

/-- COMPLETION_TIMEOUT: the read ends with bus error, not before the shortest time of the default range, 50 µs. -/
def execCompletionTimeout (ctl tag : Nat) (s : State) : Res :=
  match s.pcieRds.find? fun r => r.ctl == ctl && r.tag == tag with
  | none => .fault .notDue
  | some r =>
    due (decide (r.since + 50000 ≤ s.plumb.now)) ((({ s with pcieRds := s.pcieRds.filter fun x => !(x.ctl == ctl && x.tag == tag) }.inc (Blk.pcie.at ctl 0x068)).pcieDone
      r [] true).flrStep)

/-! ## Tables (R343, R350, R354) -/

/-- A work-queue table entry (Table 13.3). -/
def wqOf (d : List Byte) : WqCfg :=
  let a := leAt d 0 4
  let b := leAt d 4 4
  let c := leAt d 8 4
  { priv := bitAt a 1, infra := bitAt a 2, wqLog := bits a 12 8, cqLog := bits a 17 13, owner := bits a 26 18, slot := bits b 15 0
    weight := bits b 23 16, burst := bits b 30 24, cls := bits c 2 0, shaped := bitAt c 3, shaper := bits c 15 4
    evq := bits c 27 16, evqValid := bitAt c 28, tag := leAt d 12 2, wqBase := leAt d 16 8, cqBase := leAt d 24 8
    raw := leAt d 0 8 }

/-- Does a ring of `n` bytes lie where it may: 4 KiB aligned, and within the infrastructure partition where `infra`? -/
def State.ringOk (s : State) (infra : Bool) (base n : Nat) : Bool :=
  base % 4096 == 0 && (!infra || (s.inInfra base && s.inInfra (base + n - 1)))

/-- Does the entry of queue `q` keep every rule of Table 13.3? -/
def State.wqOk (s : State) (q : Nat) (d : List Byte) : Bool :=
  let x := wqOf d
  bits (leAt d 0 4) 7 3 == 0 && bits (leAt d 0 4) 31 27 == 0 && !bitAt (leAt d 4 4) 31 && bits (leAt d 8 4) 31 29 == 0
  && leAt d 14 2 == 0 && leAt d 32 32 == 0
  && (!x.priv || x.owner == 0) && (!x.infra || x.priv)
  && decide (4 ≤ x.wqLog) && decide (x.wqLog ≤ 16) && decide (4 ≤ x.cqLog) && decide (x.cqLog ≤ 16)
  && (x.owner == 0 || decide (x.slot < 7680))
  && !(s.wqs.any fun y => y.1 != q && y.2.st != 0 && y.2.cfg.owner == x.owner && y.2.cfg.slot == x.slot)
  && decide (1 ≤ x.weight) && decide (1 ≤ x.burst) && decide (x.burst ≤ 64)
  && decide (x.cls ≤ s.fld (Blk.arb.at (x.owner / 128) (0x800 + 16 * (x.owner % 128))) 26 24)
  && (!x.evqValid || ((s.evqs.get {} x.evq).valid && (s.evqs.get {} x.evq).owner == x.owner))
  && s.ringOk x.infra x.wqBase (64 * 2 ^ x.wqLog) && s.ringOk x.infra x.cqBase (32 * 2 ^ x.cqLog)

/-- Load one work-queue entry, none where it breaks a rule. A job of the queue that loads itself goes on. What the queue had issued
is dropped, a drain of it ends, and an entry with valid 0 is held to no other rule (DESIGN CHOICE, log entry 109). -/
def State.wqPut (s : State) (q : Nat) (self : Option Nat) (d : List Byte) : Option State :=
  let old := s.wq q
  let x := wqOf d
  let keep := old.jobs.filter fun j => some j.entry == self
  let aud : Aud := { org := .pf0, kind := 2, sec := x.priv || old.cfg.priv, wide := true, space := 1, addr := q, old := old.cfg.raw, new := x.raw }
  let drained (s : State) : State := old.disabler.foldl (fun s x => s.jobDone x.1 x.2 0 0) s
  if !bitAt (leAt d 0 4) 0 then some (drained ((s.updWq q fun w => { cfg := { w.cfg with raw := x.raw }, jobs := keep }).audit aud))
  else if s.wqOk q d then some (drained ((s.updWq q fun _ => { st := 1, cfg := x, jobs := keep }).audit aud))
  else none

/-- Bits [63:0] of an event-queue table entry in force. -/
def Evq.raw (v : Evq) : Nat :=
  b2n v.valid + 2 * v.owner + 2 ^ 10 * v.log2 + 2 ^ 15 * v.vector + 2 ^ 20 * v.slot + 2 ^ 32 * v.moderation + 2 ^ 48 * b2n v.infra

/-- An event-queue table entry (Table 13.11). -/
def evqOf (d : List Byte) : Evq :=
  let a := leAt d 0 4
  { valid := bitAt a 0, owner := bits a 9 1, log2 := bits a 14 10, vector := bits a 19 15, slot := bits a 31 20
    moderation := leAt d 4 2, infra := bitAt (leAt d 4 4) 16, base := leAt d 8 8 }

/-- Event queues that a function holds, but for queue `q`. -/
def State.evqCount (s : State) (f q : Nat) : Nat := (s.evqs.filter fun y => y.1 != q && y.2.valid && y.2.owner == f).length

/-- May the function of a new entry hold one more event queue (R333)? -/
def State.evqRoom (s : State) (f q : Nat) : Bool :=
  decide (s.evqCount f q < s.fld (Blk.arb.at (f / 128) (0x80C + 16 * (f % 128))) 12 0)

/-- Does the entry of event queue `q` keep every rule of Table 13.11? -/
def State.evqOk (s : State) (q : Nat) (d : List Byte) : Bool :=
  let x := evqOf d
  bits (leAt d 4 4) 31 17 == 0 && leAt d 16 16 == 0 && decide (4 ≤ x.log2) && decide (x.log2 ≤ 16)
  && (x.owner == 0 || (decide (x.slot < 1024) && !x.infra))
  && !(s.evqs.any fun y => y.1 != q && y.2.valid && y.2.owner == x.owner && y.2.slot == x.slot)
  && s.ringOk x.infra x.base (32 * 2 ^ x.log2)

/-- Load one event-queue entry, none where it breaks a rule or a limit. -/
def State.evqPut (s : State) (q : Nat) (d : List Byte) : Option State :=
  let x := evqOf d
  let aud : Aud := { org := .pf0, kind := 2, wide := true, space := 2, addr := q, old := (s.evqs.get {} q).raw, new := leAt d 0 8 }
  if !x.valid then some ((s.updEvq q fun _ => {}).audit aud)
  else if s.evqOk q d && s.evqRoom x.owner q then some ((s.updEvq q fun _ => x).audit aud)
  else none

/-- Entries `first` onwards are loaded one after another: the state, or the entry that is refused with the state that it met and the
one in which nothing was loaded but every entry up to it was read (`u`). -/
def loadAll (put : State → Nat → List Byte → Option State) (size base : Nat) : List Nat → State → State → State ⊕ (Nat × State × State)
  | [], _, s => .inl s
  | i :: t, u, s =>
    let u := (u.memRead 2 (base + size * i) size).1
    let (s, r) := s.memRead 2 (base + size * i) size
    if r.kind ≠ 0 then .inr (i, s, u) else match put s i r.data with
      | some s => loadAll put size base t u s
      | none => .inr (i, s, u)

/-- The range of a table command, checked against its table's size (status 0x09). -/
def tableRange (d : Desc) (size : Nat) : Option (List Nat) :=
  let first := bits d.o8 31 0
  let count := bits d.o8 63 32
  if 1 ≤ count ∧ count ≤ 65536 ∧ first + count ≤ size then some ((List.range count).map (first + ·)) else none

/-- A table load: a refused one leaves every entry as it was, and names the entry that is refused. -/
def State.tableLoad (s : State) (q n : Nat) (d : Desc) (size bytes base : Nat)
    (put : State → Nat → List Byte → Option State) (ovr : State → Nat → Bool) : State :=
  match tableRange d size with
  | none => s.jobDone q n 9 0
  | some es => match loadAll put bytes base es s s with
    | .inl t => (t.jobDone q n 0 0).arbEnter
    | .inr (i, t, u) => (if ovr t i then u.inc (Blk.arb.at 0 0x060) else u).jobDone q n 0x11 0 i

/-- WQ_LOAD (R343). -/
def execWqLoad (q n : Nat) (s : State) : Res :=
  wdExec 0x20 q n s fun s j => s.tableLoad q n j.d 65536 64 (s.reg (Blk.fn.at 0 0x040))
    (fun s i d => s.wqPut i (if i = q then some n else none) d) fun _ _ => false

/-- WQ_DISABLE (R350). -/
def execWqDisable (q n : Nat) (s : State) : Res :=
  wdExec 0x21 q n s fun s j => match tableRange j.d 65536 with
    | none => s.jobDone q n 9 0
    | some es =>
      let x := es.headD 0
      if (s.wq x).st = 0 then s.jobDone q n 9 0
      else ((s.updWq x fun w => { w with st := 2, jobs := w.issued, disabler := w.disabler ++ [(q, n)] }).drainStep x).arbEnter

/-- EVQ_LOAD (R354): a refusal for the limit of its function is counted (12 R333). -/
def execEvqLoad (q n : Nat) (s : State) : Res :=
  wdExec 0x22 q n s fun s j =>
    let base := s.reg (Blk.fn.at 0 0x048)
    s.tableLoad q n j.d 4096 32 base (fun s i d => s.evqPut i d) fun t i =>
      let d := (t.memRead 2 (base + 32 * i) 32).2.data
      (evqOf d).valid && t.evqOk i d && !t.evqRoom (evqOf d).owner i

/-- FN_REMOVE (R362): one that is already being removed is refused as one that is not masked. -/
def execFnRemove (q n : Nat) (s : State) : Res :=
  wdExec 0x23 q n s fun s j => match tableRange j.d 512 with
    | none => s.jobDone q n 9 0
    | some es =>
      let f := es.headD 0
      if (s.fn f).st ≠ 2 || (s.fn f).removal.isSome then s.jobDone q n 0x10 0 else
        let (s, k) := s.closeAll f
        ((s.updFn f ({ · with removal := some (q, n, k) })).removeStep f).arbEnter

/-! ## Controllers (R337 to R339; 08 R219; 16 R410) -/

/-- The XLT_RP register of a root port. -/
def State.rpWord (s : State) (ctl : Nat) : Nat := s.reg (Blk.xlt.at 0 (0x058 + 4 * (ctl - 1)))

/-- The range of an inbound request. -/
def State.rpEnd_ (s : State) (ctl addr : Nat) (given : List Given := []) : DmaEnd :=
  { space := 1, fn := bits (s.rpWord ctl) 8 0, tag := bits (s.rpWord ctl) 24 9, addr, given }

/-- An inbound request whose pages are translated: a read that meets a fault is an Unsupported Request, and a part of a write
that faults is discarded (08 R230). -/
def State.rpRun (s : State) (ctl addr len : Nat) (data : Option (List Byte)) (given : List Given) : State :=
  match data with
  | some d =>
    let (s, ps) := s.dmaPlaces (s.rpEnd_ ctl addr given) len true
    (s.dmaWrite ps ((slice d 0 len).map fun b => some (b, false)) false {}).1
  | none =>
    let (s, ps) := s.dmaPlaces (s.rpEnd_ ctl addr given) len false
    let (s, b, _) := s.dmaRead ps []
    if b.any Option.isNone then (s.inc (Blk.pcie.at ctl 0x070)).emit (.completion ctl addr 2 [])
    else
      let bad := b.any fun x => (x.map Prod.snd).getD false
      let s := if bad then s.inc (Blk.pcie.at ctl 0x058) else s
      s.emit (.completion ctl addr (b2n bad) (b.map fun x => (x.map Prod.fst).getD 0))

/-- ROOT_PORT_INBOUND: with XLT_RP disabled every request is an Unsupported Request, and so is a Translation Request (`xl`), since
the OD1 offers no translation downstream (08 R219). -/
def execRootPortInbound (ctl addr len : Nat) (data : Option (List Byte)) (xl : Bool) (s : State) : Res :=
  dueMem s (s.rootPort ctl && decide (1 ≤ len) && decide (len ≤ 4096)) <|
    if !bitAt (s.rpWord ctl) 31 || xl then
      let s := s.inc (Blk.pcie.at ctl 0x070)
      if data.isSome then s else s.emit (.completion ctl addr 2 [])
    else s.orWait (.rootPortInbound ctl addr len data xl) [⟨s.rpEnd_ ctl addr, len, data.isSome⟩] fun given s =>
      s.rpRun ctl addr len data given

/-- The function presented on a controller in endpoint mode, if any (Table 13.19); PF0 on controller A. -/
def State.ctlFn (s : State) (ctl : Nat) : Option Nat :=
  let v := s.reg (Blk.pcie.at ctl 0x040)
  if ctl = 0 then some 0 else if bitAt v 0 || bits v 9 1 = 0 then none else some (bits v 9 1)

/-- The link of a controller falls (17 Table 17.11 PCIE 0x01). -/
def State.ctlDown (s : State) (ctl : Nat) : State :=
  let a := Blk.pcie.at ctl 0x044
  if bitAt (s.reg a) 0 then (s.setReg a 0).event { blk := .pcie, inst := ctl, num := 1 } else s

/-- CONTROLLER_RESET (16 Table 16.1): PERST# of B to D in endpoint mode, or a hot reset of any link: the link falls, and the
function presented on it is reset. -/
def execControllerReset (ctl : Nat) (s : State) : Res :=
  due (decide (ctl < 4)) <| match s.ctlFn ctl with
    | some f => (s.ctlDown ctl).flr f
    | none => s.ctlDown ctl

end Sys2Proof.Machine
end

