-- ==== Sys2Proof/Machine/Walk.lean ====
section
/-! DEFINITION. Machine/Walk.lean: walkers, aging, invalidations and the copies of host translations (08 R221, R228 to
R236). -/

namespace Sys2Proof.Machine

/-! ## Walkers (R229) -/

/-- Walkers that a function holds. -/
def State.walkersOf (s : State) (f : Nat) : Nat :=
  (s.xlt.walkers.filter fun w => match w.2 with
    | some m => m.fn == f
    | none => false).length

/-- The function whose miss the next free walker takes: the next in rotation with a miss queued and walkers to spare. -/
def State.nextMissFn (s : State) : Option Nat :=
  (firstIdx 512 fun i =>
    let f := (s.xlt.turn + i) % 512
    (s.xlt.misses.any fun m => m.fn == f) && decide (s.walkersOf f < (s.fnRec f).cap)).map fun i => (s.xlt.turn + i) % 512

/-- WALK_START. A miss that its function's queue had no room for may enter it. -/
def execWalkStart (w : Nat) (s : State) : Res :=
  match s.nextMissFn with
  | none => .fault .notDue
  | some f => match s.xlt.misses.find? (·.fn == f) with
    | none => .fault .notDue
    | some m =>
      due (decide (w < 32) && (s.xlt.walkers.get none w).isNone) (s.updXlt fun x => { x with
        misses := x.misses.erase m, walkers := x.walkers.set none w (some { m with since := s.ticks })
        turn := (f + 1) % 512 }).askPages

/-- A command that waited runs with the pages that it has translated. -/
def State.runWait (s : State) (w : XltWait) : State :=
  match w.cmd with
  | .rootPortInbound c a n d _ => s.rpRun c a n d w.given
  | i => s.wdGo i w.given

/-- A page of a waiting command is translated. -/
def XltWait.take (w : XltWait) (hit : Want → Bool) (got : Got) : XltWait :=
  { w with
    left := w.left.filter fun x => !hit x
    given := w.given ++ (w.left.filter hit).map fun x => { want := x, got } }

/-- A page is translated, or is not: the commands that lack no other run, in the order in which they came. A part that faults does
not keep the other parts of a command from going on (R219). -/
def State.serve (s : State) (f : Nat) (tag : Option Nat) (page : Nat) (got : Got) : State :=
  let ws := s.xlt.waits.map fun w => w.take (fun x => x.fn == f && x.tag == tag && x.page == page) got
  let s := s.updXlt fun x => { x with waits := ws.filter fun w => !w.left.isEmpty }
  ((ws.filter fun w => w.left.isEmpty).foldl State.runWait s).askPages

/-- A walker becomes free. -/
def State.freeWalker (s : State) (w : Nat) : State := s.updXlt fun x => { x with walkers := x.walkers.set none w none }

/-- The accesses that wait for a guest page: whether each writes. A walk that none awaits stands for a read. -/
def State.accesses (s : State) (m : Miss) : List Bool :=
  let ws := ((s.xlt.waits.flatMap (·.left)).filter fun x => x.fn == m.fn && x.tag == some m.tag && x.page == m.page).map (·.wr)
  if ws.isEmpty then [false] else ws

/-- The entry that a walk fills, unless every access that waits for it faults (R227, R230). -/
def State.fillWalk (s : State) (m : Miss) (got : Got) : State :=
  let va := 4096 * m.page
  match (s.accesses m).findSome? fun wr => match s.useGot m.fn va wr got with
    | .ok pa z rd w => some (newEnt m.fn (some m.tag) z va pa rd w)
    | .fault _ _ => none with
  | some e => s.xltFill e
  | none => s

/-- WALK_COMPLETE: the tables are read, the caches filled, and the commands that lack no other page served. -/
def execWalkComplete (w : Nat) (s : State) : Res :=
  match s.xlt.walkers.get none w with
  | none => .fault .notDue
  | some m =>
    dueMem s (decide (s.ticks < m.since + s.fld (Blk.xlt.at 0 0x040) 15 8))
      (let (s, got) := (s.freeWalker w).walkPage m.fn m.tag (4096 * m.page)
       ((s.xltCount m.fn 2).fillWalk m got).serve m.fn (some m.tag) m.page got)

/-- WALK_TIMEOUT (R225): cause 0xD for every access that waits for the page. -/
def execWalkTimeout (w : Nat) (s : State) : Res :=
  match s.xlt.walkers.get none w with
  | none => .fault .notDue
  | some m =>
    dueMem s (decide (m.since + s.fld (Blk.xlt.at 0 0x040) 15 8 ≤ s.ticks))
      ((s.freeWalker w).serve m.fn (some m.tag) m.page (.fault 0xD false))

/-! ## Aging (R228) -/

/-- One visit ages an entry of the translation cache, or removes it: also one whose age lies above an age_max that was lowered
(DESIGN CHOICE, log entry 100). -/
def State.ageXlt (s : State) (amax k : Nat) : State :=
  match s.xlt.cache.get none k with
  | none => s
  | some e => if amax ≤ e.age then (s.xltPut k none).xltCount e.fn 4 else s.xltPut k (some { e with age := e.age + 1 })

/-- One visit ages an entry of the walk cache. -/
def State.ageWalk (s : State) (amax k : Nat) : State :=
  match s.xlt.walk.get none k with
  | none => s
  | some e =>
    let put (v : Option WalkEnt) (s : State) : State := s.updXlt fun x => { x with walk := x.walk.set none k v }
    if amax ≤ e.age then (put none s).xltCount e.fn 4 else put (some { e with age := e.age + 1 }) s

/-- XLT_SWEEP_VISIT: sets in ascending order, spread evenly over a period of 2^sweep_log2 ticks (R228); the walk cache's 512 sets are
visited within the same period (log entry 12). -/
def execXltSweepVisit (set : Nat) (s : State) : Res :=
  let amax := s.fld (Blk.xlt.at 0 0x040) 6 4
  let period := 2 ^ s.fld (Blk.xlt.at 0 0x040) 3 0
  due (set == s.xlt.sweepPtr && decide (4096 * s.xlt.sweepFrom + set * period ≤ 4096 * s.ticks))
    (let s := s.updXlt fun x => { x with
       sweepPtr := (set + 1) % 4096, sweepFrom := if set = 4095 then x.sweepFrom + period else x.sweepFrom }
     if amax = 0 then s else
       let s := (List.range 8).foldl (fun s i => s.ageXlt amax (8 * set + i)) s
       if set % 8 = 0 then (List.range 8).foldl (fun s i => s.ageWalk amax (set + i)) s else s)

/-! ## Function records (R221) -/

/-- A function record (Table 8.3). -/
def recOf (d : List Byte) : FnRec :=
  if !bitAt (leAt d 0 8) 0 then {} else
    { valid := true, s2on := bitAt (leAt d 0 8) 1, s2root := 4096 * (leAt d 0 8 / 4096), tagBase := leAt d 8 8, tags := leAt d 16 2 + 1
      cap := leAt d 18 1 % 16, minEntries := leAt d 20 4 % 32768 }

/-- Bits [63:0] of a record in force, for its audit record. -/
def FnRec.raw (r : FnRec) : Nat := b2n r.valid + 2 * b2n r.s2on + r.s2root

/-- Does a record keep every rule that binds it? -/
def State.recOk (s : State) (f : Nat) (d : List Byte) : Bool :=
  let r := recOf d
  bits (leAt d 0 8) 11 2 == 0 && leAt d 8 8 % 4096 == 0 && leAt d 18 1 < 16 && leAt d 19 1 == 0 && leAt d 20 4 < 32768
  && leAt d 24 40 == 0
  && (!r.valid ||
    ((f == 0 || r.s2on)
      && decide (r.s2root < 2 ^ 50) && s.inMem r.s2root && !s.inSync r.s2root
      && decide (1 ≤ r.cap) && decide (r.cap ≤ 8)
      && decide ((s.xlt.recs.filter fun x => x.1 != f).foldl (fun n x => n + x.2.minEntries) r.minEntries ≤ 16384)))

/-- Reload the record of a function: whether it was loaded. -/
def State.reloadRec (s : State) (o : Origin) (f : Nat) : State × Bool :=
  let (s, r) := s.memRead 4 (s.reg (Blk.xlt.at 0 0x048) + 64 * f) 64
  if r.kind = 0 ∧ s.recOk f r.data then
    ((s.updXlt fun x => { x with recs := x.recs.set {} f (recOf r.data) }).audit
      { org := o, kind := 2, wide := true, space := 3, addr := f, old := (s.fnRec f).raw, new := leAt r.data 0 8 }, true)
  else (s.event { blk := .xlt, num := 2, fn := f }, false)

/-! ## Invalidation (R231, R232) -/

/-- The tag under which an operation of a message was translated. -/
def State.msgTag (s : State) : MsgSrc → Option Nat
  | .engine k => (s.ctx k).launch.map (·.tag)
  | .wq q _ => some (s.wq q).cfg.tag
  | .device => none

/-- Messages of a connection whose accesses are not yet placed or acknowledged. -/
def Conn.live (x : Conn) : List (Nat × MsgSrc) :=
  ((x.queue ++ x.cur.toList ++ x.flying).filter fun m => !m.done).map (fun m => (m.id, m.src)) ++ x.reads.map fun r => (r.msg, r.src)

/-- Remote accesses of a function under a tag (or any) that are outstanding. -/
def State.liveOps (s : State) (f : Nat) (tag : Option Nat) : List (Nat × Nat) :=
  (s.connsOf f).flatMap fun c => ((s.conn c).live.filter fun m =>
    match s.msgTag m.2 with
    | none => false
    | some t => tag.isNone || tag == some t).map fun m => (c, m.1)

/-- Is a translation within the scope of an invalidation of function `f` (R231)? -/
def invHit (scope f tag : Nat) (x : Want) : Bool :=
  x.fn == f && (if scope = 0 then x.tag == some tag else if scope = 1 then x.tag.isSome else true)

/-- The jobs that run with a translation within a scope: (queue, entry). -/
def State.jobsUnder (s : State) (hit : Want → Bool) : List (Nat × Nat) :=
  s.wqs.flatMap fun q => (q.2.jobs.filter fun j => j.stage == 2 && j.given.any fun g => hit g.want).map fun j => (q.1, j.entry)

/-- Waiting commands translate the pages within a scope again. -/
def XltWait.again (w : XltWait) (hit : Want → Bool) : XltWait :=
  { w with given := w.given.filter fun g => !hit g.want, left := w.left ++ (w.given.filter fun g => hit g.want).map (·.want) }

/-- XLT_INV_CMD in window `w`: none where the write is refused. -/
def State.invCommand (s : State) (o : Origin) (w v : Nat) : Option State :=
  let c := s.xlt.inv.get {} w
  let scope := bits v 26 25
  if c.busy || scope == 3 || (w != 0 && (bits v 24 16 != 0 || scope == 2)) then none
  else if !bitAt v 31 then some s
  else
    let f := if w = 0 then bits v 24 16 else w
    let tag := v % 65536
    let hit := invHit scope f tag
    let s := s.xltDrop f fun t => hit { fn := f, tag := t, page := 0, wr := false }
    let (s, ok) := if scope = 2 then s.reloadRec o f else (s, true)
    let mine (m : Miss) : Bool := m.fn == f && (scope != 0 || m.tag == tag)
    some (s.updXlt fun x => { x with
      walkers := x.walkers.map fun w => (w.1, w.2.map fun m => if mine m then { m with since := s.ticks } else m)
      waits := x.waits.map (·.again hit)
      inv := x.inv.set {} w { word := v, busy := true, reloadFailed := if scope = 2 then !ok else c.reloadFailed, fn := f
                              awaits := s.liveOps f (if scope = 0 then some tag else none), jobs := s.jobsUnder hit } }).askPages

/-- A refused command of window `w` shows in its status (Table 8.7). -/
def State.invRefused (s : State) (w : Nat) : State :=
  s.updXlt fun x => { x with inv := x.inv.upd {} w ({ · with refused := true }) }

/-- INV_COMPLETE: every access under a removed entry has been placed. The record goes to the function of the window (log
entry 30). -/
def execInvComplete (win : Nat) (s : State) : Res :=
  let c := s.xlt.inv.get {} win
  due (c.busy && (c.awaits.all fun x => !(s.conn x.1).live.any fun m => m.1 == x.2)
      && c.jobs.all fun x => !(s.wq x.1).jobs.any fun j => j.entry == x.2 && j.stage == 2)
    (let s := s.updXlt fun x => { x with inv := x.inv.upd {} win ({ · with busy := false, awaits := [], jobs := [] }) }
     if bitAt c.word 30 then
       s.notify win { kind := 6, src := 7 * 2 ^ 24 + c.fn, p0 := c.word % 65536 + 2 ^ 25 * bits c.word 26 25 }
     else s)

/-- XLT_FAULT_ACK in window `w` releases its capture (R230). -/
def State.faultAck (s : State) (w : Nat) : State :=
  s.updXlt fun x => if w = 0 then { x with devCap := none } else { x with fnCap := x.fnCap.set none w none }

/-! ## Copies of host translations (R233 to R236) -/

/-- A request that the host answers ends. -/
def State.atsDone (s : State) (f page : Nat) : State :=
  s.updXlt fun x => { x with ats := x.ats.filter fun a => !(a.fn == f && a.page == page) }

/-- The page class that caches a returned range of 2^log2 bytes. -/
def atsClass (log2 : Nat) : Nat := if 30 ≤ log2 then 3 else if 21 ≤ log2 then 2 else if 16 ≤ log2 then 1 else 0

/-- ATS_COMPLETION: a translation of `va` to `xlated`, the start of a range of 2^log2 bytes. One without a permission or with another
status faults the accesses that wait, and each access needs its own permission (R235). -/
def execAtsCompletion (fn va xlated log2 : Nat) (ok rd wr : Bool) (s : State) : Res :=
  match s.xlt.ats.find? fun a => a.fn == fn && a.page == va / 4096 with
  | none => .fault .notDue
  | some r =>
    dueMem s (decide (12 ≤ log2)) <|
      let s := s.atsDone fn r.page
      if !ok || (!rd && !wr) then s.serve fn none r.page (.fault 0xC false) else
        let a := 4096 * r.page
        let b := xlated - xlated % 2 ^ log2 + a % 2 ^ log2
        (s.xltFill (newEnt fn none (atsClass log2) a b rd wr)).serve fn none r.page (.host b rd wr)

/-- ATS_TIMEOUT. -/
def execAtsTimeout (fn va : Nat) (s : State) : Res :=
  match s.xlt.ats.find? fun a => a.fn == fn && a.page == va / 4096 with
  | none => .fault .notDue
  | some r => dueMem s (decide (r.since + s.fld (Blk.xlt.at 0 0x040) 23 16 ≤ s.ticks))
      ((s.atsDone fn r.page).serve fn none r.page (.fault 0xD false))

/-- ATS_INVALIDATE (R236): every ATS entry of the function goes, and the reads issued with them are awaited. -/
def execAtsInvalidate (fn : Nat) (s : State) : Res :=
  done <| (((s.xltDrop fn Option.isNone).xltCount fn 6).updXlt fun x => { x with
    atsInv := x.atsInv ++ [(fn, (s.pcieRds.filter fun r => r.at_ && (s.wq r.q).cfg.owner == fn).map fun r => (r.ctl, r.tag))]
    waits := x.waits.map (·.again fun w => w.fn == fn && w.tag.isNone) }).askPages

/-- ATS_INV_COMPLETE. -/
def execAtsInvComplete (fn : Nat) (s : State) : Res :=
  match s.xlt.atsInv.find? fun x => x.1 == fn with
  | none => .fault .notDue
  | some x =>
    due (x.2.all fun y => !s.pcieRds.any fun r => r.ctl == y.1 && r.tag == y.2)
      ((s.updXlt fun t => { t with atsInv := t.atsInv.erase x }).emit (.invDone fn))

end Sys2Proof.Machine
end

