-- ==== Sys2Proof/Machine/Access.lean ====
section
/-! DEFINITION. Machine/Access.lean: the register windows and what a read of each register returns
(17_register_reference.md R436 to R445; the register tables of every chapter). -/

namespace Sys2Proof.Machine

/-! ## Windows (17 R436 to R438) -/

/-- The window of an origin: 0 for PF0's, n for that of VF n (17 Table 17.12). -/
def winOf : Origin → Nat
  | .vf n => n
  | _ => 0

/-- Is an instance of a block present (17 R437)? -/
def State.instThere (s : State) (b : Blk) (i : Nat) : Bool :=
  match b with
  | .mac | .pcs => s.portThere i
  | .sand => s.siteThere i
  | .hbm => i == 8 || s.siteThere i
  | _ => true

/-- Is the instance not available in Primer service (17 Table 17.7)? -/
def State.deferred (s : State) (b : Blk) (i : Nat) : Bool :=
  s.glb.service != 2 && (match b with
    | .eng => true
    | .mac | .pcs => i != s.boot.primerPort
    | _ => false)

/-- A register as an access meets it: its block and instance, the register, its first offset in PF0's window, the offset of the
access there, and the offset under which it is stored (a VF's connection set-up is its own). -/
structure Hit where
  b : Blk
  i : Nat
  r : Reg
  base : Nat
  a : Nat
  key : Nat

/-- What an offset of a window leads to: a register, a reserved offset of a page (by its offset in PF0's window), or a reserved
page. -/
inductive Target where
  | reg (h : Hit)
  | hole (b : Blk) (i a : Nat)
  | nowhere

/-- The register at an offset of a page. -/
def State.inPage (s : State) (b : Blk) (i off key : Nat) : Target :=
  if !s.instThere b i && (decide (0x10 ≤ off) || off / 4 == 2) then .hole b i (b.at i off)
  else if b = .shp ∧ i = 37 ∧ 0xC00 ≤ off then .hole b i (b.at i off)
  else match findReg b i off with
    | some (r, base) => .reg { b, i, r, base := b.at i base, a := b.at i off, key := key + b.at i base }
    | none => .hole b i (b.at i off)

/-- Does `off` lie in one of the ranges (first, bytes)? -/
def inRanges (off : Nat) (rs : List (Nat × Nat)) : Bool := rs.any fun r => decide (r.1 ≤ off) && decide (off < r.1 + r.2)

/-- The view of VF `n`: page number to block and instance, and the offsets that it shows besides BLK_ID, BLK_CAP and BLK_STAT
(17 R438, Table 17.2). -/
def vfPage (n p : Nat) : Option (Blk × Nat × List (Nat × Nat)) :=
  match p with
  | 0 => some (.glb, 0, [(0x040, 4), (0x044, 4), (0x048, 4), (0x058, 8), (0x060, 4)])
  | 1 => some (.plumb, 0, [(0x040, 8), (0x04C, 4)])
  | 2 => some (.fn, 0, [(0x050, 8), (0x080, 24), (0x800, 12)])
  | 3 => some (.mbx, n, [(0x040, 12), (0x050, 8), (0x100, 512)])
  | 4 => some (.xlt, 0, [(0x050, 8), (0x064, 16), (0x078, 56)])
  | 5 => some (.psl, 0, [(0x044, 8), (0x100, 320)])
  | 6 => some (.evq, 0, [(0x040, 32)])
  | _ => none

/-- Where an access of an origin goes. -/
def State.target (s : State) (o : Origin) (off : Nat) : Target :=
  match o with
  | .vf n =>
    if 0x10000 ≤ off then .nowhere else
    match vfPage n (off / 0x1000) with
    | none => .nowhere
    | some (b, i, shown) =>
      let x := off % 0x1000
      if inRanges x ((0, 8) :: (0xC, 4) :: shown) then
        if b = .fn ∧ 0x800 ≤ x then s.inPage .fn (n / 128) (x + 16 * (n % 128)) 0
        else s.inPage b i x (if b = .psl then 2 ^ 26 * n else 0)
      else .hole b i (b.at i x)
  | _ =>
    if 0x4000000 ≤ off then .nowhere else
    match pageOf (off / 0x1000) with
    | none => .nowhere
    | some (b, i) => s.inPage b i (off % 0x1000) 0

/-! ## Values (the register tables) -/

/-- Word `i` of a list. -/
def wordAt (l : List Nat) (i : Nat) : Nat := l.getD i 0

/-- A number of 64 bits from the bytes at an offset. -/
def quad (d : List Byte) (off : Nat) : Nat := leAt d off 8

/-- BLK_CAP (17 Table 17.5). -/
def blkCap (b : Blk) (i : Nat) : Nat :=
  let has (p : Acc → Bool) : Bool := (regsOf b i).any fun r => r.flds.any fun x => p x.acc
  b2n (has (· == .rwT)) + 2 * b2n (has (· == .rwL)) + 4 * b2n (has (· == .rc))
  + 65536 * (match b with
    | .eng => 4 | .arb | .fn | .wlk => 128 | .shp => if i = 37 then 64 else 128 | .sch => 16 | _ => 1)

/-- BLK_STAT (17 Table 17.7); a change of tick length that waits counts as pending (02 R42). -/
def State.blkStat (s : State) (b : Blk) (i : Nat) : Nat :=
  let g := s.page (b.page + i)
  let failed := match b with
    | .hbm => i != 8 && (s.stack i).st == 3
    | .sand => (s.stack i).st == 3
    | .mac | .pcs => (s.port i).failed
    | _ => false
  (if !s.instThere b i then 1 else if s.deferred b i then 2 else if failed then 3 else 0)
  + 4 * b2n g.lock + 8 * b2n g.armed.isSome + 16 * b2n (!g.staged.isEmpty || (b == .plumb && s.plumb.waiting.isSome))

/-- The common header (17 Table 17.3). BLK_IRQ_FORCE (W1S) reads as zero: the spec gives no value (DESIGN CHOICE, log entry
92). -/
def State.headerVal (s : State) (b : Blk) (i off : Nat) : Nat :=
  let g := s.page (b.page + i)
  match off with
  | 0x000 => b.code + 256 * i + 2 ^ 24
  | 0x004 => blkCap b i
  | 0x00C => s.blkStat b i
  | 0x010 => g.irqStat.toNat
  | 0x01C => if g.captValid then g.captEvent + 256 + 65536 * (g.captAddr / 2 ^ 32) else 0
  | 0x020 => if g.captValid then g.captAddr % 2 ^ 32 else 0
  | 0x024 => b2n g.lock
  | 0x028 => g.chgSeq.toNat
  | 0x018 | 0x02C => 0
  | _ => s.reg (b.at i off)

/-- GLB_VARIANT (17 Table 17.9). -/
def State.variantWord (s : State) : Nat :=
  let v := s.glb.variant
  (if v = 1 then 0xFF else if v = 2 then 0x3F else 0x0F) + 256 * (if v = 1 then 1 else if v = 2 then 3 else 7)
  + 0xB0 * 65536 + 2 ^ 24 * v

/-- GLB_STAT (17 Table 17.9). -/
def State.glbStat (s : State) : Nat :=
  s.glb.service + 4 * b2n s.glb.heldImage.isSome + 8 * s.glb.heldImage.getD 0 + 64 * b2n s.glb.trial
  + 128 * b2n s.glb.tripped + 256 * s.glb.haltCause

/-- Power of the last 10 µs in units of 0.1 W: the average of the last 100 samples (16 R417). -/
def Pwr.package (p : Pwr) : Nat := (p.win.foldl (fun n x => n + x.1 + x.2) 0) / 100

/-- The full-load figure of a plan, in units of 0.1 W (16 Table 16.5). -/
def planFull (p : Nat) : Nat := [4400, 3550, 2800, 1500].getD p 1500

/-- The largest of the tick averages over the full-load figure of their plans, in units of 1/256, over the last `n` ticks. -/
def Pwr.activity (p : Pwr) (n : Nat) : Nat :=
  (p.hist.take n).foldl (fun m x => max m (256 * x.1 / max 1 (x.2.1 * x.2.2))) 0

/-- The compute die, hub, port die or island of a sensor (16 Table 16.16), and whether it is present. -/
def dieOf (n : Nat) : Nat := if n < 24 then n / 6 else if n < 28 then 4 else if n < 34 then 5 + (n - 28) / 2 else 8

/-- Is a sensor present: those of a capped port site are not. -/
def State.sensorThere (s : State) (n : Nat) : Bool :=
  decide (n < 36) && (decide (dieOf n < 5) || dieOf n == 8 || decide (8 * (dieOf n - 5) < s.portCount))

/-- Sensors present. -/
def State.sensors (s : State) : List Nat := (List.range 36).filter s.sensorThere

/-- The hottest plausible reading in units of 0.25 °C; a die whose sensors have all failed counts as 105 °C (16 R422). -/
def State.hottest (s : State) : Option Int :=
  let reads := s.sensors.filterMap fun n => let x := s.thm.sens.get {} n
                                            if x.failed then none else x.q
  let dead := (List.range 9).any fun d =>
    let ns := s.sensors.filter fun n => dieOf n == d
    !ns.isEmpty && ns.all fun n => (s.thm.sens.get {} n).failed
  let all := if dead then (420 : Int) :: reads else reads
  all.foldl (fun (m : Option Int) q => some (match m with
    | some v => max v q
    | none => q)) none

/-- THM_STAT (16 Table 16.16): in whole °C, rounded down. -/
def State.thmStat (s : State) : Nat :=
  unsigned 8 (match s.hottest with
    | some q => q / 4
    | none => 0)
  + 256 * (if s.glb.tripped then 3 else s.thm.row % 3)
  + 1024 * (s.sensors.filter fun n => (s.thm.sens.get {} n).failed).length

/-- THM_SENSn. -/
def State.thmSens (s : State) (n : Nat) : Nat :=
  let x := s.thm.sens.get {} n
  unsigned 12 (x.q.getD 0) + 4096 * b2n x.failed + 8192 * b2n (s.sensorThere n)

/-- THM_HBMm. -/
def State.thmHbm (s : State) (m : Nat) : Nat :=
  let k := s.stack m
  unsigned 8 k.temp + 256 * b2n k.tempPresent + 512 * b2n k.hot

/-- DUST_STAT (16 Table 16.13). -/
def State.dustStat (s : State) : Nat :=
  b2n (s.page Blk.dust.page).lock + 2 * b2n s.dust.silent + 4 * b2n s.dust.coreArmed + 8 * b2n s.dust.coreMiss
  + 16 * b2n s.dust.linkMiss

/-- MGMT_STAT (16 Table 16.16). -/
def State.mgmtStat (s : State) : Nat :=
  s.mgmt.eid % 256 + 256 * b2n s.mgmt.receiver.isSome + 512 * s.mgmt.evts.length + 65536 * s.nv.active
  + 2 ^ 17 * b2n s.glb.trial + 2 ^ 18 * b2n s.boot.confirmed

/-- Owner slots written and revoked (17 Table 17.16). -/
def State.fuseOwner (s : State) : Nat := 2 ^ s.nv.owner.length - 1 + 16 * s.nv.revoked.toNat

/-- KDF_STAT (14 Table 14.11). -/
def State.kdfStat (s : State) : Nat :=
  b2n s.ownerKey + 2 * s.ownerSlot + 8 * (2 ^ s.nv.owner.length - 1) + 128 * s.nv.revoked.toNat
  + 2048 * b2n ((s.page Blk.dust.page).lock && bitAt (s.reg 0x505C) 1) + 4096 * s.keySlots.length

/-- KDF_QUEUE (14 Table 14.11): the keys held are those derived and those of previous epochs within their grace. -/
def State.kdfQueue (s : State) : Nat :=
  let wait := (s.psl.deriving_.filter fun d => !s.psl.keys.contains (d.1, d.2.1)).length
  let prev := (s.psl.prevEpoch.filter fun p => decide (s.ticks < p.2.2)).length
  sat 8 wait + 256 * (s.psl.keys.length + prev)

/-- Requests that wait for the CMAC engine, by class (14 Table 14.6): a flush, key derivations, mailbox control messages, and audit
records for MRAM. Images are verified within the commands of the boot. -/
def State.cmacWaits (s : State) : List Nat :=
  [b2n s.recs.flushing, (s.psl.deriving_.filter fun d => !s.psl.keys.contains (d.1, d.2.1)).length,
   (s.mbx.filter fun x => x.2.sent && x.2.control).length, s.recs.audQueue.length, 0]

/-- CMAC_STAT (14 Table 14.12): the highest class with a request is served, the others of it and of lower classes wait (DEDUCED, log
entry 111). -/
def State.cmacStat (s : State) : Nat :=
  match firstIdx 5 fun c => s.cmacWaits.getD c 0 != 0 with
  | none => 0
  | some c => 1 + 2 * c + ((List.range 5).filter fun d => decide (b2n (d == c) < s.cmacWaits.getD d 0)).foldl (fun a d => a + 2 ^ (4 + d)) 0

/-- SEAL_STAT (09 Table 9.16). -/
def State.sealStat (s : State) : Nat :=
  match s.psl.deriving_.find? fun d => !s.psl.keys.contains (d.1, d.2.1) with
  | some d => 1 + 2 * d.1 + 1024 * s.psl.boot
  | none => 1024 * s.psl.boot

/-- ENG_CTXn_STAT (03 Table 3.9). -/
def Ctx.stat (c : Ctx) : Nat :=
  c.st + 4 * b2n c.overrun + 8 * b2n c.faulted + 256 * (c.err % 256) + 65536 * (c.slices % 65536)

/-- ENG_CTXn_FLAGS (03 Table 3.9). -/
def Ctx.flags (c : Ctx) : Nat := b2n c.nv + 2 * b2n c.of + 4 * b2n c.uf + 8 * b2n c.pz

/-- SCH_CGn_STAT (06 Table 6.2). -/
def State.cgStat (s : State) (n : Nat) : Nat :=
  let g := s.grp n
  b2n g.valid + 2 * b2n (s.collBusy n) + 4 * b2n g.stall + 65536 * (s.localRanks g).length

/-- SCH_CGn_SEQ: of the lowest-ranked local member. -/
def State.cgSeq (s : State) (n : Nat) : Nat :=
  match s.localRanks (s.grp n) with
  | r :: _ => (s.grp n).fin.get 0 r
  | [] => 0

/-- XLT_INV_STAT of a window (08 Table 8.7). -/
def State.invStat (s : State) (w : Nat) : Nat :=
  let c := s.xlt.inv.get {} w
  b2n c.busy + 2 * b2n c.refused + 4 * b2n c.reloadFailed

/-- The fault capture that a window shows (08 R237). -/
def State.capOf (s : State) (w : Nat) : Option XltCap := if w = 0 then s.xlt.devCap else s.xlt.fnCap.get none w

/-- XLT_FAULT_INFO. -/
def XltCap.info (c : XltCap) : Nat :=
  c.cause + 16 * b2n c.stage2 + 32 * b2n c.write + 64 * c.fn + 2 ^ 15 * b2n c.overflow + 65536 * c.tag

/-- SAND_STAT (07 Table 7.10). -/
def Stack.sandStat (k : Stack) : Nat :=
  let rebuilding := k.spareFor.isSome && !k.rebuilt
  (match k.repair with
    | some r => if 2 ≤ r.stage then 3 else if rebuilding then 2 else if 0 < k.initLeft then 1 else 0
    | none => if rebuilding then 2 else if 0 < k.initLeft then 1 else 0)
  + (if rebuilding then 4 * (groupsOf (k.spareFor.getD 0)).getD k.rebuildGrp 0 else 0)

/-- MAC_STAT (11 Table 11.5). -/
def State.macStat (s : State) (q : Nat) : Nat :=
  let x := s.port q
  let mask (p : Nat → Bool) : Nat := (List.range 8).foldl (fun a i => a + (if p i then 2 ^ i else 0)) 0
  b2n (x.link == 2) + 2 * b2n (x.link == 1) + 4 * b2n x.holding + 8 * b2n (x.link == 2 && x.fault)
  + 16 * mask (fun p => (s.prio q p).stalled) + 2 ^ 12 * mask (s.paused q) + 2 ^ 20 * mask (fun p => (s.prio q p).ours)
  + 2 ^ 28 * b2n x.lpiTx + 2 ^ 29 * b2n x.lpiRx + 2 ^ 30 * b2n x.silenced

/-- PCS_STAT (11 Table 11.10). What the partner signals is not given by any command (log entry 34). -/
def State.pcsStat (s : State) (q : Nat) : Nat :=
  let x := s.port q
  b2n (x.link != 0 && !x.fault) + 2 * b2n (x.fault || (x.mode != 0 && x.link == 0)) + 4 * b2n (x.mode != 0 && Config.remoteFault q s.plumb.now)
  + 8 * b2n x.training + 16 * b2n x.lpiDef
  + (if x.mode = 0 then 0 else 32 * ((x.mode - 1) * 3 + x.medium))

/-- WLK_Ww (17 Table 17.14). A walk reads its tables when it completes, so none has been read before (log entry 29). -/
def State.walkerWord (s : State) (w : Nat) : Nat :=
  match s.xlt.walkers.get none w with
  | some m => 1 + 2 * m.fn + 1024 * m.tag
  | none => 0

/-- WLK_FNf (17 Table 17.14). -/
def State.walkFn (s : State) (f : Nat) : Nat := s.walkersOf f + 16 * min 64 (s.xlt.misses.filter fun m => m.fn == f).length

/-- The box that a window sends in, and the one that it receives (13 R357). -/
def outBox (o : Origin) (n : Nat) : Nat := mbxKey n (winOf o == 0)
/-- The box that a window receives. -/
def inBox (o : Origin) (n : Nat) : Nat := mbxKey n (winOf o != 0)

/-- Is a box busy: its message is not acknowledged, or its receiver owns a replay group that replays (02 R58)? -/
def State.boxBusy (s : State) (b : Nat) : Bool := (s.box b).busy || (s.rpFn (mbxSides b).2 2).isSome

/-- MBX_STAT (13 Table 13.16). -/
def State.mbxStat (s : State) (o : Origin) (n : Nat) : Nat :=
  b2n (s.boxBusy (outBox o n)) + 2 * b2n (s.box (inBox o n)).full + 4 * b2n (s.box (inBox o n)).verified
  + 8 * b2n (s.box (outBox o n)).timedOut

/-- DBG_RPr_STAT (17 Table 17.17). -/
def Rep.stat (g : Rep) : Nat := (if g.ended then 3 else g.mode) + 4 * (if g.ended then g.reason else 0)

/-- PSL_CONN_STAT of a window (09 Table 9.14). -/
def State.connStatWord (s : State) (w : Nat) : Nat :=
  let x := s.psl.stat.get (0, 0, 0) w
  b2n (s.psl.busy.any fun b => b.1 == w) + 2 * x.1 + 16 * x.2.1 + 256 * x.2.2

/-- Contexts cached, and those pinned (10 Table 10.5). -/
def State.ctxEntries (s : State) : List Nat := s.psl.cache.filterMap fun e => e.2.map (·.conn)

/-- The value of a register as a read meets it, before what the read itself changes. `x` is its first offset in the page. An
offset beyond 32 signed bits saturates in PLUMB_OFFSET: the spec gives the register 32 bits and the offset 64 (DESIGN CHOICE,
log entry 91). -/
def State.value (s : State) (o : Origin) (h : Hit) : Nat :=
  let x := h.base % 0x1000
  let w := winOf o
  if x < 0x40 then s.headerVal h.b h.i x else
  match h.b with
  | .glb => match x with
    | 0x040 => s.variantWord | 0x044 => s.glbStat | 0x04C => s.glb.haltQ | 0x050 => s.glb.haltEntry | 0x054 => s.glb.opSec
    | 0x058 => s.tick | 0x060 => w | 0x064 => s.nocWord | _ => s.reg h.key
  | .plumb => match x with
    | 0x040 => s.plumb.now | 0x04C => s.plumbStat | 0x060 => unsigned 32 (satInt32 s.plumb.offset) | _ => s.reg h.key
  | .pwr => match x with
    | 0x044 => s.pwrStat | 0x048 => sat 16 s.pwr.package + 65536 * sat 16 (s.pwr.lastPkg / 100)
    | 0x04C => sat 16 s.pwr.lastEng + 65536 * sat 16 (s.pwr.activity (s.fld 0x2040 19 16)) | _ => s.reg h.key
  | .thm => if x = 0x040 then s.thmStat else if 0x080 ≤ x ∧ x < 0x110 then s.thmSens ((x - 0x080) / 4)
    else if 0x120 ≤ x then s.thmHbm ((x - 0x120) / 4) else s.reg h.key
  | .dust => if x = 0x068 then s.dustStat else s.reg h.key
  | .mgmt => match x with
    | 0x040 => s.mgmtStat | 0x044 => s.psl.boot | _ => s.reg h.key
  | .evr =>
    let r := s.boxRec (s.fld 0x6054 1 0) (s.fld 0x6054 4 2) (s.reg 0x6058)
    match x with
    | 0x048 => b2n s.recs.frozen + 2 * b2n s.recs.flushing + 4 * b2n s.recs.ffWritten
    | 0x04C => s.recs.prod % 65536 + 65536 * (s.recs.prod / 65536 % 65536)
    | 0x050 => s.recs.flushIdx % 65536 | 0x05C => boxStat r
    | 0x060 => match s.recs.freezeFirst with
      | some e => e.code + 2 ^ 32 * e.source
      | none => 0
    | _ => if 0x100 ≤ x then quad (boxData r) (x - 0x100) else s.reg h.key
  | .aud =>
    let r := s.audRec (s.reg 0x7050)
    match x with
    | 0x048 => s.recs.audProd % 2 ^ 20 + 2 ^ 20 * (s.recs.audProd / 2 ^ 20 % 4096)
    | 0x04C => s.recs.audMramProd % 65536 + 65536 * s.recs.audQueue.length
    | 0x054 => match r with
      | some (_, .verified) => 1
      | some (_, .untagged) => 2
      | _ => 0
    | _ => if 0x100 ≤ x then (match r with
        | some (y, _) => quad y.bytes (x - 0x100)
        | none => 0) else s.reg h.key
  | .hlth => if x = 0x048 then b2n s.hlth.cmd.isSome + 2 * s.hlth.outcome
    else if 0x100 ≤ x then s.tileWord ((x - 0x100) / 4) else s.reg h.key
  | .stip => if x = 0x048 then s.hlth.checks.length else s.reg h.key
  | .sch => if x = 0x040 then s.sched.length
    else if 0x400 ≤ x ∧ x < 0x800 ∧ x % 0x40 = 0x1C then s.cgStat ((x - 0x400) / 0x40)
    else if 0x400 ≤ x ∧ x < 0x800 ∧ x % 0x40 = 0x20 then s.cgSeq ((x - 0x400) / 0x40) else s.reg h.key
  | .xlt => match x with
    | 0x054 => s.invStat w
    | 0x064 => ((s.capOf w).map XltCap.info).getD 0
    | 0x068 => ((s.capOf w).map (·.va)).getD 0
    | _ => if 0x078 ≤ x ∧ w ≠ 0 then s.xlt.fnCnt.get 0 (8 * w + (x - 0x078) / 8) else s.reg h.key
  | .psl => match x with
    | 0x048 => s.connStatWord w | 0x064 => b2n s.psl.mrInv.isSome
    | _ => if 0x140 ≤ x ∧ x < 0x240 then quad (s.psl.view.get [] w) (x - 0x140) else s.reg h.key
  | .ctx => match x with
    | 0x044 => s.ctxEntries.length | 0x048 => (s.ctxEntries.filter fun c => (s.conn c).pinned).length | _ => s.reg h.key
  | .seal => if x = 0x044 then s.sealStat else s.reg h.key
  | .kdf => match x with
    | 0x040 => s.kdfStat | 0x044 => s.kdfQueue | _ => s.reg h.key
  | .core => if x = 0x044 then s.coreStat else s.reg h.key
  | .fuse => match x with
    | 0x040 => s.nv.policy | 0x044 => s.fuseOwner
    | 0x060 => (List.range 8).foldl (fun a j => a + 256 ^ j * (Config.vendor 2 j % 256)) 0
    | 0x068 => s.nv.tileEn.toNat
    | _ => if 0x050 ≤ x ∧ x < 0x060 then s.nv.minVer.get 0 ((x - 0x050) / 4 + 1) else 0
  | .dbg => if x = 0x040 then b2n s.dbgPort
    else if 0x100 ≤ x ∧ x < 0x200 ∧ x % 0x40 = 0x28 then (s.rep ((x - 0x100) / 0x40)).stat
    else if 0x100 ≤ x ∧ x < 0x200 ∧ x % 0x40 = 0x2C then (s.rep ((x - 0x100) / 0x40)).seq % 2 ^ 32
    else if 0x100 ≤ x ∧ x < 0x200 ∧ x % 0x40 = 0x30 then ((s.rep ((x - 0x100) / 0x40)).start).getD 0 else s.reg h.key
  | .evq =>
    let v := s.evqViews.get {} w
    match x with
    | 0x044 => 2 * b2n v.refused | 0x048 => wordAt v.w 0 | 0x04C => wordAt v.w 1 | 0x050 => wordAt v.w 2
    | 0x058 => wordAt v.w 3 | _ => 0
  | .eng =>
    let k := 4 * h.i + (x - 0x050) / 16
    match x with
    | 0x040 => s.engMap h.i
    | 0x044 => (s.eng h.i).interval.getD 0 + 4 * b2n (s.eng h.i).ovr + 8 * b2n (s.eng h.i).switching.isSome
    | _ => if x < 0x090 ∧ x % 16 = 8 then (s.ctx k).stat else if x < 0x090 ∧ x % 16 = 12 then (s.ctx k).flags else s.reg h.key
  | .hbm => if h.i = 8 then
      (if x = 0x054 then 2 * b2n s.mem.flip.isSome + 4 * b2n s.mem.diagRefused else s.reg h.key)
    else
      let k := s.stack h.i
      match x with
      | 0x040 => s.stackStat h.i | 0x044 => k.retired.toNat | 0x050 => b2n k.repair.isSome + 2 * k.repairOut | _ => s.reg h.key
  | .sand =>
    let k := s.stack h.i
    match x with
    | 0x048 => k.sandStat | 0x04C => k.rebuildPtr | 0x050 => k.initLeft | _ => s.reg h.key
  | .wlk => if x = 0x040 then (s.xlt.walkers.filter fun e => e.2.isSome).length
    else if x < 0x800 then s.walkerWord ((x - 0x080) / 4) else s.walkFn (128 * h.i + (x - 0x800) / 4)
  | .arb => if x = 0x058 then s.arb.sampProd % 65536 + 65536 * (s.arb.sampProd / 65536 % 65536) else s.reg h.key
  | .fn =>
    let v := s.wqViews.get {} w
    if x = 0x054 then 2 * b2n v.refused
    else if 0x080 ≤ x ∧ x < 0x098 then wordAt v.w ((x - 0x080) / 4)
    else if 0x800 ≤ x ∧ x % 16 = 0 then s.fnStat (128 * h.i + (x - 0x800) / 16) else s.reg h.key
  | .mac => match x with
    | 0x044 => s.macStat h.i
    | 0x054 => (s.port h.i).lpiWake % 65536 + 65536 * b2n (s.port h.i).lpiDone
    | _ => s.reg h.key
  | .pcs => if x = 0x040 then s.pcsStat h.i else s.reg h.key
  | .mbx => match x with
    | 0x044 => s.mbxStat o h.i
    | 0x050 => (s.box (outBox o h.i)).seq % 2 ^ 32 | 0x054 => (s.box (inBox o h.i)).inSeq % 2 ^ 32
    | _ => if 0x200 ≤ x then ((s.box (inBox o h.i)).inbox.get 0 ((x - 0x200) / 8)).toNat
      else if 0x100 ≤ x then ((s.box (outBox o h.i)).out.get 0 ((x - 0x100) / 8)).toNat else s.reg h.key
  | .cmac => if x = 0x040 then s.cmacStat else s.reg h.key
  | _ => s.reg h.key

/-! ## Reads (00 R12, R13; 17 R437, R444) -/

/-- A counter that counts for one VF (08 R237), by its index. -/
def vfCounter (o : Origin) (h : Hit) : Option Nat :=
  if winOf o ≠ 0 ∧ h.b = .xlt ∧ 0x078 ≤ h.base % 0x1000 then some (8 * winOf o + (h.base % 0x1000 - 0x078) / 8) else none

/-- The counter is cleared by a read. -/
def State.clearCounter (s : State) (o : Origin) (h : Hit) : State :=
  match vfCounter o h with
  | some i => s.updXlt fun x => { x with fnCnt := x.fnCnt.set 0 i 0 }
  | none => s.setReg h.key 0

/-- A read of 8 bytes of a 64-bit register. -/
def State.readWide (s : State) (o : Origin) (h : Hit) : State × Nat :=
  let v := s.value o h
  if h.r.flds.all fun x => x.acc == .wo then (s, 0)
  else if h.r.flds.any fun x => x.acc == .rc then (s.clearCounter o h, v) else (s, v)

/-- A read of the low half of a register that leaves a snapshot of the whole, for the read of the high half that follows. -/
def State.keepSnap (s : State) (key v : Nat) : State := { s with snaps := s.snaps.insert key (BitVec.ofNat 64 v) }

/-- A read of 4 bytes: the low half of a counter leaves a snapshot of the whole and clears it, and the high half then returns
that of the snapshot (R13); with no snapshot the value is free (log entry 1). PLUMB_NOW leaves one too (02 R34), and its high
half with no snapshot is the counter's. -/
def State.readNarrow (s : State) (o : Origin) (off : Nat) : State × Nat :=
  match s.target o off with
  | .nowhere => (s, 0)
  | .hole _ _ _ => (s, 0)
  | .reg h =>
    let v := s.value o h
    let key := winReg (winOf o) h.base
    if h.r.flds.all fun x => x.acc == .wo then (s, 0)
    else if h.r.flds.any fun x => x.acc == .rc then
      if h.a = h.base then
        ((s.clearCounter o h).keepSnap key v, v % 2 ^ 32)
      else match s.snaps.find key with
        | some w => ({ s with snaps := s.snaps.erase key }, w.toNat / 2 ^ 32)
        | none => let (w, s) := s.free; (s, w.toNat % 2 ^ 32)
    else if h.b == .plumb && h.base == 0x1040 then
      if h.a = h.base then (s.keepSnap key v, v % 2 ^ 32)
      else match s.snaps.find key with
        | some w => ({ s with snaps := s.snaps.erase key }, w.toNat / 2 ^ 32)
        | none => (s, v / 2 ^ 32)
    else (s, v / 2 ^ (8 * (h.a - h.base)) % 2 ^ 32)

/-- A register read of 4 or 8 bytes (R444); one that is not naturally aligned reads as zero (13 R341). -/
def State.readReg (s : State) (o : Origin) (off : Nat) (wide : Bool) : State × Nat :=
  if off % (if wide then 8 else 4) ≠ 0 then (s, 0)
  else if wide then
    match s.target o off with
    | .reg h => if h.r.size = 8 then s.readWide o h else
        let (s, a) := s.readNarrow o off
        let (s, b) := s.readNarrow o (off + 4)
        (s, a + 2 ^ 32 * b)
    | _ =>
      let (s, a) := s.readNarrow o off
      let (s, b) := s.readNarrow o (off + 4)
      (s, a + 2 ^ 32 * b)
  else s.readNarrow o off

end Sys2Proof.Machine
end

