-- ==== Sys2Proof/Machine/Registers.lean ====
section
/-! DEFINITION. Machine/Registers.lean: register writes: who may write, what is refused, what is held or staged, and what
each command register does (00_scope.md R14; 17_register_reference.md R438 to R448). -/

namespace Sys2Proof.Machine

/-- A write of 4 or 8 bytes to a register, by what it meets: `sh` is the first bit written. -/
structure RegWrite where
  o : Origin
  h : Hit
  sh : Nat := 0
  wide : Bool := false
  v : Nat

/-- The bits of the register that a write covers. -/
def RegWrite.bm (w : RegWrite) : Nat := (2 ^ (if w.wide then 64 else 32) - 1) <<< w.sh

/-- The value offered, in the place that it has in the register. -/
def RegWrite.new (w : RegWrite) : Nat := w.v <<< w.sh

/-- The offset in PF0's window of the access. -/
def RegWrite.addr (w : RegWrite) : Nat := w.h.base + w.sh / 8

/-- The written bytes of a register's contents. -/
def RegWrite.cut (w : RegWrite) (x : Nat) : Nat := (x &&& w.bm) >>> w.sh

/-- `x` without the bits of `m`. -/
def without (x m : Nat) : Nat := x - (x &&& m)

/-- `x` with the bits of `m` taken from `y`. -/
def merge (x y m : Nat) : Nat := without x m + (y &&& m)

/-! ## Origins (17 Table 17.12) -/

/-- Do the accesses of an origin arrive? -/
def State.reaches (s : State) (o : Origin) : Bool :=
  match o with
  | .pf0 => decide (2 ≤ s.boot.stage) && !s.boot.romOnly
  | .vf n => decide (2 ≤ s.boot.stage) && !s.boot.romOnly && decide (1 ≤ n) && decide (n < 512) && (s.fn n).st != 0
  | .core n => decide (2 ≤ s.boot.stage) && decide (n < 16) && s.coreOnline n
  | .link | .island => decide (2 ≤ s.boot.stage)
  | .debug => s.dbgPort

/-- May an origin write a register of a page it reaches (17 Table 17.12; 07 R207, 04 R121, 13 R364, 14 R386)? -/
def mayWrite (o : Origin) (b : Blk) (i x : Nat) : Bool :=
  let diag := b == .hbm && i == 8 && decide (0x044 ≤ x)
  let kick (core : Bool) := b == .dust && x == (if core then 0x060 else 0x064)
  let fe := b == .dbg && x == 0x204
  let ctrl := b == .core && x == 0x040
  match o with
  | .pf0 => !kick true && !kick false
  | .debug => !kick true && !kick false && !ctrl
  | .vf _ => match b with
    | .fn => x == 0x050 || (decide (0x800 ≤ x) && x % 16 == 4)
    | .mbx => decide (0x040 ≤ x) && x != 0x048
    | .xlt | .psl | .evq => decide (0x040 ≤ x)
    | _ => false
  | .core _ => b != .dbg && !diag && !kick false && !(b == .fn && decide (0x800 ≤ x) && x % 16 == 8)
  | .link => b != .dbg && !diag && !kick true && !kick false && !ctrl
  | .island => !fe && !diag && !kick true && !ctrl

/-! ## Refusals (00 R14; 17 R437, R452) -/

/-- What a refused command register shows in its status register; a mailbox send to the owner of a group that replays counts
as dropped (02 R58). -/
def State.markRefused (s : State) (w : RegWrite) : State :=
  let win := winOf w.o
  match w.h.b, w.h.base % 0x1000 with
  | .dbg, 0x044 => s.setReg 0x14048 2
  | .dbg, 0x204 => s.setReg 0x14218 (s.reg 0x14218 % 4 + 4)
  | .hbm, 0x050 => if w.h.i = 8 then { s with mem := { s.mem with diagRefused := true } } else s
  | .xlt, 0x050 => s.invRefused win
  | .fn, 0x050 => { s with wqViews := s.wqViews.upd {} win ({ · with refused := true }) }
  | .evq, 0x040 => { s with evqViews := s.evqViews.upd {} win ({ · with refused := true }) }
  | .hlth, 0x044 => { s with hlth := { s.hlth with outcome := 2 } }
  | .mbx, 0x040 => if bitAt w.v 0 then (match s.rpFn (mbxSides (outBox w.o w.h.i)).2 2 with
      | some r => s.updRep r fun g => { g with dropped := g.dropped + 1 }
      | none => s) else s
  | _, _ => s

/-- A write to a register is refused. -/
def State.refuseReg (s : State) (w : RegWrite) : State :=
  (s.markRefused w).refuse w.o w.addr (w.cut (s.value w.o w.h)) w.v w.wide

/-- A write to a reserved page is refused: event 0x1F of GLB with the offset in the window. -/
def State.refuseNowhere (s : State) (o : Origin) (off v : Nat) : State :=
  let a : Aud := { org := o, kind := 3, addr := off, new := v }
  (s.audit a).event {
    blk := .glb, num := 0x1F, fn := originFn o, p0 := off, p1 := v % 2 ^ 32, p2 := v / 2 ^ 32 % 2 ^ 32, p3 := a.origin }

/-! ## Rules that an immediate write must meet -/

/-- May a register take the value `full` at once (17 R450, 02 R35, 14 R374, 11 R316, 13 R358, 06 R184, 07 R207, 13 Table
13.19)? The rules of command registers are met in their effects. -/
def State.writeOk (s : State) (w : RegWrite) (old full : Nat) : Bool :=
  let x := w.h.base % 0x1000
  let i := w.h.i
  match w.h.b with
  | .glb => x != 0x048 || ((s.conns.all fun c => c.2.st == 0) && s.grps.all fun g => !g.2.valid)
  | .plumb => if x = 0x068 then s.plumbRoot
    else if 0x050 ≤ x ∧ x < 0x060 then !bitAt full 31 || bitAt (s.reg 0x48) 31 else true
  | .sch => x != 0x800 || decide (s.tick < full)
  | .core => if x < 0x100 then true else
    match x % 0x20 with
    | 0x00 => !bitAt (s.reg (w.h.base + 8)) 31 || full == old
    | 0x08 => !bitAt old 31 || bits full 4 0 == bits old 4 0
    | 0x0C => s.postOk (w.h.base - 0xC) full
    | _ => true
  | .mac =>
    let m := s.modeSet i
    x != 0x050 || !bitAt full 0
      || ((m.1 == 0 || Config.phyLpi ((m.1 - 1) * 3 + m.2)) && !(s.glb.service == 1 && i == s.boot.primerPort))
  | .mbx => if 0x100 ≤ x then !s.boxBusy (outBox w.o i) else true
  | .pcie => x != 0x040 || bits full 9 1 == 0
      || !(List.range 4).any fun j => j != i && s.fld (Blk.pcie.at j 0x040) 9 1 == bits full 9 1
  | .hbm => !(i == 8 && x == 0x044) || s.mem.flip.isNone || full == old
  | _ => true

/-! ## What command registers do -/

/-- One period of hb_ms in counts. -/
def State.hbNs (s : State) : Nat := 1000000 * s.fld 0x4058 6 0

/-- Is the application cores' heartbeat required? -/
def State.hbCore (s : State) : Bool := bitAt (s.reg 0x4058) 7

/-- Periods of hb_ms that have ended since the last look are counted (16 R425). -/
def State.rollPeriods (s : State) : Dust :=
  let d := s.dust
  let n := (s.plumb.now - d.period) / max 1 s.hbNs
  if !d.silent || n = 0 then d else
    { d with
      run := if n = 1 ∧ d.linkIn ∧ (d.coreIn ∨ !s.hbCore) then d.run + 1 else 0
      linkIn := false, coreIn := false, period := d.period + n * s.hbNs }

/-- A kick: valid where its token is the previous one plus one, or the first. -/
def State.kick (s : State) (core : Bool) (tok : Nat) : State :=
  let d := s.rollPeriods
  let ok := match if core then d.coreTok else d.linkTok with
    | none => true
    | some p => tok == (p + 1) % 256
  { s with dust :=
    if core then { d with coreTok := some tok, coreAt := if ok then s.plumb.now else d.coreAt, coreIn := d.coreIn || ok }
    else { d with linkTok := some tok, linkAt := if ok then s.plumb.now else d.linkAt, linkIn := d.linkIn || ok } }

/-- A change of PLUMB_CFG.role (02 R35, R39). `was` is the role before. -/
def State.roleChange (s : State) (was : Bool) (st port : Nat) : State :=
  if s.plumbRoot = was then s
  else if s.plumbRoot then
    let s := s.updPlumb fun x => { x with c := 0, use := none, holdAt := none }
    if st = 2 then s else s.event {
      blk := .plumb, num := 1, p0 := 2 + 4 * st, p2 := port
      p3 := unsigned 32 (satInt32 s.plumb.offset) }
  else (s.updPlumb fun x => { x with st := 2 }).alignTo 0

/-- SCH_DOMRST (06 R185); the reset sequence is the boot count (log entry 35). -/
def State.domStart (s : State) (g : Nat) : Option State :=
  let gr := s.grp g
  if gr.valid && gr.owner == 0 && s.rankLocal g 0 && s.boot.dom.isNone then
    some ((s.domSend g s.psl.boot).domCheck)
  else none

/-- DBG_CTX_CMD with go set (17 R458). A context that its owner's mask holds stays held. -/
def State.ctxCommand (s : State) (v : Nat) : Option State :=
  let k := 4 * bits v 5 0 + bits v 7 6
  let s := s.setReg 0x14048 0
  if !bitAt v 31 || bits v 9 8 = 0 then some s
  else if 48 ≤ bits v 5 0 then none
  else if bits v 9 8 = 1 then some ((s.holdCtx k).updCtx k ({ · with dbgHold := true }))
  else
    let s := s.updCtx k ({ · with dbgHold := false })
    some (if (s.fn (s.owner k)).st = 2 then s else s.releaseCtx k)

/-- One word of a region or of the sync region, as an override finds it: data, state and poison. -/
structure OvWord where
  data : Nat
  full : Bool
  bad : Bool

/-- The audit record of an override (15 R407, Table 15.10). -/
def feAudit (o : Origin) (target word : Nat) (x : OvWord) (full : Bool) (data : Nat) : Aud :=
  { org := o, kind := 0, sec := true, wide := true, oldFull := x.full, newFull := full, target, space := 4, addr := word
    old := x.data, new := data }

/-- DBG_FE_CMD (04 R121, Tables 4.12, 4.13). -/
def State.feCommand (s : State) (o : Origin) (cmd : Nat) : Option State :=
  let tg := s.reg 0x14200
  let k := 4 * bits tg 5 0 + bits tg 7 6
  let sync := bitAt tg 8
  let off := s.reg 0x14208
  let a := s.tsAddr k off
  let at_ := s.syncBase + off
  let data := s.reg 0x14210
  if 48 ≤ bits tg 5 0 ∨ (s.ctx k).st ≠ 3 ∨ (if sync then s.infraBase - s.syncBase else s.regionSize k) < off + 8 then none else
  let (s, x) : State × OvWord :=
    if sync then
      let (s, r) := s.memRead 3 at_ 8
      let (s, full) := s.syncFull (s.syncWord at_) 3
      (s, { data := leNat r.data, full, bad := r.kind != 0 || s.sideBad (s.syncWord at_) })
    else (s, { data := leNat (s.tsBytes a 8), full := s.tsFull (a / 8), bad := s.tsBad a 8 })
  let full := if cmd = 2 ∨ cmd = 4 then true else if cmd = 3 ∨ cmd = 5 then false else x.full
  let write := decide (1 ≤ cmd) && decide (cmd ≤ 3)
  let s := if write then
      (if sync then (s.memWrite 3 at_ (leBytes 8 data) (some full)).1 else s.tsWrite a (leBytes 8 data) (some full) false)
    else if cmd = 0 then s.setReg 0x14210 x.data
    else if sync then s.setSide (s.syncWord at_) 1 3 full
    else s.tsMark [a / 8] full
  let s := s.setReg 0x14218 (b2n (full || (x.bad && !write)) + 2 * b2n (x.bad && !write))
  some (if cmd = 0 then s else s.audit (feAudit o (tg % 512) (off / 8) x full (if write then data else x.data)))

/-- FN_WQ_VIEW_CMD of a window (13 R364). -/
def State.wqViewCmd (s : State) (win v : Nat) : Option State :=
  let w := s.wq (bits v 15 0)
  if !bitAt v 31 then some s
  else if win ≠ 0 ∧ w.cfg.owner ≠ win then none
  else some { s with wqViews := s.wqViews.set {} win {
    refused := false
    w := [w.st + 4 * b2n ((s.fn w.cfg.owner).st == 2), w.c, w.p, w.cqProd, w.depth, w.delay] } }

/-- EVQ_VIEW_CMD of a window (17 R456). -/
def State.evqViewCmd (s : State) (win v : Nat) : Option State :=
  let e := s.evqs.get {} (bits v 11 0)
  if !bitAt v 31 then some s
  else if win ≠ 0 ∧ e.owner ≠ win then none
  else some { s with evqViews := s.evqViews.set {} win {
    refused := false
    w := [b2n e.valid + 2 * e.owner + 1024 * e.log2 + 32768 * e.vector + 2 ^ 20 * b2n e.armed, e.prod % 2 ^ 32, e.cons, e.lost] } }

/-- MBX_CTRL (13 R358). -/
def State.mbxCommand (s : State) (o : Origin) (n v : Nat) : Option State :=
  let b := outBox o n
  let inb := inBox o n
  if winOf o ≠ 0 ∧ bitAt v 3 then none
  else if bitAt v 0 && s.boxBusy b then none
  else
    let s := if bitAt v 1 && (s.box inb).full then s.mbxAck inb else s
    let s := if bitAt v 2 && (s.box b).timedOut then s.mbxCancel b else s
    some (if bitAt v 0 then s.mbxSend b (bitAt v 3) else s)

/-- Is the unit of an HLTH_CMD test out of use (15 R400)? -/
def State.idleUnit (s : State) (kind i : Nat) : Bool :=
  match kind with
  | 1 => s.portThere i && s.fld (macReg i 0x040) 2 0 == 0
  | 2 => decide (i < 2) && decide (2 ≤ s.noc.st i)
  | 3 => decide (i < 16) && s.cores.offline.getLsbD i
  | _ => true

/-- HBM_DIE_RETIRE (07 R201): the die retires at the next boundary. -/
def State.retireCmd (s : State) (m v : Nat) : Option State :=
  let d := bits v 3 0
  let k := s.stack m
  if !bitAt v 31 then some s
  else if d = 15 ∧ k.spareFor.isSome then none
  else some (if k.retired.getLsbD d || k.pendDie.any (·.1 == d) then s
    else s.updStack m fun k => { k with pendDie := k.pendDie ++ [(d, 2, s.ticks)] })

/-- What the write does, with its plain fields stored: none where it is refused. `old` is what the register held, `new` the bits
written. -/
def State.effect (t s : State) (w : RegWrite) (old new : Nat) : Option State :=
  let i := w.h.i
  let x := w.h.base % 0x1000
  let win := winOf w.o
  match w.h.b with
  | .dust => if x = 0x060 ∨ x = 0x064 then some (s.kick (x = 0x060) (new % 256)) else some s
  | .plumb => if x = 0x048 then some (s.roleChange t.plumbRoot t.alignSt (t.upPort.getD 0xFF))
    else if x = 0x068 then some (s.stepTo new)
    else if 0x050 ≤ x ∧ x < 0x060 then
      some ((s.updPlumb fun p => { p with ups := p.ups.erase ((x - 0x050) / 4) }).reselect false)
    else some s
  | .evr => if x = 0x040 then some (if bitAt new 0 then s.freeze else s.unfreeze)
    else if x = 0x044 then some (if bitAt new 0 then s.startFlush none false else s) else some s
  | .hlth => if x = 0x044 then hlthCommand s new (s.idleUnit (bits new 9 8) (bits new 5 0)) else some s
  | .sch => if x = 0x800 then some (s.setReg 0xA810 1)
    else if x = 0x814 then (if bitAt new 31 then s.domStart (new % 16) else some s)
    else if 0x400 ≤ x ∧ x < 0x800 ∧ x % 0x40 = 0x24 then
      some (if bitAt new 0 then s.cancelGroup ((x - 0x400) / 0x40) else s)
    else some s
  | .xlt => if x = 0x050 then s.invCommand w.o win new
    else if x = 0x070 then some (if bitAt new 0 then s.faultAck win else s) else some s
  | .psl => if x = 0x044 then s.connCommand win new
    else if x = 0x060 then
      (if !bitAt new 31 then some s else if s.psl.mrInv.isSome then none else some (s.mrInvStart (new % 65536)))
    else some s
  | .core => if x = 0x050 then some (if bitAt new 31 then s.nbDrop (new % 16384) else s)
    else if 0x300 ≤ x then some s.coreSend else some s
  | .dbg => if x = 0x044 then s.ctxCommand new else if x = 0x204 then s.feCommand w.o (new % 8) else some s
  | .evq => if x = 0x040 then s.evqViewCmd win new else some s
  | .fn => if x = 0x050 then s.wqViewCmd win new
    else if 0x800 ≤ x ∧ x % 16 = 8 then s.fnCommand (128 * i + (x - 0x808) / 16) new else some s
  | .hbm => if i = 8 then
      (if x = 0x050 then (if s.diagOk (new % 8) then some (diagCommand s (new % 8)) else none) else some s)
    else if x = 0x048 then s.retireCmd i new
    else if x = 0x04C then
      some (if bitAt new 31 then s.requestRepair i (bits new 5 0) (bits new 9 6) (bits new 24 10) else s)
    else some s
  | .eng => if x < 0x090 ∧ x % 16 = 12 then
      some (s.updCtx (4 * i + (x - 0x05C) / 16) fun c => { c with
        nv := c.nv && !bitAt new 0, of := c.of && !bitAt new 1, uf := c.uf && !bitAt new 2, pz := c.pz && !bitAt new 3 })
    else some s
  | .mbx => if x = 0x040 then s.mbxCommand w.o i new
    else if 0x100 ≤ x ∧ x < 0x200 then
      some (s.updBox (outBox w.o i) fun m => { m with
        out := m.out.upd 0 ((x - 0x100) / 8) fun y => BitVec.ofNat 64 (merge y.toNat new w.bm) })
    else some s
  | .mac => if x = 0x050 ∧ bitAt old 0 ∧ !bitAt new 0 then some (s.wakePort i) else some s
  | _ => some s

/-! ## The common header (17 R440 to R443, 02 R45) -/

/-- BLK_IRQ_STAT: bits written 1 are cleared, and with its bit the first captured address (R442). -/
def State.irqClear (s : State) (pg v : Nat) : State :=
  s.updPage pg fun g => { g with
    irqStat := g.irqStat &&& ~~~(BitVec.ofNat 32 v)
    captValid := g.captValid && !bitAt v g.captEvent }

/-- BLK_IRQ_FORCE (R440). -/
def State.irqForce (s : State) (b : Blk) (i v : Nat) : State :=
  let pg := b.page + i
  let g := s.page pg
  let en := s.reg (0x1000 * pg + 0x14)
  let s := (List.range 32).foldl (fun t e =>
    if bitAt v e && bitAt en e && !g.irqStat.getLsbD e then t.notify 0 (Ev.toEvq { blk := b, inst := i, num := e } true) else t) s
  s.updPage pg fun g => { g with irqStat := g.irqStat ||| BitVec.ofNat 32 v }

/-- BLK_COMMIT (R45): none where the value names no boundary, or one more than 2^20 ticks ahead. -/
def State.arm (s : State) (pg v : Nat) : Option State :=
  let low := v % 2 ^ 31
  let next := s.tick + 1
  let tick := next + (low + 2 ^ 31 - next % 2 ^ 31) % 2 ^ 31
  if !bitAt v 31 then
    (if low = 0 then some (s.updPage pg fun g => { g with armed := some none }) else none)
  else if s.tick + 2 ^ 20 < tick then none
  else some (s.updPage pg fun g => { g with armed := some (some low) })

/-- BLK_LOCK (R443, 16 R423): set by PF0, firmware, the management link and the debug port. -/
def State.setLock (s : State) (pg v : Nat) : Option State :=
  if !bitAt v 0 then some s
  else if pg = Blk.dust.page ∧ !bitAt (s.reg 0x405C) 1 then none
  else some (s.updPage pg ({ · with lock := true }))

/-! ## One write -/

/-- The bits of a register that a write of it changes at once. -/
def Reg.now (r : Reg) : Nat := r.mask fun a => a == .rw || a == .rwL

/-- The bits of a register that stage. -/
def Reg.later (r : Reg) : Nat := r.mask (· == .rwT)

/-- Does the write carry only bits of status that a 1 clears, or message bytes of MBX_OUT (15 R407)? -/
def RegWrite.quiet (w : RegWrite) : Bool :=
  (w.h.r.flds.all fun x => x.acc == .w1c) || (w.h.b == .mbx && decide (0x100 ≤ w.h.base % 0x1000))

/-- The header registers that software writes. -/
def State.headerWrite (s : State) (w : RegWrite) : Option State :=
  let pg := w.h.b.page + w.h.i
  match w.h.base % 0x1000 with
  | 0x010 => some (s.irqClear pg w.new)
  | 0x018 => some (s.irqForce w.h.b w.h.i w.new)
  | 0x024 => s.setLock pg w.new
  | 0x02C => s.arm pg w.new
  | _ => some s

/-- Staging a new epoch starts the derivation of its key (09 R268); one staged before for the entry is not derived. -/
def State.stageEpoch (s : State) (w : RegWrite) : State :=
  if w.h.b = .seal ∧ 0x800 ≤ w.h.base % 0x1000 then
    let n := (w.h.base % 0x1000 - 0x800) / 4
    s.updPsl fun p => { p with
      deriving_ := (p.deriving_.filter fun d => d.1 != n) ++ [(n, w.v, false)]
      keys := p.keys.filter fun k => k.1 != n || k.2 == s.epoch n || k.2 == w.v }
  else s

/-- A write is held for its commit. -/
def State.stage (s : State) (w : RegWrite) : State :=
  (s.updPage (w.h.b.page + w.h.i) fun g => { g with
    staged := g.staged ++ [{ org := w.o, off := w.addr, wide := w.wide, val := w.v }] }).stageEpoch w

/-- An immediate write applies, with its effect and its audit record, or is refused. -/
def State.applyNow (s : State) (w : RegWrite) (stagedToo : Bool) : State :=
  let old := s.reg w.h.key
  let m := w.h.r.now &&& w.bm
  let full := merge old w.new m
  if !s.writeOk w old full then s.refuseReg w else
    let t := if w.h.b = .mbx ∧ 0x100 ≤ w.h.base % 0x1000 then s else if m = 0 then s else s.setReg w.h.key full
    let r := if w.h.base % 0x1000 < 0x40 then t.headerWrite w else State.effect s t w old (w.new &&& w.bm)
    match r with
    | none => s.refuseReg w
    | some t =>
      let t := if w.quiet then t else
        let cmd := w.h.r.mask (fun a => a == .wo || a == .w1s)
        t.auditWrite w.o w.addr (w.cut (s.value w.o w.h)) (w.cut (merge (s.value w.o w.h) w.new (w.h.r.now ||| cmd))) w.wide
      if stagedToo then t.stage w else t

/-- A write that meets a register whole (00 R14; 17 R443, R446). -/
def State.regPut (s : State) (w : RegWrite) : State :=
  let r := w.h.r
  let pg := w.h.b.page + w.h.i
  let full := merge (s.reg w.h.key) w.new w.bm
  let locked := (s.page pg).lock && (r.mask (· == .rwL) &&& w.bm) != 0
  let some_ := r.mask fun a => a != .ro && a != .rc && a != .rwT
  if r.readOnly || !mayWrite w.o w.h.b w.h.i (w.h.base % 0x1000) || s.glb.service == 3 || !r.legal w.bm w.new full || locked then
    s.refuseReg w
  else
    let later := (r.later &&& w.bm) != 0
    if s.deferred w.h.b w.h.i && decide (0x40 ≤ w.h.base % 0x1000) && (r.flds.any fun x => x.acc == .rw || x.acc == .rwT) then s.stage w
    else if (some_ &&& w.bm) != 0 then s.applyNow w later
    else if later then s.stage w
    else s

/-! ## Accesses of 4 and 8 bytes (17 R444) -/

/-- Is the low half of a write to this register held? -/
def Reg.halves (r : Reg) : Bool := r.size == 8 && !r.wide && !r.readOnly

/-- A held half that another origin's write discards is counted as a refused write. -/
def State.dropHalf (s : State) (o : Origin) (h : Hit) : State :=
  match s.halves.find? fun x => x.off == h.key with
  | some x => if x.org = o then s else
      { s with halves := s.halves.filter fun y => y.off != h.key }.refuseReg { o := x.org, h := { h with a := h.base }, v := x.lo }
  | none => s

/-- A write of 4 bytes. -/
def State.writeNarrow (s : State) (o : Origin) (off v : Nat) : State :=
  match s.target o off with
  | .nowhere => s.refuseNowhere o off v
  | .hole _ _ a => s.refuse o a 0 v
  | .reg h =>
    if h.r.halves && mayWrite o h.b h.i (h.base % 0x1000) then
      let s := s.dropHalf o h
      if h.a = h.base then
        { s with halves := (s.halves.filter fun y => y.off != h.key) ++ [{ off := h.key, org := o, lo := v }] }
      else
        let lo := ((s.halves.find? fun x => x.off == h.key).map (·.lo)).getD (s.reg h.key % 2 ^ 32)
        { s with halves := s.halves.filter fun y => y.off != h.key }.regPut { o, h, wide := true, v := lo + 2 ^ 32 * v }
    else s.regPut { o, h, sh := 8 * (h.a - h.base), v }

/-- A register write of 4 or 8 bytes; one that is not naturally aligned is refused (13 R341). -/
def State.regWrite (s : State) (o : Origin) (off : Nat) (wide : Bool) (v : Nat) : State :=
  if off % (if wide then 8 else 4) ≠ 0 then s.refuseNowhere o off v
  else if !wide then s.writeNarrow o off (v % 2 ^ 32)
  else match s.target o off with
    | .reg h => if h.r.size = 8 then
        let s := s.dropHalf o h
        { s with halves := s.halves.filter fun y => y.off != h.key }.regPut { o, h, wide := true, v }
      else (s.writeNarrow o off (v % 2 ^ 32)).writeNarrow o (off + 4) (v / 2 ^ 32)
    | _ => (s.writeNarrow o off (v % 2 ^ 32)).writeNarrow o (off + 4) (v / 2 ^ 32)

/-! ## Commands -/

/-- Would the record of this write carry the security bit (15 R408)? -/
def State.writeSec (s : State) (o : Origin) (off v : Nat) : Bool :=
  match s.target o off with
  | .reg h => secReg h.base v
  | _ => false

/-- A write that arrives. While the MRAM queue is full, one whose record would carry the security bit is held (15 R408). -/
def State.busWrite (s : State) (o : Origin) (off : Nat) (wide : Bool) (v : Nat) : State :=
  if !s.reaches o then s
  else if (decide (1024 ≤ s.recs.audQueue.length) || !s.recs.heldWrites.isEmpty) && s.writeSec o off v then
    s.updRecs fun r => { r with heldWrites := r.heldWrites ++ [{ org := o, off, wide, val := v }] }
  else s.regWrite o off wide v

/-- REGISTER_WRITE. -/
def execRegisterWrite (o : Origin) (off : Nat) (wide : Bool) (v : W64) (s : State) : Res := done (s.busWrite o off wide v.toNat)

/-- COUNTER_READ: the value is returned to the origin. -/
def execCounterRead (o : Origin) (off : Nat) (wide : Bool) (s : State) : Res :=
  if s.reaches o then
    let (t, v) := s.readReg o off wide
    done (t.emit (.read o off v))
  else done s

/-- AUDIT_HOLD_END: the held writes proceed in the order in which they came. -/
def execAuditHoldEnd (us : Nat) (s : State) : Res :=
  due (!s.recs.heldWrites.isEmpty && decide (s.recs.audQueue.length < 1024))
    (let ws := s.recs.heldWrites
     let s := (s.updRecs ({ · with heldWrites := [] })).inc 0x7068
     let s := s.event { blk := .aud, num := 1, p0 := us }
     ws.foldl (fun t w => t.regWrite w.org w.off w.wide w.val) s)

/-- A command written to a 4-byte register of PF0's window, or of the VF's where the origin is one: `pfOff` and `vfOff`. -/
def cmdWrite (o : Origin) (pfOff vfOff v : Nat) (s : State) : Res :=
  done (s.busWrite o (if winOf o = 0 then pfOff else vfOff) false v)

/-- BLK_COMMIT of page `pg`. -/
def execBlkCommit (o : Origin) (pg : Nat) (v : W32) (s : State) : Res := cmdWrite o (0x1000 * pg + 0x2C) (0x1000 * pg + 0x2C) v.toNat s

/-- BLK_LOCK. -/
def execBlkLock (o : Origin) (pg : Nat) (s : State) : Res := cmdWrite o (0x1000 * pg + 0x24) (0x1000 * pg + 0x24) 1 s

/-- BLK_IRQ_STAT_CLEAR. -/
def execBlkIrqStatClear (o : Origin) (pg : Nat) (v : W32) (s : State) : Res :=
  cmdWrite o (0x1000 * pg + 0x10) (0x1000 * pg + 0x10) v.toNat s

/-- BLK_IRQ_FORCE. -/
def execBlkIrqForce (o : Origin) (pg : Nat) (v : W32) (s : State) : Res :=
  cmdWrite o (0x1000 * pg + 0x18) (0x1000 * pg + 0x18) v.toNat s

/-- PLUMB_LOAD (02 R35). -/
def execPlumbLoad (o : Origin) (v : W64) (s : State) : Res := done (s.busWrite o 0x1068 true v.toNat)

/-- CG_CANCEL (06 R181). -/
def execCgCancel (o : Origin) (g : Nat) (s : State) : Res := cmdWrite o (cgReg g 0x24) (cgReg g 0x24) 1 s

/-- SNAPSHOT_ARM (06 R184). -/
def execSnapshotArm (o : Origin) (tick : W64) (s : State) : Res := done (s.busWrite o 0xA800 true tick.toNat)

/-- DOMAIN_RESET_START (06 R185). -/
def execDomainResetStart (o : Origin) (g : Nat) (s : State) : Res := cmdWrite o 0xA814 0xA814 (g + 2 ^ 31) s

/-- CONTEXT_HOLD (17 R458). -/
def execContextHold (o : Origin) (e x : Nat) (s : State) : Res := cmdWrite o 0x14044 0x14044 (e + 64 * x + 256 + 2 ^ 31) s

/-- CONTEXT_RELEASE. -/
def execContextRelease (o : Origin) (e x : Nat) (s : State) : Res := cmdWrite o 0x14044 0x14044 (e + 64 * x + 512 + 2 ^ 31) s

/-- DBG_FE_CMD with a command code (04 Table 4.13). -/
def feWrite (o : Origin) (cmd : Nat) (s : State) : Res := cmdWrite o 0x14204 0x14204 cmd s

/-- DBG_FE_READ. -/
def execDbgFeRead (o : Origin) (s : State) : Res := feWrite o 0 s

/-- DBG_FE_WRITE_KEEP. -/
def execDbgFeWriteKeep (o : Origin) (s : State) : Res := feWrite o 1 s

/-- DBG_FE_WRITE_FULL. -/
def execDbgFeWriteFull (o : Origin) (s : State) : Res := feWrite o 2 s

/-- DBG_FE_WRITE_EMPTY. -/
def execDbgFeWriteEmpty (o : Origin) (s : State) : Res := feWrite o 3 s

/-- DBG_FE_SET_FULL. -/
def execDbgFeSetFull (o : Origin) (s : State) : Res := feWrite o 4 s

/-- DBG_FE_SET_EMPTY. -/
def execDbgFeSetEmpty (o : Origin) (s : State) : Res := feWrite o 5 s

/-- HBM_DIE_RETIRE (07 R201). -/
def execHbmDieRetire (o : Origin) (m die : Nat) (s : State) : Res :=
  cmdWrite o (Blk.hbm.at m 0x048) (Blk.hbm.at m 0x048) (die + 2 ^ 31) s

/-- HBM_REPAIR_CMD (07 R206). -/
def execHbmRepairCmd (o : Origin) (m pc bank row : Nat) (s : State) : Res :=
  cmdWrite o (Blk.hbm.at m 0x04C) (Blk.hbm.at m 0x04C) (pc + 64 * bank + 1024 * row + 2 ^ 31) s

/-- HBM_DIAG_CMD with a command code (07 Table 7.8). -/
def diagWriteCmd (o : Origin) (cmd : Nat) (s : State) : Res := cmdWrite o 0x68050 0x68050 cmd s

/-- DIAG_RAW_READ (07 R208). -/
def execDiagRawRead (o : Origin) (s : State) : Res := diagWriteCmd o 1 s

/-- DIAG_RAW_WRITE. -/
def execDiagRawWrite (o : Origin) (s : State) : Res := diagWriteCmd o 2 s

/-- DIAG_ARM_FLIP (07 R209). -/
def execDiagArmFlip (o : Origin) (s : State) : Res := diagWriteCmd o 3 s

/-- DIAG_DISARM. -/
def execDiagDisarm (o : Origin) (s : State) : Res := diagWriteCmd o 4 s

/-- XLT_INV_CMD of a scope (08 R231, Table 8.6). -/
def invWrite (o : Origin) (fn tag scope : Nat) (notify : Bool) (s : State) : Res :=
  cmdWrite o 0xB050 0x4050 (tag + 2 ^ 16 * fn + 2 ^ 25 * scope + 2 ^ 30 * b2n notify + 2 ^ 31) s

/-- INV_TAG. -/
def execInvTag (o : Origin) (fn tag : Nat) (notify : Bool) (s : State) : Res := invWrite o fn tag 0 notify s

/-- INV_FUNCTION. -/
def execInvFunction (o : Origin) (fn : Nat) (notify : Bool) (s : State) : Res := invWrite o fn 0 1 notify s

/-- INV_FUNCTION_RELOAD. -/
def execInvFunctionReload (o : Origin) (fn : Nat) (notify : Bool) (s : State) : Res := invWrite o fn 0 2 notify s

/-- XLT_FAULT_ACK (08 R230). -/
def execXltFaultAck (o : Origin) (s : State) : Res := cmdWrite o 0xB070 0x4070 1 s

/-- PSL_CONN_CMD with an op (09 Table 9.14). -/
def connWrite (o : Origin) (c op : Nat) (s : State) : Res := cmdWrite o 0xC044 0x5044 (c + 2 ^ 24 * op + 2 ^ 31) s

/-- CONN_CMD_OPEN (09 R261). -/
def execConnCmdOpen (o : Origin) (c : Nat) (s : State) : Res := connWrite o c 1 s

/-- CONN_CMD_CLOSE (09 R263). -/
def execConnCmdClose (o : Origin) (c : Nat) (s : State) : Res := connWrite o c 2 s

/-- CONN_CMD_FORCE_CLOSE (09 R264). -/
def execConnCmdForceClose (o : Origin) (c : Nat) (s : State) : Res := connWrite o c 3 s

/-- CONN_CMD_VIEW (09 R271). -/
def execConnCmdView (o : Origin) (c : Nat) (s : State) : Res := connWrite o c 4 s

/-- MR_INVALIDATE (09 R257). -/
def execMrInvalidate (o : Origin) (i : Nat) (s : State) : Res := cmdWrite o 0xC060 0x5060 (i + 2 ^ 31) s

/-- SEAL_EPOCH_STAGE (09 R268). -/
def execSealEpochStage (o : Origin) (n : Nat) (epoch : W32) (s : State) : Res :=
  cmdWrite o (0xF800 + 4 * n) (0xF800 + 4 * n) epoch.toNat s

/-- MBX_CTRL of the pair of a VF (13 R358). -/
def mbxWrite (o : Origin) (vf v : Nat) (s : State) : Res := cmdWrite o (Blk.mbx.at vf 0x040) 0x3040 v s

/-- MBX_SEND. -/
def execMbxSend (o : Origin) (vf : Nat) (control : Bool) (s : State) : Res := mbxWrite o vf (1 + 8 * b2n control) s

/-- MBX_ACK. -/
def execMbxAck (o : Origin) (vf : Nat) (s : State) : Res := mbxWrite o vf 2 s

/-- MBX_CANCEL. -/
def execMbxCancel (o : Origin) (vf : Nat) (s : State) : Res := mbxWrite o vf 4 s

/-- FN_f_CMD of a function (13 R361, Table 13.15). -/
def fnWrite (o : Origin) (fn v : Nat) (s : State) : Res := cmdWrite o (Blk.fn.at (fn / 128) (0x808 + 16 * (fn % 128))) 0x2808 v s

/-- FN_MASK. -/
def execFnMask (o : Origin) (fn : Nat) (s : State) : Res := fnWrite o fn 1 s

/-- FN_UNMASK. -/
def execFnUnmask (o : Origin) (fn : Nat) (s : State) : Res := fnWrite o fn 2 s

/-- WQ_VIEW (13 R364). -/
def execWqView (o : Origin) (q : Nat) (s : State) : Res := cmdWrite o 0xB0050 0x2050 (q + 2 ^ 31) s

/-- EVQ_VIEW (17 R456). -/
def execEvqView (o : Origin) (q : Nat) (s : State) : Res := cmdWrite o 0x15040 0x6040 (q + 2 ^ 31) s

/-- CORE_RX_POST (14 R374). -/
def execCoreRxPost (o : Origin) (h : Nat) (v : W32) (s : State) : Res :=
  cmdWrite o (0x1210C + 0x20 * h) (0x1210C + 0x20 * h) v.toNat s

/-- CORE_TX_POST (14 R374). -/
def execCoreTxPost (o : Origin) (h : Nat) (v : W32) (s : State) : Res :=
  cmdWrite o (0x1230C + 0x20 * h) (0x1230C + 0x20 * h) v.toNat s

/-- NB_INVALIDATE (14 R375). -/
def execNbInvalidate (o : Origin) (dev : Nat) (s : State) : Res := cmdWrite o 0x12050 0x12050 (dev + 2 ^ 31) s

/-- HLTH_CMD (15 R400). -/
def hlthWrite (o : Origin) (kind i op : Nat) (s : State) : Res := cmdWrite o 0x8044 0x8044 (i + 256 * kind + 1024 * op + 2 ^ 31) s

/-- HLTH_TEST_NOW. -/
def execHlthTestNow (o : Origin) (kind i : Nat) (s : State) : Res := hlthWrite o kind i 0 s

/-- HLTH_RETIRE (15 R396). -/
def execHlthRetire (o : Origin) (i : Nat) (s : State) : Res := hlthWrite o 0 i 1 s

/-- EVR_CFG with its freeze bit written and its limit kept (15 R403). -/
def freezeWrite (o : Origin) (on : Bool) (s : State) : Res := cmdWrite o 0x6040 0x6040 (s.reg 0x6040 / 2 * 2 + b2n on) s

/-- EVR_FREEZE. -/
def execEvrFreeze (o : Origin) (s : State) : Res := freezeWrite o true s

/-- EVR_UNFREEZE. -/
def execEvrUnfreeze (o : Origin) (s : State) : Res := freezeWrite o false s

/-- EVR_FLUSH (15 R405). -/
def execEvrFlush (o : Origin) (s : State) : Res := cmdWrite o 0x6044 0x6044 1 s

/-- HB_KICK_LINK (16 R425). -/
def execHbKickLink (o : Origin) (tok : Nat) (s : State) : Res := cmdWrite o 0x4064 0x4064 tok s

/-- HB_KICK_CORE (16 R425). -/
def execHbKickCore (o : Origin) (tok : Nat) (s : State) : Res := cmdWrite o 0x4060 0x4060 tok s

end Sys2Proof.Machine
end

