-- ==== Sys2Proof/Machine/Commit.lean ====
section
/-! DEFINITION. Machine/Commit.lean: staged writes commit at a boundary (02 R45; 17 R446, R447). -/

namespace Sys2Proof.Machine

/-! ## Rules between fields, registers and device state (17 R446) -/

/-- GLB_NOC (17 R451): none of the three refused cases. -/
def State.nocOk (s : State) (old full : Nat) : Bool :=
  let out (p : Nat) : Bool := bitAt full p
  let up (p : Nat) : Bool := !out p && s.noc.st p != 3
  let taken (p : Nat) : Bool := !bitAt old p && out p
  let passed (p : Nat) : Bool := if p = 0 then s.noc.passed0 else s.noc.passed1
  (up 0 || up 1) && !(taken 0 && s.noc.st 1 != 0) && !(taken 1 && s.noc.st 0 != 0)
  && [0, 1].all fun p => out p || s.noc.st p != 3 || passed p

/-- PLUMB_CFG.tick_log2 (02 R42). -/
def State.tickOk (s : State) (full : Nat) : Bool :=
  bits full 4 0 == s.tickLog || (s.sched.isEmpty && !(List.range 4).any fun r => (s.rep r).live)

/-- Does a connection use the partition of table entry `n`? -/
def State.partUsed (s : State) (n : Nat) : Bool :=
  let v := s.reg (pslReg (0x800 + 4 * n))
  bitAt v 31 && s.conns.any fun c => c.2.st != 0 && c.2.pkey % 0x8000 == v % 0x8000

/-- PSL_PART_n (09 R254, R255; 14 R383). -/
def State.partOk (s : State) (n old full : Nat) : Bool :=
  let i := full % 0x8000
  let sealed_ (v : Nat) : Bool := bitAt v 25
  (!bitAt full 31 || (decide (1 ≤ i) && decide (i ≤ 0x7FFE)
    && !(List.range 512).any fun m => m != n && (let v := s.reg (pslReg (0x800 + 4 * m)); bitAt v 31 && v % 0x8000 == i)))
  && (!s.partUsed n || (i == old % 0x8000 && sealed_ full == sealed_ old && bitAt full 31))
  && (!sealed_ full || s.ownerKey)

/-- ENG_CTXn_CFG and ENG_CTXn_REGION (03 R63, Tables 3.10, 3.11). -/
def State.ctxOk (s : State) (k : Nat) (region : Bool) (old full : Nat) : Bool :=
  let free := (s.ctx k).st == 0 || (s.ctx k).st == 3
  if !region then free || bits full 8 0 == bits old 8 0
  else
    let base := bits full 6 0
    let size := bits full 15 8
    (free || full == old) && decide (base + size ≤ 128)
    && (List.range 4).all fun x => 4 * (k / 4) + x == k || size == 0 ||
      (let r := s.reg (ctxReg (4 * (k / 4) + x) 0x054)
       bits r 15 8 == 0 || !overlaps base size (bits r 6 0) (bits r 15 8))

/-- A register of a replay group (17 R458): `x` is its offset from the group's first. -/
def State.groupRegOk (s : State) (r x old full : Nat) : Bool :=
  let cfg := if x = 0 then full else s.reg (rpReg r 0x100)
  let size := 2 ^ 26 * ((if x = 4 then full else s.reg (rpReg r 0x104)) % 512)
  let base := if x = 8 then full else s.reg (rpReg r 0x108)
  let memb (i : Nat) : Nat := if x = 0x10 + 8 * i then full else s.reg (rpReg r (0x110 + 8 * i))
  let live := bits (s.reg (rpReg r 0x100)) 10 9 != 0
  if x = 0 ∧ bits full 10 9 = 0 ∧ bits full 8 0 = bits old 8 0 then true
  else (!live || (if x = 0 then bits full 8 0 == bits old 8 0 else full == old))
    && (bits cfg 10 9 == 0 ||
      (decide (base + size ≤ s.sideBase) &&
       (List.range 192).all fun k => !bitAt (memb (k / 64)) (k % 64) || s.owner k == bits cfg 8 0))

/-- MAC_CFG (11 R302, R305, R320; 16 Table 16.13). -/
def State.macOk (s : State) (q old full : Nat) : Bool :=
  let mode := bits full 2 0
  decide (mode ≤ s.fld (0x4048 + 4 * (q / 8)) (4 * (q % 8) + 3) (4 * (q % 8)))
  && (mode != 5 || q % 2 == 0) && (mode == 0 || bitAt (s.reg 0x4044) q)
  && (!bitAt full 7 || (decide (1 ≤ bits full 19 8) && decide (bits full 19 8 ≤ 4094)))
  && !(s.glb.service == 1 && q == s.boot.primerPort && bits full 4 0 != bits old 4 0)

/-- May a register take the value `full` at a commit? -/
def State.commitOk (s : State) (h : Hit) (old full : Nat) : Bool :=
  let x := h.base % 0x1000
  match h.b with
  | .glb => x != 0x064 || s.nocOk old full
  | .plumb => x != 0x048 || s.tickOk full
  | .xlt => !(decide (0x058 ≤ x) && decide (x < 0x064)) || bitAt (s.reg (Blk.pcie.at ((x - 0x058) / 4 + 1) 0x040)) 0
  | .psl => !decide (0x800 ≤ x) || s.partOk ((x - 0x800) / 4) old full
  | .ctx => !decide (0x800 ≤ x) ||
      decide (((List.range 512).foldl (fun a f => a + if 0x800 + 4 * f = x then full else s.reg (Blk.ctx.at 0 (0x800 + 4 * f))) 0) ≤ 8192)
  | .cc => !(decide (x < 0x140) && x % 16 == 4) || decide (full ≤ s.reg (Blk.cc.at 0 (x - 4)))
  | .seal => !decide (0x800 ≤ x) || decide (old < full)
  | .core => x != 0x040 || full % 65536 != 65535
  | .dbg => !(decide (0x100 ≤ x) && decide (x < 0x200)) || s.groupRegOk ((x - 0x100) / 0x40) (x % 0x40) old full
  | .eng => !(decide (0x050 ≤ x) && decide (x < 0x090)) || decide (4 < x % 16)
      || s.ctxOk (4 * h.i + (x - 0x050) / 16) (x % 16 == 4) old full
  | .fn => !(decide (0x800 ≤ x) && x % 16 == 4) || !bitAt full 12 ||
      (let v := s.evqs.get {} (bits full 11 0)
       v.valid && v.owner == 128 * h.i + (x - 0x804) / 16)
  | .mac => if x = 0x040 then s.macOk h.i old full
    else if x = 0x04C then decide (bits full 19 10 + 32 ≤ bits full 9 0) else true
  | .shp => !(decide (0x800 ≤ x) && x % 16 == 0) || !bitAt full 31 || bits full 23 0 != 0
  | _ => true

/-! ## What a commit changes besides the register -/

/-- The shaper of a SHP register. -/
def shpOf (i x : Nat) : Nat := 128 * i + (x - 0x800) / 16

/-- An epoch comes into force (09 R268, R269): the one before it keeps its grace. -/
def State.newEpoch (s : State) (n old : Nat) : State :=
  let now := s.reg (Blk.seal.at 0 (0x800 + 4 * n))
  s.updPsl fun p => { p with
    prevEpoch := p.prevEpoch.set (0, 0) n (old, s.ticks + s.fld (Blk.seal.at 0 0x040) 7 0)
    keys := p.keys.filter fun k => k.1 != n || k.2 == now
    deriving_ := p.deriving_.filter fun d => !(d.1 == n && d.2.1 == now) }

/-- The count at which a tick length committed at the boundary at count `b` applies (02 R42). -/
def applyAt (b len : Nat) : Nat := roundUp (b + len) 65536

/-- A partition that is removed takes its keys with it (01 Table 1.10 K). -/
def State.partGone (s : State) (n old full : Nat) : State :=
  if bitAt old 31 ∧ (!bitAt full 31 ∨ full % 0x8000 ≠ old % 0x8000) then
    s.updPsl fun p => { p with
      keys := p.keys.filter fun k => k.1 != n
      prevEpoch := p.prevEpoch.erase n
      deriving_ := p.deriving_.filter fun d => d.1 != n }
  else s

/-- The effect of a committed value. -/
def State.committed (s : State) (h : Hit) (old full : Nat) : State :=
  let x := h.base % 0x1000
  match h.b with
  | .plumb =>
    if x = 0x048 then
      let n := bits full 4 0
      (s.setReg 0x1048 (setBits full 4 0 (bits old 4 0))).updPlumb fun p => { p with
        waiting := if n = bits old 4 0 then none else some (n, applyAt p.highest (2 ^ s.tickLog)) }
    else s
  | .psl => if 0x800 ≤ x then s.partGone ((x - 0x800) / 4) old full else s
  | .seal => if 0x800 ≤ x then s.newEpoch ((x - 0x800) / 4) old else s
  | .eng => if 0x050 ≤ x ∧ x < 0x090 ∧ x % 16 ≤ 4 then s.claimRegion (4 * h.i + (x - 0x050) / 16) else s
  | .shp =>
    let j := shpOf h.i x
    if x % 16 = 0 then
      (if bitAt full 31 then (if bitAt old 31 then s else s.shpSet j (s.shpBucket j)) else s.shpSet j 0)
    else if s.shpOn j then s.shpSet j (min (s.shpCredit j) (s.shpBucket j)) else s
  | _ => s

/-- One staged write: it applies with its audit record, or is refused at the commit. `all` is set where the page was not
available before (17 Table 17.7), so that its immediate fields apply too. -/
def State.commitOne (s : State) (all : Bool) (e : Staged) : State × Bool :=
  match s.target .pf0 e.off with
  | .reg h =>
    let w : RegWrite := { o := e.org, h, sh := 8 * (h.a - h.base), wide := e.wide, v := e.val }
    let old := s.reg h.key
    let m := w.bm &&& (if all then h.r.later ||| h.r.now else h.r.later)
    let full := merge old w.new m
    if !s.commitOk h old full || (all && !s.writeOk w old full) then (s.refuseReg w, false) else
      let t := (s.setReg h.key full).committed h old full
      let t := if all ∧ h.r.now &&& m ≠ 0 then (State.effect s t w old (w.new &&& w.bm)).getD t else t
      (t.auditWrite e.org w.addr (w.cut old) (w.cut full) e.wide 1, true)
  | _ => (s, false)

/-- The partition table entry whose epoch a staged write sets. -/
def epochOf (off : Nat) : Option Nat :=
  if Blk.seal.at 0 0x800 ≤ off ∧ off < Blk.seal.at 0 0x1000 then some ((off - Blk.seal.at 0 0x800) / 4) else none

/-- Is the key of the epoch staged for a write not derived yet? -/
def State.underived (s : State) (e : Staged) : Bool :=
  match epochOf e.off with
  | some n => s.psl.deriving_.any fun d => d.1 == n && !s.psl.keys.contains (n, d.2.1)
  | none => false

/-- The watch list (12 R332). -/
def State.readWatch (s : State) : State :=
  let n := s.fld (Blk.arb.at 0 0x040) 10 2
  if n = 0 then s.updArb ({ · with watch := [] }) else
    let (s, r) := s.memRead 3 (s.reg (Blk.arb.at 0 0x050)) (2 * n)
    s.updArb ({ · with watch := (List.range n).map fun i => leAt r.data (2 * i) 2 })

/-- What follows the writes that a page committed: groups, and the watch list. -/
def State.afterCommit (s : State) (es : List Staged) : State :=
  let s := if es.any fun e => e.off == Blk.arb.at 0 0x040 then s.readWatch else s
  (List.range 16).foldl (fun s n => match es.find? fun e => decide (cgReg n 0 ≤ e.off) && decide (e.off < cgReg n 0x40) with
    | some e => s.groupCommit n e.org
    | none => s) s

/-- Commit the staged writes of a page (17 R446, R447). -/
def State.commitPage (s : State) (pg : Nat) (all : Bool) : State :=
  let es := (s.page pg).staged
  let late := es.filter s.underived
  let s := s.updPage pg fun g => { g with staged := late, armed := none }
  let (s, done) := (es.filter fun e => !late.contains e).foldl (fun (a : State × List Staged) e =>
    let (t, ok) := a.1.commitOne all e
    (t, if ok then a.2 ++ [e] else a.2)) (s, [])
  let s := if done.isEmpty then s else s.updPage pg fun g => { g with chgSeq := g.chgSeq + 1 }
  let s := if late.isEmpty then s else
    (s.event { blk := .seal, num := 2 }).updPsl fun p => { p with
      deriving_ := p.deriving_.map fun d => if late.any fun e => epochOf e.off == some d.1 then (d.1, d.2.1, true) else d }
  s.afterCommit done

/-- Epochs that were late commit at the first boundary after their derivation (09 R268). -/
def State.lateEpochs (s : State) : State :=
  let pg := Blk.seal.page
  let ready := (s.page pg).staged.filter fun e => !s.underived e && match epochOf e.off with
    | some n => s.psl.deriving_.any fun d => d.1 == n && d.2.2
    | none => false
  if ready.isEmpty then s else
    let s := s.updPage pg fun g => { g with staged := g.staged.filter fun e => !ready.contains e, chgSeq := g.chgSeq + 1 }
    ready.foldl (fun s e => (s.commitOne false e).1) s

/-- Does a page wait for Finish service (16 Table 16.3; 17 Table 17.7)? -/
def State.waitsFinish (s : State) (b : Blk) (i : Nat) : Bool :=
  s.glb.service != 2 && (s.deferred b i || b == .dbg || b == .stip || b == .pwr)

/-- Is a page's commit due at a boundary of tick `t` (02 R45, 17 R447)? -/
def Page.isDue (g : Page) (t : Nat) : Bool :=
  match g.armed with
  | none => false
  | some none => true
  | some (some low) => decide ((t + 2 ^ 31 - low) % 2 ^ 31 < 2 ^ 30)

/-- The staged writes of every armed page commit. A page that holds none is disarmed. -/
def State.commitAll (s : State) : State :=
  let s := (s.pages.keys).foldl (fun s pg => match pageOf pg with
    | some (b, i) => if (s.page pg).isDue s.tick && !s.waitsFinish b i then s.commitPage pg false else s
    | none => s) s
  s.lateEpochs

/-- At the first boundary of Finish service, what the pages not available before hold applies (11 R305, 17 Table 17.7). -/
def State.commitHeld (s : State) : State :=
  (s.pages.keys).foldl (fun s pg => match pageOf pg with
    | some (b, i) => if s.waitsFinish b i && !(s.page pg).staged.isEmpty then s.commitPage pg (s.deferred b i) else s
    | none => s) s

end Sys2Proof.Machine
end

