-- ==== Sys2Proof/Machine/Power.lean ====
section
/-! DEFINITION. Machine/Power.lean: the power governor and the clamp, temperature, and the heartbeats of the dust sheets
(16_bringup_power_and_management.md R416 to R425). -/

namespace Sys2Proof.Machine

/-- Change the thermal state. -/
def State.updThm (s : State) (g : Thm → Thm) : State := { s with thm := g s.thm }

/-- What the governor and the clamp plan to, in units of 0.1 W: the ceiling less the margin. -/
def State.powerLimit (s : State) : Nat := 10 * (s.fld 0x4040 9 0 - s.fld 0x2040 7 2)

/-! ## The governor (R418) -/

/-- Does a plan's power at the activity seen fit a budget (in units of 0.1 W / 100)? -/
def Pwr.fits (p : Pwr) (n : Nat) (budget : Int) (plan : Nat) : Bool :=
  decide (0 ≤ budget) && (p.hist.take n).all fun h =>
    decide (((100 * (h.1 * planFull plan) : Nat) : Int) ≤ budget * ((h.2.1 * h.2.2 : Nat) : Int))

/-- The duty ceiling of a plan: 60 W + (E − 60 W) d / 16 within the budget. -/
def dutyCeil (budget : Int) (plan : Nat) : Nat :=
  ((List.range 17).reverse.find? fun d =>
    decide (((960000 + 100 * ((planFull plan - 600) * d) : Nat) : Int) ≤ 16 * budget)).getD 0

/-- The slowest plan that the replay groups prescribe (01 Table 1.10 G). -/
def State.replayPlan (s : State) : Nat :=
  (List.range 4).foldl (fun m r => if (s.rep r).live && (s.rep r).mode == 2 then max m ((s.rep r).plan.getD 0) else m) 0

/-- The governor's choice after the tick that ends: with the boundaries at which the next faster plan has fitted. -/
def Pwr.choose (p : Pwr) (n up : Nat) (budget : Int) : Nat × Nat :=
  let best := ((List.range 4).find? (p.fits n budget)).getD 3
  if p.choice < best then (best, 0)
  else if best < p.choice then (if up ≤ p.up + 1 then (p.choice - 1, 0) else (p.choice, p.up + 1))
  else (p.choice, 0)

/-- The governor at a boundary; the clamp releases. -/
def State.govern (s : State) : State :=
  let was := s.pwr.plan
  let s := s.updPwr fun p => { p with
    hist := ((p.engSum, p.engN, planFull p.plan) :: p.hist).take 15
    lastPkg := p.pkgMax, lastEng := p.engSum / max 1 p.engN }
  let budget : Int := ((100 * s.powerLimit : Nat) : Int) - ((s.pwr.restMax : Nat) : Int)
  let (choice, up) := s.pwr.choose (s.fld 0x2040 19 16) (s.fld 0x2040 15 8) budget
  let plan := max (max choice (s.fld 0x2040 1 0)) (max s.thm.cap s.replayPlan)
  let s := s.pwrAudited fun s => s.updPwr fun p => { p with
    choice, up, plan, ceil := dutyCeil budget plan, clamp := false, duty := 16, pkgMax := 0, restMax := 0, engSum := 0, engN := 0 }
  s.planChanged was

/-! ## Samples and the clamp (R417, R419) -/

/-- The highest duty, at most `d0`, that brings a sample within the limit: the engines' load above 60 W goes with the duty. -/
def clampDuty (d0 eng rest limit : Nat) : Nat :=
  ((List.range (d0 + 1)).reverse.find? fun d => decide (600 * d0 + (eng - 600) * d + rest * d0 ≤ limit * d0)).getD 0

/-- The duty in force. -/
def State.dutyNow (s : State) : Nat := min (min s.pwr.duty s.thm.duty) s.pwr.ceil

/-- A sample enters the window. -/
def Pwr.sample (p : Pwr) (eng rest : Nat) : Pwr :=
  let win := (eng, rest) :: p.win.take 99
  let sums := win.foldl (fun (a : Nat × Nat) x => (a.1 + x.1 + x.2, a.2 + x.2)) (0, 0)
  { p with
    win, engSum := p.engSum + eng, engN := p.engN + 1
    pkgMax := if win.length = 100 then max p.pkgMax sums.1 else p.pkgMax
    restMax := if win.length = 100 then max p.restMax sums.2 else p.restMax }

/-- POWER_SAMPLE: engine power and the rest, in units of 0.1 W. -/
def execPowerSample (eng rest : Nat) (s : State) : Res :=
  due (decide (2 ≤ s.boot.stage)) <|
    let s := s.updPwr (·.sample eng rest)
    let s :=
      if s.powerLimit < eng + rest then
        let d := clampDuty s.dutyNow eng rest s.powerLimit
        let new := !s.pwr.clamp
        let s := s.pwrAudited fun s => s.updPwr fun p => { p with clamp := true, duty := min p.duty d }
        if new then (s.inc 0x2058).event { blk := .pwr, num := 2 } else s
      else s
    if s.pwr.clamp then
      let ns := s.pwr.clampNs + 100
      (s.inc 0x2060 (ns / 1000)).updPwr ({ · with clampNs := ns % 1000 })
    else s

/-! ## Temperature (R420 to R422) -/

/-- A sensor's reading is implausible: three in a row mark it failed. -/
def State.badReading (s : State) (n : Nat) : State :=
  let x := s.thm.sens.get {} n
  let s := s.updThm fun t => { t with sens := t.sens.upd {} n fun x => { x with bad := x.bad + 1, failed := x.failed || decide (2 ≤ x.bad), at_ := s.plumb.now } }
  if x.failed || x.bad < 2 then s else s.event { blk := .thm, num := 4 }

/-- The row of Table 16.7 that the hottest reading is in: 0 below 100 °C, 1, 2 from 105 °C, 3 from 115 °C. -/
def thermalRow (q : Int) : Nat := if 460 ≤ q then 3 else if 420 ≤ q then 2 else if 400 ≤ q then 1 else 0

/-- Rows that a reading enters act (Table 16.7); the clock of a rise of the cap starts again from 97 °C. -/
def State.thermal (s : State) : State :=
  match s.hottest with
  | none => s
  | some q =>
    let row := thermalRow q
    let was := s.thm.row
    let s := s.updThm fun t => { t with row, rose := if 388 ≤ q then s.ticks else t.rose }
    let s := if was = 0 ∧ 1 ≤ row then s.event { blk := .thm, num := 1 } else s
    let s := if was < 2 ∧ 2 ≤ row then
        (s.pwrAudited fun s => s.updThm fun t => { t with cap := 3, duty := min t.duty 8 }).event { blk := .thm, num := 2 }
      else s
    let s := if was < 2 ∧ 2 ≤ row then s.pldm { what := 4, p0 := 105 } else s
    if was < 3 ∧ row = 3 then
      let s := ((s.event { blk := .thm, num := 3 }).pldm { what := 4, p0 := 115 }).emit .thermtrip
      let s := { s with glb := { s.glb with tripped := true } }
      (s.updThm ({ · with hold := true })).beginReset 6
    else s

/-- THERMAL_READING of sensor `n` in units of 0.25 °C. -/
def execThermalReading (n : Nat) (q : Int) (s : State) : Res :=
  due (s.sensorThere n && decide (1 ≤ s.boot.stage)) <|
    let x := s.thm.sens.get {} n
    let far : Bool := match x.q with
      | some p => decide (40 < (q - p).natAbs)
      | none => false
    if decide (q < -160) || decide (600 < q) || far then (s.badReading n).thermal
    else (s.updThm fun t => { t with sens := t.sens.upd {} n fun x => { x with q := some q, bad := 0, at_ := s.plumb.now } }).thermal

/-- Sensors that gave readings and have been silent for 1 ms count as implausible (Table 16.4). -/
def State.silentSensors (s : State) : State :=
  let t := s.sensors.foldl (fun s n =>
    let x := s.thm.sens.get {} n
    if x.q.isSome && !x.failed && decide (x.at_ + 1000000 ≤ s.plumb.now) then s.badReading n else s) s
  if t.thm = s.thm then s else t.thermal

/-- THERMAL_CAP_STEP (Table 16.7): a fall, of the duty where the cap is P3 already, or a rise. -/
def execThermalCapStep (s : State) : Res :=
  match s.hottest with
  | none => .fault .notDue
  | some q =>
    let t := s.thm
    let fall := decide (400 ≤ q) && (match t.fell with
      | some f => decide (f + 8 ≤ s.ticks)
      | none => true)
    let rise := decide (q < 388) && decide (t.rose + 64 ≤ s.ticks) && (decide (0 < t.cap) || decide (t.duty < 16))
    due (decide (2 ≤ s.boot.stage) && (fall || rise))
      (s.pwrAudited fun s => s.updThm fun t =>
        if fall then { t with fell := some s.ticks, cap := min 3 (t.cap + 1), duty := if t.cap = 3 then t.duty - 1 else t.duty }
        else { t with rose := s.ticks, cap := t.cap - 1, duty := 16 })

/-- THERMAL_TRIP_RECOVER: the device may boot again below 95 °C. -/
def execThermalTripRecover (s : State) : Res :=
  match s.hottest with
  | none => .fault .notDue
  | some q => due (s.thm.hold && decide (q < 380)) (s.updThm ({ · with hold := false, row := 0 }))

/-- HBM_TEMPERATURE_READOUT (R420). -/
def execHbmTemperatureReadout (m : Nat) (temp : Int) (s : State) : Res :=
  due (s.siteThere m && decide (2 ≤ s.boot.stage)) (s.updStack m ({ · with temp, tempPresent := true, hot := decide (95 ≤ temp) }))

/-! ## Heartbeats (R425, 11 R320) -/

/-- Is a heartbeat source missed: armed, and without a valid kick for hb_ms? -/
def State.hbDue (s : State) (core : Bool) : Bool :=
  let d := s.dust
  if core then d.coreArmed && !d.coreMiss && decide (d.coreAt + s.hbNs ≤ s.plumb.now)
  else d.linkArmed && !d.linkMiss && decide (d.linkAt + s.hbNs ≤ s.plumb.now)

/-- HEARTBEAT_MISS. -/
def execHeartbeatMiss (core : Bool) (s : State) : Res :=
  due (s.hbDue core) <|
    let new := !s.dust.silent
    let d := if core then { s.dust with coreMiss := true } else { s.dust with linkMiss := true }
    let d := if new then { d with silent := true, since := s.plumb.now, period := s.plumb.now, linkIn := false, coreIn := false, run := 0 } else d
    let s := ((({ s with dust := d }.inc 0x4078).event { blk := .dust, num := 1 }).pldm { what := 3, p0 := b2n core })
    let s := { s with boot := { s.boot with trialClean := false } }
    if new then (s.inc 0x4070).silencePorts else s

/-- A port may send again; frames held while its link is up go first. -/
def State.unsilencePort (s : State) (q : Nat) : State :=
  if (s.port q).silenced then
    s.updPort q fun x => { x with silenced := false, holding := x.holding && x.link != 2, idleAt := s.plumb.now }
  else s

/-- SILENCE_END: both sources gave a valid kick in each of 64 periods. A halted device stays silent (13 R359). -/
def execSilenceEnd (s : State) : Res :=
  let d := s.rollPeriods
  due (d.silent && decide (64 ≤ d.run)) <|
    let s := { s with dust := { d with silent := false, linkMiss := false, coreMiss := false, run := 0 } }
    let s := (s.event { blk := .dust, num := 2 }).pldm { what := 3, p0 := 2 }
    if s.glb.service = 3 then s else ((List.range 24).foldl (fun s q => s.unsilencePort q) s).coreSend

end Sys2Proof.Machine
end

