-- ==== Sys2Proof/Machine/Tick.lean ====
section
/-! DEFINITION. Machine/Tick.lean: the tick boundary and its phases, and a change of tick length (02 R42 to R45), samples (12 R331, R332), snapshots
(06 R184, 17 R453), record and replay groups (02 R54 to R59), and the passing of time. -/

namespace Sys2Proof.Machine

/-! ## Samples (12 R331, R332) -/

/-- Write a sample record (12 Table 12.3). -/
def State.sampleRec (s : State) (kind index depth delay : Nat) : State :=
  let a := s.reg (Blk.arb.at 0 0x048) + 16 * (s.arb.sampProd % 65536)
  let d := leBytes 4 (s.tick - 1) ++ leBytes 4 (index % 65536 + 65536 * kind) ++ leBytes 4 (sat 32 depth) ++ leBytes 4 (sat 32 delay)
  let s := s.updArb fun x => { x with sampProd := x.sampProd + 1 }
  if s.inInfra a && s.inInfra (a + 15) then (s.memWrite 3 a d).1 else s

/-- Sample one work queue. -/
def State.sampleQueue (s : State) (q : Nat) : State :=
  s.updWq q fun w =>
    let head := match w.headSince with
      | some t => s.plumb.now - t
      | none => 0
    { w with depth := w.depthNow, delay := max w.maxDelay head, maxDelay := 0 }

/-- The bytes that wait in the transmit buffer of a priority, and since when its head frame does. -/
def State.txWaits (s : State) (q p : Nat) : Nat × Nat :=
  let fs := (s.port q).tx.filter fun f => f.prio == p && f.pfc.isNone
  (fs.foldl (fun n f => n + f.bytes) 0, (fs.head?.map fun f => s.plumb.now - f.at_).getD 0)

/-- Sample every priority of a port. -/
def State.samplePort (s : State) (write : Bool) (q : Nat) : State :=
  (List.range 8).foldl (fun s p =>
    let (n, t) := s.txWaits q p
    let delay := max t (s.prio q p).maxWait
    let s := s.updPrio q p ({ · with maxWait := 0 })
    if write then s.sampleRec 1 (8 * q + p) n delay else s) s

/-- The sampling phase. -/
def State.sampleAll (s : State) : State :=
  let cfg := s.reg (Blk.arb.at 0 0x040)
  let s := (s.wqs.keys).foldl (fun s q => s.sampleQueue q) s
  let s := if bitAt cfg 1 then
      (List.range 24).foldl (fun s q => if s.portUp q then s.samplePort (bitAt cfg 0) q else s) s
    else s
  if bitAt cfg 0 then s.arb.watch.foldl (fun s q => s.sampleRec 0 q (s.wq q).depth (s.wq q).delay) s else s

/-- Marks dropped in the tick that ends are reported (02 R37; 17 Table 17.20). -/
def State.markDrops (s : State) : State :=
  match s.plumb.dropFirst with
  | none => s
  | some (dev, q) =>
    (s.event { blk := .plumb, num := 4, p0 := dev, p1 := q, p2 := s.plumb.dropCount }).updPlumb
      ({ · with dropFirst := none, dropCount := 0 })

/-! ## Snapshots (06 R184, 17 R453) -/

/-- The RC counters of one page: offsets in PF0's window. -/
def counterOffsets (b : Blk) (i : Nat) : List Nat :=
  (regsOf b i).flatMap fun r =>
    if r.size = 8 && r.flds.any fun x => x.acc == .rc then (List.range (max 1 r.n)).map fun j => b.at i (r.off + j * r.stride) else []

/-- The registers that a snapshot holds, in ascending offset. -/
def State.snapRegs (s : State) : List Nat :=
  Blk.all.flatMap fun b => (List.range b.count).flatMap fun i =>
    if (b == .mbx && i == 0) || !s.instThere b i then [] else
      (if b = .plumb then [0x1040] else if b = .eng then (List.range 4).map fun n => b.at i (0x058 + 0x10 * n) else [])
      ++ counterOffsets b i

/-- Latch an armed snapshot whose tick has come. -/
def State.snapLatch (s : State) : State :=
  if s.reg 0xA810 % 2 = 1 && decide (s.reg 0xA800 ≤ s.tick) then
    { s.setReg 0xA810 0 with snap := some {
      time := s.plumb.now, tick := s.tick
      vals := s.snapRegs.map fun a => (a, match s.target .pf0 a with
        | .reg h => s.value .pf0 h
        | _ => 0) } }
  else s

/-- SNAPSHOT_CAPTURE: what was latched is written to the snapshot area. -/
def execSnapshotCapture (s : State) : Res :=
  match s.snap with
  | none => .fault .notDue
  | some x =>
    let base := s.reg 0xA808
    let head := leBytes 8 x.time ++ leBytes 8 x.tick ++ leBytes 4 x.vals.length ++ leBytes 2 s.devNum ++ zeros 42
    let d := head ++ x.vals.flatMap fun v => leBytes 4 v.1 ++ zeros 4 ++ leBytes 8 v.2
    let t := (s.memWrite 3 base d).1
    done ({ t with snap := none }.setReg 0xA810 (s.reg 0xA810 % 2 + 2) |>.event { blk := .sch, num := 4 })

/-! ## Record and replay (02 R54 to R59, 17 R458) -/

/-- The mode that DBG_RPr_CFG commits. -/
def State.rpMode (s : State) (r : Nat) : Nat := s.fld (rpReg r 0x100) 10 9

/-- RECORD_START. -/
def execRecordStart (r : Nat) (s : State) : Res :=
  due (decide (r < 4) && s.rpMode r == 1 && (s.rep r).mode != 1) (s.updRep r fun _ => { mode := 1 })

/-- REPLAY_START. -/
def execReplayStart (r : Nat) (s : State) : Res :=
  due (decide (r < 4) && s.rpMode r == 2 && (s.rep r).mode != 2) (s.updRep r fun _ => { mode := 2 })

/-- REPLAY_STOP: mode 0 ends a group with an end marker of reason 0. -/
def execReplayStop (r : Nat) (s : State) : Res :=
  due (decide (r < 4) && s.rpMode r == 0 && (s.rep r).mode != 0)
    ((if (s.rep r).live then s.rpEnd r 0 else s).updRep r ({ · with mode := 0 }))

/-- A recorded input, of the kinds that consumers take, whose tick lies 1,024 ticks back. -/
def State.overdue (s : State) (r : Nat) : Option TraceRec :=
  match (s.rep r).start with
  | none => none
  | some t => s.traceNext r fun x => decide (2 ≤ x.ty) && decide (x.ty ≤ 5) && decide (t + x.rel + 1024 ≤ s.tick)

/-- REPLAY_INPUT_TIMEOUT. -/
def execReplayInputTimeout (r : Nat) (s : State) : Res :=
  match if (s.rep r).live && (s.rep r).mode == 2 then s.overdue r else none with
  | some x => done (s.diverge r x.seq)
  | none => .fault .notDue

/-- A recorded packet is placed (02 R58): its header and payload as the trace holds them. -/
def State.replayPkt (s : State) (c : Nat) (d : List Byte) : State :=
  let h := d.take 32
  let w := beNat (slice h 0 4)
  let op := w / 2 ^ 20 % 256
  let p : Pkt := {
    flags := w / 256 % 4096, pkey := beNat (slice h 4 2), msgSeq := beNat (slice h 6 2), dstConn := beNat (slice h 8 3)
    psn := beNat (slice h 12 4), raddr := beNat (slice h 16 8), msgOff := beNat (slice h 24 4), mkey := beNat (slice h 28 4)
    payload := d.drop 32 }
  match op with
  | 0x01 =>
    let (s, e) := s.region (p.mkey / 65536)
    (s.placeWrite p (regionOwner e)).1
  | 0x03 => s.placeResp c p
  | 0x05 => (s.placeDispatch p).1
  | _ => s

/-- Recorded packets and plans whose tick has come are taken from the trace. -/
def State.replayInputs (r : Nat) : Nat → State → State
  | 0, s => s
  | n + 1, s =>
    match (s.rep r).start with
    | none => s
    | some t =>
      match s.traceNext r fun x => (x.ty == 4 || x.ty == 6) && decide (t + x.rel ≤ s.tick) with
      | none => s
      | some x =>
        let s := s.updRep r fun g => { g with
          used := x.off :: g.used, seq := x.seq
          plan := if x.ty = 6 then some (leAt x.payload 0 1) else g.plan }
        State.replayInputs r n (if x.ty = 4 then s.replayPkt (x.consumer % 2 ^ 24) x.payload else s)

/-- Replay groups take what falls to this tick, and groups of a masked owner end. -/
def State.groupsTick (s : State) : State :=
  (List.range 4).foldl (fun s r =>
    let g := s.rep r
    if g.live && g.stopAt then s.rpEnd r 2
    else if g.live && g.mode == 2 then s.replayInputs r (s.rpSize r / 32) else s) s

/-! ## The boundary (02 R44, Table 2.4) -/

/-- Operating seconds go on with the tick. -/
def State.operate (s : State) : State :=
  let n := s.glb.opNs + 2 ^ s.tickLog
  { s with glb := { s.glb with opNs := n % 1000000000, opSec := s.glb.opSec + n / 1000000000 } }

/-- BANK_REOPEN (07 R206): the bank reopens at the first boundary after completion and held requests are served in order. -/
def State.bankReopen (s : State) (m : Nat) : State :=
  match (s.stack m).repair with
  | some r =>
    if r.stage = 3 then
      let held := (s.stack m).held
      held.foldl (fun s i => match pktOf i with
        | some _ => s.releaseCmd i
        | none => serveHeld s i) (s.updStack m fun k => { k with repair := none, held := [] })
    else s
  | none => s

/-- Time passes to a count, if it has not yet. -/
def State.passTo (s : State) (t : Nat) : State :=
  if s.plumb.now < t then (s.updPlumb ({ · with now := t })).portsEnd else s

/-- The count of the next boundary: a multiple of the tick length at or after the present count, above every one produced. -/
def State.nextBoundary (s : State) : Nat :=
  let l := 2 ^ s.tickLog
  max (roundUp s.plumb.now l) (s.plumb.highest / l * l + l)

/-- The tick length that waits comes into force (R42). -/
def State.newLength (s : State) (n : Nat) : State :=
  (s.setReg 0x1048 (setBits (s.reg 0x1048) 4 0 n)).updPlumb ({ · with waiting := none })

/-- The boundary at the count reached (R44, Table 2.4): each phase at its count, the last at B + 256. A tick length that
applies at this count names the tick whose boundary it is. The step is one event of the spec, whole and indivisible, so
nothing else comes between its phases (log entry 4). A record group's boundary entry has no record type in Table 2.6, so
nothing is written for it (log entry 97). -/
def State.boundary (s : State) : State :=
  let s := match s.plumb.waiting with
    | some (n, t) => if t ≤ s.plumb.now then s.newLength n else s
    | none => s
  let l := 2 ^ s.tickLog
  let b := s.plumb.now / l * l
  let s := (s.updPlumb fun p => { p with count := p.count + 1, highest := b }).operate
  let s := s.snapLatch
  let s := s.markDrops.sampleAll
  let s := s.updNoc fun n => { n with lastUsed := n.used, used := [] }
  let s := (List.range 48).foldl State.overrunMark s
  let s := s.silentSensors
  let s := if 1 ≤ s.thm.row then s.inc 0x3060 else s
  let s := s.passTo (b + 32)
  let s := (s.commitAll.coresOnline.audDrain (b / 1200 - (b - l) / 1200)).groupsTick
  let s := (s.passTo (b + 96)).govern
  let s := s.passTo (b + 128)
  let s := s.shpAll.foldl (fun s j => s.shpRefill j) s
  let s := s.passTo (b + 160)
  let s := s.cachedConns.foldl (fun s c => s.connBoundary c) s
  let s := s.passTo (b + 224)
  let s := (List.range 48).foldl State.grant s
  let s := (s.fns.keys).foldl (fun s f => s.flrBoundary f) s
  let s := (s.stackTab.keys).foldl State.bankReopen s
  let s := s.passTo (b + 256)
  ((List.range 48).foldl State.startParked s).arbEnter

/-- TICK_BOUNDARY: the counter reaches the next boundary. -/
def execTickBoundary (s : State) : Res := due (decide (2 ≤ s.boot.stage)) (s.passTo s.nextBoundary).boundary

/-- TICK_LENGTH_APPLY (R42): the counter reaches the count at which a tick length that waits applies. It is that of the next
boundary, which then runs under the new length. -/
def execTickLengthApply (s : State) : Res :=
  match s.plumb.waiting with
  | none => .fault .notDue
  | some (n, t) => due (decide (2 ≤ s.boot.stage) && decide (t ≤ s.nextBoundary)) ((s.passTo t).newLength n)

/-- The passing of one count of the device's own clock, with the rate correction (02 R34, R38): what step does where no command
waits. -/
def State.advance (s : State) : State :=
  if s.boot.stage < 2 then s else
    let t : Int := (s.plumb.frac : Int) + 2 ^ 32 + s.plumb.c
    let b := s.nextBoundary
    let s := (s.updPlumb fun p => { p with now := p.now + unsigned 64 (t / 2 ^ 32), frac := unsigned 32 t }).portsEnd
    settle (if b ≤ s.plumb.now then s.boundary else s)

end Sys2Proof.Machine
end

