-- ==== Sys2Proof/Machine/Boot.lean ====
section
/-! DEFINITION. Machine/Boot.lean: resets, the boot sequence, trial boots and supplies (16_bringup_power_and_management.md
R410 to R413, R429 to R434; 18_package_and_electrical.md R466 to R473). -/

namespace Sys2Proof.Machine

/-- Change the boot state. -/
def State.updBoot (s : State) (g : Boot → Boot) : State := { s with boot := g s.boot }

/-- Change what a reset keeps. -/
def State.updNv (s : State) (g : Nv → Nv) : State := { s with nv := g s.nv }

/-- Operating time in ns. -/
def State.opTime (s : State) : Nat := 1000000000 * s.glb.opSec + s.glb.opNs

/-! ## Images (14 R383) -/

/-- The longest body of an image kind (14 Table 14.7). -/
def bodyMax (kind : Nat) : Nat := 2 ^ 20 * [0, 1, 32, 16, 12].getD kind 0

/-- The text that the tags of an image cover. -/
def imageText (img : List Byte) : List Byte := img.take 32 ++ img.drop 64

/-- The tags that the policy requires, by purpose of their keys: the owner's only while an owner key is active (R383). -/
def State.imageTags (s : State) : List Nat :=
  match s.nv.policy, s.ownerKey with
  | 0, _ => [1]
  | 1, true => [2]
  | 2, true => [1, 2]
  | 3, _ => []
  | _, false => [1]
  | _, _ => []

/-- The key of an image tag. -/
def State.imageKey (s : State) (purpose kind : Nat) : Nat := keyName purpose (if purpose = 2 then 8 * s.ownerSlot + kind else kind)

/-- Does a tag of an image verify? -/
def State.imageTag (s : State) (kind : Nat) (img : List Byte) (purpose : Nat) : Bool :=
  slice img (16 + 16 * purpose) 16 == aesCmac (s.keyBytes (s.imageKey purpose kind)) (imageText img)

/-- Is the header of an image right, with a version that the fuses permit and a length within its kind's limit (R383)? -/
def State.headerOk (s : State) (kind : Nat) (img : List Byte) : Bool :=
  decide (64 ≤ img.length) && leAt img 0 4 == 0x4F443149 && leAt img 4 1 == kind && leAt img 5 3 == 0 && leAt img 16 16 == 0
  && decide (s.nv.minVer.get 0 kind ≤ leAt img 8 4) && leAt img 12 4 + 64 == img.length && decide (leAt img 12 4 ≤ bodyMax kind)

/-- May an image run: its header is right and every tag that the policy requires verifies; under the reserved policy none may. -/
def State.imageOk (s : State) (kind : Nat) (img : List Byte) : Bool :=
  s.headerOk kind img && !s.imageTags.isEmpty && s.imageTags.all (s.imageTag kind img)

/-- The CMAC engine verifies the tags of an image (14 R382). -/
def State.imageRun (s : State) (kind : Nat) (img : List Byte) : State :=
  s.imageTags.foldl (fun s p =>
    let t := (s.useKey (s.imageKey p kind)).cmacRun (img.length - 32)
    if s.imageTag kind img p then t else t.inc (Blk.cmac.at 0 0x050)) s

/-- The image of a kind in a bank. -/
def State.image (s : State) (bank kind : Nat) : List Byte := (s.nv.flash.find (8 * bank + kind)).getD (Config.factoryImage (8 * bank + kind))

/-- The CMAC engine's work at the verification of an image in the flash; of one from manufacture, whether it passes is the event's. -/
def State.verifyRun (s : State) (bank kind : Nat) (ok : Bool) : State :=
  match s.nv.flash.find (8 * bank + kind) with
  | some img => s.imageRun kind img
  | none =>
    let t := s.imageTags.foldl (fun s p => (s.useKey (s.imageKey p kind)).cmacRun ((Config.factoryImage (8 * bank + kind)).length - 32)) s
    if ok then t else t.inc (Blk.cmac.at 0 0x050)

/-- Does the outcome of a verification agree with the image, where an update has put one there? -/
def State.agrees (s : State) (bank kind ver : Nat) (ok : Bool) : Bool :=
  match s.nv.flash.find (8 * bank + kind) with
  | some img => ok == s.imageOk kind img && (!ok || leAt img 8 4 == ver)
  | none => true

/-! ## Boot configuration (16 R434, Table 16.12) -/

/-- Registers that the boot configuration holds, with their places in the record. -/
def cfgRegs : List (Nat × Nat) :=
  [(0x68040, 0), (0xC040, 4), (0x4040, 8), (0x4044, 12), (0x4048, 16), (0x404C, 20), (0x4050, 24), (0x4054, 28), (0x4058, 32),
   (0x405C, 36), (0xA1040, 40), (0xA2040, 44), (0xA3040, 48)]

/-- Does every field of a record keep its rule? -/
def State.cfgOk (s : State) (d : List Byte) : Bool :=
  let fn (i : Nat) : Nat := bits (leAt d (40 + 4 * i) 4) 9 1
  (cfgRegs.all fun x => match s.target .pf0 x.1 with
    | .reg h => h.r.legal (2 ^ 32 - 1) (leAt d x.2 4) (leAt d x.2 4)
    | _ => false)
  && (fn 0 == 0 || (fn 0 != fn 1 && fn 0 != fn 2)) && (fn 1 == 0 || fn 1 != fn 2)
  && ((List.range 24).all fun q => decide (leAt d (52 + q) 1 ≤ 5) && (leAt d (52 + q) 1 != 5 || q % 2 == 0)
        && (decide (q < s.portCount) || leAt d (52 + q) 1 == 0))
  && decide (leAt d 94 1 ≤ 1) && leAt d 95 145 == 0

/-- The boot configuration is applied by the island, or replaced by the reset values (R434). -/
def State.applyCfg (s : State) : State :=
  match s.nv.cfg with
  | none => s
  | some d =>
    let (s, ok) := s.verified (keyName 6 0) (d.take 240) (slice d 240 16)
    if !ok || !s.cfgOk d then s.event { blk := .glb, num := 4 } else
      let s := cfgRegs.foldl (fun s x => (s.setReg x.1 (leAt d x.2 4)).auditWrite .island x.1 (s.reg x.1) (leAt d x.2 4)) s
      s.updBoot ({ · with mac := (List.range 24).foldl (fun t q => t.set 0 q (leAt d (52 + q) 1)) [] })

/-- The minimum versions of a confirmed trial are fused at the next boot, where the boot configuration asks for it (R433). -/
def State.raiseVersions (s : State) : State :=
  let ask := match s.nv.cfg with
    | some d => bitAt (leAt d 94 1) 0
    | none => false
  let t := s.updNv ({ · with raise := [] })
  if !ask || s.nv.raise.isEmpty then t
  else if bitAt (s.reg 0x405C) 0 then t.event { blk := .fuse, num := 2 }
  else (s.nv.raise.foldl (fun t x => t.updNv fun n => { n with minVer := n.minVer.upd 0 x.1 (max · x.2) }) t).event { blk := .fuse, num := 1 }

/-! ## Release (16 R410, R411; 18 R467, R472, R473) -/

/-- The value that most of three samples have, bit by bit. -/
def majority (a b c : Nat) : Nat := (a &&& b) ||| (a &&& c) ||| (b &&& c)

/-- What a stack keeps over a reset: its retired dies, and a spare in use, which training rebuilds with the empty memory. -/
def Stack.kept (k : Stack) : Stack :=
  { retired := k.retired, spareFor := k.spareFor, rebuilt := k.spareFor.isSome, lostProtection := k.lostProtection }

/-- What a tile keeps: its history, and the role that it has without a job moved. -/
def Tile.kept (t : Nat) (x : Tile) : Tile :=
  { x with
    role := if x.role = 4 then 4 else if [12, 25, 38, 51].contains t then 1 else 0
    dueNow := none, testTick := 0, inPlace := false, retire := false }

/-- The records that a reset keeps (R410); a power-on starts a new power cycle. -/
def Recs.kept (r : Recs) (power : Bool) : Recs :=
  { ffWritten := r.ffWritten && !power, rolling := r.rolling, rollProd := r.rollProd, firstFail := r.firstFail
    health := r.health, healthProd := r.healthProd, audMram := r.audMram, audMramProd := r.audMramProd }

/-- The state at the release of a reset: everything but what R410 keeps is as State.reset has it. -/
def State.cleared (s : State) : State :=
  let s := s.audDrain 1024
  { State.reset with
    glb := { variant := s.glb.variant, tripped := s.glb.tripped, opSec := s.glb.opSec, opNs := s.glb.opNs, cycles := s.glb.cycles, trial := s.nv.trial }
    recs := s.recs.kept s.boot.powerUp
    stackTab := s.stackTab.map fun x => (x.1, x.2.kept)
    mem := { repairs := s.mem.repairs }
    tiles := s.tiles.map fun x => (x.1, x.2.kept x.1)
    psl := { boot := min (s.psl.boot + 1) 0xFFFFF }
    nv := s.nv, dbgPort := s.dbgPort, freeCtr := s.freeCtr, out := s.out, pending := s.pending }

/-- RESET_RELEASE: straps are PRIMER_PORT in bits [4:0], PRIMER_MED in [6:5], SMB_ADDR in [9:7], BPOS in [12:10] and BSIZE in
[15:13] of each sample (log entry 36). -/
def execResetRelease (s0 s1 s2 : Nat) (s : State) : Res :=
  due (s.boot.stage == 1 && !s.recs.flushing && !s.thm.hold) <|
    let v := majority (majority s0 s1 s2) s1 s2
    let port := bits v 4 0
    let med := bits v 6 5
    let bad1 := decide (s.portCount ≤ port)
    let bad2 := med == 3
    let bad3 := decide (bits v 15 13 < bits v 12 10)
    let power := s.boot.cause == 0
    let untagged := s.recs.untagged
    let t := s.cleared
    let t := t.updBoot fun b => { b with
      stage := 2, cause := s.boot.cause, powerUp := false, releaseAt := s.opTime
      primerPort := if bad1 then 0 else port, primerMed := if bad2 then 0 else med, smbAddr := 0x58 + bits v 9 7
      bpos := if bad3 then 0 else bits v 12 10, bsize := if bad3 then 0 else bits v 15 13 }
    let t := if power then t.event { blk := .glb, num := 3, p0 := 0 } else t
    let t := if bad1 || bad2 || bad3 then t.event { blk := .glb, num := 4 } else t
    if s.boot.powerUp then t.inc 0x6088 untagged else t

/-- DEVRST_N_ASSERT: cause 1 DEVRST_N, 2 PERST# of controller A. -/
def execDevrstNAssert (cause : Nat) (s : State) : Res :=
  due (decide (2 ≤ s.boot.stage) && (cause == 1 || cause == 2)) (s.beginReset cause)

/-- POWER_ON: power was lost, with what was not in MRAM; a new power cycle begins in reset (R410, 18 R466). -/
def execPowerOn (s : State) : Res :=
  done { s with
    boot := { stage := 1, cause := 0, powerUp := true }
    thm := {}, dust := {}, pwr := {}
    glb := { variant := s.glb.variant, opSec := s.glb.opSec, opNs := s.glb.opNs, cycles := s.glb.cycles + 1 }
    recs := { s.recs with ring := [], prod := 0, flushIdx := 0, lost := 0, frozen := false, flushing := false, flushFault := none, flushPower := false, flushTo := 0, audQueue := [], audit := [], audProd := 0, heldWrites := [] } }

/-! ## Supplies (15 R406; 16 R429; 18 R468, R469, R471) -/

/-- The power-fail warning: the black box is flushed. -/
def State.powerFail (s : State) : State := ((s.event { blk := .mgmt, num := 1 }).startFlush none true).pldm { what := 5 }

/-- The device holds itself in reset as a supply fault does; its next boot records a power-on. -/
def State.supplyReset (s : State) : State :=
  let s := s.powerFail
  { s with boot := { s.boot with stage := 1, cause := 0, dom := none }, glb := { s.glb with service := 0 } }

/-- SUPPLY_FAULT. -/
def execSupplyFault (s : State) : Res := due (decide (2 ≤ s.boot.stage)) s.supplyReset

/-- SYSREF_LOSS: until release only the ROM answers. -/
def execSysrefLoss (s : State) : Res := due (decide (2 ≤ s.boot.stage)) (s.supplyReset.updBoot ({ · with noSysref := true }))

/-- PWRFAIL_WARNING. -/
def execPwrfailWarning (s : State) : Res :=
  due (decide (2 ≤ s.boot.stage) && !s.boot.warning) (s.powerFail.updBoot ({ · with warning := true }))

/-- PWRFAIL_CLEAR: the device continues. -/
def execPwrfailClear (s : State) : Res :=
  due (decide (2 ≤ s.boot.stage) && s.boot.warning) ((s.event { blk := .mgmt, num := 2 }).updBoot ({ · with warning := false }))

/-! ## Verification of images (14 R384; 16 R412, R413, R432) -/

/-- Does an image of a kind run? -/
def Boot.runs (b : Boot) (kind : Nat) : Bool := b.running.any (·.1 == kind)

/-- The bank from which an image is loaded first (R432). -/
def State.firstBank (s : State) : Nat := if s.glb.trial then 1 - s.nv.active else s.nv.active

/-- Is the verification of a kind the next step (Table 16.2)? -/
def State.verifies (s : State) (kind : Nat) : Bool :=
  let b := s.boot
  match kind with
  | 1 => b.stage == 2 && !b.runs 1 && !b.romOnly
  | 4 => b.stage == 3 && s.glb.service == 1 && !b.runs 4 && s.glb.heldImage.isNone
  | 3 => b.stage == 3 && s.glb.service == 1 && b.runs 4 && !b.runs 3 && s.glb.heldImage.isNone
  | 2 => b.stage == 3 && s.glb.service == 1 && b.runs 3 && !b.runs 2 && s.glb.heldImage.isNone
  | _ => false

/-- An image runs, and what starts with it. -/
def State.startImage (s : State) (kind bank ver : Nat) : State :=
  let s := s.updBoot fun b => { b with running := b.running ++ [(kind, bank, ver)] }
  match kind with
  | 1 => s.applyCfg.raiseVersions
  | 2 => { (s.updCores ({ · with running := true })) with dust := { s.dust with coreArmed := s.hbCore, coreAt := s.plumb.now } }
  | _ => s

/-- IMAGE_VERIFY_COMPLETE: whether the image of the first bank passed, and that of the other. -/
def execImageVerifyComplete (kind ver : Nat) (okFirst okOther : Bool) (s : State) : Res :=
  let first := s.firstBank
  due (s.verifies kind && s.agrees first kind ver okFirst && (okFirst || s.agrees (1 - first) kind ver okOther)) <|
    let s := s.verifyRun first kind okFirst
    if okFirst then s.startImage kind first ver
    else
      let s := (s.verifyRun (1 - first) kind okOther).updBoot fun b => { b with trialBad := b.trialBad || s.glb.trial }
      if okOther then (s.event { blk := .glb, num := 5 }).startImage kind (1 - first) ver
      else if kind = 1 then s.updBoot ({ · with romOnly := true })
      else { s with glb := { s.glb with heldImage := some kind } }.pldm { what := 7, p0 := kind }

/-! ## Primer service (16 R412, R414) -/

/-- The pages that firmware locks once their registers are written (Table 16.2). -/
def lockedPages : List Nat :=
  (List.range 9).map (Blk.hbm.page + ·) ++ [Blk.psl.page] ++ (List.range 4).map (Blk.fn.page + ·) ++ [Blk.xlt.page]
  ++ (List.range 4).map (Blk.arb.page + ·) ++ [Blk.core.page, Blk.hlth.page, Blk.aud.page] ++ (List.range 4).map (Blk.pcie.page + ·)

/-- The device sets BLK_LOCK of a page. -/
def State.lockPage (s : State) (pg : Nat) : State :=
  if (s.page pg).lock then s else
    (s.updPage pg ({ · with lock := true })).auditWrite .island (0x1000 * pg + 0x24) 0 1

/-- The device writes MAC_CFG of a port. -/
def State.setMac (s : State) (q v : Nat) : State :=
  let a := macReg q 0x040
  (s.setReg a v).auditDev a (s.reg a) v

/-- PRIMER_SERVICE_START: at the boundary after island firmware and training; the stacks that trained make the memory. `bad` names
the stacks that report another organisation (cause 0) or do not train (cause 1), which are marked failed (07 R187, 08 R216). -/
def execPrimerServiceStart (bad : List (Nat × Nat)) (s : State) : Res :=
  due (s.boot.stage == 2 && s.boot.runs 1) <|
    let ms := (List.range 8).filter fun m => s.siteThere m && (s.stack m).st == 0
    let good := ms.filter fun m => !bad.any (·.1 == m)
    let s := ms.foldl (fun s m => match bad.find? (·.1 == m) with
      | none => s.updStack m ({ · with st := 2, half := true })
      | some (_, c) => (s.updStack m ({ · with st := 3, half := true })).event { blk := .hbm, inst := m, num := 5, p0 := c }) s
    let s := { s with mem := { s.mem with order := good } }
    let s := if (s.page Blk.dust.page).lock then s else
      ((s.lockPage Blk.dust.page).event { blk := .dust, num := 3 }).pldm { what := 3, p0 := 3 }
    let s := lockedPages.foldl State.lockPage s
    let q := s.boot.primerPort
    let s := s.setMac q (setBits (setBits (s.reg (macReg q 0x040)) 2 0 1) 4 3 s.boot.primerMed)
    let s := { s with dust := { s.dust with linkArmed := true, linkAt := s.plumb.now }, glb := { s.glb with service := 1 } }
    ((s.updBoot ({ · with stage := 3 })).event { blk := .glb, num := 1 }).pldm { what := 1, p0 := 1 }

/-! ## To Finish service (16 R412, R413) -/

/-- A tile for an engine: its own where that passed, else a free spare that did. -/
def State.placeEngine (s : State) (failed : List Nat) (e : Nat) : State :=
  let good (t : Nat) : Bool := (s.tile t).role != 4 && !failed.contains t
  if good (e + e / 12) then s else
    match [12, 25, 38, 51].find? fun t => good t && (s.tile t).role == 1 && !(s.tile t).observing with
    | some t => s.audited t (some e) fun s => (s.updEng e ({ · with tile := some t })).updTile t ({ · with role := 0 })
    | none => (s.audited (e + e / 12) (some e) fun s => s.updEng e ({ · with noTile := true })).hlthEvent 9 e

/-- A tile that failed its self-test is treated as under 15 R398: booked, and a spare under observation. -/
def State.tileFailed (s : State) (t : Nat) : State :=
  if (s.tile t).role = 4 then s else
    let s := ((s.book t 0 9 0).inc (Blk.hlth.at 0 0x070)).hlthEvent 7 t
    s.audited t none fun s => s.updTile t fun x => { x with
      role := if x.role = 4 then 4 else 1, observing := true, obsFrom := s.glb.opSec }

/-- ENGINE_SELF_TEST_COMPLETE: which tiles failed. -/
def execEngineSelfTestComplete (failed : List Nat) (s : State) : Res :=
  due (s.boot.stage == 3 && s.boot.runs 4 && !s.boot.selfTested && failed.all fun t => decide (t < 52)) <|
    let s := failed.foldl State.tileFailed s
    ((List.range 48).foldl (fun s e => s.placeEngine failed e) s).updBoot ({ · with selfTested := true })

/-- The mode that a port will have: one staged in Primer service, or that of the boot configuration (11 R305). -/
def State.plannedMode (s : State) (q : Nat) : Nat :=
  match ((s.page (Blk.mac.page + q)).staged.filter fun e => e.off == macReg q 0x040).getLast? with
  | some e => e.val % 8
  | none => s.boot.mac.get 0 q

/-- Ports that calibrate before Finish service. -/
def State.calibrates (s : State) (q : Nat) : Bool := decide (q < s.portCount) && q != s.boot.primerPort && s.plannedMode q != 0

/-- PORT_CALIBRATION_COMPLETE. -/
def execPortCalibrationComplete (q : Nat) (ok : Bool) (s : State) : Res :=
  due (s.boot.stage == 3 && s.boot.runs 3 && s.calibrates q && !(s.boot.calibrated.any (·.1 == q))) <|
    let t := s.updBoot fun b => { b with calibrated := b.calibrated ++ [(q, ok)] }
    if ok then t else (t.updPort q ({ · with failed := true })).event { blk := .mac, inst := q, num := 6 }

/-- STACK_RETRAIN_COMPLETE. -/
def execStackRetrainComplete (m : Nat) (ok : Bool) (s : State) : Res :=
  due (s.boot.stage == 3 && s.siteThere m && (s.stack m).st == 2 && (s.stack m).half) <|
    let t := s.updBoot fun b => { b with retrained := b.retrained ++ [m] }
    let t := if ok then t.updStack m ({ · with half := false })
      else (t.updStack m ({ · with st := 3 })).event { blk := .hbm, inst := m, num := 5, p0 := 1 }
    t.auditDev (Blk.hbm.at m 0x040) (s.stack m).stat (t.stack m).stat

/-- Have the steps of Table 16.2 ended? -/
def State.bootEnded (s : State) : Bool :=
  let b := s.boot
  b.runs 2 && b.runs 3 && b.runs 4 && b.selfTested
  && ((List.range 24).all fun q => !s.calibrates q || b.calibrated.any (·.1 == q))
  && s.mem.order.all fun m => (s.stack m).st != 2 || !(s.stack m).half

/-- The mode of the boot configuration takes effect on a port; one that a rule forbids, or whose calibration failed, leaves it in
mode 0, and the Primer port goes on in mode 1 where none is given. -/
def State.bootMode (s : State) (q : Nat) : State :=
  let old := s.reg (macReg q 0x040)
  let m := s.boot.mac.get 0 q
  let m := if q = s.boot.primerPort ∧ m = 0 then 1 else m
  let v := setBits old 2 0 m
  s.setMac q (if s.macOk q old v && !(s.port q).failed then v else setBits old 2 0 0)

/-- FINISH_SERVICE_START: at the boundary after every step has ended, with what was staged in Primer service. -/
def execFinishServiceStart (s : State) : Res :=
  due (s.boot.stage == 3 && s.glb.service == 1 && s.bootEnded) <|
    let s := s.commitHeld
    let staged (q : Nat) : Bool := bits (s.reg (macReg q 0x040)) 2 0 != 0 && q != s.boot.primerPort
    let s := { s with glb := { s.glb with service := 2 } }
    let s := (List.range s.portCount).foldl (fun s q => if staged q && !(s.port q).failed then s else s.bootMode q) s
    let s := s.updBoot fun b => { b with stage := 4, finishAt := s.opTime, trialClean := !s.dust.silent }
    (s.event { blk := .glb, num := 1 }).pldm { what := 1, p0 := 2 }

/-! ## Trial boots (16 R433) -/

/-- TRIAL_CONFIRM: the trial bank becomes active. -/
def execTrialConfirm (s : State) : Res :=
  let b := s.boot
  due (s.glb.service == 2 && s.glb.trial && b.trialClean && !b.trialBad && decide (b.finishAt + 60000000000 ≤ s.opTime)) <|
    let s := s.updNv fun n => { n with active := 1 - n.active, trial := false, raise := b.running.map fun x => (x.1, x.2.2) }
    let s := { s with glb := { s.glb with trial := false } }
    ((s.updBoot ({ · with confirmed := true })).event { blk := .glb, num := 7 }).pldm { what := 6, p0 := 1 }

/-- TRIAL_FAIL: the device resets and boots the previous bank. -/
def execTrialFail (s : State) : Res :=
  let b := s.boot
  due (decide (2 ≤ b.stage) && s.glb.trial && (b.trialBad || !b.trialClean || s.glb.service == 3
      || (b.stage != 4 && decide (b.releaseAt + 15000000000 ≤ s.opTime)))) <|
    let s := s.updNv ({ · with trial := false })
    ((s.event { blk := .glb, num := 7 }).pldm { what := 6, p0 := 0 }).beginReset 5

/-! ## Links and the debug port -/

/-- PCIE_LINK_DOWN (13 R337). -/
def execPcieLinkDown (c : Nat) (s : State) : Res := due (decide (c < 4) && bitAt (s.reg (Blk.pcie.at c 0x044)) 0) (s.ctlDown c)

/-- PCIE_LINK_UP (13 R337, Table 13.18); controllers B to D train in Finish service (16 Table 16.3). -/
def execPcieLinkUp (c speed width : Nat) (flit : Bool) (s : State) : Res :=
  due (decide (c < 4) && decide (1 ≤ speed) && decide (speed ≤ 6) && decide (1 ≤ width) && decide (width ≤ 16)
      && decide (2 ≤ s.boot.stage) && s.boot.runs 1 && (c == 0 || s.glb.service == 2))
    (s.setReg (Blk.pcie.at c 0x044) (1 + 2 * speed + 16 * width + 512 * b2n flit))

/-- DEBUG_PORT_ATTACHED (18 R461). -/
def execDebugPortAttached (s : State) : Res := due (!s.dbgPort) ({ s with dbgPort := true }.event { blk := .dbg, num := 3 })

/-- DEBUG_PORT_DETACHED. -/
def execDebugPortDetached (s : State) : Res := due s.dbgPort { s with dbgPort := false }

end Sys2Proof.Machine
end

