-- ==== Sys2Proof/Machine/Mgmt.lean ====
section
/-! DEFINITION. Machine/Mgmt.lean: the management link and attestation (16_bringup_power_and_management.md R426 to R431, R434;
14_infrastructure_cores_and_security.md R385). Bytes that the DMTF standards and the vendor fix and the spec does not are named
constants without a body (log entry 3). -/

namespace Sys2Proof.Machine

/-! ## Answers -/

/-- Change the management endpoint. -/
def State.updMgmt (s : State) (g : Mgmt → Mgmt) : State := { s with mgmt := g s.mgmt }

/-- Does island firmware answer? -/
def State.islandUp (s : State) : Bool := decide (2 ≤ s.boot.stage) && s.boot.runs 1 && !s.boot.romOnly && !s.boot.noSysref

/-- Does only the ROM answer (16 R413; 18 R471)? -/
def State.romUp (s : State) : Bool := s.boot.noSysref || (s.boot.romOnly && decide (2 ≤ s.boot.stage))

/-- The answer to a request: 0 success, 1 refused, 2 ERROR_INVALID_DATA, 3 ERROR_UNSUPPORTED_PLDM_CMD, 4 another error. -/
def State.reply (s : State) (status : Nat) (d : List Byte := []) : State := s.emit (.answer status d)

/-- A request reaches the endpoint. The ROM knows MCTP control and the firmware-update set (`rom`), and answers every other one with
ERROR_UNSUPPORTED_PLDM_CMD; while neither runs there is no answer. -/
def request (rom : Bool) (g : State → State) (s : State) : Res :=
  if s.islandUp then done (g s)
  else if s.romUp then done (if rom then g s else s.reply 3)
  else done s

/-- `n` bytes of a field that the vendor fixes. -/
def vendorBytes (field n : Nat) : List Byte := (List.range n).map fun i => BitVec.ofNat 8 (Config.vendor field i)

/-- One byte. -/
def byte (v : Nat) : Byte := BitVec.ofNat 8 v

/-- A set of bits in 8 bytes. -/
def bitSet (l : List Nat) : List Byte := leBytes 8 (l.foldl (fun a i => a ||| 2 ^ i) 0)

/-! ## MCTP control (16 Table 16.9) -/

/-- SET_ENDPOINT_ID: the null and the broadcast EID are not assigned. -/
def execSetEndpointId (eid : Nat) (s : State) : Res :=
  request true (fun s => if eid = 0 ∨ 255 ≤ eid then s.reply 2 else (s.updMgmt ({ · with eid })).reply 0 [0, byte eid]) s

/-- GET_ENDPOINT_ID. -/
def execGetEndpointId (s : State) : Res := request true (fun s => s.reply 0 [byte s.mgmt.eid]) s

/-- GET_MCTP_VERSION_SUPPORT: of control, PLDM and SPDM messages. -/
def execGetMctpVersionSupport (ty : Nat) (s : State) : Res :=
  request true (fun s => if [0, 1, 5].contains ty then s.reply 0 (vendorBytes (16 + ty) 4) else s.reply 4) s

/-- GET_MESSAGE_TYPE_SUPPORT: PLDM and SPDM. -/
def execGetMessageTypeSupport (s : State) : Res := request true (fun s => s.reply 0 [2, 1, 5]) s

/-- MCTP_ASSEMBLY_TIMEOUT: a message not complete in 100 ms is discarded, and nothing derived from it acts (16 R415). A command
stands for a whole message, so the state holds no part of one. -/
def execMctpAssemblyTimeout (s : State) : Res := done s

/-! ## PLDM base -/

/-- SET_TID. -/
def execSetTid (tid : Nat) (s : State) : Res :=
  request false (fun s => if tid = 0 ∨ 255 ≤ tid then s.reply 2 else (s.updMgmt ({ · with tid })).reply 0) s

/-- GET_TID. -/
def execGetTid (s : State) : Res := request false (fun s => s.reply 0 [byte s.mgmt.tid]) s

/-- The PLDM types of Table 16.9. -/
def pldmTypes : List Nat := [0, 2, 4, 5, 0x3F]

/-- The command codes of a PLDM type, as the DMTF specifications number them (PRESUMED) and for the OEM type Table 16.10. -/
def pldmCodes (ty : Nat) : List Nat :=
  match ty with
  | 0 => [1, 2, 3, 4, 5]
  | 2 => [0x04, 0x0B, 0x11, 0x21, 0x51]
  | 4 => [0x01, 0x02]
  | 5 => [0x01, 0x02, 0x10, 0x13, 0x14, 0x16, 0x17, 0x18, 0x1A, 0x1B, 0x1C, 0x1D]
  | _ => [1, 2, 3, 4, 5, 6, 7, 8]

/-- GET_PLDM_VERSION. -/
def execGetPldmVersion (ty : Nat) (s : State) : Res :=
  request false (fun s => if pldmTypes.contains ty then s.reply 0 (vendorBytes (32 + ty) 4) else s.reply 2) s

/-- GET_PLDM_TYPES: a bit for each type. -/
def execGetPldmTypes (s : State) : Res := request false (fun s => s.reply 0 (bitSet pldmTypes)) s

/-- GET_PLDM_COMMANDS: a bit for each command of a type. -/
def execGetPldmCommands (ty : Nat) (s : State) : Res :=
  request false (fun s => if pldmTypes.contains ty then s.reply 0 ((bitSet (pldmCodes ty)) ++ zeros 24) else s.reply 2) s

/-! ## PLDM monitoring and control (16 R428) -/

/-- SET_EVENT_RECEIVER: names the receiver, or none. -/
def execSetEventReceiver (en : Bool) (addr : Nat) (s : State) : Res :=
  request false (fun s => (s.updMgmt ({ · with receiver := if en then some addr else none })).reply 0) s

/-- The reading of a numeric sensor: 0 to 35 the junction sensors in units of 0.25 °C, 36 to 43 the stacks in °C, 44 package power in
units of 0.1 W; the numbers are the model's (log entry 3). -/
def State.sensorReading (s : State) (id : Nat) : Option Int :=
  if id < 36 then if s.sensorThere id then (s.thm.sens.get {} id).q else none
  else if id < 44 then if s.siteThere (id - 36) then some (s.stack (id - 36)).temp else none
  else if id = 44 then some s.pwr.package else none

/-- GET_SENSOR_READING. -/
def execGetSensorReading (id : Nat) (s : State) : Res :=
  request false (fun s => match s.sensorReading id with
    | some v => s.reply 0 (leBytes 4 (unsigned 32 v))
    | none => s.reply 4) s

/-- The position and size of the board that a partner reports, and whether they break the cabling rule (18 R473). -/
def State.partnerBoard (s : State) (q : Nat) : List Byte :=
  match (s.port q).board with
  | none => [0xFF, 0xFF, 0]
  | some v => [byte (v % 8), byte (v / 8 % 8), byte (b2n (decide (q ≤ s.boot.bsize) && q != s.boot.bpos && v % 8 != q))]

/-- GET_STATE_SENSOR_READINGS: 0 the service, 1 the own position and size, 2 + q the partner at port q. -/
def execGetStateSensorReadings (id : Nat) (s : State) : Res :=
  request false (fun s =>
    if id = 0 then s.reply 0 [byte s.glb.service]
    else if id = 1 then s.reply 0 [byte s.boot.bpos, byte s.boot.bsize]
    else if id < 2 + s.portCount then s.reply 0 (s.partnerBoard (id - 2))
    else s.reply 4) s

/-- GET_PDR. -/
def execGetPdr (handle : Nat) (s : State) : Res := request false (fun s => s.reply 0 (vendorBytes (1024 + handle) 32)) s

/-- An event as it is reported. -/
def PldmEv.bytes (e : PldmEv) : List Byte := byte e.what :: leBytes 4 e.p0 ++ leBytes 4 e.p1

/-- The first event leaves the queue. -/
def State.dropEvent (s : State) : State := s.updMgmt fun m => { m with evts := m.evts.drop 1, sentAt := none, tries := 0 }

/-- POLL_FOR_PLATFORM_EVENT_MESSAGE: the oldest event, which leaves the queue. -/
def execPollForPlatformEventMessage (s : State) : Res :=
  request false (fun s => match s.mgmt.evts with
    | e :: _ => s.dropEvent.reply 0 e.bytes
    | [] => s.reply 0) s

/-- The first event is sent to the receiver. -/
def State.sendEvent (s : State) (tries : Nat) : State :=
  match s.mgmt.receiver, s.mgmt.evts with
  | some r, e :: _ => (s.emit (.platformEvent r e)).updMgmt ({ · with sentAt := some s.opTime, tries })
  | _, _ => s

/-- PLDM_EVENT_SEND: the first event is sent; where that was sent before, its response has come, and the next is. -/
def execPldmEventSend (s : State) : Res :=
  let m := s.mgmt
  due (s.islandUp && m.receiver.isSome && (if m.sentAt.isSome then decide (2 ≤ m.evts.length) else !m.evts.isEmpty))
    ((if m.sentAt.isSome then s.dropEvent else s).sendEvent 1)

/-- PLDM_EVENT_RETRY: no response came in 250 ms; after the third sending the event is given up. -/
def execPldmEventRetry (s : State) : Res :=
  let m := s.mgmt
  due (s.islandUp && m.receiver.isSome && !m.evts.isEmpty && (match m.sentAt with
      | some t => decide (t + 250000000 ≤ s.opTime)
      | none => false))
    (if m.tries < 3 then s.sendEvent (m.tries + 1) else s.dropEvent)

/-! ## PLDM FRU -/

/-- GET_FRU_RECORD_TABLE_METADATA. -/
def execGetFruRecordTableMetadata (s : State) : Res := request false (fun s => s.reply 0 (vendorBytes 3 18)) s

/-- The ordering code of the variant (00 Table 0.1). -/
def State.orderingCode (s : State) : List Byte :=
  let s := if s.glb.variant = 1 then "YS-OD1-H8P8-B0" else if s.glb.variant = 2 then "YS-OD1-H6P16-B0" else "YS-OD1-H4P24-B0"
  s.toList.map fun c => BitVec.ofNat 8 c.toNat

/-- GET_FRU_RECORD_TABLE: ordering code, serial number and stepping. -/
def execGetFruRecordTable (s : State) : Res :=
  request false (fun s => s.reply 0 (s.orderingCode ++ vendorBytes 2 8 ++ [0xB0])) s

/-! ## Firmware update (16 R431) -/

/-- Change the update. -/
def State.updUpd (s : State) (g : Upd → Upd) : State := s.updMgmt fun m => { m with upd := g m.upd }

/-- The bank that an update writes. -/
def State.idleBank (s : State) : Nat := 1 - s.nv.active

/-- QUERY_DEVICE_IDENTIFIERS. -/
def execQueryDeviceIdentifiers (s : State) : Res := request true (fun s => s.reply 0 (vendorBytes 4 16)) s

/-- GET_FIRMWARE_PARAMETERS: the versions that run, by kind, and whether a trial is pending. -/
def execGetFirmwareParameters (s : State) : Res :=
  request true (fun s => s.reply 0 ((List.range 4).flatMap (fun k =>
    leBytes 4 (((s.boot.running.find? fun x => x.1 == k + 1).map fun x => x.2.2).getD 0)) ++ [byte (b2n s.nv.trial)])) s

/-- REQUEST_UPDATE. In a trial boot the other bank is the one to fall back to, and no update may begin (DEDUCED from R433). -/
def execRequestUpdate (s : State) : Res :=
  request true (fun s => if s.mgmt.upd.st = 0 ∧ !s.glb.trial then (s.updUpd fun _ => { st := 1 }).reply 0 else s.reply 4) s

/-- PASS_COMPONENT_TABLE: one component. -/
def execPassComponentTable (kind : Nat) (ver : W32) (s : State) : Res :=
  request true (fun s =>
    let u := s.mgmt.upd
    if u.st ≠ 1 ∧ u.st ≠ 2 then s.reply 4
    else if kind = 0 ∨ 4 < kind then s.reply 2
    else (s.updUpd fun u => { u with st := 2, comps := (u.comps.filter (·.1 != kind)) ++ [(kind, ver.toNat)] }).reply 0) s

/-- UPDATE_COMPONENT: the component is transferred to the inactive bank. -/
def execUpdateComponent (kind : Nat) (ver : W32) (image : List Byte) (s : State) : Res :=
  request true (fun s =>
    let u := s.mgmt.upd
    if u.st = 2 ∧ u.comps.contains (kind, ver.toNat) ∧ image.length ≤ 64 + bodyMax kind then
      let s := s.updNv fun n => { n with flash := n.flash.insert (8 * s.idleBank + kind) image }
      (s.updUpd fun u => { u with st := 3, cur := some (kind, ver.toNat) }).reply 0
    else s.reply 4) s

/-- TRANSFER_COMPLETE. -/
def execTransferComplete (ok : Bool) (s : State) : Res :=
  request true (fun s => if s.mgmt.upd.st = 3 then (s.updUpd fun u => { u with st := if ok then 4 else 2 }).reply 0 else s.reply 4) s

/-- VERIFY_COMPLETE: the tags and the version of the component are verified; one that fails is reported. -/
def execVerifyComplete (s : State) : Res :=
  request true (fun s =>
    match s.mgmt.upd.st, s.mgmt.upd.cur with
    | 4, some (kind, ver) =>
      let img := s.image s.idleBank kind
      let ok := s.imageOk kind img && leAt img 8 4 == ver
      let s := s.imageRun kind img
      if ok then (s.updUpd ({ · with st := 5 })).reply 0
      else ((s.updUpd ({ · with st := 2 })).event { blk := .mgmt, num := 3 }).reply 4
    | _, _ => s.reply 4) s

/-- APPLY_COMPLETE. -/
def execApplyComplete (s : State) : Res :=
  request true (fun s =>
    match s.mgmt.upd.st, s.mgmt.upd.cur with
    | 5, some (kind, _) => (s.updUpd fun u => { u with st := 2, cur := none, applied := kind :: u.applied.filter (· != kind) }).reply 0
    | _, _ => s.reply 4) s

/-- ACTIVATE_FIRMWARE: the inactive bank is marked as trial; self-contained activation is not supported. -/
def execActivateFirmware (selfContained : Bool) (s : State) : Res :=
  request true (fun s =>
    let u := s.mgmt.upd
    if selfContained then s.reply 4
    else if u.st = 2 ∧ u.comps.all (fun c => u.applied.contains c.1) then
      ((s.updNv ({ · with trial := true })).updUpd fun _ => {}).reply 0
    else s.reply 4) s

/-- GET_STATUS. -/
def execGetStatus (s : State) : Res := request true (fun s => s.reply 0 [byte s.mgmt.upd.st]) s

/-- CANCEL_UPDATE_COMPONENT. -/
def execCancelUpdateComponent (s : State) : Res :=
  request true (fun s => if 3 ≤ s.mgmt.upd.st then (s.updUpd fun u => { u with st := 2, cur := none }).reply 0 else s.reply 4) s

/-- CANCEL_UPDATE. -/
def execCancelUpdate (s : State) : Res :=
  request true (fun s => if s.mgmt.upd.st = 0 then s.reply 4 else (s.updUpd fun _ => {}).reply 0) s

/-! ## OEM commands (16 R427, Table 16.10) -/

/-- Is a session established? -/
def State.inSession (s : State) (x : Option Nat) : Bool :=
  match x with
  | some n => s.mgmt.sessions.any fun e => e.id == n && e.up
  | none => false

/-- Commands 0x04 to 0x06: while an owner key is active they are known only inside a session. -/
def guarded (session : Option Nat) (g : State → State) (s : State) : Res :=
  request false (fun s => if s.ownerKey && !s.inSession session then s.reply 3 else g s) s

/-- REG_READ. -/
def execRegRead (off : Nat) (wide : Bool) (s : State) : Res :=
  request false (fun s =>
    let (t, v) := s.readReg .link off wide
    t.reply 0 (leBytes (if wide then 8 else 4) v)) s

/-- REG_WRITE: audited with origin 3; the answer tells whether it was refused. -/
def execRegWrite (off : Nat) (wide : Bool) (v : W64) (s : State) : Res :=
  request false (fun s =>
    let t := s.busWrite .link off wide v.toNat
    let bad := (t.todo.drop s.todo.length).any fun x => match x with
      | .audit a => a.kind == 3
      | _ => false
    t.reply (if bad then 1 else 0)) s

/-- BBOX_READ: records from an index on, each with its status. -/
def execBboxRead (area cyclesBack i count : Nat) (s : State) : Res :=
  request false (fun s =>
    if count = 0 ∨ 8 < count ∨ 4 < area then s.reply 2
    else s.reply 0 ((List.range count).flatMap fun j =>
      if area = 4 then
        let x := s.audRec (i + j)
        (match x with
          | some (r, _) => r.bytes
          | none => zeros 32) ++ leBytes 4 (match x with
          | none => 4
          | some (_, .verified) => 1
          | some (_, .untagged) => 2
          | some (_, .invalid) => 0)
      else
        let x := s.boxRec area cyclesBack (i + j)
        boxData x ++ leBytes 4 (boxStat x))) s

/-- BOOTCFG_WRITE: the record is kept with its tag, for the next reset (R434). -/
def execBootcfgWrite (rec' : List Byte) (session : Option Nat) (s : State) : Res :=
  guarded session (fun s =>
    if rec'.length ≠ 256 then s.reply 2 else
      let (s, t) := s.tagged (keyName 6 0) (rec'.take 240)
      (s.updNv ({ · with cfg := some (rec'.take 240 ++ t) })).reply 0) s

/-- A fuse is written, or the write refused (16 R424; FUSE events 0x01 and 0x02). -/
def State.fuse (s : State) (ok : Bool) (g : Nv → Nv) : State :=
  if ok && !bitAt (s.reg 0x405C) 0 then ((s.updNv g).event { blk := .fuse, num := 1 }).reply 0
  else (s.event { blk := .fuse, num := 2 }).reply 1

/-- OWNER_KEY_WRITE: only into the next free slot (14 R379). -/
def execOwnerKeyWrite (slot : Nat) (key : List Byte) (session : Option Nat) (s : State) : Res :=
  guarded session (fun s =>
    if key.length ≠ 32 then s.reply 2
    else s.fuse (slot == s.nv.owner.length && decide (slot < 4)) fun n => { n with owner := n.owner ++ [key] }) s

/-- OWNER_KEY_REVOKE: the revoke fuse of a slot written is blown. -/
def execOwnerKeyRevoke (slot : Nat) (session : Option Nat) (s : State) : Res :=
  guarded session (fun s =>
    s.fuse (decide (slot < s.nv.owner.length)) fun n => { n with revoked := n.revoked ||| BitVec.ofNat 4 (2 ^ slot) }) s

/-- DEVICE_RESET: answered before the reset begins. -/
def execDeviceReset (s : State) : Res := request false (fun s => (s.reply 0).beginReset 3) s

/-- GET_STATE. -/
def execGetState (s : State) : Res :=
  request false (fun s => s.reply 0 ([s.glbStat, s.pwrStat, s.thmStat, s.dustStat, s.mgmtStat].flatMap (leBytes 4))) s

/-! ## Attestation (14 R385) -/

/-- An answer to an attestation request. -/
def attest (g : State → State) (s : State) : Res := done (if s.islandUp then g s else s)

/-- GET_VERSION: versions 1.2 and 1.3; what was negotiated is reset. -/
def execGetVersion (s : State) : Res :=
  attest (fun s => (s.updMgmt ({ · with spdmVer := none, spdmAlg := false, sessions := [] })).reply 0 [0x12, 0x13]) s

/-- GET_CAPABILITIES, which fixes the version. -/
def execGetCapabilities (ver : Nat) (s : State) : Res :=
  attest (fun s => if ver = 0x12 ∨ ver = 0x13 then (s.updMgmt ({ · with spdmVer := some ver })).reply 0 (vendorBytes 5 16) else s.reply 4) s

/-- NEGOTIATE_ALGORITHMS: SHA-384 and AES-256-GCM. -/
def execNegotiateAlgorithms (s : State) : Res :=
  attest (fun s => if s.mgmt.spdmVer.isSome then (s.updMgmt ({ · with spdmAlg := true })).reply 0 (vendorBytes 6 32) else s.reply 4) s

/-- The attestation key (14 Table 14.5), whose context is the device number. -/
def State.pskName (s : State) : Nat := keyName 3 (2 ^ 16 * s.ownerSlot + s.fld 0xC040 13 0)

/-- A session by its identifier. -/
def State.session (s : State) (id : Nat) : Option Session := s.mgmt.sessions.find? (·.id == id)

/-- Change a session. -/
def State.updSession (s : State) (id : Nat) (g : Session → Session) : State :=
  s.updMgmt fun m => { m with sessions := m.sessions.map fun x => if x.id = id then g x else x }

/-- PSK_EXCHANGE: at most 4 sessions, and only while an owner key is active. -/
def execPskExchange (reqSession : Nat) (req : List Byte) (s : State) : Res :=
  attest (fun s =>
    let m := s.mgmt
    if m.spdmAlg && s.ownerKey && decide (m.sessions.length < 4) then
      let id := reqSession % 2 ^ 16 + 2 ^ 16 * (m.nextSession % 2 ^ 16)
      let rsp := leBytes 4 id ++ vendorBytes 7 32
      let s := s.useKey s.pskName
      (s.updMgmt fun m => { m with
        sessions := m.sessions ++ [{ id, req := reqSession, transcript := req ++ rsp }], nextSession := m.nextSession + 1 }).reply 0
        (rsp ++ Config.spdmMac (s.keyBytes s.pskName) (req ++ rsp))
    else s.reply 4) s

/-- PSK_FINISH: the code of the requester proves that it has the key; one that is wrong ends the session. -/
def execPskFinish (session : Nat) (mac : List Byte) (s : State) : Res :=
  attest (fun s => match s.session session with
    | some x =>
      if x.up then s.reply 4
      else if mac = Config.spdmMac (s.keyBytes s.pskName) x.transcript then
        (s.updSession session fun x => { x with up := true, transcript := x.transcript ++ mac }).reply 0
      else (s.updMgmt fun m => { m with sessions := m.sessions.filter (·.id != session) }).reply 4
    | none => s.reply 4) s

/-- Offsets in PF0's window, and bits, of the RW-L fields of a page. -/
def lockFields (pg : Nat) : List (Nat × Nat) :=
  match pageOf pg with
  | none => []
  | some (b, i) => (regsOf b i).flatMap fun r =>
      let m := r.mask (· == .rwL)
      if m = 0 then [] else (List.range (max 1 r.n)).map fun j => (b.at i (r.off + j * r.stride), m)

/-- The content of a measurement, and its DMTF type: 0 ROM, 1 firmware, 2 hardware configuration, 3 firmware configuration, with bit 7
where it is not a hash (PRESUMED from the standard); none where the image does not run (14 Table 14.8). -/
def State.measurement (s : State) (i : Nat) : Option (Nat × List Byte) :=
  if i = 1 then some (0, sha384 (Config.factoryImage 0))
  else if i < 6 then (s.boot.running.find? fun x => x.1 + 1 == i).map fun x => (1, sha384 (s.image x.2.1 x.1))
  else if i = 6 then some (0x82, [byte s.nv.policy] ++ (List.range 4).flatMap (fun k => leBytes 4 (s.nv.minVer.get 0 (k + 1))) ++ [byte s.fuseOwner])
  else if i = 7 then
    some (0x82, (List.range 8).flatMap (fun k => leBytes 4 (s.reg (0x4040 + 4 * k))) ++ [byte (b2n (s.page Blk.dust.page).lock)])
  else if i = 8 then
    some (3, sha384 (((s.pages.keys).filter fun pg => (s.page pg).lock).flatMap fun pg =>
      (lockFields pg).flatMap fun x => leBytes 8 (s.reg x.1 &&& x.2)))
  else none

/-- A measurement block in DMTF format. -/
def block (i : Nat) (x : Nat × List Byte) : List Byte :=
  [byte i, 1] ++ leBytes 2 (3 + x.2.length) ++ [byte x.1] ++ leBytes 2 x.2.length ++ x.2

/-- GET_MEASUREMENTS, in a session: index 0 asks how many there are, 0xFF for all. -/
def execGetMeasurements (session : Option Nat) (i : Nat) (s : State) : Res :=
  attest (fun s =>
    let all := (List.range 8).filterMap fun k => (s.measurement (k + 1)).map fun x => (k + 1, x)
    if !s.inSession session then s.reply 4
    else if i = 0 then s.reply 0 [byte all.length]
    else if i = 0xFF then s.reply 0 (byte all.length :: all.flatMap fun x => block x.1 x.2)
    else match all.find? fun x => x.1 == i with
      | some x => s.reply 0 (1 :: block x.1 x.2)
      | none => s.reply 4) s

/-- KEY_UPDATE: 1 the requester's key, 2 both, 3 verify the new key. -/
def execKeyUpdate (session op tag : Nat) (s : State) : Res :=
  attest (fun s =>
    if s.inSession (some session) && decide (1 ≤ op) && decide (op ≤ 3) then
      (s.updSession session fun x => { x with
        reqKeys := x.reqKeys + (if op = 3 then 0 else 1), rspKeys := x.rspKeys + (if op = 2 then 1 else 0) }).reply 0 [byte op, byte tag]
    else s.reply 4) s

/-- HEARTBEAT. -/
def execHeartbeat (session : Nat) (s : State) : Res :=
  attest (fun s => s.reply (if s.inSession (some session) then 0 else 4)) s

/-- END_SESSION. -/
def execEndSession (session : Nat) (s : State) : Res :=
  attest (fun s =>
    if s.inSession (some session) then (s.updMgmt fun m => { m with sessions := m.sessions.filter (·.id != session) }).reply 0
    else s.reply 4) s

end Sys2Proof.Machine
end

