-- ==== Sys2Proof/Machine/Dispatch.lean ====
section
/-! DEFINITION. Machine/Dispatch.lean: one arm per command. -/

namespace Sys2Proof.Machine

def exec (i : Instr) (s : State) : Host.Outcome State Fault Refusal :=
  match i with
  | .tickBoundary => Sys2Proof.Machine.execTickBoundary s
  | .tickLengthApply => Sys2Proof.Machine.execTickLengthApply s
  | .launchStart e x => Sys2Proof.Machine.execLaunchStart e x s
  | .contextSwitchComplete e => Sys2Proof.Machine.execContextSwitchComplete e s
  | .migrationCopyComplete e => Sys2Proof.Machine.execMigrationCopyComplete e s
  | .plumbMarkSend idx => Sys2Proof.Machine.execPlumbMarkSend idx s
  | .plumbEntrySilent idx => Sys2Proof.Machine.execPlumbEntrySilent idx s
  | .plumbMark p => Sys2Proof.Machine.execPlumbMark p s
  | .plumbAnswer p => Sys2Proof.Machine.execPlumbAnswer p s
  | .plumbPartnerExpire port dev => Sys2Proof.Machine.execPlumbPartnerExpire port dev s
  | .holdoverEvent => Sys2Proof.Machine.execHoldoverEvent s
  | .plumbLoad o v => Sys2Proof.Machine.execPlumbLoad o v s
  | .planeRetire p => Sys2Proof.Machine.execPlaneRetire p s
  | .planeReturn p => Sys2Proof.Machine.execPlaneReturn p s
  | .planeFinalMarker src dst => Sys2Proof.Machine.execPlaneFinalMarker src dst s
  | .planeFailTimeout => Sys2Proof.Machine.execPlaneFailTimeout s
  | .nocFenceMarker src dst p => Sys2Proof.Machine.execNocFenceMarker src dst p s
  | .routerInboundTransfer src p e x off fn data fence poison parityErr => Sys2Proof.Machine.execRouterInboundTransfer src p e x off fn data fence poison parityErr s
  | .tileScrub t w err => Sys2Proof.Machine.execTileScrub t w err s
  | .forcedScrubCycle t w err => Sys2Proof.Machine.execForcedScrubCycle t w err s
  | .nop e x f => Sys2Proof.Machine.execNop e x f s
  | .sliceEnd e x f => Sys2Proof.Machine.execSliceEnd e x f s
  | .halt e x f => Sys2Proof.Machine.execHalt e x f s
  | .launchComplete e x => Sys2Proof.Machine.execLaunchComplete e x s
  | .br e x f => Sys2Proof.Machine.execBr e x f s
  | .loop e x f => Sys2Proof.Machine.execLoop e x f s
  | .plumbRd e x f => Sys2Proof.Machine.execPlumbRd e x f s
  | .flagsRd e x f => Sys2Proof.Machine.execFlagsRd e x f s
  | .flagsClr e x f => Sys2Proof.Machine.execFlagsClr e x f s
  | .event e x f => Sys2Proof.Machine.execEvent e x f s
  | .regroup e x f => Sys2Proof.Machine.execRegroup e x f s
  | .mbxRd e x f => Sys2Proof.Machine.execMbxRd e x f s
  | .sLi e x f => Sys2Proof.Machine.execSLi e x f s
  | .sAdd e x f => Sys2Proof.Machine.execSAdd e x f s
  | .sSub e x f => Sys2Proof.Machine.execSSub e x f s
  | .sMul e x f => Sys2Proof.Machine.execSMul e x f s
  | .sAnd e x f => Sys2Proof.Machine.execSAnd e x f s
  | .sOr e x f => Sys2Proof.Machine.execSOr e x f s
  | .sXor e x f => Sys2Proof.Machine.execSXor e x f s
  | .sShl e x f => Sys2Proof.Machine.execSShl e x f s
  | .sShr e x f => Sys2Proof.Machine.execSShr e x f s
  | .sSar e x f => Sys2Proof.Machine.execSSar e x f s
  | .sCmp e x f => Sys2Proof.Machine.execSCmp e x f s
  | .sLd e x f => Sys2Proof.Machine.execSLd e x f s
  | .sSt e x f => Sys2Proof.Machine.execSSt e x f s
  | .pOp e x f => Sys2Proof.Machine.execPOp e x f s
  | .tdLd e x f => Sys2Proof.Machine.execTdLd e x f s
  | .tdSt e x f => Sys2Proof.Machine.execTdSt e x f s
  | .tdSetf e x f => Sys2Proof.Machine.execTdSetf e x f s
  | .tdGetf e x f => Sys2Proof.Machine.execTdGetf e x f s
  | .tdAddb e x f => Sys2Proof.Machine.execTdAddb e x f s
  | .tdCopy e x f => Sys2Proof.Machine.execTdCopy e x f s
  | .mov e x f => Sys2Proof.Machine.execMov e x f s
  | .fill e x f => Sys2Proof.Machine.execFill e x f s
  | .mma e x f sc => Sys2Proof.Machine.execMma e x f sc s
  | .mmaT e x f sc => Sys2Proof.Machine.execMmaT e x f sc s
  | .accZero e x f => Sys2Proof.Machine.execAccZero e x f s
  | .accSt e x f => Sys2Proof.Machine.execAccSt e x f s
  | .accLd e x f => Sys2Proof.Machine.execAccLd e x f s
  | .vAdd e x f => Sys2Proof.Machine.execVAdd e x f s
  | .vSub e x f => Sys2Proof.Machine.execVSub e x f s
  | .vMul e x f => Sys2Proof.Machine.execVMul e x f s
  | .vFma e x f => Sys2Proof.Machine.execVFma e x f s
  | .vMin e x f => Sys2Proof.Machine.execVMin e x f s
  | .vMax e x f => Sys2Proof.Machine.execVMax e x f s
  | .vCmp e x f => Sys2Proof.Machine.execVCmp e x f s
  | .vFn e x f => Sys2Proof.Machine.execVFn e x f s
  | .vCvt e x f => Sys2Proof.Machine.execVCvt e x f s
  | .vRed e x f => Sys2Proof.Machine.execVRed e x f s
  | .vSel e x f => Sys2Proof.Machine.execVSel e x f s
  | .topk e x f => Sys2Proof.Machine.execTopk e x f s
  | .gather e x f => Sys2Proof.Machine.execGather e x f s
  | .scatter e x f => Sys2Proof.Machine.execScatter e x f s
  | .scatterAdd e x f => Sys2Proof.Machine.execScatterAdd e x f s
  | .compact e x f => Sys2Proof.Machine.execCompact e x f s
  | .feWait e x f => Sys2Proof.Machine.execFeWait e x f s
  | .feWaite e x f => Sys2Proof.Machine.execFeWaite e x f s
  | .feWaitComplete e x => Sys2Proof.Machine.execFeWaitComplete e x s
  | .syncWaitRetry e x => Sys2Proof.Machine.execSyncWaitRetry e x s
  | .feWaitStall e x => Sys2Proof.Machine.execFeWaitStall e x s
  | .feSet e x f => Sys2Proof.Machine.execFeSet e x f s
  | .feClr e x f => Sys2Proof.Machine.execFeClr e x f s
  | .feTest e x f => Sys2Proof.Machine.execFeTest e x f s
  | .fence e x f => Sys2Proof.Machine.execFence e x f s
  | .fenceComplete e x => Sys2Proof.Machine.execFenceComplete e x s
  | .contextFaultHalt e x => Sys2Proof.Machine.execContextFaultHalt e x s
  | .mmaReduce e x f sc => Sys2Proof.Machine.execMmaReduce e x f sc s
  | .bcastMma e x f => Sys2Proof.Machine.execBcastMma e x f s
  | .reduce e x f => Sys2Proof.Machine.execReduce e x f s
  | .bcast e x f => Sys2Proof.Machine.execBcast e x f s
  | .lseReduce e x f => Sys2Proof.Machine.execLseReduce e x f s
  | .attnBlock e x f => Sys2Proof.Machine.execAttnBlock e x f s
  | .dispatch e x f => Sys2Proof.Machine.execDispatch e x f s
  | .dispatchComplete e x => Sys2Proof.Machine.execDispatchComplete e x s
  | .combine e x f => Sys2Proof.Machine.execCombine e x f s
  | .combineCompute e x => Sys2Proof.Machine.execCombineCompute e x s
  | .chunkPlaced g r j h data bad => Sys2Proof.Machine.execChunkPlaced g r j h data bad s
  | .chunkCombine g r => Sys2Proof.Machine.execChunkCombine g r s
  | .chunkSend g r => Sys2Proof.Machine.execChunkSend g r s
  | .readyWordPlaced g r j seq => Sys2Proof.Machine.execReadyWordPlaced g r j seq s
  | .bcastChunkForward g r => Sys2Proof.Machine.execBcastChunkForward g r s
  | .abandonWordPlaced g r src seq code => Sys2Proof.Machine.execAbandonWordPlaced g r src seq code s
  | .instanceComplete g r sc => Sys2Proof.Machine.execInstanceComplete g r sc s
  | .collectiveStall g r => Sys2Proof.Machine.execCollectiveStall g r s
  | .cgCancel o g => Sys2Proof.Machine.execCgCancel o g s
  | .snapshotArm o tick => Sys2Proof.Machine.execSnapshotArm o tick s
  | .snapshotCapture => Sys2Proof.Machine.execSnapshotCapture s
  | .domainResetStart o g => Sys2Proof.Machine.execDomainResetStart o g s
  | .domrst p => Sys2Proof.Machine.execDomrst p s
  | .domrstAck p => Sys2Proof.Machine.execDomrstAck p s
  | .domrstAckTimeout => Sys2Proof.Machine.execDomrstAckTimeout s
  | .recordStart r => Sys2Proof.Machine.execRecordStart r s
  | .replayStart r => Sys2Proof.Machine.execReplayStart r s
  | .replayStop r => Sys2Proof.Machine.execReplayStop r s
  | .replayInputTimeout r => Sys2Proof.Machine.execReplayInputTimeout r s
  | .contextHold o e x => Sys2Proof.Machine.execContextHold o e x s
  | .contextRelease o e x => Sys2Proof.Machine.execContextRelease o e x s
  | .dbgFeRead o => Sys2Proof.Machine.execDbgFeRead o s
  | .dbgFeWriteKeep o => Sys2Proof.Machine.execDbgFeWriteKeep o s
  | .dbgFeWriteFull o => Sys2Proof.Machine.execDbgFeWriteFull o s
  | .dbgFeWriteEmpty o => Sys2Proof.Machine.execDbgFeWriteEmpty o s
  | .dbgFeSetFull o => Sys2Proof.Machine.execDbgFeSetFull o s
  | .dbgFeSetEmpty o => Sys2Proof.Machine.execDbgFeSetEmpty o s
  | .hbmRead r off noise => Sys2Proof.Machine.execHbmRead r off noise s
  | .hbmWrite r off data poison => Sys2Proof.Machine.execHbmWrite r off data poison s
  | .hbmPartialWrite r off parts noise => Sys2Proof.Machine.execHbmPartialWrite r off parts noise s
  | .sanderScrub m lam noise => Sys2Proof.Machine.execSanderScrub m lam noise s
  | .sanderInit m => Sys2Proof.Machine.execSanderInit m s
  | .dieRetire m lost => Sys2Proof.Machine.execDieRetire m lost s
  | .hbmDieRetire o m die => Sys2Proof.Machine.execHbmDieRetire o m die s
  | .sanderRebuildStep m noise => Sys2Proof.Machine.execSanderRebuildStep m noise s
  | .hbmRepairCmd o m pc bank row => Sys2Proof.Machine.execHbmRepairCmd o m pc bank row s
  | .rowRepairStart m => Sys2Proof.Machine.execRowRepairStart m s
  | .rowRepairComplete m => Sys2Proof.Machine.execRowRepairComplete m s
  | .diagRawRead o => Sys2Proof.Machine.execDiagRawRead o s
  | .diagRawWrite o => Sys2Proof.Machine.execDiagRawWrite o s
  | .diagArmFlip o => Sys2Proof.Machine.execDiagArmFlip o s
  | .diagDisarm o => Sys2Proof.Machine.execDiagDisarm o s
  | .walkStart w => Sys2Proof.Machine.execWalkStart w s
  | .walkComplete w => Sys2Proof.Machine.execWalkComplete w s
  | .walkTimeout w => Sys2Proof.Machine.execWalkTimeout w s
  | .xltSweepVisit set => Sys2Proof.Machine.execXltSweepVisit set s
  | .invTag o fn tag notify => Sys2Proof.Machine.execInvTag o fn tag notify s
  | .invFunction o fn notify => Sys2Proof.Machine.execInvFunction o fn notify s
  | .invFunctionReload o fn notify => Sys2Proof.Machine.execInvFunctionReload o fn notify s
  | .invComplete win => Sys2Proof.Machine.execInvComplete win s
  | .xltFaultAck o => Sys2Proof.Machine.execXltFaultAck o s
  | .atsCompletion fn va xlated log2 ok rd wr => Sys2Proof.Machine.execAtsCompletion fn va xlated log2 ok rd wr s
  | .atsTimeout fn va => Sys2Proof.Machine.execAtsTimeout fn va s
  | .atsInvalidate fn => Sys2Proof.Machine.execAtsInvalidate fn s
  | .atsInvComplete fn => Sys2Proof.Machine.execAtsInvComplete fn s
  | .write p => Sys2Proof.Machine.execWrite p s
  | .readReq p => Sys2Proof.Machine.execReadReq p s
  | .readResp p => Sys2Proof.Machine.execReadResp p s
  | .flush p => Sys2Proof.Machine.execFlush p s
  | .dispatchPacket p => Sys2Proof.Machine.execDispatchPacket p s
  | .ack p => Sys2Proof.Machine.execAck p s
  | .nak p => Sys2Proof.Machine.execNak p s
  | .connReq p => Sys2Proof.Machine.execConnReq p s
  | .connAccept p => Sys2Proof.Machine.execConnAccept p s
  | .connReject p => Sys2Proof.Machine.execConnReject p s
  | .connClose p => Sys2Proof.Machine.execConnClose p s
  | .connClosed p => Sys2Proof.Machine.execConnClosed p s
  | .packetSend c => Sys2Proof.Machine.execPacketSend c s
  | .gapTimerExpiry c => Sys2Proof.Machine.execGapTimerExpiry c s
  | .retransmitTimeout c => Sys2Proof.Machine.execRetransmitTimeout c s
  | .reorderDeadline c => Sys2Proof.Machine.execReorderDeadline c s
  | .busyResend c => Sys2Proof.Machine.execBusyResend c s
  | .connReqResend c => Sys2Proof.Machine.execConnReqResend c s
  | .connOpenTimeout c => Sys2Proof.Machine.execConnOpenTimeout c s
  | .closingTimeout c => Sys2Proof.Machine.execClosingTimeout c s
  | .connCmdOpen o c => Sys2Proof.Machine.execConnCmdOpen o c s
  | .connCmdClose o c => Sys2Proof.Machine.execConnCmdClose o c s
  | .connCmdForceClose o c => Sys2Proof.Machine.execConnCmdForceClose o c s
  | .connCmdView o c => Sys2Proof.Machine.execConnCmdView o c s
  | .mrInvalidate o idx => Sys2Proof.Machine.execMrInvalidate o idx s
  | .mrInvComplete => Sys2Proof.Machine.execMrInvComplete s
  | .sealEpochStage o n epoch => Sys2Proof.Machine.execSealEpochStage o n epoch s
  | .keyDerivationComplete n => Sys2Proof.Machine.execKeyDerivationComplete n s
  | .ctxFillComplete c bad => Sys2Proof.Machine.execCtxFillComplete c bad s
  | .ctxSweepVisit slice set way => Sys2Proof.Machine.execCtxSweepVisit slice set way s
  | .frameReceive q f => Sys2Proof.Machine.execFrameReceive q f s
  | .frameDeliver q p => Sys2Proof.Machine.execFrameDeliver q p s
  | .pfcRepeat q p => Sys2Proof.Machine.execPfcRepeat q p s
  | .pfcReceive q en quanta => Sys2Proof.Machine.execPfcReceive q en quanta s
  | .pauseExpiry q p => Sys2Proof.Machine.execPauseExpiry q p s
  | .pauseLimit q p => Sys2Proof.Machine.execPauseLimit q p s
  | .pauseWatchdog q p => Sys2Proof.Machine.execPauseWatchdog q p s
  | .stallEnd q p => Sys2Proof.Machine.execStallEnd q p s
  | .frameTransmit q => Sys2Proof.Machine.execFrameTransmit q s
  | .lpiEnter q => Sys2Proof.Machine.execLpiEnter q s
  | .lpiWake q => Sys2Proof.Machine.execLpiWake q s
  | .lpiNegotiationComplete q wakeUs => Sys2Proof.Machine.execLpiNegotiationComplete q wakeUs s
  | .localFault q => Sys2Proof.Machine.execLocalFault q s
  | .linkDown q => Sys2Proof.Machine.execLinkDown q s
  | .faultClear q => Sys2Proof.Machine.execFaultClear q s
  | .linkUp q => Sys2Proof.Machine.execLinkUp q s
  | .holdExpiry q => Sys2Proof.Machine.execHoldExpiry q s
  | .portModeChange q => Sys2Proof.Machine.execPortModeChange q s
  | .descriptorIssue => Sys2Proof.Machine.execDescriptorIssue s
  | .wqDoorbell fn slot v => Sys2Proof.Machine.execWqDoorbell fn slot v s
  | .cqConsumerWrite fn slot v => Sys2Proof.Machine.execCqConsumerWrite fn slot v s
  | .evqDoorbell fn slot count arm => Sys2Proof.Machine.execEvqDoorbell fn slot count arm s
  | .descriptorFetch q host => Sys2Proof.Machine.execDescriptorFetch q host s
  | .wdNop q n => Sys2Proof.Machine.execWdNop q n s
  | .wdCopy q n src bad => Sys2Proof.Machine.execWdCopy q n src bad s
  | .wdWrite q n src => Sys2Proof.Machine.execWdWrite q n src s
  | .wdRead q n => Sys2Proof.Machine.execWdRead q n s
  | .wdFlush q n => Sys2Proof.Machine.execWdFlush q n s
  | .launch q n => Sys2Proof.Machine.execLaunch q n s
  | .wqLoad q n => Sys2Proof.Machine.execWqLoad q n s
  | .wqDisable q n => Sys2Proof.Machine.execWqDisable q n s
  | .evqLoad q n => Sys2Proof.Machine.execEvqLoad q n s
  | .fnRemove q n => Sys2Proof.Machine.execFnRemove q n s
  | .descriptorComplete q n => Sys2Proof.Machine.execDescriptorComplete q n s
  | .msixSend v => Sys2Proof.Machine.execMsixSend v s
  | .msixVectorUnmask fn v => Sys2Proof.Machine.execMsixVectorUnmask fn v s
  | .pcieCompletion ctl tag data bad => Sys2Proof.Machine.execPcieCompletion ctl tag data bad s
  | .completionTimeout ctl tag => Sys2Proof.Machine.execCompletionTimeout ctl tag s
  | .flr fn => Sys2Proof.Machine.execFlr fn s
  | .flrBound fn => Sys2Proof.Machine.execFlrBound fn s
  | .vfEnable num en => Sys2Proof.Machine.execVfEnable num en s
  | .controllerReset ctl => Sys2Proof.Machine.execControllerReset ctl s
  | .rootPortInbound ctl addr len data xl => Sys2Proof.Machine.execRootPortInbound ctl addr len data xl s
  | .mbxSend o vf control => Sys2Proof.Machine.execMbxSend o vf control s
  | .mbxDeliver vf fromPf => Sys2Proof.Machine.execMbxDeliver vf fromPf s
  | .mbxAck o vf => Sys2Proof.Machine.execMbxAck o vf s
  | .mbxCancel o vf => Sys2Proof.Machine.execMbxCancel o vf s
  | .mbxTimeout vf fromPf => Sys2Proof.Machine.execMbxTimeout vf fromPf s
  | .fnMask o fn => Sys2Proof.Machine.execFnMask o fn s
  | .fnUnmask o fn => Sys2Proof.Machine.execFnUnmask o fn s
  | .wqView o q => Sys2Proof.Machine.execWqView o q s
  | .evqView o q => Sys2Proof.Machine.execEvqView o q s
  | .ownershipRequest line reqs err => Sys2Proof.Machine.execOwnershipRequest line reqs err s
  | .coreOffline n => Sys2Proof.Machine.execCoreOffline n s
  | .coreRxPost o h v => Sys2Proof.Machine.execCoreRxPost o h v s
  | .coreTxPost o h v => Sys2Proof.Machine.execCoreTxPost o h v s
  | .nbInvalidate o dev => Sys2Proof.Machine.execNbInvalidate o dev s
  | .nbSweepVisit set => Sys2Proof.Machine.execNbSweepVisit set s
  | .stippleCompare e x equal sc => Sys2Proof.Machine.execStippleCompare e x equal sc s
  | .stippleSecondCheck e x eqPrimary eqFirst sc => Sys2Proof.Machine.execStippleSecondCheck e x eqPrimary eqFirst sc s
  | .stippleUndecidedTimeout e x => Sys2Proof.Machine.execStippleUndecidedTimeout e x s
  | .observationEnd t => Sys2Proof.Machine.execObservationEnd t s
  | .testDue t => Sys2Proof.Machine.execTestDue t s
  | .testStart t => Sys2Proof.Machine.execTestStart t s
  | .testComplete kind idx pass locus => Sys2Proof.Machine.execTestComplete kind idx pass locus s
  | .testDeferTimeout t => Sys2Proof.Machine.execTestDeferTimeout t s
  | .tileRetire t => Sys2Proof.Machine.execTileRetire t s
  | .hlthTestNow o kind idx => Sys2Proof.Machine.execHlthTestNow o kind idx s
  | .hlthRetire o idx => Sys2Proof.Machine.execHlthRetire o idx s
  | .evrFreeze o => Sys2Proof.Machine.execEvrFreeze o s
  | .evrUnfreeze o => Sys2Proof.Machine.execEvrUnfreeze o s
  | .freezeLimit => Sys2Proof.Machine.execFreezeLimit s
  | .evrFlush o => Sys2Proof.Machine.execEvrFlush o s
  | .flushComplete => Sys2Proof.Machine.execFlushComplete s
  | .auditHoldEnd us => Sys2Proof.Machine.execAuditHoldEnd us s
  | .powerSample eng rest => Sys2Proof.Machine.execPowerSample eng rest s
  | .thermalReading n q => Sys2Proof.Machine.execThermalReading n q s
  | .thermalCapStep => Sys2Proof.Machine.execThermalCapStep s
  | .thermalTripRecover => Sys2Proof.Machine.execThermalTripRecover s
  | .hbKickLink o tok => Sys2Proof.Machine.execHbKickLink o tok s
  | .hbKickCore o tok => Sys2Proof.Machine.execHbKickCore o tok s
  | .heartbeatMiss core => Sys2Proof.Machine.execHeartbeatMiss core s
  | .silenceEnd => Sys2Proof.Machine.execSilenceEnd s
  | .powerOn => Sys2Proof.Machine.execPowerOn s
  | .devrstNAssert cause => Sys2Proof.Machine.execDevrstNAssert cause s
  | .resetRelease s0 s1 s2 => Sys2Proof.Machine.execResetRelease s0 s1 s2 s
  | .primerServiceStart bad => Sys2Proof.Machine.execPrimerServiceStart bad s
  | .imageVerifyComplete kind ver okFirst okOther => Sys2Proof.Machine.execImageVerifyComplete kind ver okFirst okOther s
  | .engineSelfTestComplete failed => Sys2Proof.Machine.execEngineSelfTestComplete failed s
  | .portCalibrationComplete q ok => Sys2Proof.Machine.execPortCalibrationComplete q ok s
  | .stackRetrainComplete m ok => Sys2Proof.Machine.execStackRetrainComplete m ok s
  | .finishServiceStart => Sys2Proof.Machine.execFinishServiceStart s
  | .trialConfirm => Sys2Proof.Machine.execTrialConfirm s
  | .trialFail => Sys2Proof.Machine.execTrialFail s
  | .supplyFault => Sys2Proof.Machine.execSupplyFault s
  | .sysrefLoss => Sys2Proof.Machine.execSysrefLoss s
  | .pwrfailWarning => Sys2Proof.Machine.execPwrfailWarning s
  | .pwrfailClear => Sys2Proof.Machine.execPwrfailClear s
  | .pldmEventSend => Sys2Proof.Machine.execPldmEventSend s
  | .pldmEventRetry => Sys2Proof.Machine.execPldmEventRetry s
  | .setEndpointId eid => Sys2Proof.Machine.execSetEndpointId eid s
  | .getEndpointId => Sys2Proof.Machine.execGetEndpointId s
  | .getMctpVersionSupport ty => Sys2Proof.Machine.execGetMctpVersionSupport ty s
  | .getMessageTypeSupport => Sys2Proof.Machine.execGetMessageTypeSupport s
  | .setTid tid => Sys2Proof.Machine.execSetTid tid s
  | .getTid => Sys2Proof.Machine.execGetTid s
  | .getPldmVersion ty => Sys2Proof.Machine.execGetPldmVersion ty s
  | .getPldmTypes => Sys2Proof.Machine.execGetPldmTypes s
  | .getPldmCommands ty => Sys2Proof.Machine.execGetPldmCommands ty s
  | .setEventReceiver en addr => Sys2Proof.Machine.execSetEventReceiver en addr s
  | .getSensorReading id => Sys2Proof.Machine.execGetSensorReading id s
  | .getStateSensorReadings id => Sys2Proof.Machine.execGetStateSensorReadings id s
  | .getPdr handle => Sys2Proof.Machine.execGetPdr handle s
  | .pollForPlatformEventMessage => Sys2Proof.Machine.execPollForPlatformEventMessage s
  | .getFruRecordTableMetadata => Sys2Proof.Machine.execGetFruRecordTableMetadata s
  | .getFruRecordTable => Sys2Proof.Machine.execGetFruRecordTable s
  | .queryDeviceIdentifiers => Sys2Proof.Machine.execQueryDeviceIdentifiers s
  | .getFirmwareParameters => Sys2Proof.Machine.execGetFirmwareParameters s
  | .requestUpdate => Sys2Proof.Machine.execRequestUpdate s
  | .passComponentTable kind ver => Sys2Proof.Machine.execPassComponentTable kind ver s
  | .updateComponent kind ver image => Sys2Proof.Machine.execUpdateComponent kind ver image s
  | .transferComplete ok => Sys2Proof.Machine.execTransferComplete ok s
  | .verifyComplete => Sys2Proof.Machine.execVerifyComplete s
  | .applyComplete => Sys2Proof.Machine.execApplyComplete s
  | .activateFirmware selfContained => Sys2Proof.Machine.execActivateFirmware selfContained s
  | .getStatus => Sys2Proof.Machine.execGetStatus s
  | .cancelUpdateComponent => Sys2Proof.Machine.execCancelUpdateComponent s
  | .cancelUpdate => Sys2Proof.Machine.execCancelUpdate s
  | .regRead off wide => Sys2Proof.Machine.execRegRead off wide s
  | .regWrite off wide v => Sys2Proof.Machine.execRegWrite off wide v s
  | .bboxRead area cyclesBack idx count => Sys2Proof.Machine.execBboxRead area cyclesBack idx count s
  | .bootcfgWrite rec session => Sys2Proof.Machine.execBootcfgWrite rec session s
  | .ownerKeyWrite slot key session => Sys2Proof.Machine.execOwnerKeyWrite slot key session s
  | .ownerKeyRevoke slot session => Sys2Proof.Machine.execOwnerKeyRevoke slot session s
  | .deviceReset => Sys2Proof.Machine.execDeviceReset s
  | .getState => Sys2Proof.Machine.execGetState s
  | .getVersion => Sys2Proof.Machine.execGetVersion s
  | .getCapabilities ver => Sys2Proof.Machine.execGetCapabilities ver s
  | .negotiateAlgorithms => Sys2Proof.Machine.execNegotiateAlgorithms s
  | .pskExchange reqSession req => Sys2Proof.Machine.execPskExchange reqSession req s
  | .pskFinish session mac => Sys2Proof.Machine.execPskFinish session mac s
  | .getMeasurements session idx => Sys2Proof.Machine.execGetMeasurements session idx s
  | .keyUpdate session op tag => Sys2Proof.Machine.execKeyUpdate session op tag s
  | .heartbeat session => Sys2Proof.Machine.execHeartbeat session s
  | .endSession session => Sys2Proof.Machine.execEndSession session s
  | .blkCommit o pg v => Sys2Proof.Machine.execBlkCommit o pg v s
  | .blkLock o pg => Sys2Proof.Machine.execBlkLock o pg s
  | .blkIrqStatClear o pg v => Sys2Proof.Machine.execBlkIrqStatClear o pg v s
  | .blkIrqForce o pg v => Sys2Proof.Machine.execBlkIrqForce o pg v s
  | .counterRead o off wide => Sys2Proof.Machine.execCounterRead o off wide s
  | .registerWrite o off wide v => Sys2Proof.Machine.execRegisterWrite o off wide v s
  | .pcieLinkDown c => Sys2Proof.Machine.execPcieLinkDown c s
  | .pcieLinkUp c speed width flit => Sys2Proof.Machine.execPcieLinkUp c speed width flit s
  | .debugPortAttached => Sys2Proof.Machine.execDebugPortAttached s
  | .debugPortDetached => Sys2Proof.Machine.execDebugPortDetached s
  | .mctpAssemblyTimeout => Sys2Proof.Machine.execMctpAssemblyTimeout s
  | .partnerLpi q enter => Sys2Proof.Machine.execPartnerLpi q enter s
  | .hbmTemperatureReadout m temp => Sys2Proof.Machine.execHbmTemperatureReadout m temp s
  | .hbmStackLost m => Sys2Proof.Machine.execHbmStackLost m s

end Sys2Proof.Machine
end

