-- ==== Sys2Proof/Safety.lean ====
section
/-! DEFINITION. Safety.lean: what a safe run is, and the words in which claims about commands are stated. -/

namespace Sys2Proof.Machine

/-- A device in a safe state has not halted (13 R359) and has not tripped (16 R421). -/
def State.safe (s : State) : Bool := s.glb.service != 3 && !s.glb.tripped

/-- Between commands no record waits to be written: every record that a command raises is written before the command ends
(15 R402); and no access waits at a fenced bank but by being held (07 R206). -/
def State.quiet (s : State) : Prop := s.todo = [] ∧ s.mem.stalled = none

/-- Command `c` runs in state `s`: it answers a next state, and `P` holds of it. -/
def Answers (c : Instr) (s : State) (P : State → Prop) : Prop := ∃ t, exec c s = .next t ∧ P t

/-- Context `x` of engine `e` issues the instruction word `f` next: it lies in the region, its opcode is not reserved, and its guard
passes (04 R89, R90). -/
def Issues (s : State) (e x : Nat) (f : Fields) : Prop :=
  s.quiet ∧ s.canIssue e x = true ∧ (s.ctx (4 * e + x)).pc + 16 ≤ s.regionSize (4 * e + x)
  ∧ engOpcodes.contains (s.opAt (4 * e + x)) = true ∧ (s.ctx (4 * e + x)).p f.pg ≠ f.pn

/-- The word `f` of an instruction passes every check of 04 R89 on context `k`. -/
def Ins.passes (i : Ins) (s : State) (k : Nat) (f : Fields) : Prop := i.encOk (s.ctx k) f = true ∧ i.check s k f = 0

/-- The word `f` passes every check and does not wait. -/
def Ins.ready (i : Ins) (s : State) (k : Nat) (f : Fields) : Prop := i.encOk (s.ctx k) f = true ∧ i.check s k f = 0 ∧ f.feWait = false

/-- The words that fe_wait of an instruction waits for (04 R116). -/
def Ins.waitsFor (i : Ins) (s : State) (k : Nat) (f : Fields) : List (Nat × Nat × Nat) :=
  (i.waits.getD ((i.uses (s.ctx k) f).filter (!·.dst))).flatMap (s.useWords k)

/-- The state from which the effect of an instruction runs: under fe_wait the one in which all its words have been found full (04
R116, R118). -/
def Ins.runsFrom (i : Ins) (s : State) (k : Nat) (f : Fields) (t : State) : Prop :=
  if f.feWait then
    let p := s.feRanges k true (i.waitsFor s k f)
    feErr p.2 = none ∧ p.1.feBlock true p.2 = (t, none)
  else t = s

/-- Is the slice that context `k` runs sampled for a Stipple check (15 R390)? -/
def State.sampled (s : State) (k : Nat) : Bool := s.hlth.checks.any fun c => c.k == k && c.mirror.final.isNone

/-- What the checker of a sampled slice is sent of one instruction, and its abandonment where the mirror is full (15 R391), change the
checks and what an event's record changes; a context that is not sampled sends nothing. -/
def MirrorStep (k : Nat) (s t : State) : Prop :=
  t = { s with
    hlth := t.hlth, tiles := t.tiles, regs := t.regs, pages := t.pages, recs := t.recs, todo := t.todo, hbm := t.hbm
    stackTab := t.stackTab, mem := t.mem, noc := t.noc, evqs := t.evqs, out := t.out }
  ∧ (s.sampled k = false → t = s)

/-- Command `c` changes context `k` by `g`, and nothing else in the machine but what the checker of a sampled slice is sent. -/
def ChangesCtx (c : Instr) (s : State) (k : Nat) (g : Ctx → Ctx) : Prop :=
  Answers c s fun t => MirrorStep k { s with ctxs := t.ctxs } t ∧ ∀ j, t.ctx j = if j = k then g (s.ctx k) else s.ctx j

/-- The accesses that take `s` to `u` meet no fenced bank (07 R206). -/
def State.meetsNoFence (s u : State) : Prop := u.mem.stalled = s.mem.stalled

/-- A context moves on to its next instruction. -/
def Ctx.next (c : Ctx) : Ctx := { c with pc := c.pc + 16 }

/-- What follows an effect that met neither an error nor poison: what the checker of a sampled slice is sent, the flags that it set,
and the next instruction, or the one that it names. -/
def Run.moveOn (r : Run) : State :=
  ((r.mirror r.s).updCtx r.k (·.stick r.fl false)).updCtx r.k fun c => { c with pc := r.npc.getD (c.pc + 16) }

/-- What an effect starts from: the bit errors that the reads find have been acted on (03 R65). -/
def Run.start (s t : State) (k : Nat) (f : Fields) : Run :=
  { s := t.meet k f.met.upsets, k, f, rem := f.met.remote, seen := [(t.tsAddr k (s.ctx k).pc, 16, false)] }

/-- Command `c` runs the effect `run` of the instruction `i` on context `x` of engine `e`, with what it meets; an effect that meets
neither an error nor poison moves on. Under fe_wait, words that are not full make the context wait. -/
def RunsEffect (c : Instr) (i : Ins) (run : Run → Run) (s : State) (e x : Nat) (f : Fields) : Prop :=
  let k := 4 * e + x
  let s1 := s.slowed k f.met.slow
  let ends (u : State) : Prop := exec c s = .next (settle (s.issued f.met.slow u))
  Issues s e x f → i.passes s1 k f →
    (∀ t, i.runsFrom s1 k f t →
      let r := run (.start s t k f)
      ends (r.finish i.op) ∧ (r.err = none → r.poison = false → ends r.moveOn))
    ∧ (f.feWait = true → let p := s1.feRanges k true (i.waitsFor s1 k f)
        feErr p.2 = none → ∀ t w, p.1.feBlock true p.2 = (t, some w) →
          ends (t.startWait k false false (i.waitsFor s1 k f) p.2))

/-- Command `c` begins the collective instruction `i` with the effect `run`: the context awaits its instance, unless the effect
fails. -/
def BeginsInstance (c : Instr) (i : Ins) (run : Run → Run) (s : State) (e x : Nat) (f : Fields) : Prop :=
  let k := 4 * e + x
  let s1 := s.slowed k f.met.slow
  Issues s e x f → i.passes s1 k f → ∀ t, i.runsFrom s1 k f t →
    let u := (run (.start s t k f)).finish i.op
    (u.ctx k).failing = none → exec c s = .next (settle (s.issued f.met.slow u))

/-- The instruction word that a command issues: its engine, context and fields. -/
def issuedWord : Instr → Option (Nat × Nat × Fields)
  | .nop e x f | .sliceEnd e x f | .halt e x f | .br e x f | .loop e x f | .plumbRd e x f | .flagsRd e x f | .flagsClr e x f
  | .event e x f | .regroup e x f | .mbxRd e x f | .sLi e x f | .sAdd e x f | .sSub e x f | .sMul e x f | .sAnd e x f
  | .sOr e x f | .sXor e x f | .sShl e x f | .sShr e x f | .sSar e x f | .sCmp e x f | .sLd e x f | .sSt e x f | .pOp e x f
  | .tdLd e x f | .tdSt e x f | .tdSetf e x f | .tdGetf e x f | .tdAddb e x f | .tdCopy e x f | .fill e x f | .accZero e x f
  | .accSt e x f | .accLd e x f | .vAdd e x f | .vSub e x f | .vMul e x f | .vFma e x f | .vMin e x f | .vMax e x f
  | .vCmp e x f | .vFn e x f | .vCvt e x f | .vRed e x f | .vSel e x f | .topk e x f | .scatter e x f | .scatterAdd e x f
  | .feWait e x f | .feWaite e x f | .feSet e x f | .feClr e x f | .feTest e x f | .fence e x f | .bcastMma e x f
  | .reduce e x f | .bcast e x f | .lseReduce e x f | .combine e x f
  | .mov e x f | .gather e x f | .compact e x f | .attnBlock e x f | .dispatch e x f
  | .mma e x f _ | .mmaT e x f _ | .mmaReduce e x f _ => some (e, x, f)
  | _ => none

/-- PF0's command registers take commands: the device is in Finish service and the audit queue holds no write back. -/
def State.commandable (s : State) : Prop :=
  s.glb.service = 2 ∧ 2 ≤ s.boot.stage ∧ s.boot.romOnly = false ∧ s.recs.heldWrites = [] ∧ s.recs.audQueue.length < 1024

/-- Command `c` turns `s` into `u`, and writes the audit record of its register write (15 R407). -/
def Performs (c : Instr) (s u : State) : Prop := ∃ a, exec c s = .next (settle (u.audit a))

end Sys2Proof.Machine
end

