-- ==== Sys2Proof/Certificates/Slice0/Obligations.lean ====
section
/-! DEFINITION. Certificates/Slice0/Obligations.lean: the statements for the provers. -/

open Sys2Proof Sys2Proof.Machine

/-! ## The machine -/

/-- One step runs the command at the front of the queue on the machine with the rest of the queue. -/
def Obligations.StepRunsFrontCommand : Prop :=
  ∀ (c : Instr) (s : State), step { s with pending := c :: s.pending } = exec c s

/-- On an empty queue a device whose reset is asserted idles, and one that runs lets one Plumb count pass (log entry 4, the model's
choice), after which no record waits. -/
def Obligations.EmptyQueuePassesTime : Prop :=
  ∀ s : State, s.pending = [] →
    (s.boot.stage < 2 → step s = .next s)
    ∧ (2 ≤ s.boot.stage → step s = .next s.advance ∧ s.advance.quiet)

/-- Every command is accepted in every state: it answers a next state in which no record waits to be written, or it stands for an event
whose cause the state does not hold. -/
def Obligations.CommandsRunOrAreNotDue : Prop :=
  ∀ (c : Instr) (s : State), (∃ t, exec c s = .next t ∧ t.quiet) ∨ exec c s = .fault .notDue

/-- Every step keeps: no record waits to be written (15 R402). -/
def Obligations.NoRecordWaits : Prop := ∀ s t : State, s.quiet → step s = .next t → t.quiet

/-- Every step keeps: protected memory lists its bytes at strictly rising places, and none that a cell never written stores (07 R200),
so that equal memories are equal data. -/
def Obligations.ProtectedMemoryKeepsItsForm : Prop :=
  ∀ s t : State, Memory.wf s.hbm = true → step s = .next t → Memory.wf t.hbm = true

/-- After reset no record waits, no command waits, the memories list nothing and are in canonical form, the device is held in reset and
boots from there, and only PF0 is active. The register values that the spec does not give are the model's choice (log entry 6). -/
def Obligations.ResetState : Prop :=
  let s := State.reset
  s.quiet ∧ s.pending = [] ∧ s.hbm = [] ∧ s.tileMem = [] ∧ Memory.wf s.hbm = true ∧ Memory.wf s.tileMem = true
  ∧ s.boot.stage = 1 ∧ s.glb.service = 0 ∧ s.plumb.now = 0 ∧ s.plumb.st = 0 ∧ (s.fn 0).st = 1 ∧ (∀ f, f ≠ 0 → (s.fn f).st = 0)
  ∧ (∀ k, (s.ctx k).st = 0) ∧ (∀ c, (s.conn c).st = 0) ∧ (∀ a, s.reg a = resetAt a) ∧ s.tickLog = 13
  ∧ (∀ k < 192, s.regionSize k = 0x200000)

/-! ## Plumb time -/

/-- A boundary falls on a multiple of the tick length, not before the counter and after every boundary that the device has produced
(02 R42, R43); TICK_BOUNDARY takes the counter there and runs its phases. -/
def Obligations.BoundariesRise : Prop :=
  ∀ s : State,
    2 ^ s.tickLog ∣ s.nextBoundary ∧ s.plumb.now ≤ s.nextBoundary ∧ s.plumb.highest < s.nextBoundary
    ∧ s.nextBoundary < max s.plumb.now (s.plumb.highest + 1) + 2 ^ s.tickLog
    ∧ (2 ≤ s.boot.stage → exec .tickBoundary s = .next (settle (s.passTo s.nextBoundary).boundary)
        ∧ (s.passTo s.nextBoundary).plumb.now = s.nextBoundary)

/-- After an answer the rate correction and the learned rate lie within the slew limit (02 R38), and nothing but the Plumb state has
changed. -/
def Obligations.RatesStayWithinTheSlewLimit : Prop :=
  ∀ (s : State) (off : Int),
    let t := s.slew off
    t.plumb.c ≤ s.slewMax ∧ -s.slewMax ≤ t.plumb.c ∧ t.plumb.f ≤ s.slewMax ∧ -s.slewMax ≤ t.plumb.f
    ∧ t = { s with plumb := { s.plumb with c := t.plumb.c, f := t.plumb.f } }

/-- The timers of alignment (02 R36, R37, R42, Table 2.1): a mark goes out on an entry every 65,536 counts, eight unanswered marks make
it silent, a partner unheard for eight periods is forgotten, holdover is reported once after a second, a committed tick length
applies at its count, which is not above that of the next boundary. -/
def Obligations.PlumbTimers : Prop :=
  ∀ s : State,
    (∀ i q dev, s.upstream i = some (q, dev) → s.plumbRoot = false →
      (let u := s.up i
       let seq := (u.nextSeq + 1) % 2 ^ 32
       (∀ t, u.sentAt = some t → t + 65536 ≤ s.plumb.now) →
       exec (.plumbMarkSend i) s = .next (settle ((s.updUp i fun u => { u with
         out := some (seq, s.plumb.now), nextSeq := seq, sentAt := some s.plumb.now
         unanswered := if u.out.isSome then u.unanswered + 1 else 0 }).sendMark q dev i seq)))
      ∧ ((s.up i).silent = false → 8 ≤ (s.up i).unanswered →
        exec (.plumbEntrySilent i) s = .next (settle ((s.updUp i ({ · with silent := true })).reselect (s.plumb.use == some i)))))
    ∧ (∀ y ∈ s.plumb.partners, y.last + 8 * 65536 ≤ s.plumb.now →
      Answers (.plumbPartnerExpire y.port y.dev) s fun t =>
        t.plumb = { s.plumb with partners := s.plumb.partners.filter fun z => !(z.port == y.port && z.dev == y.dev) })
    ∧ (∀ t, s.plumb.holdAt = some t → s.alignSt = 3 → t + 1000000000 ≤ s.plumb.now →
      Answers .holdoverEvent s fun u => u.plumb = { s.plumb with holdAt := none } ∧ exec .holdoverEvent u = .fault .notDue)
    ∧ (∀ n t, s.plumb.waiting = some (n, t) → 2 ≤ s.boot.stage → t ≤ s.nextBoundary →
      exec .tickLengthApply s = .next (settle
        (((s.passTo t).setReg 0x1048 (setBits ((s.passTo t).reg 0x1048) 4 0 n)).updPlumb ({ · with waiting := none }))))

/-- A mark is answered where its sender is a partner or there is room for one more of 1,024, and dropped otherwise; an answer is used
where an entry awaits it, and dropped otherwise (02 R37). -/
def Obligations.MarksAndAnswers : Prop :=
  ∀ (s : State) (p : Pkt), s.glb.service ≠ 0 → s.isPhisal p = true →
    (p.malformed 0x20 = false → p.icrc.toNat = p.check 0x20 →
      let dev := beNat (slice p.payload 0 2) % 0x4000
      let mine (y : Partner) : Bool := y.port == p.port && y.dev == dev
      if s.plumb.partners.any mine || decide (s.plumb.partners.length < 1024) then
        exec (.plumbMark p) s = .next (settle ((s.updPlumb fun x => { x with
          partners := x.partners.filter (fun y => !mine y) ++ [{ port := p.port, dev, last := x.now }] }).answerMark p dev))
      else exec (.plumbMark p) s = .next (settle (s.dropMark p.port dev)))
    ∧ (p.malformed 0x21 = false → p.icrc.toNat = p.check 0x21 →
      exec (.plumbAnswer p) s = .next (settle (match s.answerEntry p with
        | none => s.inc 0xC0B8
        | some i => s.takeAnswer p i)))

/-! ## Instructions of the engines: control, scalars and descriptors -/

/-- The two forms of a two-operand scalar instruction (04 R98): a register or the immediate as second operand. A destination S0
discards what is written (04 R93, `Ctx.setS`). -/
def Sys2Proof.Machine.TwoOperand (mk : Nat → Nat → Fields → Instr) (g : W64 → W64 → W64) : Prop :=
  ∀ (s : State) (e x pg d a b : Nat) (pn : Bool) (v : W64), pg < 8 → d < 32 → a < 32 → b < 32 → Issues s e x { pg, pn } →
    let k := 4 * e + x
    let c := s.ctx k
    ChangesCtx (mk e x { pg, pn, d, a, b }) s k (fun y => (y.setS d (g (c.s a) (c.s b))).next)
    ∧ ChangesCtx (mk e x { pg, pn, d, a, sub := 1, imm := v }) s k (fun y => (y.setS d (g (c.s a) v)).next)

/-- The scalar instructions compute as Table 4.7 says, in both operand forms, and change nothing else. -/
def Obligations.ScalarArithmetic : Prop :=
  TwoOperand .sAdd (· + ·) ∧ TwoOperand .sSub (· - ·) ∧ TwoOperand .sMul (· * ·)
  ∧ TwoOperand .sAnd (· &&& ·) ∧ TwoOperand .sOr (· ||| ·) ∧ TwoOperand .sXor (· ^^^ ·)
  ∧ TwoOperand .sShl (fun p q => p <<< (q.toNat % 64)) ∧ TwoOperand .sShr (fun p q => p >>> (q.toNat % 64))
  ∧ TwoOperand .sSar (fun p q => p.sshiftRight (q.toNat % 64))
  ∧ (∀ (s : State) (e x pg d : Nat) (pn : Bool) (v : W64), pg < 8 → d < 32 → Issues s e x { pg, pn } →
      ChangesCtx (.sLi e x { pg, pn, d, imm := v }) s (4 * e + x) (fun y => (y.setS d v).next))

/-- S.CMP writes its condition, signed for codes 2 and 3 and unsigned for 4 and 5, and P.OP its operation (04 R102, Table 4.8); a
destination P0 discards what is written. -/
def Obligations.PredicateInstructions : Prop :=
  ∀ (s : State) (e x pg d a b : Nat) (pn : Bool) (v : W64), pg < 8 → d < 8 → Issues s e x { pg, pn } →
    let k := 4 * e + x
    let c := s.ctx k
    (a < 32 → b < 32 → ∀ n ≤ 5,
      let cond (p q : W64) : Bool := match n with
        | 0 => p == q
        | 1 => p != q
        | 2 => decide (p.toInt < q.toInt)
        | 3 => decide (p.toInt ≤ q.toInt)
        | 4 => decide (p.toNat < q.toNat)
        | _ => decide (p.toNat ≤ q.toNat)
      ChangesCtx (.sCmp e x { pg, pn, d, a, b, sub := 16 * n }) s k (fun y => (y.setP d (cond (c.s a) (c.s b))).next)
      ∧ ChangesCtx (.sCmp e x { pg, pn, d, a, sub := 16 * n + 1, imm := v }) s k (fun y => (y.setP d (cond (c.s a) v)).next))
    ∧ (a < 8 → b < 8 → ∀ n ≤ 4,
      let op (p q : Bool) : Bool := match n with
        | 0 => p && q
        | 1 => p || q
        | 2 => p != q
        | 3 => p && !q
        | _ => !p
      ChangesCtx (.pOp e x { pg, pn, d, a, b, sub := 16 * n }) s k (fun y => (y.setP d (op (c.p a) (c.p b))).next))

/-- The first checks of every instruction (04 R89, R90): a word that does not lie in the region fails with code 0x03; one whose guard
is equal to pn is skipped, so that only the program counter moves, unless its encoding fails. -/
def Obligations.FetchAndGuard : Prop :=
  ∀ (c : Instr) (s : State) (e x : Nat) (f : Fields), issuedWord c = some (e, x, f) → s.quiet → s.canIssue e x = true →
    let k := 4 * e + x
    (s.regionSize k < (s.ctx k).pc + 16 → ∃ op, exec c s = .next (settle (s.failCtx k 3 op)))
    ∧ ((s.ctx k).pc + 16 ≤ s.regionSize k → (s.ctx k).p f.pg = f.pn →
        (∃ op, exec c s = .next (settle (s.failCtx k 1 op))) ∨ ChangesCtx c s k Ctx.next)

/-- The control instructions (04 R98 to R100, R124): where the program counter goes, and what else of the context changes. -/
def Obligations.ControlInstructions : Prop :=
  ∀ (s : State) (e x pg : Nat) (pn : Bool), pg < 8 → Issues s e x { pg, pn } →
    let k := 4 * e + x
    ChangesCtx (.nop e x { pg, pn }) s k Ctx.next
    ∧ ChangesCtx (.sliceEnd e x { pg, pn }) s k
        (fun c => { c with
          st := 1, slices := c.slices + 1, overrun := false, mid := false, launch := c.launch.map ({ · with first := false })
          pc := c.pc + 16 })
    ∧ ((s.ctx k).pendingOps = [] → ChangesCtx (.halt e x { pg, pn }) s k ({ · with halting := true }))
    ∧ (∀ v : W64, v.toNat < 2 ^ 32 →
        ChangesCtx (.br e x { pg, pn, imm := v }) s k (fun c => { c with pc := branchTo c.pc v })
        ∧ ∀ a < 32, ChangesCtx (.loop e x { pg, pn, a, imm := v }) s k (fun c =>
            if a = 0 ∨ c.s a = 1 then (c.setS a (c.s a - 1)).next else { c.setS a (c.s a - 1) with pc := branchTo c.pc v }))
    ∧ (∀ d < 32,
        ChangesCtx (.flagsRd e x { pg, pn, d }) s k (fun c =>
          (c.setS d (BitVec.ofNat 64 (b2n c.nv + 2 * b2n c.of + 4 * b2n c.uf + 8 * b2n c.pz))).next)
        ∧ ChangesCtx (.regroup e x { pg, pn, d }) s k (fun c => (c.setS d (BitVec.ofNat 64 c.plan)).next)
        ∧ (s.rpOf k = none → ChangesCtx (.plumbRd e x { pg, pn, d }) s k (fun c => (c.setS d (BitVec.ofNat 64 s.plumb.now)).next)))
    ∧ (∀ m : W64, m.toNat < 16 → ChangesCtx (.flagsClr e x { pg, pn, imm := m }) s k (fun c =>
        { c with nv := c.nv && !m.getLsbD 0, of := c.of && !m.getLsbD 1, uf := c.uf && !m.getLsbD 2, pz := c.pz && !m.getLsbD 3
                 pc := c.pc + 16 }))
    ∧ (∀ a < 32, ∀ v : W64, v.toNat < 2 ^ 16 → (s.ctx k).evTick = some s.ticks →
        ChangesCtx (.event e x { pg, pn, a, imm := v }) s k (fun c => { c with evDrop := c.evDrop + 1, pc := c.pc + 16 }))

/-- EVENT, when none was delivered in this tick, raises ENG event 0x03 with the context's payload, once (04 R99; 17 Table 17.20). -/
def Obligations.EventInstruction : Prop :=
  ∀ (s : State) (e x pg a : Nat) (pn : Bool) (v : W64), pg < 8 → a < 32 → v.toNat < 2 ^ 16 → Issues s e x { pg, pn } →
    let k := 4 * e + x
    (s.ctx k).evTick ≠ some s.ticks →
    let ev : Ev := {
      blk := .eng, inst := e, num := 3, fn := s.owner k, p0 := v.toNat + 65536 * x, p1 := ((s.ctx k).s a).toNat % 2 ^ 32
      p2 := ((s.ctx k).s a).toNat / 2 ^ 32, p3 := min (s.ctx k).evDrop (2 ^ 32 - 1) }
    ∃ t, exec (.event e x { pg, pn, a, imm := v }) s = .next (settle t)
      ∧ MirrorStep k { s with ctxs := t.ctxs, todo := ((s.event ev).notify (s.owner k) ev.toEvq).todo } t
      ∧ ∀ j, t.ctx j = if j = k then { s.ctx k with evTick := some s.ticks, evDrop := 0, pc := (s.ctx k).pc + 16 } else s.ctx j

/-- S.LD and TD.LD read, S.ST and TD.ST write the tile store at S + imm, little-endian (04 R102, R103); a store changes these bytes
and no other. Reads of unpoisoned words. -/
def Obligations.ScalarMemory : Prop :=
  ∀ (s : State) (e x pg d a b : Nat) (pn : Bool) (v : W64), pg < 8 → a < 32 → b < 32 → Issues s e x { pg, pn } →
    let k := 4 * e + x
    let c := s.ctx k
    let at_ (i : Nat) : Nat := (c.s i + v).toNat
    (d < 32 → at_ a % 8 = 0 → at_ a + 8 ≤ s.regionSize k → s.tsBad (s.tsAddr k (at_ a)) 8 = false →
      ChangesCtx (.sLd e x { pg, pn, d, a, imm := v }) s k
        (fun y => (y.setS d (BitVec.ofNat 64 (leNat (s.tsBytes (s.tsAddr k (at_ a)) 8)))).next))
    ∧ (d < 64 → at_ a + 32 ≤ s.regionSize k → s.tsBad (s.tsAddr k (at_ a)) 32 = false →
      ChangesCtx (.tdLd e x { pg, pn, d, a, imm := v }) s k
        (fun y => { y with td := y.td.set 0 d (BitVec.ofNat 256 (leNat (s.tsBytes (s.tsAddr k (at_ a)) 32))), pc := y.pc + 16 }))
    ∧ (at_ a % 8 = 0 → at_ a + 8 ≤ s.regionSize k → Memory.wf s.tileMem = true →
      Answers (.sSt e x { pg, pn, a, b, imm := v }) s fun t =>
        MirrorStep k { s with ctxs := t.ctxs, tileMem := t.tileMem, tilePoison := t.tilePoison } t
        ∧ (∀ j, t.ctx j = if j = k then c.next else s.ctx j)
        ∧ t.tsBytes (s.tsAddr k (at_ a)) 8 = leBytes 8 (c.s b).toNat
        ∧ ∀ p, p < s.tsAddr k (at_ a) ∨ s.tsAddr k (at_ a) + 8 ≤ p → Tab.get t.tileMem 0 p = Tab.get s.tileMem 0 p)
    ∧ (d < 64 → at_ b + 32 ≤ s.regionSize k → Memory.wf s.tileMem = true →
      Answers (.tdSt e x { pg, pn, a := d, b, imm := v }) s fun t =>
        MirrorStep k { s with ctxs := t.ctxs, tileMem := t.tileMem, tilePoison := t.tilePoison } t
        ∧ (∀ j, t.ctx j = if j = k then c.next else s.ctx j)
        ∧ t.tsBytes (s.tsAddr k (at_ b)) 32 = leBytes 32 (c.td.get 0 d).toNat
        ∧ ∀ p, p < s.tsAddr k (at_ b) ∨ s.tsAddr k (at_ b) + 32 ≤ p → Tab.get t.tileMem 0 p = Tab.get s.tileMem 0 p)

/-- The descriptor instructions (04 R103): a field is written or read by its place in Table 4.3, the base address moves modulo 2^64,
a descriptor is copied; nothing else changes. -/
def Obligations.DescriptorInstructions : Prop :=
  ∀ (s : State) (e x pg d a b : Nat) (pn : Bool) (v : W64), pg < 8 → d < 64 → Issues s e x { pg, pn } →
    let k := 4 * e + x
    let c := s.ctx k
    let put (w : TdWord) (y : Ctx) : Ctx := { y with td := y.td.set 0 d w, pc := y.pc + 16 }
    (∀ n < 16, ∀ hi lo, tdField n = some (hi, lo) →
      (a < 32 → ChangesCtx (.tdSetf e x { pg, pn, d, a, sub := n }) s k
        (put (BitVec.ofNat 256 (setBits (c.td.get 0 d).toNat hi lo (c.s a).toNat))))
      ∧ (d < 32 → a < 64 → ChangesCtx (.tdGetf e x { pg, pn, d, a, sub := n }) s k
        (fun y => (y.setS d (BitVec.ofNat 64 (bits (c.td.get 0 a).toNat hi lo))).next)))
    ∧ (b < 32 → ChangesCtx (.tdAddb e x { pg, pn, d, b }) s k
        (put (BitVec.ofNat 256 (setBits (c.td.get 0 d).toNat 63 0 ((c.td.get 0 d).toNat % 2 ^ 64 + (c.s b).toNat)))))
    ∧ ChangesCtx (.tdAddb e x { pg, pn, d, sub := 1, imm := v }) s k
        (put (BitVec.ofNat 256 (setBits (c.td.get 0 d).toNat 63 0 ((c.td.get 0 d).toNat % 2 ^ 64 + v.toNat))))
    ∧ (a < 64 → ChangesCtx (.tdCopy e x { pg, pn, d, a }) s k (put (c.td.get 0 a)))

/-! ## Instructions of the engines: tensors -/

/-- A dense tensor in the own tile store. -/
def Sys2Proof.Machine.OwnDense (d : Td) : Prop := d.space = 0 ∧ d.sparse = 0 ∧ d.scaled = false

/-- No row of a tensor holds a poisoned word. -/
def Sys2Proof.Machine.Unpoisoned (s : State) (k : Nat) (d : Td) : Prop := ∀ i < d.rows, s.tsBad (s.tsAddr k (d.rowAt i)) d.rowBytes = false

/-- Only the rows of `d` differ in tile memory, row `i` holding the bytes `g i`; of the rest of the machine only the context (its next
instruction), the poison of the words written, and what the checker of a sampled slice is sent differ. -/
def Sys2Proof.Machine.WritesRows (c : Instr) (s : State) (k : Nat) (d : Td) (g : Nat → Nat → Byte) : Prop :=
  Answers c s fun t =>
    MirrorStep k { s with ctxs := t.ctxs, tileMem := t.tileMem, tilePoison := t.tilePoison } t
    ∧ (∀ j, t.ctx j = if j = k then (s.ctx k).next else s.ctx j)
    ∧ (∀ i < d.rows, ∀ j < d.rowBytes, Tab.get t.tileMem 0 (s.tsAddr k (d.rowAt i) + j) = g i j)
    ∧ ∀ p, (∀ i < d.rows, p < s.tsAddr k (d.rowAt i) ∨ s.tsAddr k (d.rowAt i) + d.rowBytes ≤ p) → Tab.get t.tileMem 0 p = Tab.get s.tileMem 0 p

/-- FILL writes imm[7:0] into every byte of its destination and changes no other byte (04 R105). -/
def Obligations.FillWritesEveryByte : Prop :=
  ∀ (s : State) (e x pg d : Nat) (pn : Bool) (v : W64),
    let f : Fields := { pg, pn, d, imm := v }
    let k := 4 * e + x
    let D := (s.ctx k).tdAt d
    Issues s e x f → fillIns.ready s k f → OwnDense D → Memory.wf s.tileMem = true →
    WritesRows (.fill e x f) s k D fun _ _ => v.setWidth 8

/-- No row of `a` meets a row of `d`. -/
def Sys2Proof.Machine.Apart (a d : Td) : Prop :=
  ∀ i < a.rows, ∀ j < d.rows, a.rowAt i + a.rowBytes ≤ d.rowAt j ∨ d.rowAt j + d.rowBytes ≤ a.rowAt i

/-- MOV copies the bytes of a dense tensor of rank 1 or 2 within the tile store to one apart from it, and changes no other byte (04
R104, R105). It copies in index order, so that a tensor of rank 1 that overlaps its source from above repeats the bytes between the two
bases, and one that overlaps it from below is a copy. -/
def Obligations.MovCopiesRows : Prop :=
  ∀ (s : State) (e x pg d a : Nat) (pn : Bool),
    let f : Fields := { pg, pn, d, a }
    let k := 4 * e + x
    let D := (s.ctx k).tdAt d
    let A := (s.ctx k).tdAt a
    Issues s e x f → movIns.ready s k f → OwnDense D → OwnDense A → Unpoisoned s k A → Memory.wf s.tileMem = true →
    (D.rank ≤ 2 → Apart A D → WritesRows (.mov e x f) s k D fun i j => Tab.get s.tileMem 0 (s.tsAddr k (A.rowAt i) + j))
    ∧ (D.rank = 1 → WritesRows (.mov e x f) s k D fun _ j =>
        Tab.get s.tileMem 0 (s.tsAddr k A.base + if A.base < D.base then j % (D.base - A.base) else j))

/-- V.ADD, V.SUB and V.MUL on INT32 tensors of rank 1 wrap modulo 2^32 (04 R111), element by element, and change no other byte. -/
def Obligations.IntegerVectors : Prop :=
  ∀ (s : State) (e x pg d a b : Nat) (pn : Bool),
    let f : Fields := { pg, pn, d, a, b }
    let k := 4 * e + x
    let D := (s.ctx k).tdAt d
    let A := (s.ctx k).tdAt a
    let B := (s.ctx k).tdAt b
    let word (T : Td) (i : Nat) : Int := leNat (s.tsBytes (s.tsAddr k T.base + 4 * i) 4)
    let put (v : Nat → Int) (_ j : Nat) : Byte := (leBytes 4 (v (j / 4) % 2 ^ 32).toNat).getD (j % 4) 0
    Issues s e x f → OwnDense D → OwnDense A → OwnDense B → Unpoisoned s k A → Unpoisoned s k B → A.fcode = 8 → D.rank = 1 → Memory.wf s.tileMem = true →
    ((binIns 0x50 f).ready s k f → WritesRows (.vAdd e x f) s k D (put fun i => word A i + word B i))
    ∧ ((binIns 0x51 f).ready s k f → WritesRows (.vSub e x f) s k D (put fun i => word A i - word B i))
    ∧ ((binIns 0x52 f).ready s k f → WritesRows (.vMul e x f) s k D (put fun i => word A i * word B i))

/-- ACC.ZERO clears every element of one accumulator, and no other accumulator and nothing else changes (04 R109, R110). -/
def Obligations.AccumulatorZero : Prop :=
  ∀ (s : State) (e x pg q : Nat) (pn : Bool), pg < 8 → q < 4 → Issues s e x { pg, pn } →
    let k := 4 * e + x
    Tab.wf (0 : W32) (s.ctx k).acc = true →
    Answers (.accZero e x { pg, pn, d := q }) s fun t =>
      MirrorStep k { s with ctxs := t.ctxs } t ∧ (∀ j, j ≠ k → t.ctx j = s.ctx j)
      ∧ t.ctx k = { (s.ctx k).next with acc := (t.ctx k).acc }
      ∧ ∀ i, Tab.get (t.ctx k).acc 0 i = if i / 4096 = q then 0 else Tab.get (s.ctx k).acc 0 i

/-- The data-movement instructions (04 R104 to R106, 05 R140) run once their guard and checks pass. -/
def Sys2Proof.Machine.MoveInstructionsRun : Prop :=
  ∀ (s : State) (e x : Nat) (f : Fields),
    RunsEffect (.mov e x f) movIns (movRun f) s e x f
    ∧ RunsEffect (.fill e x f) fillIns (fillRun f) s e x f
    ∧ RunsEffect (.gather e x f) (rowIns 0x61) (gatherRun f) s e x f
    ∧ RunsEffect (.scatter e x f) (rowIns 0x62) (scatterRun f) s e x f
    ∧ RunsEffect (.scatterAdd e x f) (rowIns 0x63) (scatterAddRun f) s e x f
    ∧ RunsEffect (.compact e x f) (rowIns 0x64) (compactRun f) s e x f

/-- The vector instructions and TOPK (04 R107, R111, R112; 03 R73, R74) run once their guard and checks pass. -/
def Sys2Proof.Machine.VectorInstructionsRun : Prop :=
  ∀ (s : State) (e x : Nat) (f : Fields),
    let vec (c : Instr) (i : Ins) (run : Run → Run) : Prop := RunsEffect c i run s e x f
    vec (.vAdd e x f) (binIns 0x50 f) (twoRun 0 0x50 f) ∧ vec (.vSub e x f) (binIns 0x51 f) (twoRun 1 0x51 f)
    ∧ vec (.vMul e x f) (binIns 0x52 f) (twoRun 2 0x52 f) ∧ vec (.vFma e x f) fmaIns (fmaRun f)
    ∧ vec (.vMin e x f) (binIns 0x54 f) (twoRun 3 0x54 f) ∧ vec (.vMax e x f) (binIns 0x55 f) (twoRun 4 0x55 f)
    ∧ vec (.vCmp e x f) cmpIns (cmpRun f) ∧ vec (.vSel e x f) selIns (selRun f) ∧ vec (.vFn e x f) fnIns (fnRun f)
    ∧ (let i := cvtIns (s.ctx (4 * e + x)) f; vec (.vCvt e x f) i (cvtRun i f))
    ∧ vec (.vRed e x f) redIns (redRun f) ∧ vec (.topk e x f) topkIns (topkRun f)

/-- The matrix instructions and ATTN.BLOCK (04 R108 to R110; 05 R154 to R157) run once their guard and checks pass. -/
def Sys2Proof.Machine.MatrixInstructionsRun : Prop :=
  ∀ (s : State) (e x : Nat) (f : Fields) (sc : Scrim),
    RunsEffect (.mma e x f sc) mmaIns (mmaRun f sc) s e x f
    ∧ RunsEffect (.mmaT e x f sc) (mmatIns (bitAt f.sub 0)) (mmatRun f sc) s e x f
    ∧ RunsEffect (.accZero e x f) accZeroIns (accZeroRun f) s e x f
    ∧ RunsEffect (.accSt e x f) accStIns (accStRun f) s e x f
    ∧ RunsEffect (.accLd e x f) accLdIns (accLdRun f) s e x f
    ∧ RunsEffect (.attnBlock e x f) attnIns (attnRun f) s e x f

/-! ## Full/empty words, waits, fences, and the end of a program -/

/-- FE.SET and FE.CLR mark every word of the rows of a dense tensor in the own tile store and no other word (04 R116, R117). -/
def Obligations.FullEmptyMarks : Prop :=
  ∀ (s : State) (e x pg a : Nat) (pn v : Bool),
    let f : Fields := { pg, pn, a }
    let k := 4 * e + x
    let A := (s.ctx k).tdAt a
    Issues s e x f → (feIns (if v then 0x72 else 0x73) .none).ready s k f → OwnDense A → Tab.wf false s.tileFull = true →
    Answers (if v then .feSet e x f else .feClr e x f) s fun t =>
      MirrorStep k { s with ctxs := t.ctxs, tileFull := t.tileFull } t
      ∧ (∀ j, t.ctx j = if j = k then (s.ctx k).next else s.ctx j)
      ∧ ∀ w, Tab.get t.tileFull false w =
          if ∃ i < A.rows, w ∈ wordsOf (s.tsAddr k (A.rowAt i)) A.rowBytes then v else Tab.get s.tileFull false w

/-- The full/empty instructions, FENCE and MBX.RD run once their guard and checks pass (04 R101, R116 to R123). -/
def Sys2Proof.Machine.SynchronisingInstructionsRun : Prop :=
  ∀ (s : State) (e x : Nat) (f : Fields),
    let k := 4 * e + x
    RunsEffect (.feWait e x f) (feIns 0x70 .none) (feWaitRun true f) s e x f
    ∧ RunsEffect (.feWaite e x f) (feIns 0x71 .none) (feWaitRun false f) s e x f
    ∧ RunsEffect (.feSet e x f) (feIns 0x72 .none) (feSetRun true f) s e x f
    ∧ RunsEffect (.feClr e x f) (feIns 0x73 .none) (feSetRun false f) s e x f
    ∧ RunsEffect (.feTest e x f) (feIns 0x74 .p) (feTestRun f) s e x f
    ∧ RunsEffect (.fence e x f) { op := 0x75, sub := 3, enc := fun _ f => f.sub % 4 != 3 } (fenceRun f) s e x f
    ∧ RunsEffect (.mbxRd e x f) (mbxRdIns (s.owner k)) (mbxRdRun (s.mbxIn k f.imm) f) s e x f

/-- The instructions that use operands in memory run their effects once their guard and checks pass, and move on where the effect met
neither an error nor poison; under fe_wait they wait first where a word is not full (04 R89, R90, R104 to R123, R129). -/
def Obligations.OperandInstructionsRun : Prop :=
  MoveInstructionsRun ∧ VectorInstructionsRun ∧ MatrixInstructionsRun ∧ SynchronisingInstructionsRun

/-- A wait ends when every word is in the awaited state, is sent again 1 µs after it was turned away, and stalls once after 4,096 ticks
(04 R118, R119; 07 R212). -/
def Obligations.WaitsEnd : Prop :=
  ∀ (s : State) (e x : Nat) (w : Wait),
    let k := 4 * e + x
    (s.ctx k).wait = some w →
    (s.runs e x = true → w.retry = false →
      let p := s.feRanges k true w.ranges
      feErr p.2 = none → ∀ t, p.1.feBlock (!w.empty) p.2 = (t, none) →
        let u := (t.endWait k).updMirror k fun m => { m with ins := m.ins ++ [(4, 0, [])] }
        exec (.feWaitComplete e x) s = .next (settle (if w.op then u.updCtx k (fun c => { c with pc := c.pc + 16 }) else u)))
    ∧ (s.runs e x = true → w.retry = true → w.sentAt + 1000 ≤ s.plumb.now →
      let p := s.feRanges k true w.ranges
      exec (.syncWaitRetry e x) s = .next (settle ((p.1.startWait k w.op w.empty w.ranges p.2).updCtx k fun c => { c with
        wait := c.wait.map fun y => { y with since := w.since, stalled := w.stalled } })))
    ∧ (w.since + 4096 ≤ s.ticks → w.stalled = false →
      Answers (.feWaitStall e x) s fun t => (t.ctx k) = { s.ctx k with wait := some { w with stalled := true } } ∧ t.engs = s.engs
        ∧ exec (.feWaitStall e x) t = .fault .notDue)

/-- What ends a fence, a program and a failed context (04 R122 to R124, R129), where no write failed: the next instruction; an empty
context whose slice is counted; an empty context that shows its fault and error code. -/
def Obligations.ProgramsEnd : Prop :=
  ∀ (s : State) (e x : Nat),
    let k := 4 * e + x
    let c := s.ctx k
    c.pendingOps = [] →
    let ended (t : State) : Prop :=
      (t.ctx k).st = 0 ∧ (t.ctx k).launch = none ∧ (t.ctx k).slices = c.slices + 1 ∧ (t.ctx k).failing = none ∧ (t.ctx k).halting = false
      ∧ (∀ j, j ≠ k → t.ctx j = s.ctx j) ∧ t.tileMem = s.tileMem ∧ t.engs = s.engs
    (s.runs e x = true → c.heldErr = none → c.heldLocal = none →
      (∀ n, c.fence = some n → s.quiet →
        ChangesCtx (.fenceComplete e x) s k fun y => { y with fence := none, pc := y.pc + 16 })
      ∧ (c.halting = true → Answers (.launchComplete e x) s fun t => ended t ∧ (t.ctx k).faulted = false))
    ∧ (∀ code, c.failing = some code → c.st = 2 →
      Answers (.contextFaultHalt e x) s fun t => ended t ∧ (t.ctx k).faulted = true ∧ (t.ctx k).err = code)

/-! ## Launches, the fabric and the tile stores -/

/-- A launch starts in a new context (02 R46; 04 R92, R93): it runs at its entry, S1 holds the argument, every other scalar, predicate,
descriptor and accumulator is zero, and no other context changes. -/
def Obligations.LaunchStartsNewContext : Prop :=
  ∀ (s : State) (e x : Nat) (l : Launch),
    let k := 4 * e + x
    let g := s.eng e
    s.sched.find? (fun y => y.e == e && y.x == x) = some l → e < 48 → x < 4 → l.tick * 2 ^ s.tickLog + 256 ≤ s.plumb.now →
    g.interval = some x → g.switching = none →
    g.noTile = false → g.copying = false → g.underTest = false → (s.ctx k).st = 0 →
    Answers (.launchStart e x) s fun t =>
      let c := t.ctx k
      c.st = 2 ∧ c.pc = l.entry ∧ c.tag = l.tag ∧ c.s 1 = BitVec.ofNat 64 l.arg ∧ (∀ i, i ≠ 1 → c.s i = 0) ∧ (∀ i, i ≠ 0 → c.p i = false)
      ∧ c.td = [] ∧ c.acc = [] ∧ c.err = (s.ctx k).err ∧ c.slices = (s.ctx k).slices
      ∧ (∀ j, j ≠ k → t.ctx j = s.ctx j) ∧ (∀ y ∈ t.sched, 4 * y.e + y.x ≠ k) ∧ (l.clear = false → t.tileMem = s.tileMem)

/-- The end of a context switch gives the engine to the incoming context, and the end of a migration's copy puts the engine on its new
tile and places what the hub held (03 R84, R86). -/
def Obligations.SwitchesAndMigrationsEnd : Prop :=
  ∀ (s : State) (e : Nat), e < 48 →
    (∀ x, (s.eng e).switching = some x →
      Answers (.contextSwitchComplete e) s fun t =>
        (t.eng e).interval = some x ∧ (t.eng e).switching = none ∧ ((s.ctx (4 * e + x)).st = 1 → (t.ctx (4 * e + x)).st = 2)
        ∧ (∀ j, j ≠ 4 * e + x → t.ctx j = s.ctx j) ∧ t.tileMem = s.tileMem)
    ∧ (∀ n, (s.eng e).migrTo = some n → (s.eng e).copying = true →
      exec (.migrationCopyComplete e) s = .next (settle (((s.eng e).heldIn ++ (s.eng e).waitIn).foldl (fun s h => match h with
          | .cmd _ i => s.releaseCmd i
          | .put off d fe poison => (s.tsWrite (0x800000 * n + off) d fe poison).mirrorIn (0x800000 * n + off) d)
        ((s.migrated e n).updEng e ({ · with heldIn := [], waitIn := [] }))))
      ∧ ((s.eng e).heldIn = [] → (s.eng e).waitIn = [] → Answers (.migrationCopyComplete e) s fun t =>
          t.tileOf e = n ∧ (t.eng e).copying = false ∧ (t.eng e).migrTo = none ∧ t.ctxs = s.ctxs))

/-- A marker marks the oldest transfer of its pair that came on the other plane, or is kept for the one that comes next; what waits for
nothing more is applied (01 R24). -/
def Sys2Proof.Machine.FenceMarkers : Prop :=
  ∀ (s : State) (src dst p : Nat), p < 2 → src ≤ hubAgent → dst ≤ hubAgent → s.noc.carries p src dst = true →
    let mine (h : Fenced) : Bool := h.src == src && h.dst == dst && h.plane == 1 - p && !h.marked
    (s.noc.fenced.any mine = false →
      exec (.nocFenceMarker src dst p) s = .next (settle (s.updNoc fun n => { n with markers := n.markers ++ [(src, dst, p)] })))
    ∧ (∀ i, s.noc.fenced.findIdx? mine = some i →
      exec (.nocFenceMarker src dst p) s = .next (settle
        (s.updNoc fun n => { n with fenced := n.fenced.modify i ({ · with marked := true }) }).releaseFenced))
    ∧ (∀ h, s.noc.fenced = [h] → mine h = true → s.noc.st0 = 0 → s.noc.st1 = 0 →
      exec (.nocFenceMarker src dst p) s = .next (settle ((s.updNoc ({ · with fenced := [] })).releaseCmd h.cmd)))

/-- A plane leaves service, waits for final markers, fails 8 ticks later without them, and returns (01 R25, R26; 17 R451). -/
def Sys2Proof.Machine.PlanesChange : Prop :=
  ∀ (s : State) (p : Nat),
    (p < 2 → bitAt (s.reg 0x64) p = true → s.noc.st p = 0 →
      exec (.planeRetire p) s = .next (settle
        ((s.updNoc fun n => { n with retiredAt := s.ticks, awaiting := n.lastUsed }).planeSt p
          (if s.noc.lastUsed.isEmpty then 2 else 1)).releaseFenced))
    ∧ (p < 2 → bitAt (s.reg 0x64) p = false →
      s.noc.st p = 2 ∨ (s.noc.st p = 3 ∧ (if p = 0 then s.noc.passed0 else s.noc.passed1) = true) → exec (.planeReturn p) s = .next (settle (s.planeSt p 0)))
    ∧ (s.draining = some p →
      (∀ src dst, (src, dst) ∈ s.noc.awaiting →
        let t := s.updNoc fun n => { n with
          awaiting := n.awaiting.filter (· != (src, dst)), markers := n.markers.filter (· != (src, dst, p)) }
        exec (.planeFinalMarker src dst) s = .next (settle (if t.noc.awaiting.isEmpty then t.planeSt p 2 else t).releaseFenced))
      ∧ (s.noc.retiredAt + 8 ≤ s.ticks → s.noc.awaiting ≠ [] →
        exec .planeFailTimeout s = .next (settle ((s.noc.fenced.filter fun h => h.plane != p).foldl (fun s h => s.bounce h.cmd)
          (((s.updNoc fun n => { n with
            awaiting := [], fenced := n.fenced.filter fun h => h.plane == p
            markers := n.markers.filter fun m => m.2.2 != p }).planeSt p 3).event { blk := .glb, num := 8 })))))

/-- The planes of the network on chip and their markers (01 R24 to R26; 17 R451). -/
def Obligations.PlanesAndMarkers : Prop := PlanesChange ∧ FenceMarkers

/-- An inbound transfer that its plane carries is placed whole in the region that its window names, where its sender may, or is
reported to its source; with FENCE it waits for its marker; while its engine is copied the hub holds it; with a parity error it is
discarded (01 R23, R24; 03 R67, R68, R86). -/
def Obligations.InboundTransfers : Prop :=
  ∀ (s : State) (src p e x off : Nat) (fn : Option Nat) (d : List Byte) (fence poison : Bool),
    let i : Instr := .routerInboundTransfer src p e x off fn d fence poison false
    let t0 := s.useNoc src (s.tileOf e)
    e < 48 → x < 4 → src ≤ hubAgent → d ≠ [] → s.noc.carries p src (s.tileOf e) = true → s.noc.planeOk p off = true →
    Memory.wf s.tileMem = true →
    (fence = false → (s.eng e).copying = false →
      (∀ a, s.windowAddr (4 * e + x) off d.length fn = some a → s.copyingOn (a / 0x800000) = none →
        Answers i s fun t =>
          t.tsBytes a d.length = d ∧ (∀ q, q < a ∨ a + d.length ≤ q → Tab.get t.tileMem 0 q = Tab.get s.tileMem 0 q)
          ∧ t.tileFull = s.tileFull ∧ t.ctxs = s.ctxs ∧ (poison = true → t.tsBad a d.length = true))
      ∧ (s.windowAddr (4 * e + x) off d.length fn = none → exec i s = .next (settle (t0.emit (.bounced e x off)))))
    ∧ (fence = false → (s.eng e).copying = true → exec i s = .next (settle (t0.holdInbound e (.cmd d.length i))))
    ∧ (fence = true → exec i s = .next (settle (t0.fencedArrival src (s.tileOf e) p i)))
    ∧ exec (.routerInboundTransfer src p e x off fn d fence poison true) s = .next (settle (t0.routerParity e))

/-- A scrub corrects or poisons (03 R65, R66): only the word it reads can change, its bytes stay where the syndrome is that of no error
or of the bit in error, and it is poisoned where the syndrome is that of no single bit. The forced cycle does the same. -/
def Obligations.ScrubsPoisonOnlyWhatIsLost : Prop :=
  ∀ (s : State) (t w : Nat) (err : TileErr) (c : Instr), t < 52 → w < 0x100000 → c ∈ [Instr.tileScrub t w err, Instr.forcedScrubCycle t w err] →
    Memory.wf s.tileMem = true → Tab.wf false s.tileFull = true →
    let i := 0x100000 * t + w
    let lost : Bool := match err with
      | .other _ => true
      | _ => false
    Answers c s fun u =>
      u.ctxs = s.ctxs
      ∧ (∀ a, a / 8 ≠ i → Tab.get u.tileMem 0 a = Tab.get s.tileMem 0 a) ∧ (∀ j, j ≠ i → Tab.get u.tileFull false j = Tab.get s.tileFull false j)
      ∧ (∀ j, Tab.get u.tilePoison false j = (Tab.get s.tilePoison false j || (decide (j = i) && lost)))
      ∧ (∀ b, err = .none ∨ err = .single b → u.tileMem = s.tileMem ∧ u.tileFull = s.tileFull)

/-! ## Collectives, experts, snapshots and replay -/

/-- The collective instructions begin their instance once their guard and checks pass (06 R168, R173, R174). -/
def Obligations.CollectiveInstructionsBegin : Prop :=
  ∀ (s : State) (e x : Nat) (f : Fields) (sc : Scrim),
    let root := s.isRoot (4 * e + x) f
    BeginsInstance (.reduce e x f) reduceIns (reduceRun f) s e x f
    ∧ BeginsInstance (.mmaReduce e x f sc) mmaReduceIns (mmaReduceRun f sc) s e x f
    ∧ BeginsInstance (.lseReduce e x f) lseIns (lseRun f) s e x f
    ∧ BeginsInstance (.bcast e x f) (bcastIns (bcastSrc root f)) (bcastRun root f) s e x f
    ∧ BeginsInstance (.bcastMma e x f) { bcastMmaIns with waits := some (bcastMmaSrc root f) } (bcastMmaRun root f) s e x f

/-- Chunks, ready words and abandon words that arrive for a local member take their place, and are held by the hub while the member's
engine is copied (06 R169 to R172, R179). -/
def Obligations.CollectiveArrivals : Prop :=
  ∀ (s t : State) (g r j : Nat),
    let e := ((t.grp g).ent r).eng
    let copying := (t.eng e).copying = true
    (∀ (h : ChunkHdr) (d : List Byte) (bad : List Nat), j < 16 → 1 ≤ h.bytes → h.bytes ≤ 65536 → d.length = h.bytes →
      s.arrive g r h.src { kind := 0, g, dest := r, src := h.src, j, hdr := some h, data := d, bad, seq := h.seq } = some t →
      (¬copying → exec (.chunkPlaced g r j h d bad) s = .next (settle
        ((if isBcast h.opcode then t.placeBcast g r h d bad else t.placeChunk g r j h d bad).progress g h.src)))
      ∧ (copying → exec (.chunkPlaced g r j h d bad) s = .next (settle
        (t.holdInbound e (.cmd (d.length + 64) (.chunkPlaced g r j h d bad))))))
    ∧ (∀ seq (x : Flight), j < 16 → s.flights.find? (fun x => x.kind == 1 && x.g == g && x.dest == r && x.j == j) = some x →
      s.arrive g r x.src { x with seq } = some t →
      (¬copying → exec (.readyWordPlaced g r j seq) s = .next (settle
        ((t.putWin (t.grp g) r (0x840 + 8 * j) (leBytes 8 seq) (some true)).progress g r)))
      ∧ (copying → exec (.readyWordPlaced g r j seq) s = .next (settle (t.holdInbound e (.cmd 8 (.readyWordPlaced g r j seq))))))
    ∧ (∀ seq, j < 16 → s.flights.find? (fun x => x.kind == 1 && x.g == g && x.dest == r && x.j == j) = none → s.rankLocal g r = true →
      ((s.grp g).ent r).eng < 48 → (s.eng ((s.grp g).ent r).eng).copying = false → s.collAt g r = none →
      exec (.readyWordPlaced g r j seq) s = .next (settle ((s.putWin (s.grp g) r (0x840 + 8 * j) (leBytes 8 seq) (some true)).progress g r)))
    ∧ (∀ src seq code, s.arrive g r src { kind := 2, g, dest := r, src, j := 0, seq, code } = some t →
      let u := t.putWin (t.grp g) r 0x8D0 (leBytes 8 (seq % 2 ^ 32 + 2 ^ 32 * (code % 256))) (some true)
      (∀ k c, ¬copying → u.collAt g r = some (k, c) → c.seq = seq →
        exec (.abandonWordPlaced g r src seq code) s = .next (settle (u.collAbort k 0x0B false (some src))))
      ∧ (¬copying → u.collAt g r = none → exec (.abandonWordPlaced g r src seq code) s = .next (settle u))
      ∧ (copying → exec (.abandonWordPlaced g r src seq code) s = .next (settle
        (t.holdInbound e (.cmd 8 (.abandonWordPlaced g r src seq code))))))

/-- An instance makes progress (06 R169 to R171, R174, R180): a dense chunk of every child combines and may then be sent, a chunk goes to
the parent, chunks go to children, the instance ends, unless a product awaits its re-run (15 R389), and a stall is reported once in each period of the watchdog. -/
def Obligations.InstancesProgress : Prop :=
  ∀ (s : State) (g r k : Nat) (c : Coll), s.collAt g r = some (k, c) → s.holds k = true →
    let acts := (s.kidsOf c).filter fun x => c.active x.1
    (isBcast c.op = false → acts ≠ [] → (acts.all fun x => s.slotReady c x.1) = true → c.op ≠ 0x87 → (c.recv (s.ctx k)).sparse ≠ 3 →
      Answers (.chunkCombine g r) s fun t => ∃ c', (t.ctx k).coll = some c' ∧ c'.comb = c.comb + 1 ∧ c'.ready = c.comb + 1 ∧ c'.sent = c.sent
        ∧ c'.seq = c.seq)
    ∧ (isBcast c.op = false → s.parentOf c ≠ none → c.sent < c.ready → s.wordFull (s.grp g) r (0x8C0 + 8 * (c.sent % 2)) = true →
      Answers (.chunkSend g r) s fun t => ∃ c', (t.ctx k).coll = some c' ∧ c'.sent = c.sent + 1 ∧ c'.comb = c.comb ∧ c'.ready = c.ready
        ∧ c'.seq = c.seq)
    ∧ (isBcast c.op = true → ((s.kidsOf c).filter (s.canForward c)) ≠ [] →
      Answers (.bcastChunkForward g r) s fun t => ∃ c', (t.ctx k).coll = some c' ∧ c'.last = s.ticks ∧ c'.comb = c.comb ∧ c'.seq = c.seq)
    ∧ (s.collDone k c = true → ∀ sc,
      (c.op ≠ 0x81 ∨ s.pendingRerun sc = none → Answers (.instanceComplete g r sc) s fun t => (t.ctx k).coll = none)
      ∧ (c.op = 0x81 → s.pendingRerun sc ≠ none →
        exec (.instanceComplete g r sc) s = .next (settle (s.updCtx k ({ · with rerun := s.pendingRerun sc })))))
    ∧ (c.last + bits (s.grp g).wdog 20 0 ≤ s.ticks →
      Answers (.collectiveStall g r) s fun t => (t.grp g).stall = true ∧ (t.ctx k).coll = some { c with last := s.ticks } ∧ t.tileMem = s.tileMem)

/-- DISPATCH and COMBINE run once their guard and checks pass; each then ends when everything it sent is acknowledged and everything it
awaits is in place (05 R147, R152, R153). -/
def Obligations.ExpertInstructions : Prop :=
  ∀ (s : State) (e x : Nat) (f : Fields),
    let k := 4 * e + x
    let m := (s.ctx k).moe
    RunsEffect (.dispatch e x f) dispatchIns (dispatchRun f) s e x f
    ∧ RunsEffect (.combine e x f) { combineIns with waits := some (combineSrc f) } (combineRun f) s e x f
    ∧ (s.holds k = true → m.fail = none →
      (m.wait = 1 → m.lost = false → (m.acks.all fun a => !(s.ctx k).pendingOps.contains a) = true →
        (s.moeHub.held.any fun y => y.g == m.g && y.src == m.rank && y.inst == m.inst && !y.combine) = false → m.allPlaced (s.grp m.g).size = true →
        Answers (.dispatchComplete e x) s fun t => (t.ctx k).moe = { m with wait := 0 } ∧ (m.g, m.rank, m.inst, false) ∈ t.moeHub.fin)
      ∧ (m.wait = 2 → s.recAt k m.f 20 4 ≤ m.rows →
        Answers (.combineCompute e x) s fun t => (t.ctx k).moe = { m with wait := 0 } ∧ (m.g, m.rank, m.inst, true) ∈ t.moeHub.fin))

/-- A latched snapshot is written once (06 R184; 17 R453); record and replay groups start, stop, and end by divergence (02 R54 to R59); a
domain reset that is not acknowledged within 1 ms resets the device (06 R185). -/
def Obligations.SnapshotsReplayAndDomainResets : Prop :=
  ∀ s : State,
    (∀ x, s.snap = some x → Answers .snapshotCapture s fun t => t.snap = none ∧ t.ctxs = s.ctxs ∧ exec .snapshotCapture t = .fault .notDue)
    ∧ (∀ r < 4,
      (s.rpMode r = 1 → (s.rep r).mode ≠ 1 → Answers (.recordStart r) s fun t => t.rep r = { mode := 1 } ∧ ∀ j, j ≠ r → t.rep j = s.rep j)
      ∧ (s.rpMode r = 2 → (s.rep r).mode ≠ 2 → Answers (.replayStart r) s fun t => t.rep r = { mode := 2 } ∧ ∀ j, j ≠ r → t.rep j = s.rep j)
      ∧ (s.rpMode r = 0 → (s.rep r).mode ≠ 0 → Tab.wf ({} : Rep) s.reps = true → Answers (.replayStop r) s fun t => (t.rep r).mode = 0)
      ∧ (∀ x, (s.rep r).live = true → (s.rep r).mode = 2 → s.overdue r = some x →
        Answers (.replayInputTimeout r) s fun t => (t.rep r).ended = true ∧ (t.rep r).reason = 3))
    ∧ (∀ d, s.boot.dom = some d → d.since + 1000000 ≤ s.plumb.now →
      Answers .domrstAckTimeout s fun t => t.boot = { s.boot with stage := 1, cause := 4, dom := none } ∧ t.glb = { s.glb with service := 0 })

/-! ## Registers -/

/-- A write of 4 bytes to a register of read-write fields that it may write and whose values are legal takes effect at once (00 R14,
17 R446): the register holds the value, what the register does is done, and the change is recorded. -/
def Obligations.RegisterWritesApply : Prop :=
  ∀ (s : State) (o : Origin) (off : Nat) (v : W64) (h : Hit) (u : State), s.commandable → s.reaches o = true → off % 4 = 0 → v.toNat < 2 ^ 32 →
    s.target o off = .reg h → h.a = h.base → h.r.size = 4 → 0x40 ≤ h.base % 0x1000 → ¬(h.b = .mbx ∧ 0x100 ≤ h.base % 0x1000) → (h.r.flds.all fun x => x.acc == .rw) = true → h.r.flds ≠ [] →
    mayWrite o h.b h.i (h.base % 0x1000) = true →
    let full := merge (s.reg h.key) v.toNat (h.r.now &&& (2 ^ 32 - 1))
    let w : RegWrite := { o, h, v := v.toNat }
    h.r.legal (2 ^ 32 - 1) v.toNat (merge (s.reg h.key) v.toNat (2 ^ 32 - 1)) = true → s.writeOk w (s.reg h.key) full = true → h.r.now &&& (2 ^ 32 - 1) ≠ 0 →
    State.effect s (s.setReg h.key full) w (s.reg h.key) (v.toNat &&& (2 ^ 32 - 1)) = some u →
    ∃ a, a.org = o ∧ a.kind = 0 ∧ a.addr = h.base ∧ exec (.registerWrite o off false v) s = .next (settle (u.audit a))

/-- A write to a register that is only read, or to one that its page's lock protects, does not apply: all it does is to be recorded as
refused (00 R14; 15 R407; 17 R443). For pages without a command whose refusal its status register shows. -/
def Obligations.RefusedWritesAreRecorded : Prop :=
  ∀ (s : State) (o : Origin) (off : Nat) (v : W64) (h : Hit), s.commandable → s.reaches o = true → off % 4 = 0 → v.toNat < 2 ^ 32 →
    s.target o off = .reg h → h.a = h.base → h.r.size = 4 → h.b ∉ [.dbg, .hbm, .xlt, .fn, .evq, .hlth] →
    (h.r.readOnly = true ∨ ((s.page (h.b.page + h.i)).lock = true ∧ (h.r.flds.all fun x => x.acc == .rwL) = true ∧ h.r.mask (· == .rwL) &&& (2 ^ 32 - 1) ≠ 0)) →
    ∃ old, exec (.registerWrite o off false v) s = .next (settle (s.refuse o h.base old v.toNat))

/-- A read returns the value to its origin, and may clear what it reads (17 R445, 00 R12). -/
def Obligations.CounterReadAnswers : Prop :=
  ∀ (s : State) (o : Origin) (off : Nat) (wide : Bool), s.reaches o = true →
    let p := s.readReg o off wide
    exec (.counterRead o off wide) s = .next (settle (p.1.emit (.read o off p.2)))

/-- The header commands of a page (17 R440, R442, R443; 02 R45): a commit armed for the next boundary, a lock, interrupt bits cleared
with the captured address, interrupt bits forced. -/
def Obligations.HeaderCommands : Prop :=
  ∀ (s : State) (pg : Nat) (b : Blk) (i : Nat), s.commandable → pageOf pg = some (b, i) → s.instThere b i = true →
    Performs (.blkCommit .pf0 pg 0) s (s.updPage pg fun g => { g with armed := some none })
    ∧ (b ≠ .dust → Performs (.blkLock .pf0 pg) s (s.updPage pg ({ · with lock := true })))
    ∧ (∀ v : W32, v.getLsbD 0 = false →
        exec (.blkIrqStatClear .pf0 pg v) s = .next (settle (s.updPage pg fun g => { g with
          irqStat := g.irqStat &&& ~~~v, captValid := g.captValid && !v.getLsbD g.captEvent }))
        ∧ Performs (.blkIrqForce .pf0 pg v) s (s.irqForce b i v.toNat))

/-- The commands of the record, health, heartbeat, scheduler and Plumb pages (15 R400, R403, R405; 16 R425; 06 R181, R184, R185; 02
R35). -/
def Obligations.RecordAndHealthCommands : Prop :=
  ∀ s : State, s.commandable → s.halves = [] →
    (∀ n b, 10 ≤ n → n ≤ 24 → s.reg 0x6040 = 256 * n + b2n b →
      Performs (.evrFreeze .pf0) s (s.setReg 0x6040 (256 * n + 1)).freeze ∧ Performs (.evrUnfreeze .pf0) s (s.setReg 0x6040 (256 * n)).unfreeze)
    ∧ Performs (.evrFlush .pf0) s (s.startFlush none false)
    ∧ (∀ i < 52, (s.tile i).role ≠ 4 →
        Performs (.hlthRetire .pf0 i) s (s.updTile i ({ · with retire := true }))
        ∧ Performs (.hlthTestNow .pf0 0 i) s { (s.dueNow i 2) with hlth := { (s.dueNow i 2).hlth with cmd := some (0, i), outcome := 3 } })
    ∧ (∀ tok < 256, Performs (.hbKickLink .island tok) s (s.kick false tok)
        ∧ ∀ n < 16, s.coreOnline n = true → Performs (.hbKickCore (.core n) tok) s (s.kick true tok))
    ∧ (∀ v : W64, s.tick < v.toNat → Performs (.snapshotArm .pf0 v) s ((s.setReg 0xA800 v.toNat).setReg 0xA810 1))
    ∧ (∀ g < 16, Performs (.cgCancel .pf0 g) s (s.cancelGroup g)
        ∧ ∀ u, s.domStart g = some u → Performs (.domainResetStart .pf0 g) s u)
    ∧ (∀ v : W64, s.plumbRoot = true → (s.page 1).lock = false → Performs (.plumbLoad .pf0 v) s ((s.setReg 0x1068 v.toNat).stepTo v.toNat))

/-- The commands of the debug page (17 R458; 04 R121, Table 4.13). -/
def Sys2Proof.Machine.DebugCommands : Prop :=
  ∀ s : State, s.commandable →
    (∀ e < 48, ∀ x < 4,
      let k := 4 * e + x
      let t := s.setReg 0x14048 0
      Performs (.contextHold .pf0 e x) s ((t.holdCtx k).updCtx k ({ · with dbgHold := true }))
      ∧ (let u := t.updCtx k ({ · with dbgHold := false })
         Performs (.contextRelease .pf0 e x) s (if (u.fn (u.owner k)).st = 2 then u else u.releaseCtx k)))
    ∧ (∀ u,
      (s.feCommand .pf0 0 = some u → Performs (.dbgFeRead .pf0) s u)
      ∧ (s.feCommand .pf0 1 = some u → Performs (.dbgFeWriteKeep .pf0) s u)
      ∧ (s.feCommand .pf0 2 = some u → Performs (.dbgFeWriteFull .pf0) s u)
      ∧ (s.feCommand .pf0 3 = some u → Performs (.dbgFeWriteEmpty .pf0) s u)
      ∧ (s.feCommand .pf0 4 = some u → Performs (.dbgFeSetFull .pf0) s u)
      ∧ (s.feCommand .pf0 5 = some u → Performs (.dbgFeSetEmpty .pf0) s u))

/-- The commands of the memory pages (07 R201, R206 to R209). -/
def Sys2Proof.Machine.MemoryCommands : Prop :=
  ∀ s : State, s.commandable →
    (∀ m < 8, s.siteThere m = true →
      (∀ die < 16, ¬(die = 15 ∧ (s.stack m).spareFor.isSome) → (s.stack m).retired.getLsbD die = false →
        ((s.stack m).pendDie.any (·.1 == die)) = false →
        Performs (.hbmDieRetire .pf0 m die) s (s.updStack m fun k => { k with pendDie := k.pendDie ++ [(die, 2, s.ticks)] }))
      ∧ (∀ pc < 60, ∀ bank < 16, ∀ row < 32768, (s.stack m).retired.getLsbD (pc / 4) = false → s.bankRepairs m pc bank < 2 →
        s.mem.repairs.length < 1024 → (s.stack m).repair = none →
        Performs (.hbmRepairCmd .pf0 m pc bank row) s
          (s.updStack m ({ · with repair := some { pc, bank, row, stage := 1, tick := s.ticks } }))))
    ∧ (s.diagOk 1 = true → Performs (.diagRawRead .pf0) s (diagCommand s 1))
    ∧ (s.diagOk 2 = true → Performs (.diagRawWrite .pf0) s (diagCommand s 2))
    ∧ (s.diagOk 3 = true → Performs (.diagArmFlip .pf0) s (diagCommand s 3))
    ∧ Performs (.diagDisarm .pf0) s (diagCommand s 4)

/-- The commands of the debug and memory pages do what R458, R121, R201 and R206 to R209 say. -/
def Obligations.DebugAndMemoryCommands : Prop := DebugCommands ∧ MemoryCommands

/-- The commands of the translation, transport and key pages (08 R230, R231; 09 R257, R261 to R264, R268, R271). -/
def Obligations.TransportCommands : Prop :=
  ∀ s : State, s.commandable →
    (∀ tag < 65536, ∀ fn < 512, ∀ n u,
      (s.invCommand .pf0 0 (tag + 65536 * fn + 2 ^ 30 * b2n n + 2 ^ 31) = some u → Performs (.invTag .pf0 fn tag n) s u)
      ∧ (s.invCommand .pf0 0 (65536 * fn + 2 ^ 25 + 2 ^ 30 * b2n n + 2 ^ 31) = some u → Performs (.invFunction .pf0 fn n) s u)
      ∧ (s.invCommand .pf0 0 (65536 * fn + 2 ^ 26 + 2 ^ 30 * b2n n + 2 ^ 31) = some u → Performs (.invFunctionReload .pf0 fn n) s u))
    ∧ Performs (.xltFaultAck .pf0) s (s.faultAck 0)
    ∧ (∀ c < 2 ^ 20,
      (bitAt (s.reg 0x48) 31 = true → Performs (.connCmdOpen .pf0 c) s (s.openCmd 0 c))
      ∧ ((s.conn c).st ≠ 0 →
          let t := s.connStat 0 0 (s.conn c).gen
          ((s.conn c).st = 2 → Performs (.connCmdClose .pf0 c) s (t.startClose c true))
          ∧ Performs (.connCmdForceClose .pf0 c) s (t.forceClose c).1
          ∧ Performs (.connCmdView .pf0 c) s (t.updPsl fun p => { p with view := p.view.set [] 0 (s.conn c).image })))
    ∧ (∀ i < 65536, s.psl.mrInv = none → Performs (.mrInvalidate .pf0 i) s (s.mrInvStart i))
    ∧ (∀ n < 512, ∀ epoch : W32, exec (.sealEpochStage .pf0 n epoch) s = .next (settle
        ((s.updPage 15 fun g => { g with staged := g.staged ++ [{ org := .pf0, off := 0xF800 + 4 * n, wide := false, val := epoch.toNat }] }).updPsl
          fun p => { p with
            deriving_ := (p.deriving_.filter fun d => d.1 != n) ++ [(n, epoch.toNat, false)]
            keys := p.keys.filter fun k => k.1 != n || k.2 == s.epoch n || k.2 == epoch.toNat })))

/-- The commands of the function, event-queue, mailbox and core pages (13 R358, R361, R364; 14 R374, R375; 17 R456). -/
def Obligations.FunctionCommands : Prop :=
  ∀ s : State, s.commandable →
    (∀ fn, 1 ≤ fn → fn < 512 →
      ((s.fn fn).st = 1 → Performs (.fnMask .pf0 fn) s (s.maskFn fn 1).arbEnter)
      ∧ ((s.fn fn).st = 2 → (s.fn fn).removal = none → Performs (.fnUnmask .pf0 fn) s (s.unmaskFn fn))
      ∧ (∀ control u, s.mbxCommand .pf0 fn (1 + 8 * b2n control) = some u → Performs (.mbxSend .pf0 fn control) s u)
      ∧ ((s.box (inBox .pf0 fn)).full = true → Performs (.mbxAck .pf0 fn) s (s.mbxAck (inBox .pf0 fn)))
      ∧ ((s.box (outBox .pf0 fn)).timedOut = true → Performs (.mbxCancel .pf0 fn) s (s.mbxCancel (outBox .pf0 fn))))
    ∧ (∀ q < 65536, let w := s.wq q
        Performs (.wqView .pf0 q) s { s with wqViews := s.wqViews.set {} 0 {
          w := [w.st + 4 * b2n ((s.fn w.cfg.owner).st == 2), w.c, w.p, w.cqProd, w.depth, w.delay] } })
    ∧ (∀ q < 4096, let e := s.evqs.get {} q
        Performs (.evqView .pf0 q) s { s with evqViews := s.evqViews.set {} 0 {
          w := [b2n e.valid + 2 * e.owner + 1024 * e.log2 + 32768 * e.vector + 2 ^ 20 * b2n e.armed, e.prod % 2 ^ 32, e.cons, e.lost] } })
    ∧ (∀ h < 16, ∀ v : W32,
      (s.postOk (0x12100 + 0x20 * h) v.toNat = true → Performs (.coreRxPost .pf0 h v) s (s.setReg (0x1210C + 0x20 * h) v.toNat))
      ∧ (s.postOk (0x12300 + 0x20 * h) v.toNat = true → Performs (.coreTxPost .pf0 h v) s (s.setReg (0x1230C + 0x20 * h) v.toNat).coreSend))
    ∧ (∀ dev < 16384, Performs (.nbInvalidate .pf0 dev) s (s.nbDrop dev))

/-! ## Memory stacks and translation -/

/-- A request to a line of an operating stack is served, or held in arrival order while its bank is fenced by a row repair (07 R194 to
R197, R206); none reaches the side table, and a core reaches the infrastructure partition only (07 R210; 08 Table 8.2). Where the
chunk of the line was never initialised, a read gives zeros; on a lost stack it gives an uncorrectable line (07 R200, R204). -/
def Obligations.MemoryRequests : Prop :=
  ∀ (s : State) (r : Requester) (off m lam : Nat) (ns : List Noise), s.locate off = some (m, lam) → 2 ≤ (s.stack m).st →
    (s.inMem off = false ∨ (∃ n, r = .core n ∧ s.inInfra off = false) → exec (.hbmRead r off ns) s = .fault .notDue)
    ∧ (s.inMem off = true → (∀ n, r = .core n → s.inInfra off = true) →
      let hold (c : Instr) : State := s.updStack m fun k => { k with held := k.held ++ [c] }
      let served (c : Instr) (t : State) : Prop := exec c s = .next (settle (if (s.stack m).fenced lam then hold c else t))
      served (.hbmRead r off ns) (serveRead s r off m lam ns)
      ∧ (∀ d poison, off % 256 = 0 → d.length = 256 → served (.hbmWrite r off d poison) (serveWrite s r off m lam d poison))
      ∧ (∀ parts, parts ≠ [] → (∀ x ∈ parts, x.1 + x.2.length ≤ 256) →
          served (.hbmPartialWrite r off parts ns) (serveParts s r off m lam parts ns))
      ∧ (s.inSync (256 * (off / 256)) = false →
        ((s.stack m).st = 2 → (s.stack m).inited (lam / 8192) = false →
          served (.hbmRead r off ns) (s.emit (.line r off 0 (zeros 256))))
        ∧ ((s.stack m).st = 3 →
          served (.hbmRead r off []) ((s.freshUe m lam (reqCode r)).emit (.line r off 2 (zeros 256))))))

/-- The Sander, retirement and row repair (07 R199 to R202, R204, R206): each step of theirs runs in the order that the spec gives; one
that meets a fenced bank is held. A scrub pass in ascending order is the model's choice (log entry 99). -/
def Obligations.StacksMaintainThemselves : Prop :=
  ∀ (s : State) (m : Nat),
    let k := s.stack m
    let held (c : Instr) (lam : Nat) (t : State) : State :=
      if k.fenced lam then s.updStack m fun k => { k with held := k.held ++ [c] } else t
    (k.st = 2 →
      (∀ lam ns, k.nextLine k.scrubAt = some lam →
        let t := ((s.disturbed m lam ns).readAny m lam 6).1
        exec (.sanderScrub m lam ns) s = .next (settle (held (.sanderScrub m lam ns) lam (match (t.stack m).nextLine (lam + 1) with
          | some _ => t.updStack m ({ · with scrubAt := lam + 1 })
          | none => (t.updStack m ({ · with scrubAt := 0 })).inc (Blk.sand.at m 0x058)))))
      ∧ (0 < k.initLeft → exec (.sanderInit m) s = .next (settle (s.initChunk m k.initPtr)))
      ∧ (∀ d ns, k.hasSpare d = true → k.rebuilt = false →
        let g := (groupsOf d).getD k.rebuildGrp 0
        let lam := k.rebuildPtr * 6 + g
        let p := (s.disturb m lam ns).readAny m lam 6
        exec (.sanderRebuildStep m ns) s = .next (settle (held (.sanderRebuildStep m ns) lam (rebuildAdvance
          (if k.inited (lam / 8192) then (if p.2.kind = 0 then p.1.storeData m lam p.2.data false else p.1) else s) m))))
      ∧ (∀ d < 16, k.retired.getLsbD d = false → k.pendDie.any (·.1 == d) = false →
        exec (.dieRetire m (some d)) s = .next (settle (s.updStack m fun k => { k with pendDie := k.pendDie ++ [(d, 1, s.ticks)] })))
      ∧ (let t := (s.updStack m ({ · with st := 3 })).event { blk := .hbm, inst := m, num := 5, p0 := 2 }
         exec (.hbmStackLost m) s = .next (settle (t.auditDev (Blk.hbm.at m 0x040) k.stat (t.stack m).stat))))
    ∧ (∀ die cause t l, k.pendDie = (die, cause, t) :: l → t < s.ticks →
        exec (.dieRetire m none) s = .next (settle (retireDie s m die cause)))
    ∧ (∀ r, k.repair = some r →
      let lam (c : Nat) : Nat := rowLine (k.pcGroup r.pc) r.bank r.row c
      (r.stage = 1 → r.tick < s.ticks →
        exec (.rowRepairStart m) s = .next (settle ((List.range 64).foldl (fun t c => (t.readAny m (lam c) 6).1)
          (s.updStack m ({ · with repair := some { r with stage := 2, tick := s.ticks } })))))
      ∧ (r.stage = 2 →
        let t := (List.range 64).foldl (fun t c => if (t.stack m).inited (lam c / 8192) then t.rewriteLine m (lam c) else t) s
        let t := t.updStack m ({ · with repair := some { r with stage := 3, tick := t.ticks }, repairOut := 0 })
        let entry : RepairEntry := { stack := m, die := r.pc / 4, pc := r.pc % 4, bank := r.bank, row := r.row, time := t.plumb.now }
        exec (.rowRepairComplete m) s = .next (settle
          (({ t with mem := { t.mem with repairs := t.mem.repairs ++ [entry] } } : State).event
            { blk := .sand, inst := m, num := 2, p0 := r.pc, p1 := r.bank, p2 := r.row }))))

/-- The commands of the memory stacks themselves. -/
def Sys2Proof.Machine.stackCommand : Instr → Bool
  | .hbmRead .. | .hbmWrite .. | .hbmPartialWrite .. | .sanderScrub .. | .sanderInit .. | .dieRetire .. | .sanderRebuildStep ..
  | .rowRepairStart .. | .rowRepairComplete .. | .hbmStackLost .. => true
  | _ => false

/-- The context whose write a command is. -/
def Sys2Proof.Machine.writerOf : Instr → Option Nat
  | .hbmWrite (.engine e x) .. | .hbmPartialWrite (.engine e x) .. => some (4 * e + x)
  | _ => none

/-- Whatever a memory stack serves, corrects, moves or repairs, protected memory keeps its canonical form, no context changes but the
one whose write is not applied, and of the rest of the machine only records, counters, the stacks and what is sent out differ. -/
def Obligations.StacksChangeOnlyTheirOwn : Prop :=
  ∀ (c : Instr) (s t : State), stackCommand c = true → exec c s = .next t → Memory.wf s.hbm = true →
    Memory.wf t.hbm = true
    ∧ t = { s with
        regs := t.regs, pages := t.pages, recs := t.recs, todo := t.todo, hbm := t.hbm, stackTab := t.stackTab, mem := t.mem, noc := t.noc
        evqs := t.evqs, out := t.out, ctxs := t.ctxs }
    ∧ ∀ j, writerOf c ≠ some j → t.ctx j = s.ctx j

/-- Walkers and aging (08 R225, R228, R229): a free walker takes the oldest miss of the next function in rotation; a walk that ends in
time fills the caches and serves the commands that wait for its page, one that does not gives them cause 0xD; the sweep visits its
4,096 sets in turn, spread over its period. A walk whose reads, and whose commands, meet no fenced bank. -/
def Sys2Proof.Machine.WalkersServeMisses : Prop :=
  ∀ (s : State) (w : Nat),
    let limit := s.fld (Blk.xlt.at 0 0x040) 15 8
    let x := s.xlt
    let period := 2 ^ s.fld (Blk.xlt.at 0 0x040) 3 0
    (∀ f m, s.nextMissFn = some f → x.misses.find? (fun y => y.fn == f) = some m → w < 32 → x.walkers.get none w = none →
      exec (.walkStart w) s = .next (settle (s.updXlt fun x => { x with
        misses := x.misses.erase m, walkers := x.walkers.set none w (some { m with since := s.ticks }), turn := (f + 1) % 512 }).askPages)
      ∧ Answers (.walkStart w) s fun t =>
        t.xlt.walkers.get none w = some { m with since := s.ticks } ∧ t.xlt.turn = (f + 1) % 512 ∧ t.ctxs = s.ctxs ∧ t.tileMem = s.tileMem)
    ∧ (∀ m, x.walkers.get none w = some m →
      (s.ticks < m.since + limit →
        let p := (s.freeWalker w).walkPage m.fn m.tag (4096 * m.page)
        let u := ((p.1.xltCount m.fn 2).fillWalk m p.2).serve m.fn (some m.tag) m.page p.2
        s.meetsNoFence u → exec (.walkComplete w) s = .next (settle u))
      ∧ (m.since + limit ≤ s.ticks →
        let u := (s.freeWalker w).serve m.fn (some m.tag) m.page (.fault 0xD false)
        s.meetsNoFence u → exec (.walkTimeout w) s = .next (settle u)))
    ∧ (x.sweepPtr < 4096 → 4096 * x.sweepFrom + x.sweepPtr * period ≤ 4096 * s.ticks →
      Answers (.xltSweepVisit x.sweepPtr) s fun t =>
        t.xlt.sweepPtr = (x.sweepPtr + 1) % 4096 ∧ t.xlt.sweepFrom = (if x.sweepPtr = 4095 then x.sweepFrom + period else x.sweepFrom)
        ∧ t.xlt.recs = x.recs)

/-- Invalidations and the copies of host translations (08 R231 to R236): an invalidation ends when nothing under a removed entry is
outstanding; an answer to a request caches its range and serves the commands that wait, an answer without permission gives them cause
0xC and no answer in time cause 0xD; a host invalidation removes every entry of the function and awaits the reads issued with them.
Answers whose commands meet no fenced bank. -/
def Sys2Proof.Machine.InvalidationsEnd : Prop :=
  ∀ (s : State) (fn : Nat),
    (let c := s.xlt.inv.get {} fn
     c.busy = true → (∀ x ∈ c.awaits, ((s.conn x.1).live.any fun m => m.1 == x.2) = false) →
     (∀ x ∈ c.jobs, ((s.wq x.1).jobs.any fun j => j.entry == x.2 && j.stage == 2) = false) →
      Answers (.invComplete fn) s fun t =>
        t.xlt = { s.xlt with inv := s.xlt.inv.upd {} fn ({ · with busy := false, awaits := [], jobs := [] }) })
    ∧ (∀ va r, s.xlt.ats.find? (fun a => a.fn == fn && a.page == va / 4096) = some r →
      let served (t : State) (got : Got) : State := t.serve fn none r.page got
      let done := s.atsDone fn r.page
      (∀ xlated log2 ok rd wr, 12 ≤ log2 → (ok = false ∨ (rd || wr) = false) → s.meetsNoFence (served done (.fault 0xC false)) →
        exec (.atsCompletion fn va xlated log2 ok rd wr) s = .next (settle (served done (.fault 0xC false))))
      ∧ (∀ xlated log2 rd wr, 12 ≤ log2 → (rd || wr) = true →
        let a := 4096 * r.page
        let pa := xlated - xlated % 2 ^ log2 + a % 2 ^ log2
        let u := served (done.xltFill (newEnt fn none (atsClass log2) a pa rd wr)) (.host pa rd wr)
        s.meetsNoFence u → exec (.atsCompletion fn va xlated log2 true rd wr) s = .next (settle u))
      ∧ (r.since + s.fld (Blk.xlt.at 0 0x040) 23 16 ≤ s.ticks → s.meetsNoFence (served done (.fault 0xD false)) →
        exec (.atsTimeout fn va) s = .next (settle (served done (.fault 0xD false)))))
    ∧ exec (.atsInvalidate fn) s = .next (settle (((s.xltDrop fn Option.isNone).xltCount fn 6).updXlt fun x => { x with
        atsInv := x.atsInv ++ [(fn, (s.pcieRds.filter fun r => r.at_ && (s.wq r.q).cfg.owner == fn).map fun r => (r.ctl, r.tag))]
        waits := x.waits.map (·.again fun w => w.fn == fn && w.tag.isNone) }).askPages)
    ∧ (∀ x, s.xlt.atsInv.find? (fun x => x.1 == fn) = some x → (∀ y ∈ x.2, (s.pcieRds.any fun r => r.ctl == y.1 && r.tag == y.2) = false) →
      exec (.atsInvComplete fn) s = .next (settle ((s.updXlt fun t => { t with atsInv := t.atsInv.erase x }).emit (.invDone fn))))

/-- The translation caches run as 08 R225 to R236 say. -/
def Obligations.TranslationRuns : Prop := WalkersServeMisses ∧ InvalidationsEnd

/-! ## Connections and packets -/

/-- A frame of a connection opcode meets its context where the cache holds it, and waits for the fill of it otherwise; one that the
first checks drop goes no further, and one that is not Phisal goes to the cores (09 R246, R247, Table 9.8; 10 R295, R297). One whose
placing meets a bank that a row repair fences has no effect yet: it is held at that stack (07 R206). The commands: WRITE, READ.REQ, READ.RESP, FLUSH, DISPATCH, ACK, NAK, CONN.REQ, CONN.ACCEPT, CONN.REJECT, CONN.CLOSE, CONN.CLOSED, DOMRST and
DOMRST.ACK. -/
def Obligations.PacketsMeetTheirContext : Prop :=
  ∀ (s : State) (i : Instr) (op : Nat) (p : Pkt), pktOf i = some (op, p) → op ≠ 0x20 → op ≠ 0x21 → s.glb.service ≠ 0 →
    (s.isPhisal p = false → exec i s = .next (settle (s.coreDeliver p.port 0 (Pkt.asFrame op p))))
    ∧ (s.isPhisal p = true → ∀ t,
      (s.arrival op p = (t, none) → exec i s = .next (settle t))
      ∧ ∀ q, s.arrival op p = (t, some q) →
          let c := q.dstConn % 2 ^ 20
          let v := t.cacheHit c
          let u := v.meetConn c (withPkt i q) op q
          exec i s = .next (settle
            (if (t.cached c).isSome then
               if u.mem.stalled = v.mem.stalled then u
               else v.updStack (u.mem.stalled.getD 0) fun k => { k with held := k.held ++ [withPkt i q] }
             else t.cacheMiss c (withPkt i q))))

/-- What a connection does by itself (09 R257, R262, R263, R268; 10 R272 to R276, R285 to R289, R295 to R297). -/
def Obligations.ConnectionsRun : Prop :=
  ∀ (s : State) (c : Nat),
    let x := s.conn c
    (∀ t, s.sendNext c = some t →
      ((s.cached c).isSome = true → ∀ u, (s.cacheHit c).sendNext c = some u → exec (.packetSend c) s = .next (settle u))
      ∧ (s.cached c = none → (s.psl.fills.any fun y => y.conn == c) = false →
          exec (.packetSend c) s = .next (settle (s.cacheMiss c (.packetSend c)))))
    ∧ ((s.cached c).isSome = true →
      (s.gapDue c = true → exec (.gapTimerExpiry c) s = .next (settle (s.goBackN c)))
      ∧ (s.rtoDue c = true → exec (.retransmitTimeout c) s = .next (settle (s.goBackN c))
          ∧ (x.round + 1 ≤ x.retryMax → Answers (.retransmitTimeout c) s fun t =>
              (t.conn c).round = x.round + 1 ∧ (t.conn c).nextPsn = x.una ∧ (t.conn c).gbn = true ∧ (t.conn c).gapTimer = false
              ∧ (t.conn c).sent = x.sent ∧ (t.conn c).st = x.st ∧ t.tileMem = s.tileMem))
      ∧ (s.reorderDue c = true → exec (.reorderDeadline c) s = .next (settle (s.reorderAck c))))
    ∧ (∀ b k m t, x.busy.find? (fun b => decide (b.2 < s.ticks)) = some b → x.sent.find? (fun y => y.psn == b.1) = some k →
      x.message k.msg = some m → s.sendOne c (k.psn + x.round + 1) m k true = (t, true) → 0 ≤ x.credit →
      exec (.busyResend c) s = .next (settle (t.updConn c fun y => { y with busy := y.busy.filter (· != b) })))
    ∧ (∀ y bad, s.psl.fills.find? (fun y => y.conn == c) = some y →
      let p := s.memRead 5 (s.reg (pslReg 0x058) + 256 * c) 256
      let drop (s : State) : State := s.updPsl fun p => { p with fills := p.fills.filter fun z => z.conn != c }
      (x.st = 0 → exec (.ctxFillComplete c bad) s = .next (settle ((drop p.1).fillServe c y.cmds)))
      ∧ (x.st ≠ 0 → bad || p.2.kind != 0 → exec (.ctxFillComplete c bad) s = .next (settle ((drop p.1).fillBad c)))
      ∧ (x.st ≠ 0 → (bad || p.2.kind != 0) = false → ((s.cached c).isSome || (p.1.cacheWay c).isSome) = true →
          exec (.ctxFillComplete c bad) s = .next (settle (((drop p.1).cacheFill c).fillServe c y.cmds))))
    ∧ (x.st = 1 → x.reqTick + 16 ≤ s.ticks →
      (x.reqs < 64 → exec (.connReqResend c) s = .next (settle (s.sendReq c)))
      ∧ (64 ≤ x.reqs → exec (.connOpenTimeout c) s = .next (settle ((s.connOutcome c 4 0).freeConn c))))
    ∧ (∀ t, x.closeTick = some t → x.st = 3 → t ≤ s.ticks → exec (.closingTimeout c) s = .next (settle
        ((((s.flushConn c 7).1).freeConn c).eventTo { blk := .psl, num := 3, fn := x.owner } x.owner)))
    ∧ (∀ slice set way, s.psl.cache.get none ((1024 * (slice % 4) + set % 1024) * 16 + way % 16) = none →
      exec (.ctxSweepVisit slice set way) s = .next (settle s))
    ∧ (∀ slice set way e,
      let k := (1024 * (slice % 4) + set % 1024) * 16 + way % 16
      let r := s.reg (Blk.ctx.at 0 0x040)
      let period := s.ticks / 2 ^ bits r 3 0
      s.psl.cache.get none k = some e → s.gapDue e.conn = false → s.rtoDue e.conn = false → s.reorderDue e.conn = false →
      (s.conn e.conn).pinned = false → bits r 6 4 ≠ 0 → e.aged ≠ period →
      (e.age < bits r 6 4 → Answers (.ctxSweepVisit slice set way) s fun t =>
        t.psl.cache.get none k = some { e with age := e.age + 1, aged := period } ∧ t.conns = s.conns)
      ∧ (bits r 6 4 ≤ e.age → exec (.ctxSweepVisit slice set way) s = .next (settle
          (((if e.changed then s.writeBack e.conn else s).cachePut k none).inc (Blk.ctx.at 0 0x068)))))
    ∧ (∀ i ws, s.psl.mrInv = some (i, ws) → (∀ w ∈ ws, s.mrOpen w = false) →
      Answers .mrInvComplete s fun t => t.psl = { s.psl with mrInv := none } ∧ t.conns = s.conns)
    ∧ (∀ n d, s.psl.deriving_.find? (fun d => d.1 == n && !s.psl.keys.contains (n, d.2.1)) = some d →
      Answers (.keyDerivationComplete n) s fun t => t.psl.keys = s.psl.keys ++ [(n, d.2.1)])

/-! ## Ports -/

/-- What arrives at a port and leaves it (11 R300, R307, R309 to R314, R317; 12 R324): the codewords that RS-FEC mended or gave up are
counted; a frame that a rule drops is counted in its class, any
other joins the part of its priority; the oldest of a priority is delivered, and a Phisal frame with a reserved opcode is dropped
with its count (09 Table 9.8 check 3); pauses of both sides begin, repeat and end; the arbiters
choose what is sent. -/
def Sys2Proof.Machine.FramesPass : Prop :=
  ∀ (s : State) (q p : Nat),
    let x := s.prio q p
    let now := s.plumb.now
    (∀ f, s.rxOn q = true →
      (s.dropClass q f = some 0 → exec (.frameReceive q f) s = .next (settle (s.fecSeen q f)))
      ∧ (∀ c, s.dropClass q f = some c → 1 ≤ c →
          exec (.frameReceive q f) s = .next (settle ((s.fecSeen q f).inc (macReg q (0x120 + 8 * c)))))
      ∧ (0 < f.fecUe → (s.port q).ueTick ≠ some s.ticks →
          (s.fecSeen q f).ports = (s.updPort q ({ · with ueTick := some s.ticks })).ports
          ∧ (s.fecSeen q f).conns = s.conns ∧ (s.fecSeen q f).tileMem = s.tileMem)
      ∧ (s.dropClass q f = none → Answers (.frameReceive q f) s fun t =>
          (t.prio q (s.rxPrio q f)).rx = (s.prio q (s.rxPrio q f)).rx ++ [f] ∧ t.conns = s.conns ∧ t.tileMem = s.tileMem))
    ∧ (∀ f rest, x.rx = f :: rest → f.lldp = false → (f.phisal = true → s.hubAccepts f.bytes = true) →
      let a := ((s.updPrio q p ({ · with rx := rest })).inc (macReg q 0x100)).inc (macReg q 0x108) f.bytes
      let b := a.inc (macReg q (if f.dst = 0xFFFFFFFFFFFF then 0x120 else if f.dst % 2 = 1 then 0x118 else 0x110))
      let c := if f.phisal then (if reservedOp f.body then b.drop (pslReg 0x080) else b) else b.coreDeliver q p f
      exec (.frameDeliver q p) s = .next (settle
        (if (c.prio q p).occ < 1024 * c.fld (macReg q 0x04C) 19 10 then
          (if (c.prio q p).ours then c.sendPfc q p 0 else c).updPrio q p ({ · with ours := false, limit := false }) else c)))
    ∧ (x.ours = true → s.portOn q = true → x.sentAt + 256 * s.quanta q / modeRate (s.port q).mode ≤ now →
        1024 * s.fld (macReg q 0x04C) 19 10 ≤ x.occ →
        Answers (.pfcRepeat q p) s fun t => (t.prio q p) = { x with sentAt := now } ∧ t.conns = s.conns)
    ∧ (x.ours = true → x.ourAt + 1000000 * s.fld 0x4054 5 0 ≤ now →
        Answers (.pauseLimit q p) s fun t => (t.prio q p) = { x with ours := false, limit := true } ∧ t.conns = s.conns)
    ∧ (s.rxOn q = true → p < 8 → ∀ n, 0 < n → n < 65536 →
        Answers (.pfcReceive q (2 ^ p) (List.replicate p 0 ++ [n])) s fun t => t.tileMem = s.tileMem
          ∧ (t.prio q p).until_ = some (now + (512 * n + modeRate (s.port q).mode - 1) / modeRate (s.port q).mode)
          ∧ (t.prio q p).rx = x.rx ∧ (t.prio q p).stalled = x.stalled)
    ∧ (∀ t, x.until_ = some t → t ≤ now → exec (.pauseExpiry q p) s = .next (settle
        (s.updPrio q p ({ · with until_ := none, pausedAt := none, freeAt := t }))))
    ∧ (s.paused q p = true → x.stalled = false → x.pausedAt.getD now + s.wdogNs q ≤ now →
        Answers (.pauseWatchdog q p) s fun t =>
          (t.prio q p) = { x with stalled := true } ∧ (t.port q).tx = ((s.port q).tx.filter fun f => f.pfc.isSome || f.prio != p)
          ∧ exec (.pauseWatchdog q p) t = .fault .notDue)
    ∧ (x.stalled = true → s.paused q p = false → (x.until_.getD x.freeAt) + s.wdogNs q ≤ now → exec (.stallEnd q p) s = .next (settle
        ((s.updPrio q p ({ · with stalled := false })).event { blk := .mac, inst := q, num := 5 })))
    ∧ (∀ t, s.portUp q = true → (s.port q).fault = false → (s.port q).lpiTx = false → s.nextFrame q = some t →
        exec (.frameTransmit q) s = .next (settle t))
    ∧ (∀ f l, s.portUp q = true → (s.port q).fault = false → (s.port q).lpiTx = false → (s.port q).tx = f :: l → f.pfc ≠ none →
        exec (.frameTransmit q) s = .next (settle (s.startFrame q f)))

/-- What becomes of a link (11 R302, R306, R315 to R319): a fault that lasts 1 ms takes it down and its frames are held, alignment that
lasts 1 ms brings it up, the hold time ends once, low-power idle begins and ends on each side, a committed mode retrains. -/
def Sys2Proof.Machine.LinksChange : Prop :=
  ∀ (s : State) (q : Nat),
    let x := s.port q
    let now := s.plumb.now
    (s.portOn q = true →
      (x.link ≠ 0 → x.fault = false → Answers (.localFault q) s fun t =>
        (t.port q).fault = true ∧ (t.port q).faultAt = now ∧ (t.port q).link = (if x.link = 1 then 0 else x.link)
        ∧ (t.port q).tx = x.tx ∧ (t.port q).cur = none)
      ∧ (x.fault = true → x.link = 2 → exec (.faultClear q) s = .next (settle (s.updPort q ({ · with fault := false }))))
      ∧ ((x.fault || x.link == 0) = true → x.link ≠ 2 → Answers (.faultClear q) s fun t =>
          t.port q = { x with fault := false, link := 1, alignAt := now, training := false } ∧ t.conns = s.conns)
      ∧ (x.link = 1 → x.fault = false → x.alignAt + 1000000 ≤ now → exec (.linkUp q) s = .next (settle
          ((s.updPort q ({ · with link := 2, holding := x.holding && x.silenced, idleAt := now })).event
            { blk := .mac, inst := q, num := 2 }).coreSend)))
    ∧ (x.link = 2 → x.fault = true → x.faultAt + 1000000 ≤ now → exec (.linkDown q) s = .next (settle (s.linkFalls q)))
    ∧ (x.holding = true → x.holdAt + 100000 * s.fld (macReg q 0x040) 26 20 ≤ now →
        exec (.holdExpiry q) s = .next (settle (s.discardHeld q).coreSend))
    ∧ (s.portUp q = true → bitAt (s.reg (macReg q 0x050)) 0 = true → x.lpiDef = true → x.lpiDone = true → x.lpiTx = false → x.tx = [] →
        x.cur = none → x.idleAt + 1000 * s.fld (macReg q 0x050) 17 8 ≤ now →
        Answers (.lpiEnter q) s fun t => t.port q = { x with lpiTx := true, lpiAt := now, wakeAt := none } ∧ t.conns = s.conns)
    ∧ (∀ t, x.wakeAt = some t → x.lpiTx = true → t ≤ now → exec (.lpiWake q) s = .next (settle
        ((s.inc (macReg q 0x1C0) ((now - x.lpiAt) / 1000)).updPort q ({ · with lpiTx := false, wakeAt := none }))))
    ∧ (x.link = 2 → ∀ w < 65536, Answers (.lpiNegotiationComplete q w) s fun t => t.port q = { x with lpiDone := true, lpiWake := w })
    ∧ (s.rxOn q = true → x.lpiDef = true →
        (x.lpiRx = false → Answers (.partnerLpi q true) s fun t => t.port q = { x with lpiRx := true, lpiRxAt := now })
        ∧ (x.lpiRx = true → exec (.partnerLpi q false) s = .next (settle
            ((s.inc (macReg q 0x1C8) ((now - x.lpiRxAt) / 1000)).updPort q ({ · with lpiRx := false })))))
    ∧ (s.portThere q = true → (x.mode, x.medium) ≠ s.modeSet q → ((x.mode == 5) != (s.fld (macReg q 0x040) 2 0 == 5)) = false →
        exec (.portModeChange q) s = .next (settle (s.retrain q (s.modeSet q).1 (s.modeSet q).2)))

/-- Ports run as chapter 11 says. -/
def Obligations.PortsRun : Prop := FramesPass ∧ LinksChange

/-! ## Queues, functions, mailboxes and cores -/

/-- An issued descriptor with opcode `op` runs; one that only a privileged ring may hold ends with status privilege elsewhere (13 R344,
Tables 13.5, 13.7). One whose accesses meet no bank that a row repair fences (07 R206). -/
def Sys2Proof.Machine.DescriptorRuns (c : Instr) (op q n : Nat) (run : State → Job → State) (s : State) : Prop :=
  ∀ j, s.jobAt q n 1 = some j → j.d.op = op →
    let t := s.updJob q n ({ · with stage := 2 })
    let u := if !(t.wq q).cfg.priv && j.d.privileged then t.jobDone q n 2 0 else run t j
    s.meetsNoFence u → exec c s = .next (settle u)

/-- The work descriptors and table commands run as their rows of Table 13.5 say (13 R343, R350, R351, R354, R362). -/
def Sys2Proof.Machine.DescriptorsRun : Prop :=
  ∀ (s : State) (q n : Nat) (src : List Byte) (bad : Bool),
    DescriptorRuns (.wdNop q n) 1 q n (fun t _ => t.jobDone q n 0 0) s
    ∧ DescriptorRuns (.wdCopy q n src bad) 2 q n (fun t _ => t.wdRun q n (.wdCopy q n src bad)) s
    ∧ DescriptorRuns (.wdWrite q n src) 3 q n (fun t _ => t.wdRun q n (.wdWrite q n src)) s
    ∧ DescriptorRuns (.wdRead q n) 4 q n (fun t _ => t.wdRun q n (.wdRead q n)) s
    ∧ DescriptorRuns (.wdFlush q n) 5 q n (fun t j => t.flushRun q n j.d) s
    ∧ DescriptorRuns (.launch q n) 6 q n
        (fun t j => t.submit (launchOf j.d.o8 j.d.o16 j.d.o24 j.d.o32 (some (q, n)) none) (t.wq q).cfg.owner) s
    ∧ DescriptorRuns (.wqLoad q n) 0x20 q n (fun t j => t.tableLoad q n j.d 65536 64 (t.reg (Blk.fn.at 0 0x040))
        (fun u i d => u.wqPut i (if i = q then some n else none) d) fun _ _ => false) s
    ∧ DescriptorRuns (.wqDisable q n) 0x21 q n (fun t j => match tableRange j.d 65536 with
        | some (x :: _) => if (t.wq x).st = 0 then t.jobDone q n 9 0 else
            ((t.updWq x fun w => { w with st := 2, jobs := w.issued, disabler := w.disabler ++ [(q, n)] }).drainStep x).arbEnter
        | _ => t.jobDone q n 9 0) s
    ∧ DescriptorRuns (.evqLoad q n) 0x22 q n (fun t j =>
        let base := t.reg (Blk.fn.at 0 0x048)
        t.tableLoad q n j.d 4096 32 base (fun u i d => u.evqPut i d) fun u i =>
          let d := (u.memRead 2 (base + 32 * i) 32).2.data
          (evqOf d).valid && u.evqOk i d && !u.evqRoom (evqOf d).owner i) s
    ∧ DescriptorRuns (.fnRemove q n) 0x23 q n (fun t j => match tableRange j.d 512 with
        | some (f :: _) => if (t.fn f).st ≠ 2 || (t.fn f).removal.isSome then t.jobDone q n 0x10 0 else
            (((t.closeAll f).1.updFn f ({ · with removal := some (q, n, (t.closeAll f).2) })).removeStep f).arbEnter
        | _ => t.jobDone q n 9 0) s

/-- Doorbells, fetching, issue, completion and messages of queues, and reads over PCIe (12 R322; 13 R340, R346, R347, R349, R356). -/
def Sys2Proof.Machine.RingsRun : Prop :=
  ∀ s : State,
    (∀ t, s.grantIssue = some t → exec .descriptorIssue s = .next (settle t))
    ∧ (∀ fn slot (v : W32),
      (s.slotQueue fn slot = none → exec (.wqDoorbell fn slot v) s = .next (settle s) ∧ exec (.cqConsumerWrite fn slot v) s = .next (settle s))
      ∧ (∀ q, s.slotQueue fn slot = some q → s.takes fn = true →
        let w := s.wq q
        exec (.cqConsumerWrite fn slot v) s = .next (settle ((s.updWq q ({ · with cqCons := v.toNat })).arbEnter))
        ∧ (w.st = 1 → v.toNat ≠ w.p → s.rpFn fn 2 = none →
          exec (.wqDoorbell fn slot v) s = .next (settle
            (if 2 ^ w.cfg.wqLog < (v.toNat + 2 ^ 32 - w.c) % 2 ^ 32 then s.malformed q w.c {} true
             else (s.updWq q fun w => { w with p := v.toNat, doors := w.doors ++ [(v.toNat, s.plumb.now)] }).arbEnter))))
      ∧ (∀ q e count, s.evqs.find? (fun x => x.2.valid && x.2.owner == fn && x.2.slot == slot) = some (q, e) → s.takes fn = true →
        exec (.evqDoorbell fn slot count false) s = .next (settle (s.updEvq q ({ · with cons := count % 2 ^ 31 })))
        ∧ exec (.evqDoorbell fn slot count true) s = .next (settle (s.updEvq q fun v =>
            let v := { v with cons := count % 2 ^ 31 }
            if v.unread = 0 then { v with armed := true } else { v with armed := false, msgDue := true }))))
    ∧ (∀ q host, let w := s.wq q
        s.rpFn w.cfg.owner 2 = none → s.rpFn w.cfg.owner 1 = none → s.canFetch w = true → w.c ≠ w.p → s.meetsNoFence (s.fetch q host) →
        exec (.descriptorFetch q host) s = .next (settle (s.fetch q host)))
    ∧ (∀ q j, let w := s.wq q
        w.jobs.find? (fun y => y.stage == 3) = some j →
        let silent := (bitAt j.d.ctl 3 && j.status == 0) || (s.fn w.cfg.owner).st == 3 || w.st == 0
        let t := if silent then s else s.complete q j
        exec (.descriptorComplete q j.entry) s = .next (settle
          ((((t.updWq q fun w => { w with jobs := w.jobs.filter fun y => !(y.entry == j.entry && y.stage == 3) }).drainStep q).removeStep
            w.cfg.owner).flrStep).arbEnter))
    ∧ (∀ v, let x := s.evqs.get {} v
        let t := s.updEvq v ({ · with msgDue := false, lastMsg := some s.plumb.now })
        x.valid = true → x.msgDue = true → s.takes x.owner = true → (∀ t, x.lastMsg = some t → t + 1000 * x.moderation ≤ s.plumb.now) →
        exec (.msixSend v) s = .next (settle (if (t.fn x.owner).unmasked.getLsbD x.vector then t.emit (.msix x.owner x.vector)
          else t.updFn x.owner fun f => { f with pba := f.pba ||| (1#32 <<< x.vector) })))
    ∧ (∀ fn v, s.takes fn = true → v < 32 →
        let t := s.updFn fn fun f => { f with unmasked := f.unmasked ||| (1#32 <<< v), pba := f.pba &&& ~~~(1#32 <<< v) }
        exec (.msixVectorUnmask fn v) s = .next (settle (if (s.fn fn).pba.getLsbD v then t.emit (.msix fn v) else t)))
    ∧ (∀ ctl tag data bad,
      let rest := s.pcieRds.filter fun x => !(x.ctl == ctl && x.tag == tag)
      let t := { s with pcieRds := rest }
      (s.pcieRds.find? (fun r => r.ctl == ctl && r.tag == tag) = none → ctl < 4 → exec (.pcieCompletion ctl tag data bad) s = .next (settle
        ((s.inc (Blk.pcie.at ctl 0x050)).event { blk := .pcie, inst := ctl, num := 2 })))
      ∧ ∀ r, s.pcieRds.find? (fun r => r.ctl == ctl && r.tag == tag) = some r →
        (bad = true ∨ data.length = r.len →
          let u := ((if bad then t.inc (Blk.pcie.at ctl 0x060) else t).pcieDone r data bad).flrStep
          s.meetsNoFence u → exec (.pcieCompletion ctl tag data bad) s = .next (settle u))
        ∧ (r.since + 50000 ≤ s.plumb.now →
          exec (.completionTimeout ctl tag) s = .next (settle (((t.inc (Blk.pcie.at ctl 0x068)).pcieDone r [] true).flrStep))))
    ∧ (∀ ctl addr len data xl, s.rootPort ctl = true → 1 ≤ len → len ≤ 4096 →
      let c := Instr.rootPortInbound ctl addr len data xl
      (xl = true ∨ bitAt (s.rpWord ctl) 31 = false → exec c s = .next (settle
        (if data.isSome then s.inc (Blk.pcie.at ctl 0x070) else (s.inc (Blk.pcie.at ctl 0x070)).emit (.completion ctl addr 2 []))))
      ∧ (xl = false → bitAt (s.rpWord ctl) 31 = true →
          let u := s.orWait c [⟨s.rpEnd_ ctl addr, len, data.isSome⟩] fun given s => s.rpRun ctl addr len data given
          s.meetsNoFence u → exec c s = .next (settle u)))

/-- Work queues, event queues and the host links run as chapters 12 and 13 say. -/
def Obligations.QueuesRun : Prop := DescriptorsRun ∧ RingsRun

/-- Resets of functions and controllers, mailboxes and the core cluster (13 R338, R358, R363; 14 R368, R370, R375; 16 Table 16.1): a
reset of a function that is disabled or resetting is absorbed, and the contested line of cores goes to each requester in rotation, the
last of which keeps it; a line with an uncorrectable word is fetched again where it is clean, and written back poisoned where it is modified
(14 R369); the neighbour sweep is spread over its period (14 R375). -/
def Obligations.FunctionsMailboxesAndCores : Prop :=
  ∀ (s : State) (f : Nat),
    ((s.fn f).st ≠ 1 → (s.fn f).st ≠ 2 → exec (.flr f) s = .next (settle s))
    ∧ (f ≠ 0 → (s.fn f).st = 1 ∨ (s.fn f).st = 2 → exec (.flr f) s = .next (settle (s.flrStart f).arbEnter))
    ∧ (∀ t, (s.fn f).flrAt = some t → (s.fn f).st = 3 → t + 100000000 ≤ s.plumb.now → exec (.flrBound f) s = .next (settle
        (((s.flrBoundary f).updFn f fun x => { x with flushed := x.flushed + (s.jobsOf f).length }).flrEnd f true).flrStep))
    ∧ exec (.vfEnable 0 true) s = .next (settle s)
    ∧ ((s.fn 1).st = 0 → exec (.vfEnable 1 true) s = .next (settle (s.setFn 1 1 0 0)))
    ∧ ((∀ i, (s.fn i).st = 0 ∨ i = 0) → ∀ n, exec (.vfEnable n false) s = .next (settle s))
    ∧ (∀ ctl < 4, exec (.controllerReset ctl) s = .next (settle (match s.ctlFn ctl with
        | some g => (s.ctlDown ctl).flr g
        | none => s.ctlDown ctl)))
    ∧ (1 ≤ f → f < 512 → ∀ from_,
      let b := mbxKey f from_
      let m := s.box b
      (m.sent = true → exec (.mbxDeliver f from_) s = .next (settle (s.mbxDeliver b))
        ∧ (m.control = false → Answers (.mbxDeliver f from_) s fun t =>
            (t.box b).full = true ∧ (t.box b).sent = false ∧ (t.box b).verified = false ∧ (t.box b).inSeq = m.seq ∧ (t.box b).busy = m.busy))
      ∧ (m.busy = true → m.timedOut = false → m.sendTick + s.fld (Blk.mbx.at f 0x048) 15 0 ≤ s.ticks →
        Answers (.mbxTimeout f from_) s fun t => t.box b = { m with timedOut := true } ∧ exec (.mbxTimeout f from_) t = .fault .notDue))
    ∧ (∀ line a, a < 16 → s.coreOnline a = true →
      let owned := { s.cores with dir := s.cores.dir.set {} line { modified := true, sharers := 1#16 <<< a } }
      let old := s.cores.dir.get {} line
      (Answers (.ownershipRequest line [a] .none) s fun t => t.cores = owned)
      ∧ (exec (.ownershipRequest line [a] .corrected) s = .next (settle ((s.inc (Blk.core.at 0 0x060)).ownLine line [a])))
      ∧ (old.modified = false →
          let p := (s.cacheUe.dropLine line).memRead 3 (s.infraBase + 64 * line) 64
          s.meetsNoFence p.1 → exec (.ownershipRequest line [a] .clean) s = .next (settle
            (if p.2.kind = 0 then p.1.ownLine line [a] else p.1)))
      ∧ (old.modified = true → ∀ data, data.length = 64 →
          let at_ := s.infraBase + 64 * line
          let u := ((s.cacheUe.dropLine line).writePiece 3 (at_ / 256 * 256) (at_ % 256) data true none).1
          s.meetsNoFence u → exec (.ownershipRequest line [a] (.modified data)) s = .next (settle u)))
    ∧ (∀ line a b, a < b → b < 16 → s.coreOnline a = true → s.coreOnline b = true →
      let p := s.cores.ptr.get 0 (homeSlice line)
      let first := if a < p ∧ p ≤ b then b else a
      p < 16 → Answers (.ownershipRequest line [a, b] .none) s fun t =>
        t.cores = { s.cores with
          ptr := s.cores.ptr.set 0 (homeSlice line) ((first + 1) % 16)
          dir := s.cores.dir.set {} line { modified := true, sharers := 1#16 <<< (if first = a then b else a) } })
    ∧ (∀ n < 16, bitAt (s.reg (Blk.core.at 0 0x040)) n = true → s.cores.offline.getLsbD n = false →
      Answers (.coreOffline n) s fun t => t.cores.offline = (s.cores.offline ||| (1#16 <<< n)) ∧ t.coreOnline n = false
        ∧ (∀ x ∈ t.cores.dir, x.2.sharers.getLsbD n = false) ∧ t.ctxs = s.ctxs)
    ∧ (let period := 2 ^ s.fld (Blk.core.at 0 0x040) 19 16
       s.cores.nbSweep < 256 → 256 * s.cores.nbFrom + s.cores.nbSweep * period ≤ 256 * s.ticks →
        Answers (.nbSweepVisit s.cores.nbSweep) s fun t =>
          t.cores.nbSweep = (s.cores.nbSweep + 1) % 256
          ∧ t.cores.nbFrom = (if s.cores.nbSweep = 255 then s.cores.nbFrom + period else s.cores.nbFrom)
          ∧ t.cores.dir = s.cores.dir ∧ t.conns = s.conns)

/-! ## Health, records, power and heartbeats -/

/-- Tests, retirement and Stipple checks (15 R390 to R398): a test falls due, starts on a spare, runs in place where it was deferred too
long, and ends; an observed tile without a booking leaves observation; a tile retires and its engine moves to a free spare; a sampled
slice is compared, and compared again where it differed, but only where every execution has passed its Scrim check (01 Table 1.10
entry L). -/
def Sys2Proof.Machine.TilesAreTested : Prop :=
  ∀ (s : State) (t : Nat), t < 52 → Tab.wf ({} : Tile) s.tiles = true → Tab.wf ({} : Eng) s.engs = true →
    let x := s.tile t
    (x.observing = true → x.obsFrom + 86400 * s.fld (Blk.hlth.at 0 0x040) 11 8 ≤ s.glb.opSec →
      Answers (.observationEnd t) s fun u => u.tile t = { x with observing := false, loci := [] } ∧ ∀ j, j ≠ t → u.tile j = s.tile j)
    ∧ (x.due ≤ s.glb.opSec → x.dueNow = none → x.role ≠ 2 → x.role ≠ 4 →
      Answers (.testDue t) s fun u => u.tile t = { x with dueNow := some (0, s.ticks) } ∧ exec (.testDue t) u = .fault .notDue)
    ∧ (s.canTest t = true → s.testsNow < s.fld (Blk.hlth.at 0 0x040) 14 12 →
      ((List.range 52).all fun u => !(s.canTest u && s.testBefore u t)) = true → x.role = 1 →
      Answers (.testStart t) s fun u => u.tile t = { x with role := 2, testTick := s.ticks, dueNow := none, inPlace := false })
    ∧ (∀ c since e, x.dueNow = some (c, since) → s.engineOn t = some e → since + 1000000 ≤ s.ticks → x.role = 0 → (s.eng e).migrTo = none →
      Answers (.testDeferTimeout t) s fun u =>
        u.tile t = { x with role := 2, testTick := s.ticks, dueNow := none, inPlace := true }
        ∧ (u.eng e).underTest = true ∧ (u.eng e).interval = none ∧ u.tileMem = s.tileMem)
    ∧ (∀ locus, x.role = 2 → x.testTick + 64 ≤ s.ticks → Answers (.testComplete 0 t true locus) s fun u =>
        u.tile t = { x with role := if x.inPlace then 0 else 1, inPlace := false, due := s.glb.opSec + s.testEvery x })
    ∧ (∀ kind i n, kind ≠ 0 → (kind, i, n) ∈ s.hlth.tests → n + 64 ≤ s.ticks → ∀ pass locus,
        Answers (.testComplete kind i pass locus) s fun u => (u.hlth.tests.any fun y => y.1 == kind && y.2.1 == i) = false ∧ u.tiles = s.tiles)
    ∧ (x.retire = true → x.role ≠ 4 → s.engineOn t = none →
        Answers (.tileRetire t) s fun u => u.tile t = { x with role := 4, retire := false, dueNow := none })
    ∧ (∀ e v, x.retire = true → x.role = 0 → s.engineOn t = some e → s.freeSpare = some v →
        Answers (.tileRetire t) s fun u => (u.tile t).role = 4 ∧ (u.tile v).role = 0 ∧ (u.eng e).migrTo = some v ∧ u.ctxs = s.ctxs)
    ∧ (∀ e y c, let k := 4 * e + y
        s.checkOf k = some c →
        (c.second = none → c.missing = none → c.mirror.final.isSome = true → ∀ equal sc,
          let v := s.scrimBookings c.checker k sc
          ((c.scrimBad || !s.scrimPassed sc) = true → exec (.stippleCompare e y equal sc) s = .next (settle (v.setCheck k none)))
          ∧ (c.scrimBad = false → s.scrimPassed sc = true →
            exec (.stippleCompare e y true sc) s = .next (settle ((v.inc (Blk.stip.at 0 0x058)).setCheck k none))
            ∧ exec (.stippleCompare e y false sc) s = .next (settle
                (let u := v.inc (Blk.stip.at 0 0x060)
                 match u.checker (u.tileOf e) with
                 | some v => (u.updTile v ({ · with role := 3 })).setCheck k (some { c with second := some v })
                 | none => u.setCheck k (some { c with missing := some u.ticks })))))
        ∧ (∀ n, c.second = some n → ∀ b sc,
          let u := s.scrimBookings n k sc
          (s.scrimPassed sc = true →
            exec (.stippleSecondCheck e y true b sc) s = .next (settle (((u.stipEvent 2 c).book c.checker k 5 locusChecksum).setCheck k none))
            ∧ exec (.stippleSecondCheck e y false true sc) s = .next (settle
                (((u.stipEvent 1 c).book (s.tileOf e) k 5 locusChecksum).setCheck k none))
            ∧ exec (.stippleSecondCheck e y false false sc) s = .next (settle (u.stipUndecided c)))
          ∧ (s.scrimPassed sc = false → ∀ a, exec (.stippleSecondCheck e y a b sc) s = .next (settle (u.stipUndecided c))))
        ∧ (∀ since, c.second = none → c.missing = some since → since + 64 ≤ s.ticks →
          exec (.stippleUndecidedTimeout e y) s = .next (settle (s.stipUndecided c))))

/-- Freezes, flushes and held writes end (15 R403 to R405, R408): a freeze ends at its limit, a flush writes what it covers and leaves
nothing flushing unless a fault is recorded after it, and held register writes proceed in the order in which they came. -/
def Sys2Proof.Machine.RecordsFlush : Prop :=
  ∀ s : State,
    (s.recs.frozen = true → s.recs.freezeTick + s.recs.freezeLim ≤ s.ticks → Answers .freezeLimit s fun t =>
      t.recs.frozen = false ∧ exec .freezeLimit t = .fault .notDue)
    ∧ (s.recs.flushing = true → exec .flushComplete s = .next (settle s.flushDone) ∧ s.flushDone.recs.flushing = false
        ∧ s.flushDone.recs.rollProd = s.recs.rollProd + (s.recs.between s.recs.flushIdx (max s.recs.flushTo s.recs.flushIdx)).length)
    ∧ (∀ us, s.recs.heldWrites ≠ [] → s.recs.audQueue.length < 1024 → exec (.auditHoldEnd us) s = .next (settle
        (s.recs.heldWrites.foldl (fun t w => t.regWrite w.org w.off w.wide w.val)
          (((s.updRecs ({ · with heldWrites := [] })).inc 0x7068).event { blk := .aud, num := 1, p0 := us }))))

/-- Power, temperature and heartbeats (16 R417, R419 to R422, R425): a sample enters the window, and one above the limit clamps; a
reading that is plausible is the sensor's, and one that is not counts against it; the cap and the duty move a step; a trip ends below
95 °C; a source that is late is missed once, and transmit silence begins and ends. -/
def Sys2Proof.Machine.PowerAndHeartbeats : Prop :=
  ∀ s : State,
    (∀ eng rest, 2 ≤ s.boot.stage →
      (eng + rest ≤ s.powerLimit → s.pwr.clamp = false →
        Answers (.powerSample eng rest) s fun t => t.pwr = s.pwr.sample eng rest ∧ t.thm = s.thm ∧ t.ctxs = s.ctxs)
      ∧ (s.powerLimit < eng + rest → Answers (.powerSample eng rest) s fun t =>
          t.pwr.clamp = true ∧ t.pwr.duty = min s.pwr.duty (clampDuty s.dutyNow eng rest s.powerLimit) ∧ t.pwr.plan = s.pwr.plan
          ∧ t.thm = s.thm))
    ∧ (∀ n q, s.sensorThere n = true → 1 ≤ s.boot.stage →
      let x := s.thm.sens.get {} n
      (-160 ≤ q → q ≤ 600 → (∀ p, x.q = some p → (q - p).natAbs ≤ 40) → Answers (.thermalReading n q) s fun t =>
        t.thm.sens.get {} n = { x with q := some q, bad := 0, at_ := s.plumb.now } ∧ t.tileMem = s.tileMem)
      ∧ (q < -160 ∨ 600 < q ∨ (∃ p, x.q = some p ∧ 40 < (q - p).natAbs) → Answers (.thermalReading n q) s fun t =>
          t.thm.sens.get {} n = { x with bad := x.bad + 1, failed := x.failed || decide (2 ≤ x.bad), at_ := s.plumb.now }))
    ∧ (∀ q, s.hottest = some q →
      (2 ≤ s.boot.stage → 400 ≤ q → (∀ f, s.thm.fell = some f → f + 8 ≤ s.ticks) → Answers .thermalCapStep s fun t =>
        t.thm = { s.thm with
          fell := some s.ticks, cap := min 3 (s.thm.cap + 1), duty := if s.thm.cap = 3 then s.thm.duty - 1 else s.thm.duty })
      ∧ (2 ≤ s.boot.stage → q < 388 → s.thm.rose + 64 ≤ s.ticks → 0 < s.thm.cap ∨ s.thm.duty < 16 → Answers .thermalCapStep s fun t =>
        t.thm = { s.thm with rose := s.ticks, cap := s.thm.cap - 1, duty := 16 })
      ∧ (s.thm.hold = true → q < 380 → Answers .thermalTripRecover s fun t => t.thm = { s.thm with hold := false, row := 0 }))
    ∧ (∀ m temp, s.siteThere m = true → 2 ≤ s.boot.stage → exec (.hbmTemperatureReadout m temp) s = .next (settle
        (s.updStack m ({ · with temp, tempPresent := true, hot := decide (95 ≤ temp) }))))
    ∧ (∀ core, s.hbDue core = true → Answers (.heartbeatMiss core) s fun t =>
        t.dust.silent = true ∧ (if core then t.dust.coreMiss else t.dust.linkMiss) = true ∧ exec (.heartbeatMiss core) t = .fault .notDue)
    ∧ (s.rollPeriods.silent = true → 64 ≤ s.rollPeriods.run → Answers .silenceEnd s fun t =>
        t.dust = { s.rollPeriods with silent := false, linkMiss := false, coreMiss := false, run := 0 })

/-- Health, records, power and heartbeats run as chapters 15 and 16 say. -/
def Obligations.HealthRecordsAndPower : Prop := TilesAreTested ∧ RecordsFlush ∧ PowerAndHeartbeats

/-! ## Boot, supplies and links -/

/-- The boot sequence (16 R410 to R413, R430 to R434; 18 R466 to R473): resets begin and end; images are verified in their order and run,
or stop the boot; Primer service starts with the stacks that trained, those that report another organisation or do not train being marked
failed (07 R187; 08 R216), and Finish service when its steps have ended; a trial boot ends; supplies and links fail and
return. -/
def Obligations.BootSequence : Prop :=
  ∀ s : State,
    let b := s.boot
    Answers .powerOn s (fun t => t.boot.stage = 1 ∧ t.boot.cause = 0 ∧ t.glb.service = 0 ∧ t.glb.cycles = s.glb.cycles + 1 ∧ t.nv = s.nv)
    ∧ (∀ c s0 s1 s2, 2 ≤ b.stage → c = 1 ∨ c = 2 → Answers (.devrstNAssert c) s fun t =>
        t.boot.stage = 1 ∧ t.boot.cause = c ∧ t.glb.service = 0 ∧ t.nv = s.nv ∧ t.tileMem = s.tileMem
        ∧ (t.recs.flushing = true → exec (.resetRelease s0 s1 s2) t = .fault .notDue))
    ∧ (∀ v, b.stage = 1 → s.recs.flushing = false → s.thm.hold = false → Answers (.resetRelease v v v) s fun t =>
        t.boot.stage = 2 ∧ t.boot.cause = b.cause ∧ t.glb.service = 0 ∧ t.nv = s.nv ∧ t.tileMem = [] ∧ t.ctxs = [] ∧ t.conns = [] ∧ t.wqs = []
        ∧ t.plumb.now = 0 ∧ t.pending = s.pending
        ∧ t.boot.primerPort = (if bits v 4 0 < s.portCount then bits v 4 0 else 0) ∧ t.boot.smbAddr = 0x58 + bits v 9 7)
    ∧ (b.stage = 2 → b.runs 1 = true → ∀ bad : List (Nat × Nat), Answers (.primerServiceStart bad) s fun t =>
        t.mem.order = (List.range 8).filter (fun m => s.siteThere m && (s.stack m).st == 0 && !bad.any fun x => x.1 == m)
        ∧ (∀ m, s.siteThere m = true → (s.stack m).st = 0 → (t.stack m).st = if bad.any fun x => x.1 == m then 3 else 2)
        ∧ t.boot.stage = 3 ∧ t.glb.service = 1 ∧ t.dust.linkArmed = true ∧ t.dust.linkAt = s.plumb.now ∧ t.nv = s.nv)
    ∧ (∀ kind ver other, s.verifies kind = true → s.agrees s.firstBank kind ver true = true →
        exec (.imageVerifyComplete kind ver true other) s = .next (settle ((s.verifyRun s.firstBank kind true).startImage kind s.firstBank ver)))
    ∧ (∀ kind ver, s.verifies kind = true → s.agrees s.firstBank kind ver false = true → s.agrees (1 - s.firstBank) kind ver false = true →
        Answers (.imageVerifyComplete kind ver false false) s fun t =>
          t.boot.running = b.running ∧ (kind = 1 → t.boot.romOnly = true) ∧ (kind ≠ 1 → t.glb.heldImage = some kind ∧ t.glb.service = s.glb.service))
    ∧ (b.stage = 3 →
      (b.runs 4 = true → b.selfTested = false → Answers (.engineSelfTestComplete []) s fun t => t.boot = { b with selfTested := true })
      ∧ (∀ q ok, b.runs 3 = true → s.calibrates q = true → (b.calibrated.any fun x => x.1 == q) = false →
          Answers (.portCalibrationComplete q ok) s fun t =>
            t.boot = { b with calibrated := b.calibrated ++ [(q, ok)] } ∧ (ok = false → (t.port q).failed = true))
      ∧ (∀ m, s.siteThere m = true → (s.stack m).st = 2 → (s.stack m).half = true → ∀ ok,
          Answers (.stackRetrainComplete m ok) s fun t => t.boot = { b with retrained := b.retrained ++ [m] })
      ∧ (s.glb.service = 1 → s.bootEnded = true → Answers .finishServiceStart s fun t => t.glb.service = 2 ∧ t.boot.stage = 4))
    ∧ (s.glb.service = 2 → s.glb.trial = true → b.trialClean = true → b.trialBad = false → b.finishAt + 60000000000 ≤ s.opTime →
        Answers .trialConfirm s fun t =>
          t.nv.active = 1 - s.nv.active ∧ t.nv.trial = false ∧ t.glb.trial = false ∧ exec .trialConfirm t = .fault .notDue)
    ∧ (2 ≤ b.stage → s.glb.trial = true → b.trialBad || !b.trialClean → Answers .trialFail s fun t =>
        t.nv = { s.nv with trial := false } ∧ t.boot.stage = 1 ∧ t.boot.cause = 5)
    ∧ (2 ≤ b.stage →
      Answers .supplyFault s (fun t => t.boot.stage = 1 ∧ t.boot.cause = 0 ∧ t.glb.service = 0)
      ∧ Answers .sysrefLoss s (fun t => t.boot.stage = 1 ∧ t.boot.noSysref = true)
      ∧ (b.warning = false → Answers .pwrfailWarning s fun t => t.boot = { b with warning := true } ∧ t.recs.flushing = true)
      ∧ (b.warning = true → Answers .pwrfailClear s fun t => t.boot = { b with warning := false }))
    ∧ (∀ c < 4, bitAt (s.reg (Blk.pcie.at c 0x044)) 0 = true → exec (.pcieLinkDown c) s = .next (settle
        ((s.setReg (Blk.pcie.at c 0x044) 0).event { blk := .pcie, inst := c, num := 1 })))
    ∧ (∀ c speed width flit, c < 4 → 1 ≤ speed → speed ≤ 6 → 1 ≤ width → width ≤ 16 → 2 ≤ b.stage → b.runs 1 = true →
        c = 0 ∨ s.glb.service = 2 → exec (.pcieLinkUp c speed width flit) s = .next (settle
          (s.setReg (Blk.pcie.at c 0x044) (1 + 2 * speed + 16 * width + 512 * b2n flit))))
    ∧ (s.dbgPort = false → Answers .debugPortAttached s fun t => t.dbgPort = true)
    ∧ (s.dbgPort = true → Answers .debugPortDetached s fun t => t.dbgPort = false)
    ∧ exec .mctpAssemblyTimeout s = .next (settle s)

/-! ## Management and attestation -/

/-- The command answers with a status and bytes, and does nothing else but `t`. -/
def Sys2Proof.Machine.Replies (c : Instr) (s t : State) (status : Nat) (d : List Byte) : Prop := exec c s = .next (settle (t.reply status d))

/-- Requests that island firmware answers (16 R415, R426 to R428, R431, Tables 16.9 and 16.10). -/
def Sys2Proof.Machine.ManagementAnswers : Prop :=
  ∀ s : State, s.islandUp = true →
    let m := s.mgmt
    let u := m.upd
    (∀ n, 0 < n → n < 255 →
      Replies (.setEndpointId n) s (s.updMgmt ({ · with eid := n })) 0 [0, byte n] ∧ Replies (.setTid n) s (s.updMgmt ({ · with tid := n })) 0 [])
    ∧ (∀ n, n = 0 ∨ 255 ≤ n → Replies (.setEndpointId n) s s 2 [] ∧ Replies (.setTid n) s s 2 [])
    ∧ Replies .getEndpointId s s 0 [byte m.eid] ∧ Replies .getTid s s 0 [byte m.tid] ∧ Replies .getMessageTypeSupport s s 0 [2, 1, 5]
    ∧ (∀ ty ∈ [0, 1, 5], Replies (.getMctpVersionSupport ty) s s 0 (vendorBytes (16 + ty) 4))
    ∧ (∀ ty ∈ pldmTypes, Replies (.getPldmVersion ty) s s 0 (vendorBytes (32 + ty) 4)
        ∧ Replies (.getPldmCommands ty) s s 0 (bitSet (pldmCodes ty) ++ zeros 24))
    ∧ Replies .getPldmTypes s s 0 (bitSet pldmTypes)
    ∧ (∀ a, Replies (.setEventReceiver true a) s (s.updMgmt ({ · with receiver := some a })) 0 []
        ∧ Replies (.setEventReceiver false a) s (s.updMgmt ({ · with receiver := none })) 0 [])
    ∧ (∀ i v, s.sensorReading i = some v → Replies (.getSensorReading i) s s 0 (leBytes 4 (unsigned 32 v)))
    ∧ Replies (.getStateSensorReadings 0) s s 0 [byte s.glb.service]
    ∧ (∀ i, Replies (.getPdr i) s s 0 (vendorBytes (1024 + i) 32))
    ∧ (∀ e l, m.evts = e :: l →
      Replies .pollForPlatformEventMessage s (s.updMgmt ({ · with evts := l, sentAt := none, tries := 0 })) 0 e.bytes
      ∧ ∀ r, m.receiver = some r →
        (m.sentAt = none → Answers .pldmEventSend s fun t => t.mgmt = { m with sentAt := some s.opTime, tries := 1 })
        ∧ (∀ a, m.sentAt = some a → a + 250000000 ≤ s.opTime →
            (m.tries < 3 → Answers .pldmEventRetry s fun t => t.mgmt = { m with sentAt := some s.opTime, tries := m.tries + 1 })
            ∧ (3 ≤ m.tries → Answers .pldmEventRetry s fun t => t.mgmt = { m with evts := l, sentAt := none, tries := 0 })))
    ∧ Replies .getFruRecordTableMetadata s s 0 (vendorBytes 3 18)
    ∧ Replies .getFruRecordTable s s 0 (s.orderingCode ++ vendorBytes 2 8 ++ [0xB0])
    ∧ Replies .queryDeviceIdentifiers s s 0 (vendorBytes 4 16)
    ∧ (∃ d, Replies .getFirmwareParameters s s 0 d)
    ∧ Replies .getStatus s s 0 [byte u.st]
    ∧ (u.st = 0 → s.glb.trial = false → Replies .requestUpdate s (s.updUpd fun _ => { st := 1 }) 0 [])
    ∧ (∀ kind (ver : W32), 1 ≤ kind → kind ≤ 4 →
      (u.st = 1 ∨ u.st = 2 → Replies (.passComponentTable kind ver) s
        (s.updUpd fun u => { u with st := 2, comps := (u.comps.filter fun x => x.1 != kind) ++ [(kind, ver.toNat)] }) 0 [])
      ∧ (∀ image, u.st = 2 → (kind, ver.toNat) ∈ u.comps → image.length ≤ 64 + bodyMax kind → Replies (.updateComponent kind ver image) s
          ((s.updNv fun n => { n with flash := n.flash.insert (8 * s.idleBank + kind) image }).updUpd fun u => { u with st := 3, cur := some (kind, ver.toNat) })
          0 [])
      ∧ (u.st = 4 → u.cur = some (kind, ver.toNat) → s.imageOk kind (s.image s.idleBank kind) = true → leAt (s.image s.idleBank kind) 8 4 = ver.toNat →
          Replies .verifyComplete s ((s.imageRun kind (s.image s.idleBank kind)).updUpd ({ · with st := 5 })) 0 [])
      ∧ (u.st = 5 → u.cur = some (kind, ver.toNat) → Replies .applyComplete s
          (s.updUpd fun u => { u with st := 2, cur := none, applied := kind :: u.applied.filter (· != kind) }) 0 []))
    ∧ (u.st = 3 → Replies (.transferComplete true) s (s.updUpd ({ · with st := 4 })) 0 [])
    ∧ (u.st = 2 → (∀ c ∈ u.comps, c.1 ∈ u.applied) → Replies (.activateFirmware false) s
        ((s.updNv ({ · with trial := true })).updUpd fun _ => {}) 0 [])
    ∧ (3 ≤ u.st → Replies .cancelUpdateComponent s (s.updUpd fun u => { u with st := 2, cur := none }) 0 [])
    ∧ (u.st ≠ 0 → Replies .cancelUpdate s (s.updUpd fun _ => {}) 0 [])
    ∧ (∀ off wide, let p := s.readReg .link off wide
        Replies (.regRead off wide) s p.1 0 (leBytes (if wide then 8 else 4) p.2))
    ∧ (∀ off wide (v : W64), let t := s.busWrite .link off wide v.toNat
        ∃ r ≤ 1, Replies (.regWrite off wide v) s t r [])
    ∧ (∀ area back i n, 1 ≤ n → n ≤ 8 → area ≤ 4 → ∃ d, Replies (.bboxRead area back i n) s s 0 d)
    ∧ (∀ session, s.ownerKey = false ∨ s.inSession session = true →
      (∀ rec', rec'.length = 256 →
        let p := s.tagged (keyName 6 0) (rec'.take 240)
        Replies (.bootcfgWrite rec' session) s (p.1.updNv ({ · with cfg := some (rec'.take 240 ++ p.2) })) 0 [])
      ∧ (bitAt (s.reg 0x405C) 0 = false →
        (∀ key, key.length = 32 → s.nv.owner.length < 4 → Replies (.ownerKeyWrite s.nv.owner.length key session) s
          ((s.updNv fun n => { n with owner := n.owner ++ [key] }).event { blk := .fuse, num := 1 }) 0 [])
        ∧ (∀ slot < s.nv.owner.length, Replies (.ownerKeyRevoke slot session) s
          ((s.updNv fun n => { n with revoked := n.revoked ||| BitVec.ofNat 4 (2 ^ slot) }).event { blk := .fuse, num := 1 }) 0 [])))
    ∧ Answers .deviceReset s (fun t => t.boot.stage = 1 ∧ t.boot.cause = 3 ∧ t.glb.service = 0)
    ∧ (∃ d, Replies .getState s s 0 d)

/-- Attestation (14 R385): versions, algorithms and capabilities are fixed in turn; at most four sessions exist, and only while an owner
key is active; a session is established by a code that only a holder of the key has; measurements are given in a session. -/
def Sys2Proof.Machine.AttestationAnswers : Prop :=
  ∀ s : State, s.islandUp = true →
    let m := s.mgmt
    Replies .getVersion s (s.updMgmt ({ · with spdmVer := none, spdmAlg := false, sessions := [] })) 0 [0x12, 0x13]
    ∧ (∀ v, v = 0x12 ∨ v = 0x13 → Replies (.getCapabilities v) s (s.updMgmt ({ · with spdmVer := some v })) 0 (vendorBytes 5 16))
    ∧ (m.spdmVer ≠ none → Replies .negotiateAlgorithms s (s.updMgmt ({ · with spdmAlg := true })) 0 (vendorBytes 6 32))
    ∧ (∀ n req,
      (m.spdmAlg = true → s.ownerKey = true → m.sessions.length < 4 → Answers (.pskExchange n req) s fun t =>
        ∃ x, t.mgmt.sessions = m.sessions ++ [x] ∧ x.id = n % 2 ^ 16 + 2 ^ 16 * (m.nextSession % 2 ^ 16) ∧ x.up = false)
      ∧ (m.spdmAlg = false ∨ s.ownerKey = false ∨ 4 ≤ m.sessions.length → Replies (.pskExchange n req) s s 4 []))
    ∧ (∀ n x, s.session n = some x → x.up = false →
      (∀ mac, mac = Config.spdmMac (s.keyBytes s.pskName) x.transcript → Replies (.pskFinish n mac) s
        (s.updSession n fun x => { x with up := true, transcript := x.transcript ++ mac }) 0 [])
      ∧ (∀ mac, mac ≠ Config.spdmMac (s.keyBytes s.pskName) x.transcript → Answers (.pskFinish n mac) s fun t => t.session n = none))
    ∧ (∀ n, s.inSession (some n) = true →
      (∃ d, Replies (.getMeasurements (some n) 0) s s 0 d) ∧ (∃ d, Replies (.getMeasurements (some n) 0xFF) s s 0 d)
      ∧ (∃ d, Replies (.getMeasurements (some n) 1) s s 0 d)
      ∧ (∀ tag, Replies (.keyUpdate n 1 tag) s (s.updSession n fun x => { x with reqKeys := x.reqKeys + 1 }) 0 [1, byte tag]
          ∧ Replies (.keyUpdate n 2 tag) s (s.updSession n fun x => { x with reqKeys := x.reqKeys + 1, rspKeys := x.rspKeys + 1 }) 0 [2, byte tag]
          ∧ ∃ t, t.mgmt = m ∧ Replies (.keyUpdate n 3 tag) s t 0 [3, byte tag])
      ∧ Replies (.heartbeat n) s s 0 []
      ∧ (Answers (.endSession n) s fun t => t.inSession (some n) = false))
    ∧ (∀ x, s.inSession x = false → ∀ i, Replies (.getMeasurements x i) s s 4 [])

/-- The management link is answered as chapters 14 and 16 say. While only the ROM runs it answers MCTP control and the firmware update,
and every other PLDM request with ERROR_UNSUPPORTED_PLDM_CMD (16 R413). -/
def Obligations.ManagementAndAttestation : Prop :=
  ManagementAnswers ∧ AttestationAnswers
  ∧ ∀ s : State, s.islandUp = false → s.romUp = true →
    (∀ c ∈ [Instr.getTid, .getPldmTypes, .pollForPlatformEventMessage, .getFruRecordTable, .deviceReset, .getState], Replies c s s 3 [])
    ∧ Replies .getEndpointId s s 0 [byte s.mgmt.eid] ∧ Replies .getStatus s s 0 [byte s.mgmt.upd.st]

/-! ## Formats, records and images -/

/-- FP4 has the 16 codes of Table 3.6, and no others (03 R79): bit 3 is the sign, and the magnitudes in halves are 0, 1, 2, 3, 4, 6, 8
and 12. -/
def Obligations.FourBitFloats : Prop :=
  Fmt.fp4.bits = 4
  ∧ ∀ c < 16, ∃ m e, Fmt.fp4.decode c = .fin (decide (8 ≤ c)) m e
      ∧ (Fmt.fp4.decode c).abs.at (-1) = ([0, 1, 2, 3, 4, 6, 8, 12].getD (c % 8) 0 : Nat)

/-- Each received frame is given a priority from 0 to 7 by its tag, by its DSCP, or by MAC_CFG.def_prio (11 R307), and one that no rule
drops joins the part of that priority. -/
def Obligations.ReceivedPriorities : Prop :=
  ∀ (s : State) (q : Nat) (f : EthFrame),
    s.rxPrio q f < 8
    ∧ (∀ p < 8, f.pcp = some p → s.rxPrio q f = p)
    ∧ (∀ d < 64, f.pcp = none → f.dscp = some d →
        s.rxPrio q f = (s.reg (macReg q 0x060) + 2 ^ 64 * s.reg (macReg q 0x068) + 2 ^ 128 * s.reg (macReg q 0x070)) / 2 ^ (3 * d) % 8)
    ∧ (f.pcp = none → f.dscp = none → s.rxPrio q f = s.reg (macReg q 0x040) / 2 ^ 27 % 8)

/-- At boot each kind is loaded from the trial bank, or from the active bank when no trial is pending; an image that fails is replaced by
the same kind from the other bank, and an event is written (16 R432). -/
def Obligations.ImagesAndTheirReplacements : Prop :=
  ∀ (s : State) (kind ver : Nat), s.verifies kind = true →
    let bank := if s.glb.trial then 1 - s.nv.active else s.nv.active
    let other := 1 - bank
    (s.agrees bank kind ver true = true → ∀ b,
      Answers (.imageVerifyComplete kind ver true b) s fun t => t.boot.running = s.boot.running ++ [(kind, bank, ver)])
    ∧ (s.agrees bank kind ver false = true → s.agrees other kind ver true = true →
      Answers (.imageVerifyComplete kind ver false true) s fun t => t.boot.running = s.boot.running ++ [(kind, other, ver)]
      ∧ ∃ u v : State, exec (.imageVerifyComplete kind ver false true) s = .next (settle ((u.event { blk := .glb, num := 5 }).startImage kind other ver))
          ∧ u = { v with boot := u.boot } ∧ v = (s.verifyRun bank kind false).verifyRun other kind true)

/-- An event that is raised sets its bit in its page, captures the first address, and enters the ring as one record; where its bit was
not enabled nothing else of the machine changes (15 R401, R402; 17 R440, R442). -/
def Obligations.EventsAreRecorded : Prop :=
  ∀ (s : State) (ev : Ev), s.quiet → ev.num < 32 → s.recs.frozen = false →
    let pg := ev.blk.page + ev.inst
    let lost := decide (65536 ≤ s.recs.prod - s.recs.flushIdx)
    bitAt (s.reg (0x1000 * pg + 0x14)) ev.num = false →
    let t := settle (s.event ev)
    t.recs.prod = s.recs.prod + 1
    ∧ t.recs.ring.get none (s.recs.prod % 65536) = some {
        ev, fault := ev.isFault, lostBefore := lost, seconds := s.glb.opSec, cycles := s.glb.cycles % 65536
        plumb10 := s.plumb.now / 1024 % 65536 }
    ∧ t.recs.lost = s.recs.lost + b2n lost
    ∧ (t.page pg).irqStat = (s.page pg).irqStat ||| (1#32 <<< ev.num)
    ∧ (∀ a, ev.addr = some a → (s.page pg).captValid = false →
        (t.page pg).captValid = true ∧ (t.page pg).captEvent = ev.num ∧ (t.page pg).captAddr = a % 2 ^ 48)
    ∧ (ev.addr = none ∨ (s.page pg).captValid = true → (t.page pg).captAddr = (s.page pg).captAddr)
    ∧ (∀ j, j ≠ pg → t.page j = s.page j)
    ∧ t = { s with regs := t.regs, pages := t.pages, recs := t.recs }

/-- A record that finds its ring full is not written; it is counted, and the next record written to that queue has overflow set; a debug
freeze suppresses none (13 R355). -/
def Obligations.EventQueueOverflow : Prop :=
  ∀ (s : State) (q : Nat) (r : EvqRec),
    let v := s.evqs.get {} q
    let t := settleEvq s q r
    v.valid = true →
      (2 ^ v.log2 ≤ v.unread →
        t.evqs.get {} q = { v with lost := v.lost + 1, overflow := true } ∧ t.hbm = s.hbm ∧ t.out = s.out
        ∧ (s.fld 0xB0008 0 0 = 0 → s.reg 0xB00A8 + 1 < 2 ^ 64 → t.reg 0xB00A8 = s.reg 0xB00A8 + 1))
      ∧ (v.unread < 2 ^ v.log2 →
        (t.evqs.get {} q).prod = v.prod + 1 ∧ (t.evqs.get {} q).overflow = false ∧ (t.evqs.get {} q).lost = v.lost
        ∧ (v.infra = false →
            t.out = .hostWrite v.owner (v.base + 32 * (v.prod % 2 ^ v.log2)) (r.bytes v.overflow s.plumb.now) false :: s.out)
        ∧ ∃ b, (r.bytes v.overflow s.plumb.now).head? = some b ∧ b.getLsbD 1 = v.overflow)
      ∧ ∀ frozen, (settleEvq { s with recs := { s.recs with frozen } } q r).evqs = t.evqs
end

