-- ==== Sys2Proof/Laws/Crypto.lean ====
section
/-! SUPPORT. Laws/Crypto.lean: lengths of bytes, and decryption gives back what was encrypted (09 R266). -/

namespace Sys2Proof.Machine

@[simp] theorem length_leBytes (n v : Nat) : (leBytes n v).length = n := by
  induction n generalizing v with
  | zero => rfl
  | succ n ih => simp [leBytes, ih]

@[simp] theorem length_beBytes (n v : Nat) : (beBytes n v).length = n := by simp [beBytes]

@[simp] theorem length_slice (b : List Byte) (o n : Nat) : (slice b o n).length = n := by
  simp only [slice, zeros, List.length_append, List.length_take, List.length_drop, List.length_replicate]; omega

/-- A list combined twice with the same, no shorter list is itself again. -/
theorem zipWith_xor_twice : ∀ (d k : List Byte), d.length ≤ k.length →
    List.zipWith (· ^^^ ·) (List.zipWith (· ^^^ ·) d k) k = d
  | [], _, _ => by simp
  | x :: d, [], h => by simp at h
  | x :: d, y :: k, h => by simp [BitVec.xor_assoc, zipWith_xor_twice d k (by simpa using h)]

/-- The key stream of GCM, one block for each 16 bytes, is no shorter than the data. -/
theorem length_stream (n : Nat) (g : Nat → Nat) : ((List.range n).flatMap fun i => beBytes 16 (g i)).length = 16 * n := by
  simp [List.length_flatMap, List.map_const', List.sum_replicate_nat, Nat.mul_comm]

theorem length_gcmCrypt (key nonce d : List Byte) : (gcmCrypt key nonce d).length = d.length := by
  simp only [gcmCrypt, List.length_zipWith, length_stream]; omega

/-- Decryption gives back what was encrypted. -/
theorem gcmCrypt_twice (key nonce d : List Byte) : gcmCrypt key nonce (gcmCrypt key nonce d) = d := by
  rw [gcmCrypt, length_gcmCrypt]
  exact zipWith_xor_twice _ _ (by rw [length_stream]; omega)

/-- A CMAC and a tag of GCM have 16 bytes, a derived key 32. -/
@[simp] theorem length_aesCmac (key m : List Byte) : (aesCmac key m).length = 16 := by simp [aesCmac]

@[simp] theorem length_gcmTag (key nonce aad c : List Byte) : (gcmTag key nonce aad c).length = 16 := by simp [gcmTag]

@[simp] theorem length_deriveBytes (r l c : List Byte) : (deriveBytes r l c).length = 32 := by simp [deriveBytes]

end Sys2Proof.Machine
end

