-- ==== Sys2Proof/Laws/Tab.lean ====
section
/-! SUPPORT. Laws/Tab.lean: sparse tables keep their canonical form, and a read after a write gives what was written. -/

namespace Sys2Proof.Machine

variable {α : Type} [DecidableEq α]

theorem Tab.wfFrom_mono (d : α) : ∀ (t : Tab α) (b c : Nat), c ≤ b → t.wfFrom d b = true → t.wfFrom d c = true
  | [], _, _, _, _ => rfl
  | (i, v) :: t, b, c, h, w => by
    simp only [Tab.wfFrom, Bool.and_eq_true, decide_eq_true_eq] at w ⊢
    exact ⟨⟨by omega, w.1.2⟩, w.2⟩

theorem Tab.erase_wfFrom (d : α) (k : Nat) : ∀ (t : Tab α) (b : Nat), t.wfFrom d b = true → (t.erase k).wfFrom d b = true
  | [], _, _ => rfl
  | (i, v) :: t, b, w => by
    have w' := w
    simp only [Tab.wfFrom, Bool.and_eq_true, decide_eq_true_eq] at w'
    unfold Tab.erase
    split
    · exact Tab.wfFrom_mono d t (i + 1) b (by omega) w'.2
    · split
      · exact w
      · simp only [Tab.wfFrom, Bool.and_eq_true, decide_eq_true_eq]
        exact ⟨w'.1, Tab.erase_wfFrom d k t (i + 1) w'.2⟩

theorem Tab.insert_wfFrom (d : α) (k : Nat) (v : α) (hv : v ≠ d) :
    ∀ (t : Tab α) (b : Nat), b ≤ k → t.wfFrom d b = true → (t.insert k v).wfFrom d b = true
  | [], b, hb, _ => by simp [Tab.insert, Tab.wfFrom, hv, hb]
  | (i, x) :: t, b, hb, w => by
    have w' := w
    simp only [Tab.wfFrom, Bool.and_eq_true, decide_eq_true_eq] at w'
    unfold Tab.insert
    split
    · next h => subst h; simp [Tab.wfFrom, hv, hb, w'.2]
    · split
      · next h => simp [Tab.wfFrom, hv, hb, w'.1.2, w'.2]; omega
      · next h1 h2 =>
        simp only [Tab.wfFrom, Bool.and_eq_true, decide_eq_true_eq]
        exact ⟨w'.1, Tab.insert_wfFrom d k v hv t (i + 1) (by omega) w'.2⟩

/-- Writing keeps the canonical form. -/
theorem Tab.set_wf (t : Tab α) (d : α) (k : Nat) (v : α) (w : t.wf d = true) : (t.set d k v).wf d = true := by
  unfold Tab.set
  split
  · exact Tab.erase_wfFrom d k t 0 w
  · next h => exact Tab.insert_wfFrom d k v h t 0 (Nat.zero_le _) w

theorem Tab.upd_wf (t : Tab α) (d : α) (k : Nat) (f : α → α) (w : t.wf d = true) : (t.upd d k f).wf d = true :=
  Tab.set_wf t d k _ w

theorem Tab.putList_wf (d : α) : ∀ (vs : List α) (t : Tab α) (k : Nat), t.wf d = true → (t.putList d k vs).wf d = true
  | [], _, _, w => w
  | v :: vs, t, k, w => Tab.putList_wf d vs (t.set d k v) (k + 1) (Tab.set_wf t d k v w)

theorem Tab.find_none_of_wfFrom (d : α) : ∀ (t : Tab α) (b k : Nat), k < b → t.wfFrom d b = true → t.find k = none
  | [], _, _, _, _ => rfl
  | (i, v) :: t, b, k, h, w => by
    simp only [Tab.wfFrom, Bool.and_eq_true, decide_eq_true_eq] at w
    simp only [Tab.find]
    rw [if_neg (by omega), if_pos (by omega)]

omit [DecidableEq α] in
theorem Tab.find_insert (k j : Nat) (v : α) : ∀ t : Tab α, (t.insert k v).find j = if j = k then some v else t.find j
  | [] => by
    by_cases e : j = k
    · simp [Tab.insert, Tab.find, e]
    · simp [Tab.insert, Tab.find, e, Ne.symm e]
  | (i, x) :: t => by
    unfold Tab.insert
    split
    · next h =>
      subst h
      by_cases e : j = i
      · simp [Tab.find, e]
      · simp [Tab.find, e, Ne.symm e]
    · split
      · next h1 h2 =>
        simp only [Tab.find]
        by_cases e : j = k
        · simp [e]
        · rw [if_neg (by omega), if_neg e]
          by_cases l : j < k
          · rw [if_pos l, if_neg (by omega), if_pos (by omega)]
          · rw [if_neg l]
      · next h1 h2 =>
        simp only [Tab.find]
        by_cases e : i = j
        · rw [if_pos e, if_neg (by omega), if_pos e]
        · rw [if_neg e, if_neg e]
          by_cases l : j < i
          · rw [if_pos l, if_neg (by omega), if_pos l]
          · rw [if_neg l, if_neg l]; exact Tab.find_insert k j v t

theorem Tab.find_erase (d : α) (k j : Nat) :
    ∀ (t : Tab α) (b : Nat), t.wfFrom d b = true → (t.erase k).find j = if j = k then none else t.find j
  | [], _, _ => by simp [Tab.erase, Tab.find]
  | (i, x) :: t, b, w => by
    simp only [Tab.wfFrom, Bool.and_eq_true, decide_eq_true_eq] at w
    unfold Tab.erase
    split
    · next h =>
      subst h
      by_cases e : j = i
      · rw [if_pos e, e]; exact Tab.find_none_of_wfFrom d t (i + 1) i (by omega) w.2
      · rw [if_neg e]; simp only [Tab.find]; rw [if_neg (Ne.symm e)]
        by_cases l : j < i
        · rw [if_pos l]; exact Tab.find_none_of_wfFrom d t (i + 1) j (by omega) w.2
        · rw [if_neg l]
    · split
      · next h1 h2 =>
        by_cases e : j = k
        · rw [if_pos e]; simp only [Tab.find]; rw [if_neg (by omega), if_pos (by omega)]
        · rw [if_neg e]
      · next h1 h2 =>
        simp only [Tab.find]
        by_cases e : i = j
        · rw [if_pos e, if_neg (by omega), if_pos e]
        · rw [if_neg e, if_neg e]
          by_cases l : j < i
          · rw [if_pos l, if_pos l]; simp
          · rw [if_neg l, if_neg l]; exact Tab.find_erase d k j t (i + 1) w.2

/-- A read after a write: the place written holds the value, and every other place what it held. -/
theorem Tab.get_set (t : Tab α) (d : α) (k j : Nat) (v : α) (w : t.wf d = true) :
    (t.set d k v).get d j = if j = k then v else t.get d j := by
  unfold Tab.set Tab.get
  split
  · next h => rw [Tab.find_erase d k j t 0 w]; split <;> simp [h]
  · rw [Tab.find_insert]; split <;> rfl

/-- The place written, where the table may be in any form. -/
theorem Tab.get_set_self_ne (t : Tab α) (d : α) (k : Nat) (v : α) (h : v ≠ d) : (t.set d k v).get d k = v := by
  simp [Tab.set, Tab.get, h, Tab.find_insert]

theorem Tab.get_upd (t : Tab α) (d : α) (k j : Nat) (f : α → α) (w : t.wf d = true) :
    (t.upd d k f).get d j = if j = k then f (t.get d k) else t.get d j := Tab.get_set t d k j _ w

/-- Consecutive writes leave every place outside them as it was. -/
theorem Tab.get_putList_out (d : α) :
    ∀ (vs : List α) (t : Tab α) (k j : Nat), t.wf d = true → (j < k ∨ k + vs.length ≤ j) → (t.putList d k vs).get d j = t.get d j
  | [], _, _, _, _, _ => rfl
  | v :: vs, t, k, j, w, h => by
    simp only [List.length_cons] at h
    rw [Tab.putList, Tab.get_putList_out d vs _ (k + 1) j (Tab.set_wf t d k v w) (by omega), Tab.get_set t d k j v w]
    rw [if_neg (by omega)]

/-- Consecutive writes put each value in its place. -/
theorem Tab.get_putList_in (d : α) :
    ∀ (vs : List α) (t : Tab α) (k i : Nat) (h : i < vs.length), t.wf d = true → (t.putList d k vs).get d (k + i) = vs[i]
  | v :: vs, t, k, 0, h, w => by
    rw [Tab.putList, Tab.get_putList_out d vs _ (k + 1) _ (Tab.set_wf t d k v w) (by omega), Tab.get_set t d k _ v w]
    simp
  | v :: vs, t, k, i + 1, h, w => by
    have := Tab.get_putList_in d vs (t.set d k v) (k + 1) i (by simpa using h) (Tab.set_wf t d k v w)
    rw [Tab.putList, show k + (i + 1) = k + 1 + i by omega, this]
    simp

end Sys2Proof.Machine
end

