-- ==== Sys2Proof/Laws/Memory.lean ====
section
/-! SUPPORT. Laws/Memory.lean: what accesses to protected memory can change, and that they keep its canonical form. -/

namespace Sys2Proof.Machine

/-- All that an access to protected memory can change; the bytes stay in their canonical form. -/
def MemStep (s t : State) : Prop :=
  t = { s with regs := t.regs, todo := t.todo, hbm := t.hbm, stackTab := t.stackTab, mem := t.mem, noc := t.noc }
  ∧ (Memory.wf s.hbm = true → Memory.wf t.hbm = true)

theorem MemStep.refl (s : State) : MemStep s s := ⟨rfl, id⟩

theorem MemStep.trans {s t u : State} (h : MemStep s t) (k : MemStep t u) : MemStep s u := by
  refine ⟨?_, k.2 ∘ h.2⟩
  obtain ⟨h, -⟩ := h
  obtain ⟨k, -⟩ := k
  rw [k, h]

theorem MemStep.foldl {β : Type} (f : State → β → State) (h : ∀ s x, MemStep s (f s x)) :
    ∀ (l : List β) (s : State), MemStep s (l.foldl f s)
  | [], s => .refl s
  | x :: l, s => (h s x).trans (MemStep.foldl f h l (f s x))

theorem MemStep.foldlFst {β γ : Type} (f : State × γ → β → State × γ) (h : ∀ a x, MemStep a.1 (f a x).1) :
    ∀ (l : List β) (a : State × γ), MemStep a.1 (l.foldl f a).1
  | [], a => .refl a.1
  | x :: l, a => (h a x).trans (MemStep.foldlFst f h l (f a x))

theorem State.inc_memStep (s : State) (a n : Nat) : MemStep s (s.inc a n) := by
  unfold State.inc; split
  · exact .refl s
  · exact ⟨rfl, id⟩

theorem State.event_memStep (s : State) (e : Ev) : MemStep s (s.event e) := ⟨rfl, id⟩

theorem State.updStack_memStep (s : State) (m : Nat) (g : Stack → Stack) : MemStep s (s.updStack m g) := ⟨rfl, id⟩

theorem State.putCells_memStep (s : State) (k : Nat) (bs : List Byte) : MemStep s (s.putCells k bs) :=
  ⟨rfl, fun w => Tab.putList_wf 0 bs s.hbm k w⟩

theorem State.useNoc_memStep (s : State) (a b : Nat) : MemStep s (s.useNoc a b) := by
  unfold State.useNoc; split
  · exact .refl s
  · exact ⟨rfl, id⟩

theorem State.initChunk_memStep (s : State) (m c : Nat) : MemStep s (s.initChunk m c) := by
  unfold State.initChunk; split
  · exact .refl s
  · dsimp only; split
    · exact (State.updStack_memStep ..).trans (State.event_memStep ..)
    · exact State.updStack_memStep ..

theorem State.storeLine_memStep (s : State) (m lam : Nat) (pos : List (List Byte)) : MemStep s (s.storeLine m lam pos) := by
  unfold State.storeLine
  apply MemStep.foldl
  intro t p
  split
  · exact State.putCells_memStep ..
  · exact .refl t

theorem State.storeData_memStep (s : State) (m lam : Nat) (d : List Byte) (p : Bool) : MemStep s (s.storeData m lam d p) :=
  State.storeLine_memStep ..

theorem State.rollWindow_memStep (s : State) (m : Nat) : MemStep s (s.rollWindow m) := by
  unfold State.rollWindow; dsimp only; split
  · exact .refl s
  · exact State.updStack_memStep ..

theorem State.requestRepair_memStep (s : State) (m pc bank row : Nat) : MemStep s (s.requestRepair m pc bank row) := by
  have r (o : Nat) (e : Ev) : MemStep s ((s.updStack m ({ · with repairOut := o })).event e) :=
    (State.updStack_memStep ..).trans (State.event_memStep ..)
  unfold State.requestRepair; dsimp only
  split
  · exact r ..
  · split
    · exact r ..
    · split
      · exact r ..
      · split
        · exact r ..
        · exact State.updStack_memStep ..

theorem State.countDie_memStep (s : State) (m die : Nat) : MemStep s (s.countDie m die) := by
  unfold State.countDie; dsimp only
  split
  · exact ((State.updStack_memStep ..).trans (State.updStack_memStep ..)).trans (State.event_memStep ..)
  · exact State.updStack_memStep ..

theorem State.countRow_memStep (s : State) (m q pc : Nat) : MemStep s (s.countRow m q pc) := by
  unfold State.countRow; dsimp only
  split
  · exact .refl s
  · split
    · exact (State.updStack_memStep ..).trans (State.requestRepair_memStep ..)
    · exact State.updStack_memStep ..

theorem State.countFix_memStep (s : State) (m lam p pc : Nat) : MemStep s (s.countFix m lam p pc) :=
  (((State.inc_memStep ..).trans (State.inc_memStep ..)).trans (State.countDie_memStep ..)).trans (State.countRow_memStep ..)

theorem State.freshUe_memStep (s : State) (m lam rq : Nat) : MemStep s (s.freshUe m lam rq) :=
  (State.inc_memStep ..).trans (State.event_memStep ..)

theorem State.noteUnchecked_memStep (s : State) (m : Nat) (u : Bool) : MemStep s (s.noteUnchecked m u) := by
  unfold State.noteUnchecked; split
  · exact State.inc_memStep ..
  · exact .refl s

theorem State.fixLine_memStep (s : State) (m lam : Nat) (fs : List Nat) (pos : List (List Byte)) : MemStep s (s.fixLine m lam fs pos) := by
  have a : MemStep s (fs.foldl (fun t p => match (s.stack m).readPc (lam % 6) (lam / 6) p with
    | some pc => t.countFix m lam p pc
    | none => t) s) := by
    apply MemStep.foldl
    intro t p
    split
    · exact State.countFix_memStep ..
    · exact .refl t
  unfold State.fixLine; dsimp only
  split
  · exact a
  · exact a.trans (State.storeLine_memStep ..)

theorem State.decodeLine_memStep (s : State) (m lam rq : Nat) (raw : List (Option (List Byte))) :
    MemStep s (s.decodeLine m lam rq raw).1 := by
  unfold State.decodeLine; dsimp only
  split
  · exact (State.noteUnchecked_memStep ..).trans (State.inc_memStep ..)
  · split
    · exact ((State.noteUnchecked_memStep ..).trans (State.storeData_memStep ..)).trans (State.freshUe_memStep ..)
    · exact (State.noteUnchecked_memStep ..).trans (State.fixLine_memStep ..)

theorem State.readLine_memStep (s : State) (m lam rq : Nat) : MemStep s (s.readLine m lam rq).1 := by
  unfold State.readLine
  split
  · exact State.freshUe_memStep ..
  · split
    · exact .refl s
    · exact (State.rollWindow_memStep s m).trans (State.decodeLine_memStep ..)

theorem State.disturb_memStep (s : State) (m lam : Nat) (ns : List Noise) : MemStep s (s.disturb m lam ns) := by
  unfold State.disturb
  apply MemStep.foldl
  intro t n
  split
  · exact State.putCells_memStep ..
  · exact .refl t

theorem State.disarm_memStep (s : State) : MemStep s s.disarm := ⟨rfl, id⟩

theorem State.writeLine_memStep (s : State) (off m lam rq : Nat) (d : List Byte) (p : Bool) :
    MemStep s (s.writeLine off m lam rq d p).1 := by
  unfold State.writeLine
  split
  · exact State.freshUe_memStep ..
  · dsimp only
    refine (State.initChunk_memStep s m (lam / 8192)).trans ?_
    split
    · exact (State.storeLine_memStep ..).trans (State.disarm_memStep _)
    · exact State.storeLine_memStep ..

theorem State.writeParts_memStep (s : State) (off m lam rq : Nat) (ps : List (Nat × List Byte)) :
    MemStep s (s.writeParts off m lam rq ps).1 := by
  unfold State.writeParts
  split
  · exact State.writeLine_memStep ..
  · dsimp only
    refine (State.readLine_memStep s m lam rq).trans ?_
    refine (State.inc_memStep _ (Blk.hbm.at m 0x070) 1).trans ?_
    split
    · exact State.writeLine_memStep ..
    · exact .refl _

theorem State.meetBank_memStep (s : State) (m lam : Nat) : MemStep s (s.meetBank m lam) := by
  unfold State.meetBank; split
  · exact ⟨rfl, id⟩
  · exact .refl s

theorem State.readSideAt_memStep (s : State) (line rq : Nat) : MemStep s (s.readSideAt line rq).1 := by
  unfold State.readSideAt
  split
  · exact .refl s
  · split
    · exact .refl s
    · next m lam _ =>
      have a := State.readLine_memStep s m lam rq
      dsimp only
      split
      · exact a
      · split
        · exact (a.trans (State.updStack_memStep ..)).trans (State.storeData_memStep ..)
        · exact (a.trans (State.updStack_memStep ..)).trans (State.storeData_memStep ..)

theorem State.readSide_memStep (s : State) (line rq : Nat) : MemStep s (s.readSide line rq).1 := by
  unfold State.readSide
  refine MemStep.trans ?_ (State.readSideAt_memStep ..)
  split
  · exact State.meetBank_memStep ..
  · exact .refl s

theorem State.setSide_memStep (s : State) (w n rq : Nat) (v : Bool) : MemStep s (s.setSide w n rq v) := by
  unfold State.setSide; dsimp only
  split
  · exact .refl s
  · refine (State.readSide_memStep s (s.sideLine w) rq).trans ?_
    split
    · exact .refl _
    · exact State.storeData_memStep ..

theorem State.clearSide_memStep (s : State) (w n : Nat) : MemStep s (s.clearSide w n) := by
  unfold State.clearSide; dsimp only
  split
  · exact .refl s
  · exact State.updStack_memStep ..

theorem State.readPiece_memStep (s : State) (rq line a n : Nat) : MemStep s (s.readPiece rq line a n).1 := by
  unfold State.readPiece
  split
  · exact .refl s
  · next m lam _ =>
    have r := (State.meetBank_memStep s m lam).trans (State.readLine_memStep _ m lam rq)
    dsimp only
    generalize (s.meetBank m lam).readLine m lam rq = p at r ⊢
    split
    · have q := r.trans (State.readSide_memStep p.1 (p.1.sideLine (p.1.syncWord line)) rq)
      generalize p.1.readSide (p.1.sideLine (p.1.syncWord line)) rq = w at q ⊢
      split
      · split
        · exact q
        · exact q.trans (State.inc_memStep ..)
      · exact q
    · exact r

theorem State.nocMem_memStep (s : State) (src off n : Nat) : MemStep s (s.nocMem src off n) := by
  unfold State.nocMem
  apply MemStep.foldl
  intro t x
  split
  · exact (State.useNoc_memStep ..).trans (State.useNoc_memStep ..)
  · exact .refl t

theorem State.readPieces_memStep (s : State) (rq off n : Nat) : MemStep s (s.readPieces rq off n).1 := by
  unfold State.readPieces
  refine MemStep.foldlFst _ ?_ _ _
  intro a x
  exact State.readPiece_memStep ..

/-- Everything that a read of protected memory can change. -/
theorem State.memRead_memStep (s : State) (rq off n : Nat) : MemStep s (s.memRead rq off n).1 := by
  unfold State.memRead; dsimp only
  refine MemStep.trans (t := if rq = 0 then s else s.nocMem hubAgent off n) ?_ (State.readPieces_memStep ..)
  split
  · exact .refl s
  · exact State.nocMem_memStep ..

theorem State.putPart_memStep (s : State) (line m lam rq a : Nat) (d : List Byte) (p : Bool) :
    MemStep s (s.putPart line m lam rq a d p).1 := by
  unfold State.putPart
  split
  · exact State.writeLine_memStep ..
  · exact State.writeParts_memStep ..

theorem State.putWords_memStep (s : State) (line m lam rq : Nat) (parts : List (Nat × List Byte)) (p : Bool) (fe : Option Bool) :
    MemStep s (s.putWords line m lam rq parts p fe).1 := by
  have h := State.readSide_memStep s (s.sideLine (s.syncWord line)) rq
  unfold State.putWords; dsimp only
  generalize s.readSide (s.sideLine (s.syncWord line)) rq = r at h ⊢
  have k : MemStep s (if p = true then r.1.writeLine line m lam rq (overlay (zeros 256) parts) true
      else r.1.writeParts line m lam rq parts).1 := by
    split
    · exact h.trans (State.writeLine_memStep ..)
    · exact h.trans (State.writeParts_memStep ..)
  split
  · exact h.trans (State.freshUe_memStep ..)
  · generalize (if p = true then r.1.writeLine line m lam rq (overlay (zeros 256) parts) true
      else r.1.writeParts line m lam rq parts) = w at k ⊢
    split
    · refine k.trans (MemStep.foldl _ ?_ _ _)
      intro t x
      split
      · exact (State.clearSide_memStep ..).trans (State.setSide_memStep ..)
      · exact State.clearSide_memStep ..
    · exact k

theorem State.writePiece_memStep (s : State) (rq line a : Nat) (d : List Byte) (p : Bool) (fe : Option Bool) :
    MemStep s (s.writePiece rq line a d p fe).1 := by
  unfold State.writePiece
  split
  · exact .refl s
  · next m lam _ =>
    dsimp only
    have r := State.meetBank_memStep s m lam
    split
    · split
      · exact r
      · exact r.trans (State.putWords_memStep ..)
    · exact r.trans (State.putPart_memStep ..)

/-- Everything that a write of protected memory can change. -/
theorem State.memWrite_memStep (s : State) (rq off : Nat) (d : List Byte) (fe : Option Bool) :
    MemStep s (s.memWrite rq off d fe).1 := by
  unfold State.memWrite; dsimp only
  refine MemStep.trans (t := if rq = 0 then s else s.nocMem hubAgent off d.length) ?_ ?_
  · split
    · exact .refl s
    · exact State.nocMem_memStep ..
  · refine MemStep.foldlFst _ ?_ _ _
    intro a x
    exact State.writePiece_memStep ..

end Sys2Proof.Machine
end

