-- ==== Sys2Proof/Laws/Settle.lean ====
section
/-! SUPPORT. Laws/Settle.lean: what writing the records of a command can change, and that a command without records leaves its state
as it is. -/

namespace Sys2Proof.Machine

/-- All that writing records can change; protected memory stays in its canonical form. -/
def RecStep (s t : State) : Prop :=
  t = { s with
    regs := t.regs, pages := t.pages, recs := t.recs, todo := t.todo, hbm := t.hbm, stackTab := t.stackTab, mem := t.mem
    noc := t.noc, evqs := t.evqs, out := t.out }
  ∧ (Memory.wf s.hbm = true → Memory.wf t.hbm = true)

theorem RecStep.refl (s : State) : RecStep s s := ⟨rfl, id⟩

theorem RecStep.trans {s t u : State} (h : RecStep s t) (k : RecStep t u) : RecStep s u := by
  refine ⟨?_, k.2 ∘ h.2⟩
  obtain ⟨h, -⟩ := h
  obtain ⟨k, -⟩ := k
  rw [k, h]

theorem MemStep.rec {s t : State} (h : MemStep s t) : RecStep s t := by
  refine ⟨?_, h.2⟩
  obtain ⟨h, -⟩ := h
  rw [h]

theorem RecStep.foldl {β : Type} (f : State → β → State) (h : ∀ s x, RecStep s (f s x)) :
    ∀ (l : List β) (s : State), RecStep s (l.foldl f s)
  | [], s => .refl s
  | x :: l, s => (h s x).trans (RecStep.foldl f h l (f s x))

theorem State.startFlush_recStep (s : State) (a : Option Nat) (p : Bool) : RecStep s (s.startFlush a p) := ⟨rfl, id⟩

theorem State.updPage_recStep (s : State) (pg : Nat) (g : Page → Page) : RecStep s (s.updPage pg g) := ⟨rfl, id⟩

theorem State.notify_recStep (s : State) (fn : Nat) (r : EvqRec) : RecStep s (s.notify fn r) := by
  unfold State.notify
  split
  · exact .refl s
  · split
    · exact ⟨rfl, id⟩
    · exact .refl s

theorem State.withRecs_recStep (s : State) (r : Recs) : RecStep s { s with recs := r } := ⟨rfl, id⟩

theorem State.withEvqs_recStep (s : State) (e : Tab Evq) : RecStep s { s with evqs := e } := ⟨rfl, id⟩

theorem storeEvent_recStep (s : State) (e : Ev) : RecStep s (storeEvent s e) := by
  have inc (t : State) (a n : Nat) : RecStep t (t.inc a n) := (State.inc_memStep t a n).rec
  unfold storeEvent; dsimp only
  split
  · split
    · exact ((inc ..).trans (State.withRecs_recStep ..)).trans (State.startFlush_recStep ..)
    · exact (inc ..).trans (State.withRecs_recStep ..)
  · have a : RecStep s (if decide (65536 ≤ s.recs.prod - s.recs.flushIdx) = true then (s.inc 0x6068).inc 0x6070 else s.inc 0x6068) := by
      split
      · exact (inc ..).trans (inc ..)
      · exact inc ..
    split
    · exact (a.trans (State.withRecs_recStep ..)).trans (State.startFlush_recStep ..)
    · exact a.trans (State.withRecs_recStep ..)

theorem settleEvent_recStep (s : State) (e : Ev) : RecStep s (settleEvent s e) := by
  unfold settleEvent; dsimp only
  refine RecStep.trans ?_ (storeEvent_recStep ..)
  split
  · exact (State.updPage_recStep ..).trans (State.notify_recStep ..)
  · exact State.updPage_recStep ..

theorem State.emit_recStep (s : State) (o : Out) : RecStep s (s.emit o) := ⟨rfl, id⟩

theorem State.event_recStep (s : State) (e : Ev) : RecStep s (s.event e) := ⟨rfl, id⟩

theorem settleEvq_recStep (s : State) (q : Nat) (r : EvqRec) : RecStep s (settleEvq s q r) := by
  unfold settleEvq; dsimp only
  split
  · exact .refl s
  · split
    · exact ((State.withEvqs_recStep ..).trans (State.inc_memStep ..).rec).trans (State.event_recStep ..)
    · split
      · exact (State.withEvqs_recStep ..).trans (State.memWrite_memStep ..).rec
      · exact (State.withEvqs_recStep ..).trans (State.emit_recStep ..)

theorem storeAudit_recStep (s : State) (r : AudRec) : RecStep s (storeAudit s r) :=
  (State.inc_memStep ..).rec.trans (State.withRecs_recStep ..)

theorem settleAudit_recStep (s : State) (a : Aud) : RecStep s (settleAudit s a) := by
  unfold settleAudit; dsimp only
  split
  · exact (storeAudit_recStep ..).trans (State.memWrite_memStep ..).rec
  · exact storeAudit_recStep ..

theorem settleOne_recStep (s : State) (x : Todo) : RecStep s (settleOne s x) := by
  cases x
  · exact settleEvent_recStep ..
  · exact settleAudit_recStep ..
  · exact settleEvq_recStep ..

theorem settleRound_recStep (s : State) : RecStep s (settleRound s) :=
  RecStep.trans (t := { s with todo := [] }) ⟨rfl, id⟩ (RecStep.foldl _ settleOne_recStep _ _)

theorem settleRounds_recStep : ∀ (n : Nat) (s : State), RecStep s (settleRounds n s)
  | 0, s => .refl s
  | n + 1, s => by
    unfold settleRounds
    split
    · exact .refl s
    · exact (settleRound_recStep s).trans (settleRounds_recStep n _)

/-- Everything that writing the records of a command can change. -/
theorem settle_recStep (s : State) : RecStep s (settle s) := (settleRounds_recStep 64 s).trans ⟨rfl, id⟩

/-- No record waits after a command. -/
@[simp] theorem settle_todo (s : State) : (settle s).todo = [] := rfl

/-- No access of a command that has ended waits at a fenced bank but by being held. -/
@[simp] theorem settle_stalled (s : State) : (settle s).mem.stalled = none := rfl

/-- A command that raises no record, and whose accesses met no fenced bank, changes nothing beyond its effect. -/
theorem settle_of_todo_nil {s : State} (h : s.todo = []) (k : s.mem.stalled = none) : settle s = s := by
  unfold settle settleRounds
  rw [if_pos h]
  obtain ⟨⟩ := s
  dsimp only at h k
  rw [h, ← k]

@[simp] theorem settle_glb (s : State) : (settle s).glb = s.glb := by rw [(settle_recStep s).1]
@[simp] theorem settle_plumb (s : State) : (settle s).plumb = s.plumb := by rw [(settle_recStep s).1]
@[simp] theorem settle_halves (s : State) : (settle s).halves = s.halves := by rw [(settle_recStep s).1]
@[simp] theorem settle_snaps (s : State) : (settle s).snaps = s.snaps := by rw [(settle_recStep s).1]
@[simp] theorem settle_snap (s : State) : (settle s).snap = s.snap := by rw [(settle_recStep s).1]
@[simp] theorem settle_xlt (s : State) : (settle s).xlt = s.xlt := by rw [(settle_recStep s).1]
@[simp] theorem settle_tileMem (s : State) : (settle s).tileMem = s.tileMem := by rw [(settle_recStep s).1]
@[simp] theorem settle_tileFull (s : State) : (settle s).tileFull = s.tileFull := by rw [(settle_recStep s).1]
@[simp] theorem settle_tilePoison (s : State) : (settle s).tilePoison = s.tilePoison := by rw [(settle_recStep s).1]
@[simp] theorem settle_engs (s : State) : (settle s).engs = s.engs := by rw [(settle_recStep s).1]
@[simp] theorem settle_ctxs (s : State) : (settle s).ctxs = s.ctxs := by rw [(settle_recStep s).1]
@[simp] theorem settle_tiles (s : State) : (settle s).tiles = s.tiles := by rw [(settle_recStep s).1]
@[simp] theorem settle_hlth (s : State) : (settle s).hlth = s.hlth := by rw [(settle_recStep s).1]
@[simp] theorem settle_sched (s : State) : (settle s).sched = s.sched := by rw [(settle_recStep s).1]
@[simp] theorem settle_reps (s : State) : (settle s).reps = s.reps := by rw [(settle_recStep s).1]
@[simp] theorem settle_conns (s : State) : (settle s).conns = s.conns := by rw [(settle_recStep s).1]
@[simp] theorem settle_msgId (s : State) : (settle s).msgId = s.msgId := by rw [(settle_recStep s).1]
@[simp] theorem settle_psl (s : State) : (settle s).psl = s.psl := by rw [(settle_recStep s).1]
@[simp] theorem settle_ports (s : State) : (settle s).ports = s.ports := by rw [(settle_recStep s).1]
@[simp] theorem settle_cores (s : State) : (settle s).cores = s.cores := by rw [(settle_recStep s).1]
@[simp] theorem settle_keySlots (s : State) : (settle s).keySlots = s.keySlots := by rw [(settle_recStep s).1]
@[simp] theorem settle_boot (s : State) : (settle s).boot = s.boot := by rw [(settle_recStep s).1]
@[simp] theorem settle_nv (s : State) : (settle s).nv = s.nv := by rw [(settle_recStep s).1]
@[simp] theorem settle_pwr (s : State) : (settle s).pwr = s.pwr := by rw [(settle_recStep s).1]
@[simp] theorem settle_thm (s : State) : (settle s).thm = s.thm := by rw [(settle_recStep s).1]
@[simp] theorem settle_dust (s : State) : (settle s).dust = s.dust := by rw [(settle_recStep s).1]
@[simp] theorem settle_dbgPort (s : State) : (settle s).dbgPort = s.dbgPort := by rw [(settle_recStep s).1]
@[simp] theorem settle_grps (s : State) : (settle s).grps = s.grps := by rw [(settle_recStep s).1]
@[simp] theorem settle_flights (s : State) : (settle s).flights = s.flights := by rw [(settle_recStep s).1]
@[simp] theorem settle_moeHub (s : State) : (settle s).moeHub = s.moeHub := by rw [(settle_recStep s).1]
@[simp] theorem settle_fns (s : State) : (settle s).fns = s.fns := by rw [(settle_recStep s).1]
@[simp] theorem settle_wqs (s : State) : (settle s).wqs = s.wqs := by rw [(settle_recStep s).1]
@[simp] theorem settle_arb (s : State) : (settle s).arb = s.arb := by rw [(settle_recStep s).1]
@[simp] theorem settle_mgmt (s : State) : (settle s).mgmt = s.mgmt := by rw [(settle_recStep s).1]
@[simp] theorem settle_mbx (s : State) : (settle s).mbx = s.mbx := by rw [(settle_recStep s).1]
@[simp] theorem settle_wqViews (s : State) : (settle s).wqViews = s.wqViews := by rw [(settle_recStep s).1]
@[simp] theorem settle_evqViews (s : State) : (settle s).evqViews = s.evqViews := by rw [(settle_recStep s).1]
@[simp] theorem settle_pcieRds (s : State) : (settle s).pcieRds = s.pcieRds := by rw [(settle_recStep s).1]
@[simp] theorem settle_freeCtr (s : State) : (settle s).freeCtr = s.freeCtr := by rw [(settle_recStep s).1]
@[simp] theorem settle_pending (s : State) : (settle s).pending = s.pending := by rw [(settle_recStep s).1]

/-- Protected memory keeps its canonical form when records are written. -/
theorem settle_memory_wf (s : State) (h : Memory.wf s.hbm = true) : Memory.wf (settle s).hbm = true := (settle_recStep s).2 h

end Sys2Proof.Machine
end

