-- ==== Sys2Proof/Laws/Issue.lean ====
section
/-! SUPPORT. Laws/Issue.lean: what issuing an instruction whose checks pass can do, said once for the instructions that only change
their context. -/

namespace Sys2Proof.Machine

/-- Only contexts differ. -/
def CtxStep (s t : State) : Prop := t = { s with ctxs := t.ctxs }

theorem CtxStep.refl (s : State) : CtxStep s s := rfl

theorem CtxStep.trans {s t u : State} (h : CtxStep s t) (k : CtxStep t u) : CtxStep s u := by
  unfold CtxStep at *
  rw [k, h]

theorem State.updCtx_ctxStep (s : State) (k : Nat) (g : Ctx → Ctx) : CtxStep s (s.updCtx k g) := rfl

theorem CtxStep.todo {s t : State} (h : CtxStep s t) : t.todo = s.todo := by rw [h]

/-- A context that is in use differs from one that never was. -/
theorem Ctx.ne_of_st {c : Ctx} (h : c.st ≠ 0) : c ≠ {} := fun e => h (by rw [e])

/-- Reading the contexts after one has changed. -/
theorem State.ctx_updCtx (s : State) (k j : Nat) (g : Ctx → Ctx) (h : g (s.ctx k) ≠ {}) :
    (s.updCtx k g).ctx j = if j = k then g (s.ctx k) else s.ctx j := by
  unfold State.updCtx State.ctx Tab.upd Tab.set Tab.get at *
  simp only [h, if_false]
  rw [Tab.find_insert]
  split <;> simp_all

theorem State.ctx_updCtx_self (s : State) (k : Nat) (g : Ctx → Ctx) (h : g (s.ctx k) ≠ {}) : (s.updCtx k g).ctx k = g (s.ctx k) := by
  rw [s.ctx_updCtx k k g h, if_pos rfl]

theorem State.st_of_canIssue {s : State} {e x : Nat} (h : s.canIssue e x = true) : (s.ctx (4 * e + x)).st = 2 := by
  unfold State.canIssue at h
  simp only [Bool.and_eq_true, decide_eq_true_eq, beq_iff_eq] at h
  exact h.1.1.1.1.1.1.1.1.1.1.1.2

@[simp] theorem Ctx.setS_st (c : Ctx) (d : Nat) (v : W64) : (c.setS d v).st = c.st := by unfold Ctx.setS; split <;> rfl
@[simp] theorem Ctx.setS_pc (c : Ctx) (d : Nat) (v : W64) : (c.setS d v).pc = c.pc := by unfold Ctx.setS; split <;> rfl
@[simp] theorem Ctx.setP_st (c : Ctx) (d : Nat) (v : Bool) : (c.setP d v).st = c.st := by unfold Ctx.setP; split <;> rfl
@[simp] theorem Ctx.setP_pc (c : Ctx) (d : Nat) (v : Bool) : (c.setP d v).pc = c.pc := by unfold Ctx.setP; split <;> rfl
@[simp] theorem Ctx.stick_nil (c : Ctx) : c.stick {} false = c := by cases c; simp [Ctx.stick]
@[simp] theorem Ctx.next_st (c : Ctx) : c.next.st = c.st := rfl
@[simp] theorem Ctx.next_pc (c : Ctx) : c.next.pc = c.pc + 16 := rfl

/-! ## What the checker of a sampled slice is sent -/

/-- What an instruction sends a checker changes before its records are written: the checks, the tiles that one frees, and the record of
an abandoned one. -/
def CheckStep (k : Nat) (s t : State) : Prop :=
  t = { s with hlth := t.hlth, tiles := t.tiles, regs := t.regs, todo := t.todo } ∧ (s.sampled k = false → t = s)

theorem CheckStep.refl (k : Nat) (s : State) : CheckStep k s s := ⟨rfl, fun _ => rfl⟩

theorem CheckStep.ctxs {k : Nat} {s t : State} (h : CheckStep k s t) : t.ctxs = s.ctxs := by rw [h.1]

theorem CheckStep.mem {k : Nat} {s t : State} (h : CheckStep k s t) : t.mem = s.mem := by rw [h.1]

theorem CheckStep.ctx {k : Nat} {s t : State} (h : CheckStep k s t) (j : Nat) : t.ctx j = s.ctx j := by
  unfold State.ctx; rw [h.ctxs]

/-- Changing contexts leaves what a checker is sent. -/
theorem CheckStep.withCtxs {k : Nat} {s t : State} (h : CheckStep k s t) (c : Tab Ctx) :
    CheckStep k { s with ctxs := c } { t with ctxs := c } := by
  refine ⟨?_, fun q => ?_⟩
  · rw [h.1]
  · rw [h.2 q]

/-- The records of a command are written after it. -/
theorem CheckStep.settled {k : Nat} {s t : State} (h : CheckStep k s t) (q : s.quiet) : MirrorStep k s (settle t) := by
  refine ⟨?_, fun w => ?_⟩
  · rw [(settle_recStep t).1, h.1]
  · rw [h.2 w]
    exact settle_of_todo_nil q.1 q.2

theorem State.freeChecker_frame (s : State) (t : Nat) : s.freeChecker t = { s with tiles := (s.freeChecker t).tiles } := by
  unfold State.freeChecker; split <;> rfl

/-- A check changes or ends: the checks and the tiles that it frees. -/
theorem State.setCheck_frame (s : State) (k : Nat) (c : Option Check) :
    s.setCheck k c = { s with hlth := (s.setCheck k c).hlth, tiles := (s.setCheck k c).tiles } := by
  unfold State.setCheck
  split
  · rfl
  · dsimp only
    split
    · split
      · rw [State.freeChecker_frame, State.freeChecker_frame]
      · rw [State.freeChecker_frame]
    · rfl

theorem State.abandonCheck_frame (s : State) (c : Check) (why : Nat) :
    s.abandonCheck c why = { s with
      hlth := (s.abandonCheck c why).hlth, tiles := (s.abandonCheck c why).tiles, regs := (s.abandonCheck c why).regs
      todo := (s.abandonCheck c why).todo } := by
  unfold State.abandonCheck
  have h := s.setCheck_frame c.k none
  generalize s.setCheck c.k none = u at h ⊢
  unfold State.inc State.event
  split <;> (rw [h]; rfl)

/-- Everything that a change of a mirror can do. -/
theorem State.updMirror_step (s : State) (k : Nat) (g : Mirror → Mirror) : CheckStep k s (s.updMirror k g) := by
  unfold State.updMirror
  split
  · exact .refl k s
  · next c h =>
    have y : s.sampled k = true := by
      unfold State.sampled
      exact List.any_eq_true.mpr ⟨c, List.mem_of_find?_eq_some h, List.find?_some (p := fun c : Check => c.k == k && c.mirror.final.isNone) h⟩
    refine ⟨?_, fun n => ?_⟩
    · dsimp only
      split
      · rw [State.abandonCheck_frame]
      · rw [State.setCheck_frame]
    · rw [y] at n; cases n

/-! ## Issuing -/

/-- An instruction whose guard and checks pass, and that meets nothing, has its effect (04 R89, R90). -/
theorem issue_ready (i : Ins) (e x : Nat) (f : Fields) (s : State) (run : Run → Run) (hm : f.met = {})
    (h : Issues s e x f) (r : i.ready s (4 * e + x) f) :
    issue i e x f s run = .next (settle (s.issued [] ((run (.start s s (4 * e + x) f)).finish i.op))) := by
  obtain ⟨-, hc, hp, ho, hg⟩ := h
  obtain ⟨he, hk, hw⟩ := r
  unfold issue due issueCore State.slowed Run.start
  simp only [hm, hc, if_true, Nat.not_lt.mpr hp, if_false, ho, he, Bool.not_true, Bool.false_eq_true, hg, hk, ne_eq, not_true_eq_false, hw,
    Bool.not_false, List.isEmpty_nil]
  rfl

/-- The end of an instruction that met no error and consumed no poison. -/
theorem Run.finish_clean (r : Run) (op : Nat) (he : r.err = none) (hp : r.poison = false) (ho : op ≠ 1) : r.finish op = r.moveOn := by
  unfold Run.finish Run.moveOn
  simp [he, hp, ho]

/-- After its effect on the context alone, an instruction moves on: the program counter and what a checker is sent. -/
theorem Run.moveOn_ctx (r : Run) (s : State) (g : Ctx → Ctx) (hs : r.s = s.updCtx r.k g) (hf : r.fl = {}) (hn : r.npc = none)
    (hg : (g (s.ctx r.k)).st ≠ 0) :
    CheckStep r.k { s with ctxs := r.moveOn.ctxs } r.moveOn
    ∧ ∀ j, r.moveOn.ctx j = if j = r.k then (g (s.ctx r.k)).next else s.ctx j := by
  have hm0 : CheckStep r.k (s.updCtx r.k g) (r.mirror (s.updCtx r.k g)) := by
    unfold Run.mirror; exact State.updMirror_step _ _ _
  have hv : r.moveOn = ((r.mirror (s.updCtx r.k g)).updCtx r.k (·.stick {} false)).updCtx r.k Ctx.next := by
    have e : (fun c : Ctx => { c with pc := (none : Option Nat).getD (c.pc + 16) }) = Ctx.next := rfl
    unfold Run.moveOn; rw [hf, hn, hs, e]
  rw [hv]
  generalize r.mirror (s.updCtx r.k g) = u at hm0 ⊢
  generalize r.k = k at *
  have h1 := (s.ctx_updCtx k · g (Ctx.ne_of_st hg))
  have h1k := s.ctx_updCtx_self k g (Ctx.ne_of_st hg)
  have h2 := (u.ctx_updCtx k · (·.stick {} false) (by rw [hm0.ctx, h1k]; exact Ctx.ne_of_st hg))
  have h2 : ∀ j, (u.updCtx k (·.stick {} false)).ctx j = if j = k then g (s.ctx k) else s.ctx j := by
    intro j; rw [h2 j, hm0.ctx, hm0.ctx, h1k, h1 j, Ctx.stick_nil]; split <;> rfl
  have h2k := h2 k
  rw [if_pos rfl] at h2k
  refine ⟨hm0.withCtxs _, fun j => ?_⟩
  rw [State.ctx_updCtx _ k j Ctx.next (by rw [h2k]; exact Ctx.ne_of_st hg), h2k, h2 j]
  split <;> rfl

/-- An instruction whose effect is a change of its context changes that, sends a checker what it asks for, and does nothing else. -/
theorem issue_ctx (i : Ins) (e x : Nat) (f : Fields) (s : State) (g : Ctx → Ctx) (hm : f.met = {}) (ho : i.op ≠ 1) (h : Issues s e x f)
    (r : i.ready s (4 * e + x) f) (hg : ∀ c : Ctx, c.st = 2 → (g c).st ≠ 0) :
    ∃ t, issue i e x f s (·.ctx g) = .next t ∧ MirrorStep (4 * e + x) { s with ctxs := t.ctxs } t
      ∧ ∀ j, t.ctx j = if j = 4 * e + x then (g (s.ctx (4 * e + x))).next else s.ctx j := by
  have he := issue_ready i e x f s (·.ctx g) hm h r
  have hr : (Run.ctx (.start s s (4 * e + x) f) g).s = s.updCtx (4 * e + x) g := by
    unfold Run.start; rw [hm]; rfl
  have hs := Run.moveOn_ctx (Run.ctx (.start s s (4 * e + x) f) g) s g hr rfl rfl (hg _ (State.st_of_canIssue h.2.1))
  rw [Run.finish_clean _ _ rfl rfl ho] at he
  have hk : (Run.ctx (.start s s (4 * e + x) f) g).k = 4 * e + x := rfl
  rw [hk] at hs
  generalize (Run.ctx (.start s s (4 * e + x) f) g).moveOn = u at hs he
  have hi : s.issued [] u = u := by
    unfold State.issued
    rw [if_pos (by rw [hs.1.mem])]
    rfl
  rw [hi] at he
  have hq := hs.1.settled h.1
  refine ⟨_, he, ?_, ?_⟩
  · rw [settle_ctxs]; exact hq
  · intro j
    unfold State.ctx
    rw [settle_ctxs]
    exact hs.2 j

end Sys2Proof.Machine
end

