-- ==== Sys2Proof/Laws/State.lean ====
section
/-! SUPPORT. Laws/State.lean: each named update of State changes its own field and no other. -/

namespace Sys2Proof.Machine

/-! `State.updPlumb` -/

@[simp] theorem State.updPlumb_glb (s : State) (g : Plumb → Plumb) : (s.updPlumb g).glb = s.glb := rfl
@[simp] theorem State.updPlumb_regs (s : State) (g : Plumb → Plumb) : (s.updPlumb g).regs = s.regs := rfl
@[simp] theorem State.updPlumb_pages (s : State) (g : Plumb → Plumb) : (s.updPlumb g).pages = s.pages := rfl
@[simp] theorem State.updPlumb_halves (s : State) (g : Plumb → Plumb) : (s.updPlumb g).halves = s.halves := rfl
@[simp] theorem State.updPlumb_snaps (s : State) (g : Plumb → Plumb) : (s.updPlumb g).snaps = s.snaps := rfl
@[simp] theorem State.updPlumb_snap (s : State) (g : Plumb → Plumb) : (s.updPlumb g).snap = s.snap := rfl
@[simp] theorem State.updPlumb_recs (s : State) (g : Plumb → Plumb) : (s.updPlumb g).recs = s.recs := rfl
@[simp] theorem State.updPlumb_todo (s : State) (g : Plumb → Plumb) : (s.updPlumb g).todo = s.todo := rfl
@[simp] theorem State.updPlumb_hbm (s : State) (g : Plumb → Plumb) : (s.updPlumb g).hbm = s.hbm := rfl
@[simp] theorem State.updPlumb_stackTab (s : State) (g : Plumb → Plumb) : (s.updPlumb g).stackTab = s.stackTab := rfl
@[simp] theorem State.updPlumb_mem (s : State) (g : Plumb → Plumb) : (s.updPlumb g).mem = s.mem := rfl
@[simp] theorem State.updPlumb_xlt (s : State) (g : Plumb → Plumb) : (s.updPlumb g).xlt = s.xlt := rfl
@[simp] theorem State.updPlumb_noc (s : State) (g : Plumb → Plumb) : (s.updPlumb g).noc = s.noc := rfl
@[simp] theorem State.updPlumb_tileMem (s : State) (g : Plumb → Plumb) : (s.updPlumb g).tileMem = s.tileMem := rfl
@[simp] theorem State.updPlumb_tileFull (s : State) (g : Plumb → Plumb) : (s.updPlumb g).tileFull = s.tileFull := rfl
@[simp] theorem State.updPlumb_tilePoison (s : State) (g : Plumb → Plumb) : (s.updPlumb g).tilePoison = s.tilePoison := rfl
@[simp] theorem State.updPlumb_engs (s : State) (g : Plumb → Plumb) : (s.updPlumb g).engs = s.engs := rfl
@[simp] theorem State.updPlumb_ctxs (s : State) (g : Plumb → Plumb) : (s.updPlumb g).ctxs = s.ctxs := rfl
@[simp] theorem State.updPlumb_tiles (s : State) (g : Plumb → Plumb) : (s.updPlumb g).tiles = s.tiles := rfl
@[simp] theorem State.updPlumb_hlth (s : State) (g : Plumb → Plumb) : (s.updPlumb g).hlth = s.hlth := rfl
@[simp] theorem State.updPlumb_sched (s : State) (g : Plumb → Plumb) : (s.updPlumb g).sched = s.sched := rfl
@[simp] theorem State.updPlumb_reps (s : State) (g : Plumb → Plumb) : (s.updPlumb g).reps = s.reps := rfl
@[simp] theorem State.updPlumb_conns (s : State) (g : Plumb → Plumb) : (s.updPlumb g).conns = s.conns := rfl
@[simp] theorem State.updPlumb_msgId (s : State) (g : Plumb → Plumb) : (s.updPlumb g).msgId = s.msgId := rfl
@[simp] theorem State.updPlumb_psl (s : State) (g : Plumb → Plumb) : (s.updPlumb g).psl = s.psl := rfl
@[simp] theorem State.updPlumb_ports (s : State) (g : Plumb → Plumb) : (s.updPlumb g).ports = s.ports := rfl
@[simp] theorem State.updPlumb_cores (s : State) (g : Plumb → Plumb) : (s.updPlumb g).cores = s.cores := rfl
@[simp] theorem State.updPlumb_keySlots (s : State) (g : Plumb → Plumb) : (s.updPlumb g).keySlots = s.keySlots := rfl
@[simp] theorem State.updPlumb_boot (s : State) (g : Plumb → Plumb) : (s.updPlumb g).boot = s.boot := rfl
@[simp] theorem State.updPlumb_nv (s : State) (g : Plumb → Plumb) : (s.updPlumb g).nv = s.nv := rfl
@[simp] theorem State.updPlumb_pwr (s : State) (g : Plumb → Plumb) : (s.updPlumb g).pwr = s.pwr := rfl
@[simp] theorem State.updPlumb_thm (s : State) (g : Plumb → Plumb) : (s.updPlumb g).thm = s.thm := rfl
@[simp] theorem State.updPlumb_dust (s : State) (g : Plumb → Plumb) : (s.updPlumb g).dust = s.dust := rfl
@[simp] theorem State.updPlumb_dbgPort (s : State) (g : Plumb → Plumb) : (s.updPlumb g).dbgPort = s.dbgPort := rfl
@[simp] theorem State.updPlumb_grps (s : State) (g : Plumb → Plumb) : (s.updPlumb g).grps = s.grps := rfl
@[simp] theorem State.updPlumb_flights (s : State) (g : Plumb → Plumb) : (s.updPlumb g).flights = s.flights := rfl
@[simp] theorem State.updPlumb_moeHub (s : State) (g : Plumb → Plumb) : (s.updPlumb g).moeHub = s.moeHub := rfl
@[simp] theorem State.updPlumb_fns (s : State) (g : Plumb → Plumb) : (s.updPlumb g).fns = s.fns := rfl
@[simp] theorem State.updPlumb_wqs (s : State) (g : Plumb → Plumb) : (s.updPlumb g).wqs = s.wqs := rfl
@[simp] theorem State.updPlumb_evqs (s : State) (g : Plumb → Plumb) : (s.updPlumb g).evqs = s.evqs := rfl
@[simp] theorem State.updPlumb_arb (s : State) (g : Plumb → Plumb) : (s.updPlumb g).arb = s.arb := rfl
@[simp] theorem State.updPlumb_mgmt (s : State) (g : Plumb → Plumb) : (s.updPlumb g).mgmt = s.mgmt := rfl
@[simp] theorem State.updPlumb_mbx (s : State) (g : Plumb → Plumb) : (s.updPlumb g).mbx = s.mbx := rfl
@[simp] theorem State.updPlumb_wqViews (s : State) (g : Plumb → Plumb) : (s.updPlumb g).wqViews = s.wqViews := rfl
@[simp] theorem State.updPlumb_evqViews (s : State) (g : Plumb → Plumb) : (s.updPlumb g).evqViews = s.evqViews := rfl
@[simp] theorem State.updPlumb_pcieRds (s : State) (g : Plumb → Plumb) : (s.updPlumb g).pcieRds = s.pcieRds := rfl
@[simp] theorem State.updPlumb_freeCtr (s : State) (g : Plumb → Plumb) : (s.updPlumb g).freeCtr = s.freeCtr := rfl
@[simp] theorem State.updPlumb_out (s : State) (g : Plumb → Plumb) : (s.updPlumb g).out = s.out := rfl
@[simp] theorem State.updPlumb_pending (s : State) (g : Plumb → Plumb) : (s.updPlumb g).pending = s.pending := rfl
@[simp] theorem State.updPlumb_plumb (s : State) (g : Plumb → Plumb) : (s.updPlumb g).plumb = g s.plumb := rfl

/-! `State.updRecs` -/

@[simp] theorem State.updRecs_glb (s : State) (g : Recs → Recs) : (s.updRecs g).glb = s.glb := rfl
@[simp] theorem State.updRecs_plumb (s : State) (g : Recs → Recs) : (s.updRecs g).plumb = s.plumb := rfl
@[simp] theorem State.updRecs_regs (s : State) (g : Recs → Recs) : (s.updRecs g).regs = s.regs := rfl
@[simp] theorem State.updRecs_pages (s : State) (g : Recs → Recs) : (s.updRecs g).pages = s.pages := rfl
@[simp] theorem State.updRecs_halves (s : State) (g : Recs → Recs) : (s.updRecs g).halves = s.halves := rfl
@[simp] theorem State.updRecs_snaps (s : State) (g : Recs → Recs) : (s.updRecs g).snaps = s.snaps := rfl
@[simp] theorem State.updRecs_snap (s : State) (g : Recs → Recs) : (s.updRecs g).snap = s.snap := rfl
@[simp] theorem State.updRecs_todo (s : State) (g : Recs → Recs) : (s.updRecs g).todo = s.todo := rfl
@[simp] theorem State.updRecs_hbm (s : State) (g : Recs → Recs) : (s.updRecs g).hbm = s.hbm := rfl
@[simp] theorem State.updRecs_stackTab (s : State) (g : Recs → Recs) : (s.updRecs g).stackTab = s.stackTab := rfl
@[simp] theorem State.updRecs_mem (s : State) (g : Recs → Recs) : (s.updRecs g).mem = s.mem := rfl
@[simp] theorem State.updRecs_xlt (s : State) (g : Recs → Recs) : (s.updRecs g).xlt = s.xlt := rfl
@[simp] theorem State.updRecs_noc (s : State) (g : Recs → Recs) : (s.updRecs g).noc = s.noc := rfl
@[simp] theorem State.updRecs_tileMem (s : State) (g : Recs → Recs) : (s.updRecs g).tileMem = s.tileMem := rfl
@[simp] theorem State.updRecs_tileFull (s : State) (g : Recs → Recs) : (s.updRecs g).tileFull = s.tileFull := rfl
@[simp] theorem State.updRecs_tilePoison (s : State) (g : Recs → Recs) : (s.updRecs g).tilePoison = s.tilePoison := rfl
@[simp] theorem State.updRecs_engs (s : State) (g : Recs → Recs) : (s.updRecs g).engs = s.engs := rfl
@[simp] theorem State.updRecs_ctxs (s : State) (g : Recs → Recs) : (s.updRecs g).ctxs = s.ctxs := rfl
@[simp] theorem State.updRecs_tiles (s : State) (g : Recs → Recs) : (s.updRecs g).tiles = s.tiles := rfl
@[simp] theorem State.updRecs_hlth (s : State) (g : Recs → Recs) : (s.updRecs g).hlth = s.hlth := rfl
@[simp] theorem State.updRecs_sched (s : State) (g : Recs → Recs) : (s.updRecs g).sched = s.sched := rfl
@[simp] theorem State.updRecs_reps (s : State) (g : Recs → Recs) : (s.updRecs g).reps = s.reps := rfl
@[simp] theorem State.updRecs_conns (s : State) (g : Recs → Recs) : (s.updRecs g).conns = s.conns := rfl
@[simp] theorem State.updRecs_msgId (s : State) (g : Recs → Recs) : (s.updRecs g).msgId = s.msgId := rfl
@[simp] theorem State.updRecs_psl (s : State) (g : Recs → Recs) : (s.updRecs g).psl = s.psl := rfl
@[simp] theorem State.updRecs_ports (s : State) (g : Recs → Recs) : (s.updRecs g).ports = s.ports := rfl
@[simp] theorem State.updRecs_cores (s : State) (g : Recs → Recs) : (s.updRecs g).cores = s.cores := rfl
@[simp] theorem State.updRecs_keySlots (s : State) (g : Recs → Recs) : (s.updRecs g).keySlots = s.keySlots := rfl
@[simp] theorem State.updRecs_boot (s : State) (g : Recs → Recs) : (s.updRecs g).boot = s.boot := rfl
@[simp] theorem State.updRecs_nv (s : State) (g : Recs → Recs) : (s.updRecs g).nv = s.nv := rfl
@[simp] theorem State.updRecs_pwr (s : State) (g : Recs → Recs) : (s.updRecs g).pwr = s.pwr := rfl
@[simp] theorem State.updRecs_thm (s : State) (g : Recs → Recs) : (s.updRecs g).thm = s.thm := rfl
@[simp] theorem State.updRecs_dust (s : State) (g : Recs → Recs) : (s.updRecs g).dust = s.dust := rfl
@[simp] theorem State.updRecs_dbgPort (s : State) (g : Recs → Recs) : (s.updRecs g).dbgPort = s.dbgPort := rfl
@[simp] theorem State.updRecs_grps (s : State) (g : Recs → Recs) : (s.updRecs g).grps = s.grps := rfl
@[simp] theorem State.updRecs_flights (s : State) (g : Recs → Recs) : (s.updRecs g).flights = s.flights := rfl
@[simp] theorem State.updRecs_moeHub (s : State) (g : Recs → Recs) : (s.updRecs g).moeHub = s.moeHub := rfl
@[simp] theorem State.updRecs_fns (s : State) (g : Recs → Recs) : (s.updRecs g).fns = s.fns := rfl
@[simp] theorem State.updRecs_wqs (s : State) (g : Recs → Recs) : (s.updRecs g).wqs = s.wqs := rfl
@[simp] theorem State.updRecs_evqs (s : State) (g : Recs → Recs) : (s.updRecs g).evqs = s.evqs := rfl
@[simp] theorem State.updRecs_arb (s : State) (g : Recs → Recs) : (s.updRecs g).arb = s.arb := rfl
@[simp] theorem State.updRecs_mgmt (s : State) (g : Recs → Recs) : (s.updRecs g).mgmt = s.mgmt := rfl
@[simp] theorem State.updRecs_mbx (s : State) (g : Recs → Recs) : (s.updRecs g).mbx = s.mbx := rfl
@[simp] theorem State.updRecs_wqViews (s : State) (g : Recs → Recs) : (s.updRecs g).wqViews = s.wqViews := rfl
@[simp] theorem State.updRecs_evqViews (s : State) (g : Recs → Recs) : (s.updRecs g).evqViews = s.evqViews := rfl
@[simp] theorem State.updRecs_pcieRds (s : State) (g : Recs → Recs) : (s.updRecs g).pcieRds = s.pcieRds := rfl
@[simp] theorem State.updRecs_freeCtr (s : State) (g : Recs → Recs) : (s.updRecs g).freeCtr = s.freeCtr := rfl
@[simp] theorem State.updRecs_out (s : State) (g : Recs → Recs) : (s.updRecs g).out = s.out := rfl
@[simp] theorem State.updRecs_pending (s : State) (g : Recs → Recs) : (s.updRecs g).pending = s.pending := rfl
@[simp] theorem State.updRecs_recs (s : State) (g : Recs → Recs) : (s.updRecs g).recs = g s.recs := rfl

/-! `State.updBoot` -/

@[simp] theorem State.updBoot_glb (s : State) (g : Boot → Boot) : (s.updBoot g).glb = s.glb := rfl
@[simp] theorem State.updBoot_plumb (s : State) (g : Boot → Boot) : (s.updBoot g).plumb = s.plumb := rfl
@[simp] theorem State.updBoot_regs (s : State) (g : Boot → Boot) : (s.updBoot g).regs = s.regs := rfl
@[simp] theorem State.updBoot_pages (s : State) (g : Boot → Boot) : (s.updBoot g).pages = s.pages := rfl
@[simp] theorem State.updBoot_halves (s : State) (g : Boot → Boot) : (s.updBoot g).halves = s.halves := rfl
@[simp] theorem State.updBoot_snaps (s : State) (g : Boot → Boot) : (s.updBoot g).snaps = s.snaps := rfl
@[simp] theorem State.updBoot_snap (s : State) (g : Boot → Boot) : (s.updBoot g).snap = s.snap := rfl
@[simp] theorem State.updBoot_recs (s : State) (g : Boot → Boot) : (s.updBoot g).recs = s.recs := rfl
@[simp] theorem State.updBoot_todo (s : State) (g : Boot → Boot) : (s.updBoot g).todo = s.todo := rfl
@[simp] theorem State.updBoot_hbm (s : State) (g : Boot → Boot) : (s.updBoot g).hbm = s.hbm := rfl
@[simp] theorem State.updBoot_stackTab (s : State) (g : Boot → Boot) : (s.updBoot g).stackTab = s.stackTab := rfl
@[simp] theorem State.updBoot_mem (s : State) (g : Boot → Boot) : (s.updBoot g).mem = s.mem := rfl
@[simp] theorem State.updBoot_xlt (s : State) (g : Boot → Boot) : (s.updBoot g).xlt = s.xlt := rfl
@[simp] theorem State.updBoot_noc (s : State) (g : Boot → Boot) : (s.updBoot g).noc = s.noc := rfl
@[simp] theorem State.updBoot_tileMem (s : State) (g : Boot → Boot) : (s.updBoot g).tileMem = s.tileMem := rfl
@[simp] theorem State.updBoot_tileFull (s : State) (g : Boot → Boot) : (s.updBoot g).tileFull = s.tileFull := rfl
@[simp] theorem State.updBoot_tilePoison (s : State) (g : Boot → Boot) : (s.updBoot g).tilePoison = s.tilePoison := rfl
@[simp] theorem State.updBoot_engs (s : State) (g : Boot → Boot) : (s.updBoot g).engs = s.engs := rfl
@[simp] theorem State.updBoot_ctxs (s : State) (g : Boot → Boot) : (s.updBoot g).ctxs = s.ctxs := rfl
@[simp] theorem State.updBoot_tiles (s : State) (g : Boot → Boot) : (s.updBoot g).tiles = s.tiles := rfl
@[simp] theorem State.updBoot_hlth (s : State) (g : Boot → Boot) : (s.updBoot g).hlth = s.hlth := rfl
@[simp] theorem State.updBoot_sched (s : State) (g : Boot → Boot) : (s.updBoot g).sched = s.sched := rfl
@[simp] theorem State.updBoot_reps (s : State) (g : Boot → Boot) : (s.updBoot g).reps = s.reps := rfl
@[simp] theorem State.updBoot_conns (s : State) (g : Boot → Boot) : (s.updBoot g).conns = s.conns := rfl
@[simp] theorem State.updBoot_msgId (s : State) (g : Boot → Boot) : (s.updBoot g).msgId = s.msgId := rfl
@[simp] theorem State.updBoot_psl (s : State) (g : Boot → Boot) : (s.updBoot g).psl = s.psl := rfl
@[simp] theorem State.updBoot_ports (s : State) (g : Boot → Boot) : (s.updBoot g).ports = s.ports := rfl
@[simp] theorem State.updBoot_cores (s : State) (g : Boot → Boot) : (s.updBoot g).cores = s.cores := rfl
@[simp] theorem State.updBoot_keySlots (s : State) (g : Boot → Boot) : (s.updBoot g).keySlots = s.keySlots := rfl
@[simp] theorem State.updBoot_nv (s : State) (g : Boot → Boot) : (s.updBoot g).nv = s.nv := rfl
@[simp] theorem State.updBoot_pwr (s : State) (g : Boot → Boot) : (s.updBoot g).pwr = s.pwr := rfl
@[simp] theorem State.updBoot_thm (s : State) (g : Boot → Boot) : (s.updBoot g).thm = s.thm := rfl
@[simp] theorem State.updBoot_dust (s : State) (g : Boot → Boot) : (s.updBoot g).dust = s.dust := rfl
@[simp] theorem State.updBoot_dbgPort (s : State) (g : Boot → Boot) : (s.updBoot g).dbgPort = s.dbgPort := rfl
@[simp] theorem State.updBoot_grps (s : State) (g : Boot → Boot) : (s.updBoot g).grps = s.grps := rfl
@[simp] theorem State.updBoot_flights (s : State) (g : Boot → Boot) : (s.updBoot g).flights = s.flights := rfl
@[simp] theorem State.updBoot_moeHub (s : State) (g : Boot → Boot) : (s.updBoot g).moeHub = s.moeHub := rfl
@[simp] theorem State.updBoot_fns (s : State) (g : Boot → Boot) : (s.updBoot g).fns = s.fns := rfl
@[simp] theorem State.updBoot_wqs (s : State) (g : Boot → Boot) : (s.updBoot g).wqs = s.wqs := rfl
@[simp] theorem State.updBoot_evqs (s : State) (g : Boot → Boot) : (s.updBoot g).evqs = s.evqs := rfl
@[simp] theorem State.updBoot_arb (s : State) (g : Boot → Boot) : (s.updBoot g).arb = s.arb := rfl
@[simp] theorem State.updBoot_mgmt (s : State) (g : Boot → Boot) : (s.updBoot g).mgmt = s.mgmt := rfl
@[simp] theorem State.updBoot_mbx (s : State) (g : Boot → Boot) : (s.updBoot g).mbx = s.mbx := rfl
@[simp] theorem State.updBoot_wqViews (s : State) (g : Boot → Boot) : (s.updBoot g).wqViews = s.wqViews := rfl
@[simp] theorem State.updBoot_evqViews (s : State) (g : Boot → Boot) : (s.updBoot g).evqViews = s.evqViews := rfl
@[simp] theorem State.updBoot_pcieRds (s : State) (g : Boot → Boot) : (s.updBoot g).pcieRds = s.pcieRds := rfl
@[simp] theorem State.updBoot_freeCtr (s : State) (g : Boot → Boot) : (s.updBoot g).freeCtr = s.freeCtr := rfl
@[simp] theorem State.updBoot_out (s : State) (g : Boot → Boot) : (s.updBoot g).out = s.out := rfl
@[simp] theorem State.updBoot_pending (s : State) (g : Boot → Boot) : (s.updBoot g).pending = s.pending := rfl
@[simp] theorem State.updBoot_boot (s : State) (g : Boot → Boot) : (s.updBoot g).boot = g s.boot := rfl

/-! `State.updNv` -/

@[simp] theorem State.updNv_glb (s : State) (g : Nv → Nv) : (s.updNv g).glb = s.glb := rfl
@[simp] theorem State.updNv_plumb (s : State) (g : Nv → Nv) : (s.updNv g).plumb = s.plumb := rfl
@[simp] theorem State.updNv_regs (s : State) (g : Nv → Nv) : (s.updNv g).regs = s.regs := rfl
@[simp] theorem State.updNv_pages (s : State) (g : Nv → Nv) : (s.updNv g).pages = s.pages := rfl
@[simp] theorem State.updNv_halves (s : State) (g : Nv → Nv) : (s.updNv g).halves = s.halves := rfl
@[simp] theorem State.updNv_snaps (s : State) (g : Nv → Nv) : (s.updNv g).snaps = s.snaps := rfl
@[simp] theorem State.updNv_snap (s : State) (g : Nv → Nv) : (s.updNv g).snap = s.snap := rfl
@[simp] theorem State.updNv_recs (s : State) (g : Nv → Nv) : (s.updNv g).recs = s.recs := rfl
@[simp] theorem State.updNv_todo (s : State) (g : Nv → Nv) : (s.updNv g).todo = s.todo := rfl
@[simp] theorem State.updNv_hbm (s : State) (g : Nv → Nv) : (s.updNv g).hbm = s.hbm := rfl
@[simp] theorem State.updNv_stackTab (s : State) (g : Nv → Nv) : (s.updNv g).stackTab = s.stackTab := rfl
@[simp] theorem State.updNv_mem (s : State) (g : Nv → Nv) : (s.updNv g).mem = s.mem := rfl
@[simp] theorem State.updNv_xlt (s : State) (g : Nv → Nv) : (s.updNv g).xlt = s.xlt := rfl
@[simp] theorem State.updNv_noc (s : State) (g : Nv → Nv) : (s.updNv g).noc = s.noc := rfl
@[simp] theorem State.updNv_tileMem (s : State) (g : Nv → Nv) : (s.updNv g).tileMem = s.tileMem := rfl
@[simp] theorem State.updNv_tileFull (s : State) (g : Nv → Nv) : (s.updNv g).tileFull = s.tileFull := rfl
@[simp] theorem State.updNv_tilePoison (s : State) (g : Nv → Nv) : (s.updNv g).tilePoison = s.tilePoison := rfl
@[simp] theorem State.updNv_engs (s : State) (g : Nv → Nv) : (s.updNv g).engs = s.engs := rfl
@[simp] theorem State.updNv_ctxs (s : State) (g : Nv → Nv) : (s.updNv g).ctxs = s.ctxs := rfl
@[simp] theorem State.updNv_tiles (s : State) (g : Nv → Nv) : (s.updNv g).tiles = s.tiles := rfl
@[simp] theorem State.updNv_hlth (s : State) (g : Nv → Nv) : (s.updNv g).hlth = s.hlth := rfl
@[simp] theorem State.updNv_sched (s : State) (g : Nv → Nv) : (s.updNv g).sched = s.sched := rfl
@[simp] theorem State.updNv_reps (s : State) (g : Nv → Nv) : (s.updNv g).reps = s.reps := rfl
@[simp] theorem State.updNv_conns (s : State) (g : Nv → Nv) : (s.updNv g).conns = s.conns := rfl
@[simp] theorem State.updNv_msgId (s : State) (g : Nv → Nv) : (s.updNv g).msgId = s.msgId := rfl
@[simp] theorem State.updNv_psl (s : State) (g : Nv → Nv) : (s.updNv g).psl = s.psl := rfl
@[simp] theorem State.updNv_ports (s : State) (g : Nv → Nv) : (s.updNv g).ports = s.ports := rfl
@[simp] theorem State.updNv_cores (s : State) (g : Nv → Nv) : (s.updNv g).cores = s.cores := rfl
@[simp] theorem State.updNv_keySlots (s : State) (g : Nv → Nv) : (s.updNv g).keySlots = s.keySlots := rfl
@[simp] theorem State.updNv_boot (s : State) (g : Nv → Nv) : (s.updNv g).boot = s.boot := rfl
@[simp] theorem State.updNv_pwr (s : State) (g : Nv → Nv) : (s.updNv g).pwr = s.pwr := rfl
@[simp] theorem State.updNv_thm (s : State) (g : Nv → Nv) : (s.updNv g).thm = s.thm := rfl
@[simp] theorem State.updNv_dust (s : State) (g : Nv → Nv) : (s.updNv g).dust = s.dust := rfl
@[simp] theorem State.updNv_dbgPort (s : State) (g : Nv → Nv) : (s.updNv g).dbgPort = s.dbgPort := rfl
@[simp] theorem State.updNv_grps (s : State) (g : Nv → Nv) : (s.updNv g).grps = s.grps := rfl
@[simp] theorem State.updNv_flights (s : State) (g : Nv → Nv) : (s.updNv g).flights = s.flights := rfl
@[simp] theorem State.updNv_moeHub (s : State) (g : Nv → Nv) : (s.updNv g).moeHub = s.moeHub := rfl
@[simp] theorem State.updNv_fns (s : State) (g : Nv → Nv) : (s.updNv g).fns = s.fns := rfl
@[simp] theorem State.updNv_wqs (s : State) (g : Nv → Nv) : (s.updNv g).wqs = s.wqs := rfl
@[simp] theorem State.updNv_evqs (s : State) (g : Nv → Nv) : (s.updNv g).evqs = s.evqs := rfl
@[simp] theorem State.updNv_arb (s : State) (g : Nv → Nv) : (s.updNv g).arb = s.arb := rfl
@[simp] theorem State.updNv_mgmt (s : State) (g : Nv → Nv) : (s.updNv g).mgmt = s.mgmt := rfl
@[simp] theorem State.updNv_mbx (s : State) (g : Nv → Nv) : (s.updNv g).mbx = s.mbx := rfl
@[simp] theorem State.updNv_wqViews (s : State) (g : Nv → Nv) : (s.updNv g).wqViews = s.wqViews := rfl
@[simp] theorem State.updNv_evqViews (s : State) (g : Nv → Nv) : (s.updNv g).evqViews = s.evqViews := rfl
@[simp] theorem State.updNv_pcieRds (s : State) (g : Nv → Nv) : (s.updNv g).pcieRds = s.pcieRds := rfl
@[simp] theorem State.updNv_freeCtr (s : State) (g : Nv → Nv) : (s.updNv g).freeCtr = s.freeCtr := rfl
@[simp] theorem State.updNv_out (s : State) (g : Nv → Nv) : (s.updNv g).out = s.out := rfl
@[simp] theorem State.updNv_pending (s : State) (g : Nv → Nv) : (s.updNv g).pending = s.pending := rfl
@[simp] theorem State.updNv_nv (s : State) (g : Nv → Nv) : (s.updNv g).nv = g s.nv := rfl

/-! `State.updCores` -/

@[simp] theorem State.updCores_glb (s : State) (g : Cores → Cores) : (s.updCores g).glb = s.glb := rfl
@[simp] theorem State.updCores_plumb (s : State) (g : Cores → Cores) : (s.updCores g).plumb = s.plumb := rfl
@[simp] theorem State.updCores_regs (s : State) (g : Cores → Cores) : (s.updCores g).regs = s.regs := rfl
@[simp] theorem State.updCores_pages (s : State) (g : Cores → Cores) : (s.updCores g).pages = s.pages := rfl
@[simp] theorem State.updCores_halves (s : State) (g : Cores → Cores) : (s.updCores g).halves = s.halves := rfl
@[simp] theorem State.updCores_snaps (s : State) (g : Cores → Cores) : (s.updCores g).snaps = s.snaps := rfl
@[simp] theorem State.updCores_snap (s : State) (g : Cores → Cores) : (s.updCores g).snap = s.snap := rfl
@[simp] theorem State.updCores_recs (s : State) (g : Cores → Cores) : (s.updCores g).recs = s.recs := rfl
@[simp] theorem State.updCores_todo (s : State) (g : Cores → Cores) : (s.updCores g).todo = s.todo := rfl
@[simp] theorem State.updCores_hbm (s : State) (g : Cores → Cores) : (s.updCores g).hbm = s.hbm := rfl
@[simp] theorem State.updCores_stackTab (s : State) (g : Cores → Cores) : (s.updCores g).stackTab = s.stackTab := rfl
@[simp] theorem State.updCores_mem (s : State) (g : Cores → Cores) : (s.updCores g).mem = s.mem := rfl
@[simp] theorem State.updCores_xlt (s : State) (g : Cores → Cores) : (s.updCores g).xlt = s.xlt := rfl
@[simp] theorem State.updCores_noc (s : State) (g : Cores → Cores) : (s.updCores g).noc = s.noc := rfl
@[simp] theorem State.updCores_tileMem (s : State) (g : Cores → Cores) : (s.updCores g).tileMem = s.tileMem := rfl
@[simp] theorem State.updCores_tileFull (s : State) (g : Cores → Cores) : (s.updCores g).tileFull = s.tileFull := rfl
@[simp] theorem State.updCores_tilePoison (s : State) (g : Cores → Cores) : (s.updCores g).tilePoison = s.tilePoison := rfl
@[simp] theorem State.updCores_engs (s : State) (g : Cores → Cores) : (s.updCores g).engs = s.engs := rfl
@[simp] theorem State.updCores_ctxs (s : State) (g : Cores → Cores) : (s.updCores g).ctxs = s.ctxs := rfl
@[simp] theorem State.updCores_tiles (s : State) (g : Cores → Cores) : (s.updCores g).tiles = s.tiles := rfl
@[simp] theorem State.updCores_hlth (s : State) (g : Cores → Cores) : (s.updCores g).hlth = s.hlth := rfl
@[simp] theorem State.updCores_sched (s : State) (g : Cores → Cores) : (s.updCores g).sched = s.sched := rfl
@[simp] theorem State.updCores_reps (s : State) (g : Cores → Cores) : (s.updCores g).reps = s.reps := rfl
@[simp] theorem State.updCores_conns (s : State) (g : Cores → Cores) : (s.updCores g).conns = s.conns := rfl
@[simp] theorem State.updCores_msgId (s : State) (g : Cores → Cores) : (s.updCores g).msgId = s.msgId := rfl
@[simp] theorem State.updCores_psl (s : State) (g : Cores → Cores) : (s.updCores g).psl = s.psl := rfl
@[simp] theorem State.updCores_ports (s : State) (g : Cores → Cores) : (s.updCores g).ports = s.ports := rfl
@[simp] theorem State.updCores_keySlots (s : State) (g : Cores → Cores) : (s.updCores g).keySlots = s.keySlots := rfl
@[simp] theorem State.updCores_boot (s : State) (g : Cores → Cores) : (s.updCores g).boot = s.boot := rfl
@[simp] theorem State.updCores_nv (s : State) (g : Cores → Cores) : (s.updCores g).nv = s.nv := rfl
@[simp] theorem State.updCores_pwr (s : State) (g : Cores → Cores) : (s.updCores g).pwr = s.pwr := rfl
@[simp] theorem State.updCores_thm (s : State) (g : Cores → Cores) : (s.updCores g).thm = s.thm := rfl
@[simp] theorem State.updCores_dust (s : State) (g : Cores → Cores) : (s.updCores g).dust = s.dust := rfl
@[simp] theorem State.updCores_dbgPort (s : State) (g : Cores → Cores) : (s.updCores g).dbgPort = s.dbgPort := rfl
@[simp] theorem State.updCores_grps (s : State) (g : Cores → Cores) : (s.updCores g).grps = s.grps := rfl
@[simp] theorem State.updCores_flights (s : State) (g : Cores → Cores) : (s.updCores g).flights = s.flights := rfl
@[simp] theorem State.updCores_moeHub (s : State) (g : Cores → Cores) : (s.updCores g).moeHub = s.moeHub := rfl
@[simp] theorem State.updCores_fns (s : State) (g : Cores → Cores) : (s.updCores g).fns = s.fns := rfl
@[simp] theorem State.updCores_wqs (s : State) (g : Cores → Cores) : (s.updCores g).wqs = s.wqs := rfl
@[simp] theorem State.updCores_evqs (s : State) (g : Cores → Cores) : (s.updCores g).evqs = s.evqs := rfl
@[simp] theorem State.updCores_arb (s : State) (g : Cores → Cores) : (s.updCores g).arb = s.arb := rfl
@[simp] theorem State.updCores_mgmt (s : State) (g : Cores → Cores) : (s.updCores g).mgmt = s.mgmt := rfl
@[simp] theorem State.updCores_mbx (s : State) (g : Cores → Cores) : (s.updCores g).mbx = s.mbx := rfl
@[simp] theorem State.updCores_wqViews (s : State) (g : Cores → Cores) : (s.updCores g).wqViews = s.wqViews := rfl
@[simp] theorem State.updCores_evqViews (s : State) (g : Cores → Cores) : (s.updCores g).evqViews = s.evqViews := rfl
@[simp] theorem State.updCores_pcieRds (s : State) (g : Cores → Cores) : (s.updCores g).pcieRds = s.pcieRds := rfl
@[simp] theorem State.updCores_freeCtr (s : State) (g : Cores → Cores) : (s.updCores g).freeCtr = s.freeCtr := rfl
@[simp] theorem State.updCores_out (s : State) (g : Cores → Cores) : (s.updCores g).out = s.out := rfl
@[simp] theorem State.updCores_pending (s : State) (g : Cores → Cores) : (s.updCores g).pending = s.pending := rfl
@[simp] theorem State.updCores_cores (s : State) (g : Cores → Cores) : (s.updCores g).cores = g s.cores := rfl

/-! `State.updConn` -/

@[simp] theorem State.updConn_glb (s : State) (c : Nat) (g : Conn → Conn) : (s.updConn c g).glb = s.glb := rfl
@[simp] theorem State.updConn_plumb (s : State) (c : Nat) (g : Conn → Conn) : (s.updConn c g).plumb = s.plumb := rfl
@[simp] theorem State.updConn_regs (s : State) (c : Nat) (g : Conn → Conn) : (s.updConn c g).regs = s.regs := rfl
@[simp] theorem State.updConn_pages (s : State) (c : Nat) (g : Conn → Conn) : (s.updConn c g).pages = s.pages := rfl
@[simp] theorem State.updConn_halves (s : State) (c : Nat) (g : Conn → Conn) : (s.updConn c g).halves = s.halves := rfl
@[simp] theorem State.updConn_snaps (s : State) (c : Nat) (g : Conn → Conn) : (s.updConn c g).snaps = s.snaps := rfl
@[simp] theorem State.updConn_snap (s : State) (c : Nat) (g : Conn → Conn) : (s.updConn c g).snap = s.snap := rfl
@[simp] theorem State.updConn_recs (s : State) (c : Nat) (g : Conn → Conn) : (s.updConn c g).recs = s.recs := rfl
@[simp] theorem State.updConn_todo (s : State) (c : Nat) (g : Conn → Conn) : (s.updConn c g).todo = s.todo := rfl
@[simp] theorem State.updConn_hbm (s : State) (c : Nat) (g : Conn → Conn) : (s.updConn c g).hbm = s.hbm := rfl
@[simp] theorem State.updConn_stackTab (s : State) (c : Nat) (g : Conn → Conn) : (s.updConn c g).stackTab = s.stackTab := rfl
@[simp] theorem State.updConn_mem (s : State) (c : Nat) (g : Conn → Conn) : (s.updConn c g).mem = s.mem := rfl
@[simp] theorem State.updConn_xlt (s : State) (c : Nat) (g : Conn → Conn) : (s.updConn c g).xlt = s.xlt := rfl
@[simp] theorem State.updConn_noc (s : State) (c : Nat) (g : Conn → Conn) : (s.updConn c g).noc = s.noc := rfl
@[simp] theorem State.updConn_tileMem (s : State) (c : Nat) (g : Conn → Conn) : (s.updConn c g).tileMem = s.tileMem := rfl
@[simp] theorem State.updConn_tileFull (s : State) (c : Nat) (g : Conn → Conn) : (s.updConn c g).tileFull = s.tileFull := rfl
@[simp] theorem State.updConn_tilePoison (s : State) (c : Nat) (g : Conn → Conn) : (s.updConn c g).tilePoison = s.tilePoison := rfl
@[simp] theorem State.updConn_engs (s : State) (c : Nat) (g : Conn → Conn) : (s.updConn c g).engs = s.engs := rfl
@[simp] theorem State.updConn_ctxs (s : State) (c : Nat) (g : Conn → Conn) : (s.updConn c g).ctxs = s.ctxs := rfl
@[simp] theorem State.updConn_tiles (s : State) (c : Nat) (g : Conn → Conn) : (s.updConn c g).tiles = s.tiles := rfl
@[simp] theorem State.updConn_hlth (s : State) (c : Nat) (g : Conn → Conn) : (s.updConn c g).hlth = s.hlth := rfl
@[simp] theorem State.updConn_sched (s : State) (c : Nat) (g : Conn → Conn) : (s.updConn c g).sched = s.sched := rfl
@[simp] theorem State.updConn_reps (s : State) (c : Nat) (g : Conn → Conn) : (s.updConn c g).reps = s.reps := rfl
@[simp] theorem State.updConn_msgId (s : State) (c : Nat) (g : Conn → Conn) : (s.updConn c g).msgId = s.msgId := rfl
@[simp] theorem State.updConn_psl (s : State) (c : Nat) (g : Conn → Conn) : (s.updConn c g).psl = s.psl := rfl
@[simp] theorem State.updConn_ports (s : State) (c : Nat) (g : Conn → Conn) : (s.updConn c g).ports = s.ports := rfl
@[simp] theorem State.updConn_cores (s : State) (c : Nat) (g : Conn → Conn) : (s.updConn c g).cores = s.cores := rfl
@[simp] theorem State.updConn_keySlots (s : State) (c : Nat) (g : Conn → Conn) : (s.updConn c g).keySlots = s.keySlots := rfl
@[simp] theorem State.updConn_boot (s : State) (c : Nat) (g : Conn → Conn) : (s.updConn c g).boot = s.boot := rfl
@[simp] theorem State.updConn_nv (s : State) (c : Nat) (g : Conn → Conn) : (s.updConn c g).nv = s.nv := rfl
@[simp] theorem State.updConn_pwr (s : State) (c : Nat) (g : Conn → Conn) : (s.updConn c g).pwr = s.pwr := rfl
@[simp] theorem State.updConn_thm (s : State) (c : Nat) (g : Conn → Conn) : (s.updConn c g).thm = s.thm := rfl
@[simp] theorem State.updConn_dust (s : State) (c : Nat) (g : Conn → Conn) : (s.updConn c g).dust = s.dust := rfl
@[simp] theorem State.updConn_dbgPort (s : State) (c : Nat) (g : Conn → Conn) : (s.updConn c g).dbgPort = s.dbgPort := rfl
@[simp] theorem State.updConn_grps (s : State) (c : Nat) (g : Conn → Conn) : (s.updConn c g).grps = s.grps := rfl
@[simp] theorem State.updConn_flights (s : State) (c : Nat) (g : Conn → Conn) : (s.updConn c g).flights = s.flights := rfl
@[simp] theorem State.updConn_moeHub (s : State) (c : Nat) (g : Conn → Conn) : (s.updConn c g).moeHub = s.moeHub := rfl
@[simp] theorem State.updConn_fns (s : State) (c : Nat) (g : Conn → Conn) : (s.updConn c g).fns = s.fns := rfl
@[simp] theorem State.updConn_wqs (s : State) (c : Nat) (g : Conn → Conn) : (s.updConn c g).wqs = s.wqs := rfl
@[simp] theorem State.updConn_evqs (s : State) (c : Nat) (g : Conn → Conn) : (s.updConn c g).evqs = s.evqs := rfl
@[simp] theorem State.updConn_arb (s : State) (c : Nat) (g : Conn → Conn) : (s.updConn c g).arb = s.arb := rfl
@[simp] theorem State.updConn_mgmt (s : State) (c : Nat) (g : Conn → Conn) : (s.updConn c g).mgmt = s.mgmt := rfl
@[simp] theorem State.updConn_mbx (s : State) (c : Nat) (g : Conn → Conn) : (s.updConn c g).mbx = s.mbx := rfl
@[simp] theorem State.updConn_wqViews (s : State) (c : Nat) (g : Conn → Conn) : (s.updConn c g).wqViews = s.wqViews := rfl
@[simp] theorem State.updConn_evqViews (s : State) (c : Nat) (g : Conn → Conn) : (s.updConn c g).evqViews = s.evqViews := rfl
@[simp] theorem State.updConn_pcieRds (s : State) (c : Nat) (g : Conn → Conn) : (s.updConn c g).pcieRds = s.pcieRds := rfl
@[simp] theorem State.updConn_freeCtr (s : State) (c : Nat) (g : Conn → Conn) : (s.updConn c g).freeCtr = s.freeCtr := rfl
@[simp] theorem State.updConn_out (s : State) (c : Nat) (g : Conn → Conn) : (s.updConn c g).out = s.out := rfl
@[simp] theorem State.updConn_pending (s : State) (c : Nat) (g : Conn → Conn) : (s.updConn c g).pending = s.pending := rfl

/-! `State.updPsl` -/

@[simp] theorem State.updPsl_glb (s : State) (g : Psl → Psl) : (s.updPsl g).glb = s.glb := rfl
@[simp] theorem State.updPsl_plumb (s : State) (g : Psl → Psl) : (s.updPsl g).plumb = s.plumb := rfl
@[simp] theorem State.updPsl_regs (s : State) (g : Psl → Psl) : (s.updPsl g).regs = s.regs := rfl
@[simp] theorem State.updPsl_pages (s : State) (g : Psl → Psl) : (s.updPsl g).pages = s.pages := rfl
@[simp] theorem State.updPsl_halves (s : State) (g : Psl → Psl) : (s.updPsl g).halves = s.halves := rfl
@[simp] theorem State.updPsl_snaps (s : State) (g : Psl → Psl) : (s.updPsl g).snaps = s.snaps := rfl
@[simp] theorem State.updPsl_snap (s : State) (g : Psl → Psl) : (s.updPsl g).snap = s.snap := rfl
@[simp] theorem State.updPsl_recs (s : State) (g : Psl → Psl) : (s.updPsl g).recs = s.recs := rfl
@[simp] theorem State.updPsl_todo (s : State) (g : Psl → Psl) : (s.updPsl g).todo = s.todo := rfl
@[simp] theorem State.updPsl_hbm (s : State) (g : Psl → Psl) : (s.updPsl g).hbm = s.hbm := rfl
@[simp] theorem State.updPsl_stackTab (s : State) (g : Psl → Psl) : (s.updPsl g).stackTab = s.stackTab := rfl
@[simp] theorem State.updPsl_mem (s : State) (g : Psl → Psl) : (s.updPsl g).mem = s.mem := rfl
@[simp] theorem State.updPsl_xlt (s : State) (g : Psl → Psl) : (s.updPsl g).xlt = s.xlt := rfl
@[simp] theorem State.updPsl_noc (s : State) (g : Psl → Psl) : (s.updPsl g).noc = s.noc := rfl
@[simp] theorem State.updPsl_tileMem (s : State) (g : Psl → Psl) : (s.updPsl g).tileMem = s.tileMem := rfl
@[simp] theorem State.updPsl_tileFull (s : State) (g : Psl → Psl) : (s.updPsl g).tileFull = s.tileFull := rfl
@[simp] theorem State.updPsl_tilePoison (s : State) (g : Psl → Psl) : (s.updPsl g).tilePoison = s.tilePoison := rfl
@[simp] theorem State.updPsl_engs (s : State) (g : Psl → Psl) : (s.updPsl g).engs = s.engs := rfl
@[simp] theorem State.updPsl_ctxs (s : State) (g : Psl → Psl) : (s.updPsl g).ctxs = s.ctxs := rfl
@[simp] theorem State.updPsl_tiles (s : State) (g : Psl → Psl) : (s.updPsl g).tiles = s.tiles := rfl
@[simp] theorem State.updPsl_hlth (s : State) (g : Psl → Psl) : (s.updPsl g).hlth = s.hlth := rfl
@[simp] theorem State.updPsl_sched (s : State) (g : Psl → Psl) : (s.updPsl g).sched = s.sched := rfl
@[simp] theorem State.updPsl_reps (s : State) (g : Psl → Psl) : (s.updPsl g).reps = s.reps := rfl
@[simp] theorem State.updPsl_conns (s : State) (g : Psl → Psl) : (s.updPsl g).conns = s.conns := rfl
@[simp] theorem State.updPsl_msgId (s : State) (g : Psl → Psl) : (s.updPsl g).msgId = s.msgId := rfl
@[simp] theorem State.updPsl_ports (s : State) (g : Psl → Psl) : (s.updPsl g).ports = s.ports := rfl
@[simp] theorem State.updPsl_cores (s : State) (g : Psl → Psl) : (s.updPsl g).cores = s.cores := rfl
@[simp] theorem State.updPsl_keySlots (s : State) (g : Psl → Psl) : (s.updPsl g).keySlots = s.keySlots := rfl
@[simp] theorem State.updPsl_boot (s : State) (g : Psl → Psl) : (s.updPsl g).boot = s.boot := rfl
@[simp] theorem State.updPsl_nv (s : State) (g : Psl → Psl) : (s.updPsl g).nv = s.nv := rfl
@[simp] theorem State.updPsl_pwr (s : State) (g : Psl → Psl) : (s.updPsl g).pwr = s.pwr := rfl
@[simp] theorem State.updPsl_thm (s : State) (g : Psl → Psl) : (s.updPsl g).thm = s.thm := rfl
@[simp] theorem State.updPsl_dust (s : State) (g : Psl → Psl) : (s.updPsl g).dust = s.dust := rfl
@[simp] theorem State.updPsl_dbgPort (s : State) (g : Psl → Psl) : (s.updPsl g).dbgPort = s.dbgPort := rfl
@[simp] theorem State.updPsl_grps (s : State) (g : Psl → Psl) : (s.updPsl g).grps = s.grps := rfl
@[simp] theorem State.updPsl_flights (s : State) (g : Psl → Psl) : (s.updPsl g).flights = s.flights := rfl
@[simp] theorem State.updPsl_moeHub (s : State) (g : Psl → Psl) : (s.updPsl g).moeHub = s.moeHub := rfl
@[simp] theorem State.updPsl_fns (s : State) (g : Psl → Psl) : (s.updPsl g).fns = s.fns := rfl
@[simp] theorem State.updPsl_wqs (s : State) (g : Psl → Psl) : (s.updPsl g).wqs = s.wqs := rfl
@[simp] theorem State.updPsl_evqs (s : State) (g : Psl → Psl) : (s.updPsl g).evqs = s.evqs := rfl
@[simp] theorem State.updPsl_arb (s : State) (g : Psl → Psl) : (s.updPsl g).arb = s.arb := rfl
@[simp] theorem State.updPsl_mgmt (s : State) (g : Psl → Psl) : (s.updPsl g).mgmt = s.mgmt := rfl
@[simp] theorem State.updPsl_mbx (s : State) (g : Psl → Psl) : (s.updPsl g).mbx = s.mbx := rfl
@[simp] theorem State.updPsl_wqViews (s : State) (g : Psl → Psl) : (s.updPsl g).wqViews = s.wqViews := rfl
@[simp] theorem State.updPsl_evqViews (s : State) (g : Psl → Psl) : (s.updPsl g).evqViews = s.evqViews := rfl
@[simp] theorem State.updPsl_pcieRds (s : State) (g : Psl → Psl) : (s.updPsl g).pcieRds = s.pcieRds := rfl
@[simp] theorem State.updPsl_freeCtr (s : State) (g : Psl → Psl) : (s.updPsl g).freeCtr = s.freeCtr := rfl
@[simp] theorem State.updPsl_out (s : State) (g : Psl → Psl) : (s.updPsl g).out = s.out := rfl
@[simp] theorem State.updPsl_pending (s : State) (g : Psl → Psl) : (s.updPsl g).pending = s.pending := rfl
@[simp] theorem State.updPsl_psl (s : State) (g : Psl → Psl) : (s.updPsl g).psl = g s.psl := rfl

/-! `State.updNoc` -/

@[simp] theorem State.updNoc_glb (s : State) (g : Noc → Noc) : (s.updNoc g).glb = s.glb := rfl
@[simp] theorem State.updNoc_plumb (s : State) (g : Noc → Noc) : (s.updNoc g).plumb = s.plumb := rfl
@[simp] theorem State.updNoc_regs (s : State) (g : Noc → Noc) : (s.updNoc g).regs = s.regs := rfl
@[simp] theorem State.updNoc_pages (s : State) (g : Noc → Noc) : (s.updNoc g).pages = s.pages := rfl
@[simp] theorem State.updNoc_halves (s : State) (g : Noc → Noc) : (s.updNoc g).halves = s.halves := rfl
@[simp] theorem State.updNoc_snaps (s : State) (g : Noc → Noc) : (s.updNoc g).snaps = s.snaps := rfl
@[simp] theorem State.updNoc_snap (s : State) (g : Noc → Noc) : (s.updNoc g).snap = s.snap := rfl
@[simp] theorem State.updNoc_recs (s : State) (g : Noc → Noc) : (s.updNoc g).recs = s.recs := rfl
@[simp] theorem State.updNoc_todo (s : State) (g : Noc → Noc) : (s.updNoc g).todo = s.todo := rfl
@[simp] theorem State.updNoc_hbm (s : State) (g : Noc → Noc) : (s.updNoc g).hbm = s.hbm := rfl
@[simp] theorem State.updNoc_stackTab (s : State) (g : Noc → Noc) : (s.updNoc g).stackTab = s.stackTab := rfl
@[simp] theorem State.updNoc_mem (s : State) (g : Noc → Noc) : (s.updNoc g).mem = s.mem := rfl
@[simp] theorem State.updNoc_xlt (s : State) (g : Noc → Noc) : (s.updNoc g).xlt = s.xlt := rfl
@[simp] theorem State.updNoc_tileMem (s : State) (g : Noc → Noc) : (s.updNoc g).tileMem = s.tileMem := rfl
@[simp] theorem State.updNoc_tileFull (s : State) (g : Noc → Noc) : (s.updNoc g).tileFull = s.tileFull := rfl
@[simp] theorem State.updNoc_tilePoison (s : State) (g : Noc → Noc) : (s.updNoc g).tilePoison = s.tilePoison := rfl
@[simp] theorem State.updNoc_engs (s : State) (g : Noc → Noc) : (s.updNoc g).engs = s.engs := rfl
@[simp] theorem State.updNoc_ctxs (s : State) (g : Noc → Noc) : (s.updNoc g).ctxs = s.ctxs := rfl
@[simp] theorem State.updNoc_tiles (s : State) (g : Noc → Noc) : (s.updNoc g).tiles = s.tiles := rfl
@[simp] theorem State.updNoc_hlth (s : State) (g : Noc → Noc) : (s.updNoc g).hlth = s.hlth := rfl
@[simp] theorem State.updNoc_sched (s : State) (g : Noc → Noc) : (s.updNoc g).sched = s.sched := rfl
@[simp] theorem State.updNoc_reps (s : State) (g : Noc → Noc) : (s.updNoc g).reps = s.reps := rfl
@[simp] theorem State.updNoc_conns (s : State) (g : Noc → Noc) : (s.updNoc g).conns = s.conns := rfl
@[simp] theorem State.updNoc_msgId (s : State) (g : Noc → Noc) : (s.updNoc g).msgId = s.msgId := rfl
@[simp] theorem State.updNoc_psl (s : State) (g : Noc → Noc) : (s.updNoc g).psl = s.psl := rfl
@[simp] theorem State.updNoc_ports (s : State) (g : Noc → Noc) : (s.updNoc g).ports = s.ports := rfl
@[simp] theorem State.updNoc_cores (s : State) (g : Noc → Noc) : (s.updNoc g).cores = s.cores := rfl
@[simp] theorem State.updNoc_keySlots (s : State) (g : Noc → Noc) : (s.updNoc g).keySlots = s.keySlots := rfl
@[simp] theorem State.updNoc_boot (s : State) (g : Noc → Noc) : (s.updNoc g).boot = s.boot := rfl
@[simp] theorem State.updNoc_nv (s : State) (g : Noc → Noc) : (s.updNoc g).nv = s.nv := rfl
@[simp] theorem State.updNoc_pwr (s : State) (g : Noc → Noc) : (s.updNoc g).pwr = s.pwr := rfl
@[simp] theorem State.updNoc_thm (s : State) (g : Noc → Noc) : (s.updNoc g).thm = s.thm := rfl
@[simp] theorem State.updNoc_dust (s : State) (g : Noc → Noc) : (s.updNoc g).dust = s.dust := rfl
@[simp] theorem State.updNoc_dbgPort (s : State) (g : Noc → Noc) : (s.updNoc g).dbgPort = s.dbgPort := rfl
@[simp] theorem State.updNoc_grps (s : State) (g : Noc → Noc) : (s.updNoc g).grps = s.grps := rfl
@[simp] theorem State.updNoc_flights (s : State) (g : Noc → Noc) : (s.updNoc g).flights = s.flights := rfl
@[simp] theorem State.updNoc_moeHub (s : State) (g : Noc → Noc) : (s.updNoc g).moeHub = s.moeHub := rfl
@[simp] theorem State.updNoc_fns (s : State) (g : Noc → Noc) : (s.updNoc g).fns = s.fns := rfl
@[simp] theorem State.updNoc_wqs (s : State) (g : Noc → Noc) : (s.updNoc g).wqs = s.wqs := rfl
@[simp] theorem State.updNoc_evqs (s : State) (g : Noc → Noc) : (s.updNoc g).evqs = s.evqs := rfl
@[simp] theorem State.updNoc_arb (s : State) (g : Noc → Noc) : (s.updNoc g).arb = s.arb := rfl
@[simp] theorem State.updNoc_mgmt (s : State) (g : Noc → Noc) : (s.updNoc g).mgmt = s.mgmt := rfl
@[simp] theorem State.updNoc_mbx (s : State) (g : Noc → Noc) : (s.updNoc g).mbx = s.mbx := rfl
@[simp] theorem State.updNoc_wqViews (s : State) (g : Noc → Noc) : (s.updNoc g).wqViews = s.wqViews := rfl
@[simp] theorem State.updNoc_evqViews (s : State) (g : Noc → Noc) : (s.updNoc g).evqViews = s.evqViews := rfl
@[simp] theorem State.updNoc_pcieRds (s : State) (g : Noc → Noc) : (s.updNoc g).pcieRds = s.pcieRds := rfl
@[simp] theorem State.updNoc_freeCtr (s : State) (g : Noc → Noc) : (s.updNoc g).freeCtr = s.freeCtr := rfl
@[simp] theorem State.updNoc_out (s : State) (g : Noc → Noc) : (s.updNoc g).out = s.out := rfl
@[simp] theorem State.updNoc_pending (s : State) (g : Noc → Noc) : (s.updNoc g).pending = s.pending := rfl
@[simp] theorem State.updNoc_noc (s : State) (g : Noc → Noc) : (s.updNoc g).noc = g s.noc := rfl

/-! `State.updGrp` -/

@[simp] theorem State.updGrp_glb (s : State) (n : Nat) (g : Grp → Grp) : (s.updGrp n g).glb = s.glb := rfl
@[simp] theorem State.updGrp_plumb (s : State) (n : Nat) (g : Grp → Grp) : (s.updGrp n g).plumb = s.plumb := rfl
@[simp] theorem State.updGrp_regs (s : State) (n : Nat) (g : Grp → Grp) : (s.updGrp n g).regs = s.regs := rfl
@[simp] theorem State.updGrp_pages (s : State) (n : Nat) (g : Grp → Grp) : (s.updGrp n g).pages = s.pages := rfl
@[simp] theorem State.updGrp_halves (s : State) (n : Nat) (g : Grp → Grp) : (s.updGrp n g).halves = s.halves := rfl
@[simp] theorem State.updGrp_snaps (s : State) (n : Nat) (g : Grp → Grp) : (s.updGrp n g).snaps = s.snaps := rfl
@[simp] theorem State.updGrp_snap (s : State) (n : Nat) (g : Grp → Grp) : (s.updGrp n g).snap = s.snap := rfl
@[simp] theorem State.updGrp_recs (s : State) (n : Nat) (g : Grp → Grp) : (s.updGrp n g).recs = s.recs := rfl
@[simp] theorem State.updGrp_todo (s : State) (n : Nat) (g : Grp → Grp) : (s.updGrp n g).todo = s.todo := rfl
@[simp] theorem State.updGrp_hbm (s : State) (n : Nat) (g : Grp → Grp) : (s.updGrp n g).hbm = s.hbm := rfl
@[simp] theorem State.updGrp_stackTab (s : State) (n : Nat) (g : Grp → Grp) : (s.updGrp n g).stackTab = s.stackTab := rfl
@[simp] theorem State.updGrp_mem (s : State) (n : Nat) (g : Grp → Grp) : (s.updGrp n g).mem = s.mem := rfl
@[simp] theorem State.updGrp_xlt (s : State) (n : Nat) (g : Grp → Grp) : (s.updGrp n g).xlt = s.xlt := rfl
@[simp] theorem State.updGrp_noc (s : State) (n : Nat) (g : Grp → Grp) : (s.updGrp n g).noc = s.noc := rfl
@[simp] theorem State.updGrp_tileMem (s : State) (n : Nat) (g : Grp → Grp) : (s.updGrp n g).tileMem = s.tileMem := rfl
@[simp] theorem State.updGrp_tileFull (s : State) (n : Nat) (g : Grp → Grp) : (s.updGrp n g).tileFull = s.tileFull := rfl
@[simp] theorem State.updGrp_tilePoison (s : State) (n : Nat) (g : Grp → Grp) : (s.updGrp n g).tilePoison = s.tilePoison := rfl
@[simp] theorem State.updGrp_engs (s : State) (n : Nat) (g : Grp → Grp) : (s.updGrp n g).engs = s.engs := rfl
@[simp] theorem State.updGrp_ctxs (s : State) (n : Nat) (g : Grp → Grp) : (s.updGrp n g).ctxs = s.ctxs := rfl
@[simp] theorem State.updGrp_tiles (s : State) (n : Nat) (g : Grp → Grp) : (s.updGrp n g).tiles = s.tiles := rfl
@[simp] theorem State.updGrp_hlth (s : State) (n : Nat) (g : Grp → Grp) : (s.updGrp n g).hlth = s.hlth := rfl
@[simp] theorem State.updGrp_sched (s : State) (n : Nat) (g : Grp → Grp) : (s.updGrp n g).sched = s.sched := rfl
@[simp] theorem State.updGrp_reps (s : State) (n : Nat) (g : Grp → Grp) : (s.updGrp n g).reps = s.reps := rfl
@[simp] theorem State.updGrp_conns (s : State) (n : Nat) (g : Grp → Grp) : (s.updGrp n g).conns = s.conns := rfl
@[simp] theorem State.updGrp_msgId (s : State) (n : Nat) (g : Grp → Grp) : (s.updGrp n g).msgId = s.msgId := rfl
@[simp] theorem State.updGrp_psl (s : State) (n : Nat) (g : Grp → Grp) : (s.updGrp n g).psl = s.psl := rfl
@[simp] theorem State.updGrp_ports (s : State) (n : Nat) (g : Grp → Grp) : (s.updGrp n g).ports = s.ports := rfl
@[simp] theorem State.updGrp_cores (s : State) (n : Nat) (g : Grp → Grp) : (s.updGrp n g).cores = s.cores := rfl
@[simp] theorem State.updGrp_keySlots (s : State) (n : Nat) (g : Grp → Grp) : (s.updGrp n g).keySlots = s.keySlots := rfl
@[simp] theorem State.updGrp_boot (s : State) (n : Nat) (g : Grp → Grp) : (s.updGrp n g).boot = s.boot := rfl
@[simp] theorem State.updGrp_nv (s : State) (n : Nat) (g : Grp → Grp) : (s.updGrp n g).nv = s.nv := rfl
@[simp] theorem State.updGrp_pwr (s : State) (n : Nat) (g : Grp → Grp) : (s.updGrp n g).pwr = s.pwr := rfl
@[simp] theorem State.updGrp_thm (s : State) (n : Nat) (g : Grp → Grp) : (s.updGrp n g).thm = s.thm := rfl
@[simp] theorem State.updGrp_dust (s : State) (n : Nat) (g : Grp → Grp) : (s.updGrp n g).dust = s.dust := rfl
@[simp] theorem State.updGrp_dbgPort (s : State) (n : Nat) (g : Grp → Grp) : (s.updGrp n g).dbgPort = s.dbgPort := rfl
@[simp] theorem State.updGrp_flights (s : State) (n : Nat) (g : Grp → Grp) : (s.updGrp n g).flights = s.flights := rfl
@[simp] theorem State.updGrp_moeHub (s : State) (n : Nat) (g : Grp → Grp) : (s.updGrp n g).moeHub = s.moeHub := rfl
@[simp] theorem State.updGrp_fns (s : State) (n : Nat) (g : Grp → Grp) : (s.updGrp n g).fns = s.fns := rfl
@[simp] theorem State.updGrp_wqs (s : State) (n : Nat) (g : Grp → Grp) : (s.updGrp n g).wqs = s.wqs := rfl
@[simp] theorem State.updGrp_evqs (s : State) (n : Nat) (g : Grp → Grp) : (s.updGrp n g).evqs = s.evqs := rfl
@[simp] theorem State.updGrp_arb (s : State) (n : Nat) (g : Grp → Grp) : (s.updGrp n g).arb = s.arb := rfl
@[simp] theorem State.updGrp_mgmt (s : State) (n : Nat) (g : Grp → Grp) : (s.updGrp n g).mgmt = s.mgmt := rfl
@[simp] theorem State.updGrp_mbx (s : State) (n : Nat) (g : Grp → Grp) : (s.updGrp n g).mbx = s.mbx := rfl
@[simp] theorem State.updGrp_wqViews (s : State) (n : Nat) (g : Grp → Grp) : (s.updGrp n g).wqViews = s.wqViews := rfl
@[simp] theorem State.updGrp_evqViews (s : State) (n : Nat) (g : Grp → Grp) : (s.updGrp n g).evqViews = s.evqViews := rfl
@[simp] theorem State.updGrp_pcieRds (s : State) (n : Nat) (g : Grp → Grp) : (s.updGrp n g).pcieRds = s.pcieRds := rfl
@[simp] theorem State.updGrp_freeCtr (s : State) (n : Nat) (g : Grp → Grp) : (s.updGrp n g).freeCtr = s.freeCtr := rfl
@[simp] theorem State.updGrp_out (s : State) (n : Nat) (g : Grp → Grp) : (s.updGrp n g).out = s.out := rfl
@[simp] theorem State.updGrp_pending (s : State) (n : Nat) (g : Grp → Grp) : (s.updGrp n g).pending = s.pending := rfl

/-! `State.putCells` -/

@[simp] theorem State.putCells_glb (s : State) (k : Nat) (bs : List Byte) : (s.putCells k bs).glb = s.glb := rfl
@[simp] theorem State.putCells_plumb (s : State) (k : Nat) (bs : List Byte) : (s.putCells k bs).plumb = s.plumb := rfl
@[simp] theorem State.putCells_regs (s : State) (k : Nat) (bs : List Byte) : (s.putCells k bs).regs = s.regs := rfl
@[simp] theorem State.putCells_pages (s : State) (k : Nat) (bs : List Byte) : (s.putCells k bs).pages = s.pages := rfl
@[simp] theorem State.putCells_halves (s : State) (k : Nat) (bs : List Byte) : (s.putCells k bs).halves = s.halves := rfl
@[simp] theorem State.putCells_snaps (s : State) (k : Nat) (bs : List Byte) : (s.putCells k bs).snaps = s.snaps := rfl
@[simp] theorem State.putCells_snap (s : State) (k : Nat) (bs : List Byte) : (s.putCells k bs).snap = s.snap := rfl
@[simp] theorem State.putCells_recs (s : State) (k : Nat) (bs : List Byte) : (s.putCells k bs).recs = s.recs := rfl
@[simp] theorem State.putCells_todo (s : State) (k : Nat) (bs : List Byte) : (s.putCells k bs).todo = s.todo := rfl
@[simp] theorem State.putCells_stackTab (s : State) (k : Nat) (bs : List Byte) : (s.putCells k bs).stackTab = s.stackTab := rfl
@[simp] theorem State.putCells_mem (s : State) (k : Nat) (bs : List Byte) : (s.putCells k bs).mem = s.mem := rfl
@[simp] theorem State.putCells_xlt (s : State) (k : Nat) (bs : List Byte) : (s.putCells k bs).xlt = s.xlt := rfl
@[simp] theorem State.putCells_noc (s : State) (k : Nat) (bs : List Byte) : (s.putCells k bs).noc = s.noc := rfl
@[simp] theorem State.putCells_tileMem (s : State) (k : Nat) (bs : List Byte) : (s.putCells k bs).tileMem = s.tileMem := rfl
@[simp] theorem State.putCells_tileFull (s : State) (k : Nat) (bs : List Byte) : (s.putCells k bs).tileFull = s.tileFull := rfl
@[simp] theorem State.putCells_tilePoison (s : State) (k : Nat) (bs : List Byte) : (s.putCells k bs).tilePoison = s.tilePoison := rfl
@[simp] theorem State.putCells_engs (s : State) (k : Nat) (bs : List Byte) : (s.putCells k bs).engs = s.engs := rfl
@[simp] theorem State.putCells_ctxs (s : State) (k : Nat) (bs : List Byte) : (s.putCells k bs).ctxs = s.ctxs := rfl
@[simp] theorem State.putCells_tiles (s : State) (k : Nat) (bs : List Byte) : (s.putCells k bs).tiles = s.tiles := rfl
@[simp] theorem State.putCells_hlth (s : State) (k : Nat) (bs : List Byte) : (s.putCells k bs).hlth = s.hlth := rfl
@[simp] theorem State.putCells_sched (s : State) (k : Nat) (bs : List Byte) : (s.putCells k bs).sched = s.sched := rfl
@[simp] theorem State.putCells_reps (s : State) (k : Nat) (bs : List Byte) : (s.putCells k bs).reps = s.reps := rfl
@[simp] theorem State.putCells_conns (s : State) (k : Nat) (bs : List Byte) : (s.putCells k bs).conns = s.conns := rfl
@[simp] theorem State.putCells_msgId (s : State) (k : Nat) (bs : List Byte) : (s.putCells k bs).msgId = s.msgId := rfl
@[simp] theorem State.putCells_psl (s : State) (k : Nat) (bs : List Byte) : (s.putCells k bs).psl = s.psl := rfl
@[simp] theorem State.putCells_ports (s : State) (k : Nat) (bs : List Byte) : (s.putCells k bs).ports = s.ports := rfl
@[simp] theorem State.putCells_cores (s : State) (k : Nat) (bs : List Byte) : (s.putCells k bs).cores = s.cores := rfl
@[simp] theorem State.putCells_keySlots (s : State) (k : Nat) (bs : List Byte) : (s.putCells k bs).keySlots = s.keySlots := rfl
@[simp] theorem State.putCells_boot (s : State) (k : Nat) (bs : List Byte) : (s.putCells k bs).boot = s.boot := rfl
@[simp] theorem State.putCells_nv (s : State) (k : Nat) (bs : List Byte) : (s.putCells k bs).nv = s.nv := rfl
@[simp] theorem State.putCells_pwr (s : State) (k : Nat) (bs : List Byte) : (s.putCells k bs).pwr = s.pwr := rfl
@[simp] theorem State.putCells_thm (s : State) (k : Nat) (bs : List Byte) : (s.putCells k bs).thm = s.thm := rfl
@[simp] theorem State.putCells_dust (s : State) (k : Nat) (bs : List Byte) : (s.putCells k bs).dust = s.dust := rfl
@[simp] theorem State.putCells_dbgPort (s : State) (k : Nat) (bs : List Byte) : (s.putCells k bs).dbgPort = s.dbgPort := rfl
@[simp] theorem State.putCells_grps (s : State) (k : Nat) (bs : List Byte) : (s.putCells k bs).grps = s.grps := rfl
@[simp] theorem State.putCells_flights (s : State) (k : Nat) (bs : List Byte) : (s.putCells k bs).flights = s.flights := rfl
@[simp] theorem State.putCells_moeHub (s : State) (k : Nat) (bs : List Byte) : (s.putCells k bs).moeHub = s.moeHub := rfl
@[simp] theorem State.putCells_fns (s : State) (k : Nat) (bs : List Byte) : (s.putCells k bs).fns = s.fns := rfl
@[simp] theorem State.putCells_wqs (s : State) (k : Nat) (bs : List Byte) : (s.putCells k bs).wqs = s.wqs := rfl
@[simp] theorem State.putCells_evqs (s : State) (k : Nat) (bs : List Byte) : (s.putCells k bs).evqs = s.evqs := rfl
@[simp] theorem State.putCells_arb (s : State) (k : Nat) (bs : List Byte) : (s.putCells k bs).arb = s.arb := rfl
@[simp] theorem State.putCells_mgmt (s : State) (k : Nat) (bs : List Byte) : (s.putCells k bs).mgmt = s.mgmt := rfl
@[simp] theorem State.putCells_mbx (s : State) (k : Nat) (bs : List Byte) : (s.putCells k bs).mbx = s.mbx := rfl
@[simp] theorem State.putCells_wqViews (s : State) (k : Nat) (bs : List Byte) : (s.putCells k bs).wqViews = s.wqViews := rfl
@[simp] theorem State.putCells_evqViews (s : State) (k : Nat) (bs : List Byte) : (s.putCells k bs).evqViews = s.evqViews := rfl
@[simp] theorem State.putCells_pcieRds (s : State) (k : Nat) (bs : List Byte) : (s.putCells k bs).pcieRds = s.pcieRds := rfl
@[simp] theorem State.putCells_freeCtr (s : State) (k : Nat) (bs : List Byte) : (s.putCells k bs).freeCtr = s.freeCtr := rfl
@[simp] theorem State.putCells_out (s : State) (k : Nat) (bs : List Byte) : (s.putCells k bs).out = s.out := rfl
@[simp] theorem State.putCells_pending (s : State) (k : Nat) (bs : List Byte) : (s.putCells k bs).pending = s.pending := rfl

/-! `State.updStack` -/

@[simp] theorem State.updStack_glb (s : State) (m : Nat) (g : Stack → Stack) : (s.updStack m g).glb = s.glb := rfl
@[simp] theorem State.updStack_plumb (s : State) (m : Nat) (g : Stack → Stack) : (s.updStack m g).plumb = s.plumb := rfl
@[simp] theorem State.updStack_regs (s : State) (m : Nat) (g : Stack → Stack) : (s.updStack m g).regs = s.regs := rfl
@[simp] theorem State.updStack_pages (s : State) (m : Nat) (g : Stack → Stack) : (s.updStack m g).pages = s.pages := rfl
@[simp] theorem State.updStack_halves (s : State) (m : Nat) (g : Stack → Stack) : (s.updStack m g).halves = s.halves := rfl
@[simp] theorem State.updStack_snaps (s : State) (m : Nat) (g : Stack → Stack) : (s.updStack m g).snaps = s.snaps := rfl
@[simp] theorem State.updStack_snap (s : State) (m : Nat) (g : Stack → Stack) : (s.updStack m g).snap = s.snap := rfl
@[simp] theorem State.updStack_recs (s : State) (m : Nat) (g : Stack → Stack) : (s.updStack m g).recs = s.recs := rfl
@[simp] theorem State.updStack_todo (s : State) (m : Nat) (g : Stack → Stack) : (s.updStack m g).todo = s.todo := rfl
@[simp] theorem State.updStack_hbm (s : State) (m : Nat) (g : Stack → Stack) : (s.updStack m g).hbm = s.hbm := rfl
@[simp] theorem State.updStack_mem (s : State) (m : Nat) (g : Stack → Stack) : (s.updStack m g).mem = s.mem := rfl
@[simp] theorem State.updStack_xlt (s : State) (m : Nat) (g : Stack → Stack) : (s.updStack m g).xlt = s.xlt := rfl
@[simp] theorem State.updStack_noc (s : State) (m : Nat) (g : Stack → Stack) : (s.updStack m g).noc = s.noc := rfl
@[simp] theorem State.updStack_tileMem (s : State) (m : Nat) (g : Stack → Stack) : (s.updStack m g).tileMem = s.tileMem := rfl
@[simp] theorem State.updStack_tileFull (s : State) (m : Nat) (g : Stack → Stack) : (s.updStack m g).tileFull = s.tileFull := rfl
@[simp] theorem State.updStack_tilePoison (s : State) (m : Nat) (g : Stack → Stack) : (s.updStack m g).tilePoison = s.tilePoison := rfl
@[simp] theorem State.updStack_engs (s : State) (m : Nat) (g : Stack → Stack) : (s.updStack m g).engs = s.engs := rfl
@[simp] theorem State.updStack_ctxs (s : State) (m : Nat) (g : Stack → Stack) : (s.updStack m g).ctxs = s.ctxs := rfl
@[simp] theorem State.updStack_tiles (s : State) (m : Nat) (g : Stack → Stack) : (s.updStack m g).tiles = s.tiles := rfl
@[simp] theorem State.updStack_hlth (s : State) (m : Nat) (g : Stack → Stack) : (s.updStack m g).hlth = s.hlth := rfl
@[simp] theorem State.updStack_sched (s : State) (m : Nat) (g : Stack → Stack) : (s.updStack m g).sched = s.sched := rfl
@[simp] theorem State.updStack_reps (s : State) (m : Nat) (g : Stack → Stack) : (s.updStack m g).reps = s.reps := rfl
@[simp] theorem State.updStack_conns (s : State) (m : Nat) (g : Stack → Stack) : (s.updStack m g).conns = s.conns := rfl
@[simp] theorem State.updStack_msgId (s : State) (m : Nat) (g : Stack → Stack) : (s.updStack m g).msgId = s.msgId := rfl
@[simp] theorem State.updStack_psl (s : State) (m : Nat) (g : Stack → Stack) : (s.updStack m g).psl = s.psl := rfl
@[simp] theorem State.updStack_ports (s : State) (m : Nat) (g : Stack → Stack) : (s.updStack m g).ports = s.ports := rfl
@[simp] theorem State.updStack_cores (s : State) (m : Nat) (g : Stack → Stack) : (s.updStack m g).cores = s.cores := rfl
@[simp] theorem State.updStack_keySlots (s : State) (m : Nat) (g : Stack → Stack) : (s.updStack m g).keySlots = s.keySlots := rfl
@[simp] theorem State.updStack_boot (s : State) (m : Nat) (g : Stack → Stack) : (s.updStack m g).boot = s.boot := rfl
@[simp] theorem State.updStack_nv (s : State) (m : Nat) (g : Stack → Stack) : (s.updStack m g).nv = s.nv := rfl
@[simp] theorem State.updStack_pwr (s : State) (m : Nat) (g : Stack → Stack) : (s.updStack m g).pwr = s.pwr := rfl
@[simp] theorem State.updStack_thm (s : State) (m : Nat) (g : Stack → Stack) : (s.updStack m g).thm = s.thm := rfl
@[simp] theorem State.updStack_dust (s : State) (m : Nat) (g : Stack → Stack) : (s.updStack m g).dust = s.dust := rfl
@[simp] theorem State.updStack_dbgPort (s : State) (m : Nat) (g : Stack → Stack) : (s.updStack m g).dbgPort = s.dbgPort := rfl
@[simp] theorem State.updStack_grps (s : State) (m : Nat) (g : Stack → Stack) : (s.updStack m g).grps = s.grps := rfl
@[simp] theorem State.updStack_flights (s : State) (m : Nat) (g : Stack → Stack) : (s.updStack m g).flights = s.flights := rfl
@[simp] theorem State.updStack_moeHub (s : State) (m : Nat) (g : Stack → Stack) : (s.updStack m g).moeHub = s.moeHub := rfl
@[simp] theorem State.updStack_fns (s : State) (m : Nat) (g : Stack → Stack) : (s.updStack m g).fns = s.fns := rfl
@[simp] theorem State.updStack_wqs (s : State) (m : Nat) (g : Stack → Stack) : (s.updStack m g).wqs = s.wqs := rfl
@[simp] theorem State.updStack_evqs (s : State) (m : Nat) (g : Stack → Stack) : (s.updStack m g).evqs = s.evqs := rfl
@[simp] theorem State.updStack_arb (s : State) (m : Nat) (g : Stack → Stack) : (s.updStack m g).arb = s.arb := rfl
@[simp] theorem State.updStack_mgmt (s : State) (m : Nat) (g : Stack → Stack) : (s.updStack m g).mgmt = s.mgmt := rfl
@[simp] theorem State.updStack_mbx (s : State) (m : Nat) (g : Stack → Stack) : (s.updStack m g).mbx = s.mbx := rfl
@[simp] theorem State.updStack_wqViews (s : State) (m : Nat) (g : Stack → Stack) : (s.updStack m g).wqViews = s.wqViews := rfl
@[simp] theorem State.updStack_evqViews (s : State) (m : Nat) (g : Stack → Stack) : (s.updStack m g).evqViews = s.evqViews := rfl
@[simp] theorem State.updStack_pcieRds (s : State) (m : Nat) (g : Stack → Stack) : (s.updStack m g).pcieRds = s.pcieRds := rfl
@[simp] theorem State.updStack_freeCtr (s : State) (m : Nat) (g : Stack → Stack) : (s.updStack m g).freeCtr = s.freeCtr := rfl
@[simp] theorem State.updStack_out (s : State) (m : Nat) (g : Stack → Stack) : (s.updStack m g).out = s.out := rfl
@[simp] theorem State.updStack_pending (s : State) (m : Nat) (g : Stack → Stack) : (s.updStack m g).pending = s.pending := rfl

/-! `State.updTile` -/

@[simp] theorem State.updTile_glb (s : State) (t : Nat) (g : Tile → Tile) : (s.updTile t g).glb = s.glb := rfl
@[simp] theorem State.updTile_plumb (s : State) (t : Nat) (g : Tile → Tile) : (s.updTile t g).plumb = s.plumb := rfl
@[simp] theorem State.updTile_regs (s : State) (t : Nat) (g : Tile → Tile) : (s.updTile t g).regs = s.regs := rfl
@[simp] theorem State.updTile_pages (s : State) (t : Nat) (g : Tile → Tile) : (s.updTile t g).pages = s.pages := rfl
@[simp] theorem State.updTile_halves (s : State) (t : Nat) (g : Tile → Tile) : (s.updTile t g).halves = s.halves := rfl
@[simp] theorem State.updTile_snaps (s : State) (t : Nat) (g : Tile → Tile) : (s.updTile t g).snaps = s.snaps := rfl
@[simp] theorem State.updTile_snap (s : State) (t : Nat) (g : Tile → Tile) : (s.updTile t g).snap = s.snap := rfl
@[simp] theorem State.updTile_recs (s : State) (t : Nat) (g : Tile → Tile) : (s.updTile t g).recs = s.recs := rfl
@[simp] theorem State.updTile_todo (s : State) (t : Nat) (g : Tile → Tile) : (s.updTile t g).todo = s.todo := rfl
@[simp] theorem State.updTile_hbm (s : State) (t : Nat) (g : Tile → Tile) : (s.updTile t g).hbm = s.hbm := rfl
@[simp] theorem State.updTile_stackTab (s : State) (t : Nat) (g : Tile → Tile) : (s.updTile t g).stackTab = s.stackTab := rfl
@[simp] theorem State.updTile_mem (s : State) (t : Nat) (g : Tile → Tile) : (s.updTile t g).mem = s.mem := rfl
@[simp] theorem State.updTile_xlt (s : State) (t : Nat) (g : Tile → Tile) : (s.updTile t g).xlt = s.xlt := rfl
@[simp] theorem State.updTile_noc (s : State) (t : Nat) (g : Tile → Tile) : (s.updTile t g).noc = s.noc := rfl
@[simp] theorem State.updTile_tileMem (s : State) (t : Nat) (g : Tile → Tile) : (s.updTile t g).tileMem = s.tileMem := rfl
@[simp] theorem State.updTile_tileFull (s : State) (t : Nat) (g : Tile → Tile) : (s.updTile t g).tileFull = s.tileFull := rfl
@[simp] theorem State.updTile_tilePoison (s : State) (t : Nat) (g : Tile → Tile) : (s.updTile t g).tilePoison = s.tilePoison := rfl
@[simp] theorem State.updTile_engs (s : State) (t : Nat) (g : Tile → Tile) : (s.updTile t g).engs = s.engs := rfl
@[simp] theorem State.updTile_ctxs (s : State) (t : Nat) (g : Tile → Tile) : (s.updTile t g).ctxs = s.ctxs := rfl
@[simp] theorem State.updTile_hlth (s : State) (t : Nat) (g : Tile → Tile) : (s.updTile t g).hlth = s.hlth := rfl
@[simp] theorem State.updTile_sched (s : State) (t : Nat) (g : Tile → Tile) : (s.updTile t g).sched = s.sched := rfl
@[simp] theorem State.updTile_reps (s : State) (t : Nat) (g : Tile → Tile) : (s.updTile t g).reps = s.reps := rfl
@[simp] theorem State.updTile_conns (s : State) (t : Nat) (g : Tile → Tile) : (s.updTile t g).conns = s.conns := rfl
@[simp] theorem State.updTile_msgId (s : State) (t : Nat) (g : Tile → Tile) : (s.updTile t g).msgId = s.msgId := rfl
@[simp] theorem State.updTile_psl (s : State) (t : Nat) (g : Tile → Tile) : (s.updTile t g).psl = s.psl := rfl
@[simp] theorem State.updTile_ports (s : State) (t : Nat) (g : Tile → Tile) : (s.updTile t g).ports = s.ports := rfl
@[simp] theorem State.updTile_cores (s : State) (t : Nat) (g : Tile → Tile) : (s.updTile t g).cores = s.cores := rfl
@[simp] theorem State.updTile_keySlots (s : State) (t : Nat) (g : Tile → Tile) : (s.updTile t g).keySlots = s.keySlots := rfl
@[simp] theorem State.updTile_boot (s : State) (t : Nat) (g : Tile → Tile) : (s.updTile t g).boot = s.boot := rfl
@[simp] theorem State.updTile_nv (s : State) (t : Nat) (g : Tile → Tile) : (s.updTile t g).nv = s.nv := rfl
@[simp] theorem State.updTile_pwr (s : State) (t : Nat) (g : Tile → Tile) : (s.updTile t g).pwr = s.pwr := rfl
@[simp] theorem State.updTile_thm (s : State) (t : Nat) (g : Tile → Tile) : (s.updTile t g).thm = s.thm := rfl
@[simp] theorem State.updTile_dust (s : State) (t : Nat) (g : Tile → Tile) : (s.updTile t g).dust = s.dust := rfl
@[simp] theorem State.updTile_dbgPort (s : State) (t : Nat) (g : Tile → Tile) : (s.updTile t g).dbgPort = s.dbgPort := rfl
@[simp] theorem State.updTile_grps (s : State) (t : Nat) (g : Tile → Tile) : (s.updTile t g).grps = s.grps := rfl
@[simp] theorem State.updTile_flights (s : State) (t : Nat) (g : Tile → Tile) : (s.updTile t g).flights = s.flights := rfl
@[simp] theorem State.updTile_moeHub (s : State) (t : Nat) (g : Tile → Tile) : (s.updTile t g).moeHub = s.moeHub := rfl
@[simp] theorem State.updTile_fns (s : State) (t : Nat) (g : Tile → Tile) : (s.updTile t g).fns = s.fns := rfl
@[simp] theorem State.updTile_wqs (s : State) (t : Nat) (g : Tile → Tile) : (s.updTile t g).wqs = s.wqs := rfl
@[simp] theorem State.updTile_evqs (s : State) (t : Nat) (g : Tile → Tile) : (s.updTile t g).evqs = s.evqs := rfl
@[simp] theorem State.updTile_arb (s : State) (t : Nat) (g : Tile → Tile) : (s.updTile t g).arb = s.arb := rfl
@[simp] theorem State.updTile_mgmt (s : State) (t : Nat) (g : Tile → Tile) : (s.updTile t g).mgmt = s.mgmt := rfl
@[simp] theorem State.updTile_mbx (s : State) (t : Nat) (g : Tile → Tile) : (s.updTile t g).mbx = s.mbx := rfl
@[simp] theorem State.updTile_wqViews (s : State) (t : Nat) (g : Tile → Tile) : (s.updTile t g).wqViews = s.wqViews := rfl
@[simp] theorem State.updTile_evqViews (s : State) (t : Nat) (g : Tile → Tile) : (s.updTile t g).evqViews = s.evqViews := rfl
@[simp] theorem State.updTile_pcieRds (s : State) (t : Nat) (g : Tile → Tile) : (s.updTile t g).pcieRds = s.pcieRds := rfl
@[simp] theorem State.updTile_freeCtr (s : State) (t : Nat) (g : Tile → Tile) : (s.updTile t g).freeCtr = s.freeCtr := rfl
@[simp] theorem State.updTile_out (s : State) (t : Nat) (g : Tile → Tile) : (s.updTile t g).out = s.out := rfl
@[simp] theorem State.updTile_pending (s : State) (t : Nat) (g : Tile → Tile) : (s.updTile t g).pending = s.pending := rfl

/-! `State.updBox` -/

@[simp] theorem State.updBox_glb (s : State) (b : Nat) (g : Mbx → Mbx) : (s.updBox b g).glb = s.glb := rfl
@[simp] theorem State.updBox_plumb (s : State) (b : Nat) (g : Mbx → Mbx) : (s.updBox b g).plumb = s.plumb := rfl
@[simp] theorem State.updBox_regs (s : State) (b : Nat) (g : Mbx → Mbx) : (s.updBox b g).regs = s.regs := rfl
@[simp] theorem State.updBox_pages (s : State) (b : Nat) (g : Mbx → Mbx) : (s.updBox b g).pages = s.pages := rfl
@[simp] theorem State.updBox_halves (s : State) (b : Nat) (g : Mbx → Mbx) : (s.updBox b g).halves = s.halves := rfl
@[simp] theorem State.updBox_snaps (s : State) (b : Nat) (g : Mbx → Mbx) : (s.updBox b g).snaps = s.snaps := rfl
@[simp] theorem State.updBox_snap (s : State) (b : Nat) (g : Mbx → Mbx) : (s.updBox b g).snap = s.snap := rfl
@[simp] theorem State.updBox_recs (s : State) (b : Nat) (g : Mbx → Mbx) : (s.updBox b g).recs = s.recs := rfl
@[simp] theorem State.updBox_todo (s : State) (b : Nat) (g : Mbx → Mbx) : (s.updBox b g).todo = s.todo := rfl
@[simp] theorem State.updBox_hbm (s : State) (b : Nat) (g : Mbx → Mbx) : (s.updBox b g).hbm = s.hbm := rfl
@[simp] theorem State.updBox_stackTab (s : State) (b : Nat) (g : Mbx → Mbx) : (s.updBox b g).stackTab = s.stackTab := rfl
@[simp] theorem State.updBox_mem (s : State) (b : Nat) (g : Mbx → Mbx) : (s.updBox b g).mem = s.mem := rfl
@[simp] theorem State.updBox_xlt (s : State) (b : Nat) (g : Mbx → Mbx) : (s.updBox b g).xlt = s.xlt := rfl
@[simp] theorem State.updBox_noc (s : State) (b : Nat) (g : Mbx → Mbx) : (s.updBox b g).noc = s.noc := rfl
@[simp] theorem State.updBox_tileMem (s : State) (b : Nat) (g : Mbx → Mbx) : (s.updBox b g).tileMem = s.tileMem := rfl
@[simp] theorem State.updBox_tileFull (s : State) (b : Nat) (g : Mbx → Mbx) : (s.updBox b g).tileFull = s.tileFull := rfl
@[simp] theorem State.updBox_tilePoison (s : State) (b : Nat) (g : Mbx → Mbx) : (s.updBox b g).tilePoison = s.tilePoison := rfl
@[simp] theorem State.updBox_engs (s : State) (b : Nat) (g : Mbx → Mbx) : (s.updBox b g).engs = s.engs := rfl
@[simp] theorem State.updBox_ctxs (s : State) (b : Nat) (g : Mbx → Mbx) : (s.updBox b g).ctxs = s.ctxs := rfl
@[simp] theorem State.updBox_tiles (s : State) (b : Nat) (g : Mbx → Mbx) : (s.updBox b g).tiles = s.tiles := rfl
@[simp] theorem State.updBox_hlth (s : State) (b : Nat) (g : Mbx → Mbx) : (s.updBox b g).hlth = s.hlth := rfl
@[simp] theorem State.updBox_sched (s : State) (b : Nat) (g : Mbx → Mbx) : (s.updBox b g).sched = s.sched := rfl
@[simp] theorem State.updBox_reps (s : State) (b : Nat) (g : Mbx → Mbx) : (s.updBox b g).reps = s.reps := rfl
@[simp] theorem State.updBox_conns (s : State) (b : Nat) (g : Mbx → Mbx) : (s.updBox b g).conns = s.conns := rfl
@[simp] theorem State.updBox_msgId (s : State) (b : Nat) (g : Mbx → Mbx) : (s.updBox b g).msgId = s.msgId := rfl
@[simp] theorem State.updBox_psl (s : State) (b : Nat) (g : Mbx → Mbx) : (s.updBox b g).psl = s.psl := rfl
@[simp] theorem State.updBox_ports (s : State) (b : Nat) (g : Mbx → Mbx) : (s.updBox b g).ports = s.ports := rfl
@[simp] theorem State.updBox_cores (s : State) (b : Nat) (g : Mbx → Mbx) : (s.updBox b g).cores = s.cores := rfl
@[simp] theorem State.updBox_keySlots (s : State) (b : Nat) (g : Mbx → Mbx) : (s.updBox b g).keySlots = s.keySlots := rfl
@[simp] theorem State.updBox_boot (s : State) (b : Nat) (g : Mbx → Mbx) : (s.updBox b g).boot = s.boot := rfl
@[simp] theorem State.updBox_nv (s : State) (b : Nat) (g : Mbx → Mbx) : (s.updBox b g).nv = s.nv := rfl
@[simp] theorem State.updBox_pwr (s : State) (b : Nat) (g : Mbx → Mbx) : (s.updBox b g).pwr = s.pwr := rfl
@[simp] theorem State.updBox_thm (s : State) (b : Nat) (g : Mbx → Mbx) : (s.updBox b g).thm = s.thm := rfl
@[simp] theorem State.updBox_dust (s : State) (b : Nat) (g : Mbx → Mbx) : (s.updBox b g).dust = s.dust := rfl
@[simp] theorem State.updBox_dbgPort (s : State) (b : Nat) (g : Mbx → Mbx) : (s.updBox b g).dbgPort = s.dbgPort := rfl
@[simp] theorem State.updBox_grps (s : State) (b : Nat) (g : Mbx → Mbx) : (s.updBox b g).grps = s.grps := rfl
@[simp] theorem State.updBox_flights (s : State) (b : Nat) (g : Mbx → Mbx) : (s.updBox b g).flights = s.flights := rfl
@[simp] theorem State.updBox_moeHub (s : State) (b : Nat) (g : Mbx → Mbx) : (s.updBox b g).moeHub = s.moeHub := rfl
@[simp] theorem State.updBox_fns (s : State) (b : Nat) (g : Mbx → Mbx) : (s.updBox b g).fns = s.fns := rfl
@[simp] theorem State.updBox_wqs (s : State) (b : Nat) (g : Mbx → Mbx) : (s.updBox b g).wqs = s.wqs := rfl
@[simp] theorem State.updBox_evqs (s : State) (b : Nat) (g : Mbx → Mbx) : (s.updBox b g).evqs = s.evqs := rfl
@[simp] theorem State.updBox_arb (s : State) (b : Nat) (g : Mbx → Mbx) : (s.updBox b g).arb = s.arb := rfl
@[simp] theorem State.updBox_mgmt (s : State) (b : Nat) (g : Mbx → Mbx) : (s.updBox b g).mgmt = s.mgmt := rfl
@[simp] theorem State.updBox_wqViews (s : State) (b : Nat) (g : Mbx → Mbx) : (s.updBox b g).wqViews = s.wqViews := rfl
@[simp] theorem State.updBox_evqViews (s : State) (b : Nat) (g : Mbx → Mbx) : (s.updBox b g).evqViews = s.evqViews := rfl
@[simp] theorem State.updBox_pcieRds (s : State) (b : Nat) (g : Mbx → Mbx) : (s.updBox b g).pcieRds = s.pcieRds := rfl
@[simp] theorem State.updBox_freeCtr (s : State) (b : Nat) (g : Mbx → Mbx) : (s.updBox b g).freeCtr = s.freeCtr := rfl
@[simp] theorem State.updBox_out (s : State) (b : Nat) (g : Mbx → Mbx) : (s.updBox b g).out = s.out := rfl
@[simp] theorem State.updBox_pending (s : State) (b : Nat) (g : Mbx → Mbx) : (s.updBox b g).pending = s.pending := rfl

/-! `State.updMgmt` -/

@[simp] theorem State.updMgmt_glb (s : State) (g : Mgmt → Mgmt) : (s.updMgmt g).glb = s.glb := rfl
@[simp] theorem State.updMgmt_plumb (s : State) (g : Mgmt → Mgmt) : (s.updMgmt g).plumb = s.plumb := rfl
@[simp] theorem State.updMgmt_regs (s : State) (g : Mgmt → Mgmt) : (s.updMgmt g).regs = s.regs := rfl
@[simp] theorem State.updMgmt_pages (s : State) (g : Mgmt → Mgmt) : (s.updMgmt g).pages = s.pages := rfl
@[simp] theorem State.updMgmt_halves (s : State) (g : Mgmt → Mgmt) : (s.updMgmt g).halves = s.halves := rfl
@[simp] theorem State.updMgmt_snaps (s : State) (g : Mgmt → Mgmt) : (s.updMgmt g).snaps = s.snaps := rfl
@[simp] theorem State.updMgmt_snap (s : State) (g : Mgmt → Mgmt) : (s.updMgmt g).snap = s.snap := rfl
@[simp] theorem State.updMgmt_recs (s : State) (g : Mgmt → Mgmt) : (s.updMgmt g).recs = s.recs := rfl
@[simp] theorem State.updMgmt_todo (s : State) (g : Mgmt → Mgmt) : (s.updMgmt g).todo = s.todo := rfl
@[simp] theorem State.updMgmt_hbm (s : State) (g : Mgmt → Mgmt) : (s.updMgmt g).hbm = s.hbm := rfl
@[simp] theorem State.updMgmt_stackTab (s : State) (g : Mgmt → Mgmt) : (s.updMgmt g).stackTab = s.stackTab := rfl
@[simp] theorem State.updMgmt_mem (s : State) (g : Mgmt → Mgmt) : (s.updMgmt g).mem = s.mem := rfl
@[simp] theorem State.updMgmt_xlt (s : State) (g : Mgmt → Mgmt) : (s.updMgmt g).xlt = s.xlt := rfl
@[simp] theorem State.updMgmt_noc (s : State) (g : Mgmt → Mgmt) : (s.updMgmt g).noc = s.noc := rfl
@[simp] theorem State.updMgmt_tileMem (s : State) (g : Mgmt → Mgmt) : (s.updMgmt g).tileMem = s.tileMem := rfl
@[simp] theorem State.updMgmt_tileFull (s : State) (g : Mgmt → Mgmt) : (s.updMgmt g).tileFull = s.tileFull := rfl
@[simp] theorem State.updMgmt_tilePoison (s : State) (g : Mgmt → Mgmt) : (s.updMgmt g).tilePoison = s.tilePoison := rfl
@[simp] theorem State.updMgmt_engs (s : State) (g : Mgmt → Mgmt) : (s.updMgmt g).engs = s.engs := rfl
@[simp] theorem State.updMgmt_ctxs (s : State) (g : Mgmt → Mgmt) : (s.updMgmt g).ctxs = s.ctxs := rfl
@[simp] theorem State.updMgmt_tiles (s : State) (g : Mgmt → Mgmt) : (s.updMgmt g).tiles = s.tiles := rfl
@[simp] theorem State.updMgmt_hlth (s : State) (g : Mgmt → Mgmt) : (s.updMgmt g).hlth = s.hlth := rfl
@[simp] theorem State.updMgmt_sched (s : State) (g : Mgmt → Mgmt) : (s.updMgmt g).sched = s.sched := rfl
@[simp] theorem State.updMgmt_reps (s : State) (g : Mgmt → Mgmt) : (s.updMgmt g).reps = s.reps := rfl
@[simp] theorem State.updMgmt_conns (s : State) (g : Mgmt → Mgmt) : (s.updMgmt g).conns = s.conns := rfl
@[simp] theorem State.updMgmt_msgId (s : State) (g : Mgmt → Mgmt) : (s.updMgmt g).msgId = s.msgId := rfl
@[simp] theorem State.updMgmt_psl (s : State) (g : Mgmt → Mgmt) : (s.updMgmt g).psl = s.psl := rfl
@[simp] theorem State.updMgmt_ports (s : State) (g : Mgmt → Mgmt) : (s.updMgmt g).ports = s.ports := rfl
@[simp] theorem State.updMgmt_cores (s : State) (g : Mgmt → Mgmt) : (s.updMgmt g).cores = s.cores := rfl
@[simp] theorem State.updMgmt_keySlots (s : State) (g : Mgmt → Mgmt) : (s.updMgmt g).keySlots = s.keySlots := rfl
@[simp] theorem State.updMgmt_boot (s : State) (g : Mgmt → Mgmt) : (s.updMgmt g).boot = s.boot := rfl
@[simp] theorem State.updMgmt_nv (s : State) (g : Mgmt → Mgmt) : (s.updMgmt g).nv = s.nv := rfl
@[simp] theorem State.updMgmt_pwr (s : State) (g : Mgmt → Mgmt) : (s.updMgmt g).pwr = s.pwr := rfl
@[simp] theorem State.updMgmt_thm (s : State) (g : Mgmt → Mgmt) : (s.updMgmt g).thm = s.thm := rfl
@[simp] theorem State.updMgmt_dust (s : State) (g : Mgmt → Mgmt) : (s.updMgmt g).dust = s.dust := rfl
@[simp] theorem State.updMgmt_dbgPort (s : State) (g : Mgmt → Mgmt) : (s.updMgmt g).dbgPort = s.dbgPort := rfl
@[simp] theorem State.updMgmt_grps (s : State) (g : Mgmt → Mgmt) : (s.updMgmt g).grps = s.grps := rfl
@[simp] theorem State.updMgmt_flights (s : State) (g : Mgmt → Mgmt) : (s.updMgmt g).flights = s.flights := rfl
@[simp] theorem State.updMgmt_moeHub (s : State) (g : Mgmt → Mgmt) : (s.updMgmt g).moeHub = s.moeHub := rfl
@[simp] theorem State.updMgmt_fns (s : State) (g : Mgmt → Mgmt) : (s.updMgmt g).fns = s.fns := rfl
@[simp] theorem State.updMgmt_wqs (s : State) (g : Mgmt → Mgmt) : (s.updMgmt g).wqs = s.wqs := rfl
@[simp] theorem State.updMgmt_evqs (s : State) (g : Mgmt → Mgmt) : (s.updMgmt g).evqs = s.evqs := rfl
@[simp] theorem State.updMgmt_arb (s : State) (g : Mgmt → Mgmt) : (s.updMgmt g).arb = s.arb := rfl
@[simp] theorem State.updMgmt_mbx (s : State) (g : Mgmt → Mgmt) : (s.updMgmt g).mbx = s.mbx := rfl
@[simp] theorem State.updMgmt_wqViews (s : State) (g : Mgmt → Mgmt) : (s.updMgmt g).wqViews = s.wqViews := rfl
@[simp] theorem State.updMgmt_evqViews (s : State) (g : Mgmt → Mgmt) : (s.updMgmt g).evqViews = s.evqViews := rfl
@[simp] theorem State.updMgmt_pcieRds (s : State) (g : Mgmt → Mgmt) : (s.updMgmt g).pcieRds = s.pcieRds := rfl
@[simp] theorem State.updMgmt_freeCtr (s : State) (g : Mgmt → Mgmt) : (s.updMgmt g).freeCtr = s.freeCtr := rfl
@[simp] theorem State.updMgmt_out (s : State) (g : Mgmt → Mgmt) : (s.updMgmt g).out = s.out := rfl
@[simp] theorem State.updMgmt_pending (s : State) (g : Mgmt → Mgmt) : (s.updMgmt g).pending = s.pending := rfl
@[simp] theorem State.updMgmt_mgmt (s : State) (g : Mgmt → Mgmt) : (s.updMgmt g).mgmt = g s.mgmt := rfl

/-! `State.setReg` -/

@[simp] theorem State.setReg_glb (s : State) (a v : Nat) : (s.setReg a v).glb = s.glb := rfl
@[simp] theorem State.setReg_plumb (s : State) (a v : Nat) : (s.setReg a v).plumb = s.plumb := rfl
@[simp] theorem State.setReg_pages (s : State) (a v : Nat) : (s.setReg a v).pages = s.pages := rfl
@[simp] theorem State.setReg_halves (s : State) (a v : Nat) : (s.setReg a v).halves = s.halves := rfl
@[simp] theorem State.setReg_snaps (s : State) (a v : Nat) : (s.setReg a v).snaps = s.snaps := rfl
@[simp] theorem State.setReg_snap (s : State) (a v : Nat) : (s.setReg a v).snap = s.snap := rfl
@[simp] theorem State.setReg_recs (s : State) (a v : Nat) : (s.setReg a v).recs = s.recs := rfl
@[simp] theorem State.setReg_todo (s : State) (a v : Nat) : (s.setReg a v).todo = s.todo := rfl
@[simp] theorem State.setReg_hbm (s : State) (a v : Nat) : (s.setReg a v).hbm = s.hbm := rfl
@[simp] theorem State.setReg_stackTab (s : State) (a v : Nat) : (s.setReg a v).stackTab = s.stackTab := rfl
@[simp] theorem State.setReg_mem (s : State) (a v : Nat) : (s.setReg a v).mem = s.mem := rfl
@[simp] theorem State.setReg_xlt (s : State) (a v : Nat) : (s.setReg a v).xlt = s.xlt := rfl
@[simp] theorem State.setReg_noc (s : State) (a v : Nat) : (s.setReg a v).noc = s.noc := rfl
@[simp] theorem State.setReg_tileMem (s : State) (a v : Nat) : (s.setReg a v).tileMem = s.tileMem := rfl
@[simp] theorem State.setReg_tileFull (s : State) (a v : Nat) : (s.setReg a v).tileFull = s.tileFull := rfl
@[simp] theorem State.setReg_tilePoison (s : State) (a v : Nat) : (s.setReg a v).tilePoison = s.tilePoison := rfl
@[simp] theorem State.setReg_engs (s : State) (a v : Nat) : (s.setReg a v).engs = s.engs := rfl
@[simp] theorem State.setReg_ctxs (s : State) (a v : Nat) : (s.setReg a v).ctxs = s.ctxs := rfl
@[simp] theorem State.setReg_tiles (s : State) (a v : Nat) : (s.setReg a v).tiles = s.tiles := rfl
@[simp] theorem State.setReg_hlth (s : State) (a v : Nat) : (s.setReg a v).hlth = s.hlth := rfl
@[simp] theorem State.setReg_sched (s : State) (a v : Nat) : (s.setReg a v).sched = s.sched := rfl
@[simp] theorem State.setReg_reps (s : State) (a v : Nat) : (s.setReg a v).reps = s.reps := rfl
@[simp] theorem State.setReg_conns (s : State) (a v : Nat) : (s.setReg a v).conns = s.conns := rfl
@[simp] theorem State.setReg_msgId (s : State) (a v : Nat) : (s.setReg a v).msgId = s.msgId := rfl
@[simp] theorem State.setReg_psl (s : State) (a v : Nat) : (s.setReg a v).psl = s.psl := rfl
@[simp] theorem State.setReg_ports (s : State) (a v : Nat) : (s.setReg a v).ports = s.ports := rfl
@[simp] theorem State.setReg_cores (s : State) (a v : Nat) : (s.setReg a v).cores = s.cores := rfl
@[simp] theorem State.setReg_keySlots (s : State) (a v : Nat) : (s.setReg a v).keySlots = s.keySlots := rfl
@[simp] theorem State.setReg_boot (s : State) (a v : Nat) : (s.setReg a v).boot = s.boot := rfl
@[simp] theorem State.setReg_nv (s : State) (a v : Nat) : (s.setReg a v).nv = s.nv := rfl
@[simp] theorem State.setReg_pwr (s : State) (a v : Nat) : (s.setReg a v).pwr = s.pwr := rfl
@[simp] theorem State.setReg_thm (s : State) (a v : Nat) : (s.setReg a v).thm = s.thm := rfl
@[simp] theorem State.setReg_dust (s : State) (a v : Nat) : (s.setReg a v).dust = s.dust := rfl
@[simp] theorem State.setReg_dbgPort (s : State) (a v : Nat) : (s.setReg a v).dbgPort = s.dbgPort := rfl
@[simp] theorem State.setReg_grps (s : State) (a v : Nat) : (s.setReg a v).grps = s.grps := rfl
@[simp] theorem State.setReg_flights (s : State) (a v : Nat) : (s.setReg a v).flights = s.flights := rfl
@[simp] theorem State.setReg_moeHub (s : State) (a v : Nat) : (s.setReg a v).moeHub = s.moeHub := rfl
@[simp] theorem State.setReg_fns (s : State) (a v : Nat) : (s.setReg a v).fns = s.fns := rfl
@[simp] theorem State.setReg_wqs (s : State) (a v : Nat) : (s.setReg a v).wqs = s.wqs := rfl
@[simp] theorem State.setReg_evqs (s : State) (a v : Nat) : (s.setReg a v).evqs = s.evqs := rfl
@[simp] theorem State.setReg_arb (s : State) (a v : Nat) : (s.setReg a v).arb = s.arb := rfl
@[simp] theorem State.setReg_mgmt (s : State) (a v : Nat) : (s.setReg a v).mgmt = s.mgmt := rfl
@[simp] theorem State.setReg_mbx (s : State) (a v : Nat) : (s.setReg a v).mbx = s.mbx := rfl
@[simp] theorem State.setReg_wqViews (s : State) (a v : Nat) : (s.setReg a v).wqViews = s.wqViews := rfl
@[simp] theorem State.setReg_evqViews (s : State) (a v : Nat) : (s.setReg a v).evqViews = s.evqViews := rfl
@[simp] theorem State.setReg_pcieRds (s : State) (a v : Nat) : (s.setReg a v).pcieRds = s.pcieRds := rfl
@[simp] theorem State.setReg_freeCtr (s : State) (a v : Nat) : (s.setReg a v).freeCtr = s.freeCtr := rfl
@[simp] theorem State.setReg_out (s : State) (a v : Nat) : (s.setReg a v).out = s.out := rfl
@[simp] theorem State.setReg_pending (s : State) (a v : Nat) : (s.setReg a v).pending = s.pending := rfl

/-! `State.updPage` -/

@[simp] theorem State.updPage_glb (s : State) (pg : Nat) (g : Page → Page) : (s.updPage pg g).glb = s.glb := rfl
@[simp] theorem State.updPage_plumb (s : State) (pg : Nat) (g : Page → Page) : (s.updPage pg g).plumb = s.plumb := rfl
@[simp] theorem State.updPage_regs (s : State) (pg : Nat) (g : Page → Page) : (s.updPage pg g).regs = s.regs := rfl
@[simp] theorem State.updPage_halves (s : State) (pg : Nat) (g : Page → Page) : (s.updPage pg g).halves = s.halves := rfl
@[simp] theorem State.updPage_snaps (s : State) (pg : Nat) (g : Page → Page) : (s.updPage pg g).snaps = s.snaps := rfl
@[simp] theorem State.updPage_snap (s : State) (pg : Nat) (g : Page → Page) : (s.updPage pg g).snap = s.snap := rfl
@[simp] theorem State.updPage_recs (s : State) (pg : Nat) (g : Page → Page) : (s.updPage pg g).recs = s.recs := rfl
@[simp] theorem State.updPage_todo (s : State) (pg : Nat) (g : Page → Page) : (s.updPage pg g).todo = s.todo := rfl
@[simp] theorem State.updPage_hbm (s : State) (pg : Nat) (g : Page → Page) : (s.updPage pg g).hbm = s.hbm := rfl
@[simp] theorem State.updPage_stackTab (s : State) (pg : Nat) (g : Page → Page) : (s.updPage pg g).stackTab = s.stackTab := rfl
@[simp] theorem State.updPage_mem (s : State) (pg : Nat) (g : Page → Page) : (s.updPage pg g).mem = s.mem := rfl
@[simp] theorem State.updPage_xlt (s : State) (pg : Nat) (g : Page → Page) : (s.updPage pg g).xlt = s.xlt := rfl
@[simp] theorem State.updPage_noc (s : State) (pg : Nat) (g : Page → Page) : (s.updPage pg g).noc = s.noc := rfl
@[simp] theorem State.updPage_tileMem (s : State) (pg : Nat) (g : Page → Page) : (s.updPage pg g).tileMem = s.tileMem := rfl
@[simp] theorem State.updPage_tileFull (s : State) (pg : Nat) (g : Page → Page) : (s.updPage pg g).tileFull = s.tileFull := rfl
@[simp] theorem State.updPage_tilePoison (s : State) (pg : Nat) (g : Page → Page) : (s.updPage pg g).tilePoison = s.tilePoison := rfl
@[simp] theorem State.updPage_engs (s : State) (pg : Nat) (g : Page → Page) : (s.updPage pg g).engs = s.engs := rfl
@[simp] theorem State.updPage_ctxs (s : State) (pg : Nat) (g : Page → Page) : (s.updPage pg g).ctxs = s.ctxs := rfl
@[simp] theorem State.updPage_tiles (s : State) (pg : Nat) (g : Page → Page) : (s.updPage pg g).tiles = s.tiles := rfl
@[simp] theorem State.updPage_hlth (s : State) (pg : Nat) (g : Page → Page) : (s.updPage pg g).hlth = s.hlth := rfl
@[simp] theorem State.updPage_sched (s : State) (pg : Nat) (g : Page → Page) : (s.updPage pg g).sched = s.sched := rfl
@[simp] theorem State.updPage_reps (s : State) (pg : Nat) (g : Page → Page) : (s.updPage pg g).reps = s.reps := rfl
@[simp] theorem State.updPage_conns (s : State) (pg : Nat) (g : Page → Page) : (s.updPage pg g).conns = s.conns := rfl
@[simp] theorem State.updPage_msgId (s : State) (pg : Nat) (g : Page → Page) : (s.updPage pg g).msgId = s.msgId := rfl
@[simp] theorem State.updPage_psl (s : State) (pg : Nat) (g : Page → Page) : (s.updPage pg g).psl = s.psl := rfl
@[simp] theorem State.updPage_ports (s : State) (pg : Nat) (g : Page → Page) : (s.updPage pg g).ports = s.ports := rfl
@[simp] theorem State.updPage_cores (s : State) (pg : Nat) (g : Page → Page) : (s.updPage pg g).cores = s.cores := rfl
@[simp] theorem State.updPage_keySlots (s : State) (pg : Nat) (g : Page → Page) : (s.updPage pg g).keySlots = s.keySlots := rfl
@[simp] theorem State.updPage_boot (s : State) (pg : Nat) (g : Page → Page) : (s.updPage pg g).boot = s.boot := rfl
@[simp] theorem State.updPage_nv (s : State) (pg : Nat) (g : Page → Page) : (s.updPage pg g).nv = s.nv := rfl
@[simp] theorem State.updPage_pwr (s : State) (pg : Nat) (g : Page → Page) : (s.updPage pg g).pwr = s.pwr := rfl
@[simp] theorem State.updPage_thm (s : State) (pg : Nat) (g : Page → Page) : (s.updPage pg g).thm = s.thm := rfl
@[simp] theorem State.updPage_dust (s : State) (pg : Nat) (g : Page → Page) : (s.updPage pg g).dust = s.dust := rfl
@[simp] theorem State.updPage_dbgPort (s : State) (pg : Nat) (g : Page → Page) : (s.updPage pg g).dbgPort = s.dbgPort := rfl
@[simp] theorem State.updPage_grps (s : State) (pg : Nat) (g : Page → Page) : (s.updPage pg g).grps = s.grps := rfl
@[simp] theorem State.updPage_flights (s : State) (pg : Nat) (g : Page → Page) : (s.updPage pg g).flights = s.flights := rfl
@[simp] theorem State.updPage_moeHub (s : State) (pg : Nat) (g : Page → Page) : (s.updPage pg g).moeHub = s.moeHub := rfl
@[simp] theorem State.updPage_fns (s : State) (pg : Nat) (g : Page → Page) : (s.updPage pg g).fns = s.fns := rfl
@[simp] theorem State.updPage_wqs (s : State) (pg : Nat) (g : Page → Page) : (s.updPage pg g).wqs = s.wqs := rfl
@[simp] theorem State.updPage_evqs (s : State) (pg : Nat) (g : Page → Page) : (s.updPage pg g).evqs = s.evqs := rfl
@[simp] theorem State.updPage_arb (s : State) (pg : Nat) (g : Page → Page) : (s.updPage pg g).arb = s.arb := rfl
@[simp] theorem State.updPage_mgmt (s : State) (pg : Nat) (g : Page → Page) : (s.updPage pg g).mgmt = s.mgmt := rfl
@[simp] theorem State.updPage_mbx (s : State) (pg : Nat) (g : Page → Page) : (s.updPage pg g).mbx = s.mbx := rfl
@[simp] theorem State.updPage_wqViews (s : State) (pg : Nat) (g : Page → Page) : (s.updPage pg g).wqViews = s.wqViews := rfl
@[simp] theorem State.updPage_evqViews (s : State) (pg : Nat) (g : Page → Page) : (s.updPage pg g).evqViews = s.evqViews := rfl
@[simp] theorem State.updPage_pcieRds (s : State) (pg : Nat) (g : Page → Page) : (s.updPage pg g).pcieRds = s.pcieRds := rfl
@[simp] theorem State.updPage_freeCtr (s : State) (pg : Nat) (g : Page → Page) : (s.updPage pg g).freeCtr = s.freeCtr := rfl
@[simp] theorem State.updPage_out (s : State) (pg : Nat) (g : Page → Page) : (s.updPage pg g).out = s.out := rfl
@[simp] theorem State.updPage_pending (s : State) (pg : Nat) (g : Page → Page) : (s.updPage pg g).pending = s.pending := rfl

/-! `State.push` -/

@[simp] theorem State.push_glb (s : State) (t : Todo) : (s.push t).glb = s.glb := rfl
@[simp] theorem State.push_plumb (s : State) (t : Todo) : (s.push t).plumb = s.plumb := rfl
@[simp] theorem State.push_regs (s : State) (t : Todo) : (s.push t).regs = s.regs := rfl
@[simp] theorem State.push_pages (s : State) (t : Todo) : (s.push t).pages = s.pages := rfl
@[simp] theorem State.push_halves (s : State) (t : Todo) : (s.push t).halves = s.halves := rfl
@[simp] theorem State.push_snaps (s : State) (t : Todo) : (s.push t).snaps = s.snaps := rfl
@[simp] theorem State.push_snap (s : State) (t : Todo) : (s.push t).snap = s.snap := rfl
@[simp] theorem State.push_recs (s : State) (t : Todo) : (s.push t).recs = s.recs := rfl
@[simp] theorem State.push_hbm (s : State) (t : Todo) : (s.push t).hbm = s.hbm := rfl
@[simp] theorem State.push_stackTab (s : State) (t : Todo) : (s.push t).stackTab = s.stackTab := rfl
@[simp] theorem State.push_mem (s : State) (t : Todo) : (s.push t).mem = s.mem := rfl
@[simp] theorem State.push_xlt (s : State) (t : Todo) : (s.push t).xlt = s.xlt := rfl
@[simp] theorem State.push_noc (s : State) (t : Todo) : (s.push t).noc = s.noc := rfl
@[simp] theorem State.push_tileMem (s : State) (t : Todo) : (s.push t).tileMem = s.tileMem := rfl
@[simp] theorem State.push_tileFull (s : State) (t : Todo) : (s.push t).tileFull = s.tileFull := rfl
@[simp] theorem State.push_tilePoison (s : State) (t : Todo) : (s.push t).tilePoison = s.tilePoison := rfl
@[simp] theorem State.push_engs (s : State) (t : Todo) : (s.push t).engs = s.engs := rfl
@[simp] theorem State.push_ctxs (s : State) (t : Todo) : (s.push t).ctxs = s.ctxs := rfl
@[simp] theorem State.push_tiles (s : State) (t : Todo) : (s.push t).tiles = s.tiles := rfl
@[simp] theorem State.push_hlth (s : State) (t : Todo) : (s.push t).hlth = s.hlth := rfl
@[simp] theorem State.push_sched (s : State) (t : Todo) : (s.push t).sched = s.sched := rfl
@[simp] theorem State.push_reps (s : State) (t : Todo) : (s.push t).reps = s.reps := rfl
@[simp] theorem State.push_conns (s : State) (t : Todo) : (s.push t).conns = s.conns := rfl
@[simp] theorem State.push_msgId (s : State) (t : Todo) : (s.push t).msgId = s.msgId := rfl
@[simp] theorem State.push_psl (s : State) (t : Todo) : (s.push t).psl = s.psl := rfl
@[simp] theorem State.push_ports (s : State) (t : Todo) : (s.push t).ports = s.ports := rfl
@[simp] theorem State.push_cores (s : State) (t : Todo) : (s.push t).cores = s.cores := rfl
@[simp] theorem State.push_keySlots (s : State) (t : Todo) : (s.push t).keySlots = s.keySlots := rfl
@[simp] theorem State.push_boot (s : State) (t : Todo) : (s.push t).boot = s.boot := rfl
@[simp] theorem State.push_nv (s : State) (t : Todo) : (s.push t).nv = s.nv := rfl
@[simp] theorem State.push_pwr (s : State) (t : Todo) : (s.push t).pwr = s.pwr := rfl
@[simp] theorem State.push_thm (s : State) (t : Todo) : (s.push t).thm = s.thm := rfl
@[simp] theorem State.push_dust (s : State) (t : Todo) : (s.push t).dust = s.dust := rfl
@[simp] theorem State.push_dbgPort (s : State) (t : Todo) : (s.push t).dbgPort = s.dbgPort := rfl
@[simp] theorem State.push_grps (s : State) (t : Todo) : (s.push t).grps = s.grps := rfl
@[simp] theorem State.push_flights (s : State) (t : Todo) : (s.push t).flights = s.flights := rfl
@[simp] theorem State.push_moeHub (s : State) (t : Todo) : (s.push t).moeHub = s.moeHub := rfl
@[simp] theorem State.push_fns (s : State) (t : Todo) : (s.push t).fns = s.fns := rfl
@[simp] theorem State.push_wqs (s : State) (t : Todo) : (s.push t).wqs = s.wqs := rfl
@[simp] theorem State.push_evqs (s : State) (t : Todo) : (s.push t).evqs = s.evqs := rfl
@[simp] theorem State.push_arb (s : State) (t : Todo) : (s.push t).arb = s.arb := rfl
@[simp] theorem State.push_mgmt (s : State) (t : Todo) : (s.push t).mgmt = s.mgmt := rfl
@[simp] theorem State.push_mbx (s : State) (t : Todo) : (s.push t).mbx = s.mbx := rfl
@[simp] theorem State.push_wqViews (s : State) (t : Todo) : (s.push t).wqViews = s.wqViews := rfl
@[simp] theorem State.push_evqViews (s : State) (t : Todo) : (s.push t).evqViews = s.evqViews := rfl
@[simp] theorem State.push_pcieRds (s : State) (t : Todo) : (s.push t).pcieRds = s.pcieRds := rfl
@[simp] theorem State.push_freeCtr (s : State) (t : Todo) : (s.push t).freeCtr = s.freeCtr := rfl
@[simp] theorem State.push_out (s : State) (t : Todo) : (s.push t).out = s.out := rfl
@[simp] theorem State.push_pending (s : State) (t : Todo) : (s.push t).pending = s.pending := rfl
@[simp] theorem State.push_todo (s : State) (t : Todo) : (s.push t).todo = s.todo ++ [t] := rfl

/-! `State.emit` -/

@[simp] theorem State.emit_glb (s : State) (o : Out) : (s.emit o).glb = s.glb := rfl
@[simp] theorem State.emit_plumb (s : State) (o : Out) : (s.emit o).plumb = s.plumb := rfl
@[simp] theorem State.emit_regs (s : State) (o : Out) : (s.emit o).regs = s.regs := rfl
@[simp] theorem State.emit_pages (s : State) (o : Out) : (s.emit o).pages = s.pages := rfl
@[simp] theorem State.emit_halves (s : State) (o : Out) : (s.emit o).halves = s.halves := rfl
@[simp] theorem State.emit_snaps (s : State) (o : Out) : (s.emit o).snaps = s.snaps := rfl
@[simp] theorem State.emit_snap (s : State) (o : Out) : (s.emit o).snap = s.snap := rfl
@[simp] theorem State.emit_recs (s : State) (o : Out) : (s.emit o).recs = s.recs := rfl
@[simp] theorem State.emit_todo (s : State) (o : Out) : (s.emit o).todo = s.todo := rfl
@[simp] theorem State.emit_hbm (s : State) (o : Out) : (s.emit o).hbm = s.hbm := rfl
@[simp] theorem State.emit_stackTab (s : State) (o : Out) : (s.emit o).stackTab = s.stackTab := rfl
@[simp] theorem State.emit_mem (s : State) (o : Out) : (s.emit o).mem = s.mem := rfl
@[simp] theorem State.emit_xlt (s : State) (o : Out) : (s.emit o).xlt = s.xlt := rfl
@[simp] theorem State.emit_noc (s : State) (o : Out) : (s.emit o).noc = s.noc := rfl
@[simp] theorem State.emit_tileMem (s : State) (o : Out) : (s.emit o).tileMem = s.tileMem := rfl
@[simp] theorem State.emit_tileFull (s : State) (o : Out) : (s.emit o).tileFull = s.tileFull := rfl
@[simp] theorem State.emit_tilePoison (s : State) (o : Out) : (s.emit o).tilePoison = s.tilePoison := rfl
@[simp] theorem State.emit_engs (s : State) (o : Out) : (s.emit o).engs = s.engs := rfl
@[simp] theorem State.emit_ctxs (s : State) (o : Out) : (s.emit o).ctxs = s.ctxs := rfl
@[simp] theorem State.emit_tiles (s : State) (o : Out) : (s.emit o).tiles = s.tiles := rfl
@[simp] theorem State.emit_hlth (s : State) (o : Out) : (s.emit o).hlth = s.hlth := rfl
@[simp] theorem State.emit_sched (s : State) (o : Out) : (s.emit o).sched = s.sched := rfl
@[simp] theorem State.emit_reps (s : State) (o : Out) : (s.emit o).reps = s.reps := rfl
@[simp] theorem State.emit_conns (s : State) (o : Out) : (s.emit o).conns = s.conns := rfl
@[simp] theorem State.emit_msgId (s : State) (o : Out) : (s.emit o).msgId = s.msgId := rfl
@[simp] theorem State.emit_psl (s : State) (o : Out) : (s.emit o).psl = s.psl := rfl
@[simp] theorem State.emit_ports (s : State) (o : Out) : (s.emit o).ports = s.ports := rfl
@[simp] theorem State.emit_cores (s : State) (o : Out) : (s.emit o).cores = s.cores := rfl
@[simp] theorem State.emit_keySlots (s : State) (o : Out) : (s.emit o).keySlots = s.keySlots := rfl
@[simp] theorem State.emit_boot (s : State) (o : Out) : (s.emit o).boot = s.boot := rfl
@[simp] theorem State.emit_nv (s : State) (o : Out) : (s.emit o).nv = s.nv := rfl
@[simp] theorem State.emit_pwr (s : State) (o : Out) : (s.emit o).pwr = s.pwr := rfl
@[simp] theorem State.emit_thm (s : State) (o : Out) : (s.emit o).thm = s.thm := rfl
@[simp] theorem State.emit_dust (s : State) (o : Out) : (s.emit o).dust = s.dust := rfl
@[simp] theorem State.emit_dbgPort (s : State) (o : Out) : (s.emit o).dbgPort = s.dbgPort := rfl
@[simp] theorem State.emit_grps (s : State) (o : Out) : (s.emit o).grps = s.grps := rfl
@[simp] theorem State.emit_flights (s : State) (o : Out) : (s.emit o).flights = s.flights := rfl
@[simp] theorem State.emit_moeHub (s : State) (o : Out) : (s.emit o).moeHub = s.moeHub := rfl
@[simp] theorem State.emit_fns (s : State) (o : Out) : (s.emit o).fns = s.fns := rfl
@[simp] theorem State.emit_wqs (s : State) (o : Out) : (s.emit o).wqs = s.wqs := rfl
@[simp] theorem State.emit_evqs (s : State) (o : Out) : (s.emit o).evqs = s.evqs := rfl
@[simp] theorem State.emit_arb (s : State) (o : Out) : (s.emit o).arb = s.arb := rfl
@[simp] theorem State.emit_mgmt (s : State) (o : Out) : (s.emit o).mgmt = s.mgmt := rfl
@[simp] theorem State.emit_mbx (s : State) (o : Out) : (s.emit o).mbx = s.mbx := rfl
@[simp] theorem State.emit_wqViews (s : State) (o : Out) : (s.emit o).wqViews = s.wqViews := rfl
@[simp] theorem State.emit_evqViews (s : State) (o : Out) : (s.emit o).evqViews = s.evqViews := rfl
@[simp] theorem State.emit_pcieRds (s : State) (o : Out) : (s.emit o).pcieRds = s.pcieRds := rfl
@[simp] theorem State.emit_freeCtr (s : State) (o : Out) : (s.emit o).freeCtr = s.freeCtr := rfl
@[simp] theorem State.emit_pending (s : State) (o : Out) : (s.emit o).pending = s.pending := rfl
@[simp] theorem State.emit_out (s : State) (o : Out) : (s.emit o).out = o :: s.out := rfl

/-! `State.updPort` -/

@[simp] theorem State.updPort_glb (s : State) (q : Nat) (g : Port → Port) : (s.updPort q g).glb = s.glb := rfl
@[simp] theorem State.updPort_plumb (s : State) (q : Nat) (g : Port → Port) : (s.updPort q g).plumb = s.plumb := rfl
@[simp] theorem State.updPort_regs (s : State) (q : Nat) (g : Port → Port) : (s.updPort q g).regs = s.regs := rfl
@[simp] theorem State.updPort_pages (s : State) (q : Nat) (g : Port → Port) : (s.updPort q g).pages = s.pages := rfl
@[simp] theorem State.updPort_halves (s : State) (q : Nat) (g : Port → Port) : (s.updPort q g).halves = s.halves := rfl
@[simp] theorem State.updPort_snaps (s : State) (q : Nat) (g : Port → Port) : (s.updPort q g).snaps = s.snaps := rfl
@[simp] theorem State.updPort_snap (s : State) (q : Nat) (g : Port → Port) : (s.updPort q g).snap = s.snap := rfl
@[simp] theorem State.updPort_recs (s : State) (q : Nat) (g : Port → Port) : (s.updPort q g).recs = s.recs := rfl
@[simp] theorem State.updPort_todo (s : State) (q : Nat) (g : Port → Port) : (s.updPort q g).todo = s.todo := rfl
@[simp] theorem State.updPort_hbm (s : State) (q : Nat) (g : Port → Port) : (s.updPort q g).hbm = s.hbm := rfl
@[simp] theorem State.updPort_stackTab (s : State) (q : Nat) (g : Port → Port) : (s.updPort q g).stackTab = s.stackTab := rfl
@[simp] theorem State.updPort_mem (s : State) (q : Nat) (g : Port → Port) : (s.updPort q g).mem = s.mem := rfl
@[simp] theorem State.updPort_xlt (s : State) (q : Nat) (g : Port → Port) : (s.updPort q g).xlt = s.xlt := rfl
@[simp] theorem State.updPort_noc (s : State) (q : Nat) (g : Port → Port) : (s.updPort q g).noc = s.noc := rfl
@[simp] theorem State.updPort_tileMem (s : State) (q : Nat) (g : Port → Port) : (s.updPort q g).tileMem = s.tileMem := rfl
@[simp] theorem State.updPort_tileFull (s : State) (q : Nat) (g : Port → Port) : (s.updPort q g).tileFull = s.tileFull := rfl
@[simp] theorem State.updPort_tilePoison (s : State) (q : Nat) (g : Port → Port) : (s.updPort q g).tilePoison = s.tilePoison := rfl
@[simp] theorem State.updPort_engs (s : State) (q : Nat) (g : Port → Port) : (s.updPort q g).engs = s.engs := rfl
@[simp] theorem State.updPort_ctxs (s : State) (q : Nat) (g : Port → Port) : (s.updPort q g).ctxs = s.ctxs := rfl
@[simp] theorem State.updPort_tiles (s : State) (q : Nat) (g : Port → Port) : (s.updPort q g).tiles = s.tiles := rfl
@[simp] theorem State.updPort_hlth (s : State) (q : Nat) (g : Port → Port) : (s.updPort q g).hlth = s.hlth := rfl
@[simp] theorem State.updPort_sched (s : State) (q : Nat) (g : Port → Port) : (s.updPort q g).sched = s.sched := rfl
@[simp] theorem State.updPort_reps (s : State) (q : Nat) (g : Port → Port) : (s.updPort q g).reps = s.reps := rfl
@[simp] theorem State.updPort_conns (s : State) (q : Nat) (g : Port → Port) : (s.updPort q g).conns = s.conns := rfl
@[simp] theorem State.updPort_msgId (s : State) (q : Nat) (g : Port → Port) : (s.updPort q g).msgId = s.msgId := rfl
@[simp] theorem State.updPort_psl (s : State) (q : Nat) (g : Port → Port) : (s.updPort q g).psl = s.psl := rfl
@[simp] theorem State.updPort_cores (s : State) (q : Nat) (g : Port → Port) : (s.updPort q g).cores = s.cores := rfl
@[simp] theorem State.updPort_keySlots (s : State) (q : Nat) (g : Port → Port) : (s.updPort q g).keySlots = s.keySlots := rfl
@[simp] theorem State.updPort_boot (s : State) (q : Nat) (g : Port → Port) : (s.updPort q g).boot = s.boot := rfl
@[simp] theorem State.updPort_nv (s : State) (q : Nat) (g : Port → Port) : (s.updPort q g).nv = s.nv := rfl
@[simp] theorem State.updPort_pwr (s : State) (q : Nat) (g : Port → Port) : (s.updPort q g).pwr = s.pwr := rfl
@[simp] theorem State.updPort_thm (s : State) (q : Nat) (g : Port → Port) : (s.updPort q g).thm = s.thm := rfl
@[simp] theorem State.updPort_dust (s : State) (q : Nat) (g : Port → Port) : (s.updPort q g).dust = s.dust := rfl
@[simp] theorem State.updPort_dbgPort (s : State) (q : Nat) (g : Port → Port) : (s.updPort q g).dbgPort = s.dbgPort := rfl
@[simp] theorem State.updPort_grps (s : State) (q : Nat) (g : Port → Port) : (s.updPort q g).grps = s.grps := rfl
@[simp] theorem State.updPort_flights (s : State) (q : Nat) (g : Port → Port) : (s.updPort q g).flights = s.flights := rfl
@[simp] theorem State.updPort_moeHub (s : State) (q : Nat) (g : Port → Port) : (s.updPort q g).moeHub = s.moeHub := rfl
@[simp] theorem State.updPort_fns (s : State) (q : Nat) (g : Port → Port) : (s.updPort q g).fns = s.fns := rfl
@[simp] theorem State.updPort_wqs (s : State) (q : Nat) (g : Port → Port) : (s.updPort q g).wqs = s.wqs := rfl
@[simp] theorem State.updPort_evqs (s : State) (q : Nat) (g : Port → Port) : (s.updPort q g).evqs = s.evqs := rfl
@[simp] theorem State.updPort_arb (s : State) (q : Nat) (g : Port → Port) : (s.updPort q g).arb = s.arb := rfl
@[simp] theorem State.updPort_mgmt (s : State) (q : Nat) (g : Port → Port) : (s.updPort q g).mgmt = s.mgmt := rfl
@[simp] theorem State.updPort_mbx (s : State) (q : Nat) (g : Port → Port) : (s.updPort q g).mbx = s.mbx := rfl
@[simp] theorem State.updPort_wqViews (s : State) (q : Nat) (g : Port → Port) : (s.updPort q g).wqViews = s.wqViews := rfl
@[simp] theorem State.updPort_evqViews (s : State) (q : Nat) (g : Port → Port) : (s.updPort q g).evqViews = s.evqViews := rfl
@[simp] theorem State.updPort_pcieRds (s : State) (q : Nat) (g : Port → Port) : (s.updPort q g).pcieRds = s.pcieRds := rfl
@[simp] theorem State.updPort_freeCtr (s : State) (q : Nat) (g : Port → Port) : (s.updPort q g).freeCtr = s.freeCtr := rfl
@[simp] theorem State.updPort_out (s : State) (q : Nat) (g : Port → Port) : (s.updPort q g).out = s.out := rfl
@[simp] theorem State.updPort_pending (s : State) (q : Nat) (g : Port → Port) : (s.updPort q g).pending = s.pending := rfl

/-! `State.updPwr` -/

@[simp] theorem State.updPwr_glb (s : State) (g : Pwr → Pwr) : (s.updPwr g).glb = s.glb := rfl
@[simp] theorem State.updPwr_plumb (s : State) (g : Pwr → Pwr) : (s.updPwr g).plumb = s.plumb := rfl
@[simp] theorem State.updPwr_regs (s : State) (g : Pwr → Pwr) : (s.updPwr g).regs = s.regs := rfl
@[simp] theorem State.updPwr_pages (s : State) (g : Pwr → Pwr) : (s.updPwr g).pages = s.pages := rfl
@[simp] theorem State.updPwr_halves (s : State) (g : Pwr → Pwr) : (s.updPwr g).halves = s.halves := rfl
@[simp] theorem State.updPwr_snaps (s : State) (g : Pwr → Pwr) : (s.updPwr g).snaps = s.snaps := rfl
@[simp] theorem State.updPwr_snap (s : State) (g : Pwr → Pwr) : (s.updPwr g).snap = s.snap := rfl
@[simp] theorem State.updPwr_recs (s : State) (g : Pwr → Pwr) : (s.updPwr g).recs = s.recs := rfl
@[simp] theorem State.updPwr_todo (s : State) (g : Pwr → Pwr) : (s.updPwr g).todo = s.todo := rfl
@[simp] theorem State.updPwr_hbm (s : State) (g : Pwr → Pwr) : (s.updPwr g).hbm = s.hbm := rfl
@[simp] theorem State.updPwr_stackTab (s : State) (g : Pwr → Pwr) : (s.updPwr g).stackTab = s.stackTab := rfl
@[simp] theorem State.updPwr_mem (s : State) (g : Pwr → Pwr) : (s.updPwr g).mem = s.mem := rfl
@[simp] theorem State.updPwr_xlt (s : State) (g : Pwr → Pwr) : (s.updPwr g).xlt = s.xlt := rfl
@[simp] theorem State.updPwr_noc (s : State) (g : Pwr → Pwr) : (s.updPwr g).noc = s.noc := rfl
@[simp] theorem State.updPwr_tileMem (s : State) (g : Pwr → Pwr) : (s.updPwr g).tileMem = s.tileMem := rfl
@[simp] theorem State.updPwr_tileFull (s : State) (g : Pwr → Pwr) : (s.updPwr g).tileFull = s.tileFull := rfl
@[simp] theorem State.updPwr_tilePoison (s : State) (g : Pwr → Pwr) : (s.updPwr g).tilePoison = s.tilePoison := rfl
@[simp] theorem State.updPwr_engs (s : State) (g : Pwr → Pwr) : (s.updPwr g).engs = s.engs := rfl
@[simp] theorem State.updPwr_ctxs (s : State) (g : Pwr → Pwr) : (s.updPwr g).ctxs = s.ctxs := rfl
@[simp] theorem State.updPwr_tiles (s : State) (g : Pwr → Pwr) : (s.updPwr g).tiles = s.tiles := rfl
@[simp] theorem State.updPwr_hlth (s : State) (g : Pwr → Pwr) : (s.updPwr g).hlth = s.hlth := rfl
@[simp] theorem State.updPwr_sched (s : State) (g : Pwr → Pwr) : (s.updPwr g).sched = s.sched := rfl
@[simp] theorem State.updPwr_reps (s : State) (g : Pwr → Pwr) : (s.updPwr g).reps = s.reps := rfl
@[simp] theorem State.updPwr_conns (s : State) (g : Pwr → Pwr) : (s.updPwr g).conns = s.conns := rfl
@[simp] theorem State.updPwr_msgId (s : State) (g : Pwr → Pwr) : (s.updPwr g).msgId = s.msgId := rfl
@[simp] theorem State.updPwr_psl (s : State) (g : Pwr → Pwr) : (s.updPwr g).psl = s.psl := rfl
@[simp] theorem State.updPwr_ports (s : State) (g : Pwr → Pwr) : (s.updPwr g).ports = s.ports := rfl
@[simp] theorem State.updPwr_cores (s : State) (g : Pwr → Pwr) : (s.updPwr g).cores = s.cores := rfl
@[simp] theorem State.updPwr_keySlots (s : State) (g : Pwr → Pwr) : (s.updPwr g).keySlots = s.keySlots := rfl
@[simp] theorem State.updPwr_boot (s : State) (g : Pwr → Pwr) : (s.updPwr g).boot = s.boot := rfl
@[simp] theorem State.updPwr_nv (s : State) (g : Pwr → Pwr) : (s.updPwr g).nv = s.nv := rfl
@[simp] theorem State.updPwr_thm (s : State) (g : Pwr → Pwr) : (s.updPwr g).thm = s.thm := rfl
@[simp] theorem State.updPwr_dust (s : State) (g : Pwr → Pwr) : (s.updPwr g).dust = s.dust := rfl
@[simp] theorem State.updPwr_dbgPort (s : State) (g : Pwr → Pwr) : (s.updPwr g).dbgPort = s.dbgPort := rfl
@[simp] theorem State.updPwr_grps (s : State) (g : Pwr → Pwr) : (s.updPwr g).grps = s.grps := rfl
@[simp] theorem State.updPwr_flights (s : State) (g : Pwr → Pwr) : (s.updPwr g).flights = s.flights := rfl
@[simp] theorem State.updPwr_moeHub (s : State) (g : Pwr → Pwr) : (s.updPwr g).moeHub = s.moeHub := rfl
@[simp] theorem State.updPwr_fns (s : State) (g : Pwr → Pwr) : (s.updPwr g).fns = s.fns := rfl
@[simp] theorem State.updPwr_wqs (s : State) (g : Pwr → Pwr) : (s.updPwr g).wqs = s.wqs := rfl
@[simp] theorem State.updPwr_evqs (s : State) (g : Pwr → Pwr) : (s.updPwr g).evqs = s.evqs := rfl
@[simp] theorem State.updPwr_arb (s : State) (g : Pwr → Pwr) : (s.updPwr g).arb = s.arb := rfl
@[simp] theorem State.updPwr_mgmt (s : State) (g : Pwr → Pwr) : (s.updPwr g).mgmt = s.mgmt := rfl
@[simp] theorem State.updPwr_mbx (s : State) (g : Pwr → Pwr) : (s.updPwr g).mbx = s.mbx := rfl
@[simp] theorem State.updPwr_wqViews (s : State) (g : Pwr → Pwr) : (s.updPwr g).wqViews = s.wqViews := rfl
@[simp] theorem State.updPwr_evqViews (s : State) (g : Pwr → Pwr) : (s.updPwr g).evqViews = s.evqViews := rfl
@[simp] theorem State.updPwr_pcieRds (s : State) (g : Pwr → Pwr) : (s.updPwr g).pcieRds = s.pcieRds := rfl
@[simp] theorem State.updPwr_freeCtr (s : State) (g : Pwr → Pwr) : (s.updPwr g).freeCtr = s.freeCtr := rfl
@[simp] theorem State.updPwr_out (s : State) (g : Pwr → Pwr) : (s.updPwr g).out = s.out := rfl
@[simp] theorem State.updPwr_pending (s : State) (g : Pwr → Pwr) : (s.updPwr g).pending = s.pending := rfl
@[simp] theorem State.updPwr_pwr (s : State) (g : Pwr → Pwr) : (s.updPwr g).pwr = g s.pwr := rfl

/-! `State.updThm` -/

@[simp] theorem State.updThm_glb (s : State) (g : Thm → Thm) : (s.updThm g).glb = s.glb := rfl
@[simp] theorem State.updThm_plumb (s : State) (g : Thm → Thm) : (s.updThm g).plumb = s.plumb := rfl
@[simp] theorem State.updThm_regs (s : State) (g : Thm → Thm) : (s.updThm g).regs = s.regs := rfl
@[simp] theorem State.updThm_pages (s : State) (g : Thm → Thm) : (s.updThm g).pages = s.pages := rfl
@[simp] theorem State.updThm_halves (s : State) (g : Thm → Thm) : (s.updThm g).halves = s.halves := rfl
@[simp] theorem State.updThm_snaps (s : State) (g : Thm → Thm) : (s.updThm g).snaps = s.snaps := rfl
@[simp] theorem State.updThm_snap (s : State) (g : Thm → Thm) : (s.updThm g).snap = s.snap := rfl
@[simp] theorem State.updThm_recs (s : State) (g : Thm → Thm) : (s.updThm g).recs = s.recs := rfl
@[simp] theorem State.updThm_todo (s : State) (g : Thm → Thm) : (s.updThm g).todo = s.todo := rfl
@[simp] theorem State.updThm_hbm (s : State) (g : Thm → Thm) : (s.updThm g).hbm = s.hbm := rfl
@[simp] theorem State.updThm_stackTab (s : State) (g : Thm → Thm) : (s.updThm g).stackTab = s.stackTab := rfl
@[simp] theorem State.updThm_mem (s : State) (g : Thm → Thm) : (s.updThm g).mem = s.mem := rfl
@[simp] theorem State.updThm_xlt (s : State) (g : Thm → Thm) : (s.updThm g).xlt = s.xlt := rfl
@[simp] theorem State.updThm_noc (s : State) (g : Thm → Thm) : (s.updThm g).noc = s.noc := rfl
@[simp] theorem State.updThm_tileMem (s : State) (g : Thm → Thm) : (s.updThm g).tileMem = s.tileMem := rfl
@[simp] theorem State.updThm_tileFull (s : State) (g : Thm → Thm) : (s.updThm g).tileFull = s.tileFull := rfl
@[simp] theorem State.updThm_tilePoison (s : State) (g : Thm → Thm) : (s.updThm g).tilePoison = s.tilePoison := rfl
@[simp] theorem State.updThm_engs (s : State) (g : Thm → Thm) : (s.updThm g).engs = s.engs := rfl
@[simp] theorem State.updThm_ctxs (s : State) (g : Thm → Thm) : (s.updThm g).ctxs = s.ctxs := rfl
@[simp] theorem State.updThm_tiles (s : State) (g : Thm → Thm) : (s.updThm g).tiles = s.tiles := rfl
@[simp] theorem State.updThm_hlth (s : State) (g : Thm → Thm) : (s.updThm g).hlth = s.hlth := rfl
@[simp] theorem State.updThm_sched (s : State) (g : Thm → Thm) : (s.updThm g).sched = s.sched := rfl
@[simp] theorem State.updThm_reps (s : State) (g : Thm → Thm) : (s.updThm g).reps = s.reps := rfl
@[simp] theorem State.updThm_conns (s : State) (g : Thm → Thm) : (s.updThm g).conns = s.conns := rfl
@[simp] theorem State.updThm_msgId (s : State) (g : Thm → Thm) : (s.updThm g).msgId = s.msgId := rfl
@[simp] theorem State.updThm_psl (s : State) (g : Thm → Thm) : (s.updThm g).psl = s.psl := rfl
@[simp] theorem State.updThm_ports (s : State) (g : Thm → Thm) : (s.updThm g).ports = s.ports := rfl
@[simp] theorem State.updThm_cores (s : State) (g : Thm → Thm) : (s.updThm g).cores = s.cores := rfl
@[simp] theorem State.updThm_keySlots (s : State) (g : Thm → Thm) : (s.updThm g).keySlots = s.keySlots := rfl
@[simp] theorem State.updThm_boot (s : State) (g : Thm → Thm) : (s.updThm g).boot = s.boot := rfl
@[simp] theorem State.updThm_nv (s : State) (g : Thm → Thm) : (s.updThm g).nv = s.nv := rfl
@[simp] theorem State.updThm_pwr (s : State) (g : Thm → Thm) : (s.updThm g).pwr = s.pwr := rfl
@[simp] theorem State.updThm_dust (s : State) (g : Thm → Thm) : (s.updThm g).dust = s.dust := rfl
@[simp] theorem State.updThm_dbgPort (s : State) (g : Thm → Thm) : (s.updThm g).dbgPort = s.dbgPort := rfl
@[simp] theorem State.updThm_grps (s : State) (g : Thm → Thm) : (s.updThm g).grps = s.grps := rfl
@[simp] theorem State.updThm_flights (s : State) (g : Thm → Thm) : (s.updThm g).flights = s.flights := rfl
@[simp] theorem State.updThm_moeHub (s : State) (g : Thm → Thm) : (s.updThm g).moeHub = s.moeHub := rfl
@[simp] theorem State.updThm_fns (s : State) (g : Thm → Thm) : (s.updThm g).fns = s.fns := rfl
@[simp] theorem State.updThm_wqs (s : State) (g : Thm → Thm) : (s.updThm g).wqs = s.wqs := rfl
@[simp] theorem State.updThm_evqs (s : State) (g : Thm → Thm) : (s.updThm g).evqs = s.evqs := rfl
@[simp] theorem State.updThm_arb (s : State) (g : Thm → Thm) : (s.updThm g).arb = s.arb := rfl
@[simp] theorem State.updThm_mgmt (s : State) (g : Thm → Thm) : (s.updThm g).mgmt = s.mgmt := rfl
@[simp] theorem State.updThm_mbx (s : State) (g : Thm → Thm) : (s.updThm g).mbx = s.mbx := rfl
@[simp] theorem State.updThm_wqViews (s : State) (g : Thm → Thm) : (s.updThm g).wqViews = s.wqViews := rfl
@[simp] theorem State.updThm_evqViews (s : State) (g : Thm → Thm) : (s.updThm g).evqViews = s.evqViews := rfl
@[simp] theorem State.updThm_pcieRds (s : State) (g : Thm → Thm) : (s.updThm g).pcieRds = s.pcieRds := rfl
@[simp] theorem State.updThm_freeCtr (s : State) (g : Thm → Thm) : (s.updThm g).freeCtr = s.freeCtr := rfl
@[simp] theorem State.updThm_out (s : State) (g : Thm → Thm) : (s.updThm g).out = s.out := rfl
@[simp] theorem State.updThm_pending (s : State) (g : Thm → Thm) : (s.updThm g).pending = s.pending := rfl
@[simp] theorem State.updThm_thm (s : State) (g : Thm → Thm) : (s.updThm g).thm = g s.thm := rfl

/-! `State.updWq` -/

@[simp] theorem State.updWq_glb (s : State) (q : Nat) (g : Wq → Wq) : (s.updWq q g).glb = s.glb := rfl
@[simp] theorem State.updWq_plumb (s : State) (q : Nat) (g : Wq → Wq) : (s.updWq q g).plumb = s.plumb := rfl
@[simp] theorem State.updWq_regs (s : State) (q : Nat) (g : Wq → Wq) : (s.updWq q g).regs = s.regs := rfl
@[simp] theorem State.updWq_pages (s : State) (q : Nat) (g : Wq → Wq) : (s.updWq q g).pages = s.pages := rfl
@[simp] theorem State.updWq_halves (s : State) (q : Nat) (g : Wq → Wq) : (s.updWq q g).halves = s.halves := rfl
@[simp] theorem State.updWq_snaps (s : State) (q : Nat) (g : Wq → Wq) : (s.updWq q g).snaps = s.snaps := rfl
@[simp] theorem State.updWq_snap (s : State) (q : Nat) (g : Wq → Wq) : (s.updWq q g).snap = s.snap := rfl
@[simp] theorem State.updWq_recs (s : State) (q : Nat) (g : Wq → Wq) : (s.updWq q g).recs = s.recs := rfl
@[simp] theorem State.updWq_todo (s : State) (q : Nat) (g : Wq → Wq) : (s.updWq q g).todo = s.todo := rfl
@[simp] theorem State.updWq_hbm (s : State) (q : Nat) (g : Wq → Wq) : (s.updWq q g).hbm = s.hbm := rfl
@[simp] theorem State.updWq_stackTab (s : State) (q : Nat) (g : Wq → Wq) : (s.updWq q g).stackTab = s.stackTab := rfl
@[simp] theorem State.updWq_mem (s : State) (q : Nat) (g : Wq → Wq) : (s.updWq q g).mem = s.mem := rfl
@[simp] theorem State.updWq_xlt (s : State) (q : Nat) (g : Wq → Wq) : (s.updWq q g).xlt = s.xlt := rfl
@[simp] theorem State.updWq_noc (s : State) (q : Nat) (g : Wq → Wq) : (s.updWq q g).noc = s.noc := rfl
@[simp] theorem State.updWq_tileMem (s : State) (q : Nat) (g : Wq → Wq) : (s.updWq q g).tileMem = s.tileMem := rfl
@[simp] theorem State.updWq_tileFull (s : State) (q : Nat) (g : Wq → Wq) : (s.updWq q g).tileFull = s.tileFull := rfl
@[simp] theorem State.updWq_tilePoison (s : State) (q : Nat) (g : Wq → Wq) : (s.updWq q g).tilePoison = s.tilePoison := rfl
@[simp] theorem State.updWq_engs (s : State) (q : Nat) (g : Wq → Wq) : (s.updWq q g).engs = s.engs := rfl
@[simp] theorem State.updWq_ctxs (s : State) (q : Nat) (g : Wq → Wq) : (s.updWq q g).ctxs = s.ctxs := rfl
@[simp] theorem State.updWq_tiles (s : State) (q : Nat) (g : Wq → Wq) : (s.updWq q g).tiles = s.tiles := rfl
@[simp] theorem State.updWq_hlth (s : State) (q : Nat) (g : Wq → Wq) : (s.updWq q g).hlth = s.hlth := rfl
@[simp] theorem State.updWq_sched (s : State) (q : Nat) (g : Wq → Wq) : (s.updWq q g).sched = s.sched := rfl
@[simp] theorem State.updWq_reps (s : State) (q : Nat) (g : Wq → Wq) : (s.updWq q g).reps = s.reps := rfl
@[simp] theorem State.updWq_conns (s : State) (q : Nat) (g : Wq → Wq) : (s.updWq q g).conns = s.conns := rfl
@[simp] theorem State.updWq_msgId (s : State) (q : Nat) (g : Wq → Wq) : (s.updWq q g).msgId = s.msgId := rfl
@[simp] theorem State.updWq_psl (s : State) (q : Nat) (g : Wq → Wq) : (s.updWq q g).psl = s.psl := rfl
@[simp] theorem State.updWq_ports (s : State) (q : Nat) (g : Wq → Wq) : (s.updWq q g).ports = s.ports := rfl
@[simp] theorem State.updWq_cores (s : State) (q : Nat) (g : Wq → Wq) : (s.updWq q g).cores = s.cores := rfl
@[simp] theorem State.updWq_keySlots (s : State) (q : Nat) (g : Wq → Wq) : (s.updWq q g).keySlots = s.keySlots := rfl
@[simp] theorem State.updWq_boot (s : State) (q : Nat) (g : Wq → Wq) : (s.updWq q g).boot = s.boot := rfl
@[simp] theorem State.updWq_nv (s : State) (q : Nat) (g : Wq → Wq) : (s.updWq q g).nv = s.nv := rfl
@[simp] theorem State.updWq_pwr (s : State) (q : Nat) (g : Wq → Wq) : (s.updWq q g).pwr = s.pwr := rfl
@[simp] theorem State.updWq_thm (s : State) (q : Nat) (g : Wq → Wq) : (s.updWq q g).thm = s.thm := rfl
@[simp] theorem State.updWq_dust (s : State) (q : Nat) (g : Wq → Wq) : (s.updWq q g).dust = s.dust := rfl
@[simp] theorem State.updWq_dbgPort (s : State) (q : Nat) (g : Wq → Wq) : (s.updWq q g).dbgPort = s.dbgPort := rfl
@[simp] theorem State.updWq_grps (s : State) (q : Nat) (g : Wq → Wq) : (s.updWq q g).grps = s.grps := rfl
@[simp] theorem State.updWq_flights (s : State) (q : Nat) (g : Wq → Wq) : (s.updWq q g).flights = s.flights := rfl
@[simp] theorem State.updWq_moeHub (s : State) (q : Nat) (g : Wq → Wq) : (s.updWq q g).moeHub = s.moeHub := rfl
@[simp] theorem State.updWq_fns (s : State) (q : Nat) (g : Wq → Wq) : (s.updWq q g).fns = s.fns := rfl
@[simp] theorem State.updWq_evqs (s : State) (q : Nat) (g : Wq → Wq) : (s.updWq q g).evqs = s.evqs := rfl
@[simp] theorem State.updWq_arb (s : State) (q : Nat) (g : Wq → Wq) : (s.updWq q g).arb = s.arb := rfl
@[simp] theorem State.updWq_mgmt (s : State) (q : Nat) (g : Wq → Wq) : (s.updWq q g).mgmt = s.mgmt := rfl
@[simp] theorem State.updWq_mbx (s : State) (q : Nat) (g : Wq → Wq) : (s.updWq q g).mbx = s.mbx := rfl
@[simp] theorem State.updWq_wqViews (s : State) (q : Nat) (g : Wq → Wq) : (s.updWq q g).wqViews = s.wqViews := rfl
@[simp] theorem State.updWq_evqViews (s : State) (q : Nat) (g : Wq → Wq) : (s.updWq q g).evqViews = s.evqViews := rfl
@[simp] theorem State.updWq_pcieRds (s : State) (q : Nat) (g : Wq → Wq) : (s.updWq q g).pcieRds = s.pcieRds := rfl
@[simp] theorem State.updWq_freeCtr (s : State) (q : Nat) (g : Wq → Wq) : (s.updWq q g).freeCtr = s.freeCtr := rfl
@[simp] theorem State.updWq_out (s : State) (q : Nat) (g : Wq → Wq) : (s.updWq q g).out = s.out := rfl
@[simp] theorem State.updWq_pending (s : State) (q : Nat) (g : Wq → Wq) : (s.updWq q g).pending = s.pending := rfl

/-! `State.updFn` -/

@[simp] theorem State.updFn_glb (s : State) (f : Nat) (g : Fn → Fn) : (s.updFn f g).glb = s.glb := rfl
@[simp] theorem State.updFn_plumb (s : State) (f : Nat) (g : Fn → Fn) : (s.updFn f g).plumb = s.plumb := rfl
@[simp] theorem State.updFn_regs (s : State) (f : Nat) (g : Fn → Fn) : (s.updFn f g).regs = s.regs := rfl
@[simp] theorem State.updFn_pages (s : State) (f : Nat) (g : Fn → Fn) : (s.updFn f g).pages = s.pages := rfl
@[simp] theorem State.updFn_halves (s : State) (f : Nat) (g : Fn → Fn) : (s.updFn f g).halves = s.halves := rfl
@[simp] theorem State.updFn_snaps (s : State) (f : Nat) (g : Fn → Fn) : (s.updFn f g).snaps = s.snaps := rfl
@[simp] theorem State.updFn_snap (s : State) (f : Nat) (g : Fn → Fn) : (s.updFn f g).snap = s.snap := rfl
@[simp] theorem State.updFn_recs (s : State) (f : Nat) (g : Fn → Fn) : (s.updFn f g).recs = s.recs := rfl
@[simp] theorem State.updFn_todo (s : State) (f : Nat) (g : Fn → Fn) : (s.updFn f g).todo = s.todo := rfl
@[simp] theorem State.updFn_hbm (s : State) (f : Nat) (g : Fn → Fn) : (s.updFn f g).hbm = s.hbm := rfl
@[simp] theorem State.updFn_stackTab (s : State) (f : Nat) (g : Fn → Fn) : (s.updFn f g).stackTab = s.stackTab := rfl
@[simp] theorem State.updFn_mem (s : State) (f : Nat) (g : Fn → Fn) : (s.updFn f g).mem = s.mem := rfl
@[simp] theorem State.updFn_xlt (s : State) (f : Nat) (g : Fn → Fn) : (s.updFn f g).xlt = s.xlt := rfl
@[simp] theorem State.updFn_noc (s : State) (f : Nat) (g : Fn → Fn) : (s.updFn f g).noc = s.noc := rfl
@[simp] theorem State.updFn_tileMem (s : State) (f : Nat) (g : Fn → Fn) : (s.updFn f g).tileMem = s.tileMem := rfl
@[simp] theorem State.updFn_tileFull (s : State) (f : Nat) (g : Fn → Fn) : (s.updFn f g).tileFull = s.tileFull := rfl
@[simp] theorem State.updFn_tilePoison (s : State) (f : Nat) (g : Fn → Fn) : (s.updFn f g).tilePoison = s.tilePoison := rfl
@[simp] theorem State.updFn_engs (s : State) (f : Nat) (g : Fn → Fn) : (s.updFn f g).engs = s.engs := rfl
@[simp] theorem State.updFn_ctxs (s : State) (f : Nat) (g : Fn → Fn) : (s.updFn f g).ctxs = s.ctxs := rfl
@[simp] theorem State.updFn_tiles (s : State) (f : Nat) (g : Fn → Fn) : (s.updFn f g).tiles = s.tiles := rfl
@[simp] theorem State.updFn_hlth (s : State) (f : Nat) (g : Fn → Fn) : (s.updFn f g).hlth = s.hlth := rfl
@[simp] theorem State.updFn_sched (s : State) (f : Nat) (g : Fn → Fn) : (s.updFn f g).sched = s.sched := rfl
@[simp] theorem State.updFn_reps (s : State) (f : Nat) (g : Fn → Fn) : (s.updFn f g).reps = s.reps := rfl
@[simp] theorem State.updFn_conns (s : State) (f : Nat) (g : Fn → Fn) : (s.updFn f g).conns = s.conns := rfl
@[simp] theorem State.updFn_msgId (s : State) (f : Nat) (g : Fn → Fn) : (s.updFn f g).msgId = s.msgId := rfl
@[simp] theorem State.updFn_psl (s : State) (f : Nat) (g : Fn → Fn) : (s.updFn f g).psl = s.psl := rfl
@[simp] theorem State.updFn_ports (s : State) (f : Nat) (g : Fn → Fn) : (s.updFn f g).ports = s.ports := rfl
@[simp] theorem State.updFn_cores (s : State) (f : Nat) (g : Fn → Fn) : (s.updFn f g).cores = s.cores := rfl
@[simp] theorem State.updFn_keySlots (s : State) (f : Nat) (g : Fn → Fn) : (s.updFn f g).keySlots = s.keySlots := rfl
@[simp] theorem State.updFn_boot (s : State) (f : Nat) (g : Fn → Fn) : (s.updFn f g).boot = s.boot := rfl
@[simp] theorem State.updFn_nv (s : State) (f : Nat) (g : Fn → Fn) : (s.updFn f g).nv = s.nv := rfl
@[simp] theorem State.updFn_pwr (s : State) (f : Nat) (g : Fn → Fn) : (s.updFn f g).pwr = s.pwr := rfl
@[simp] theorem State.updFn_thm (s : State) (f : Nat) (g : Fn → Fn) : (s.updFn f g).thm = s.thm := rfl
@[simp] theorem State.updFn_dust (s : State) (f : Nat) (g : Fn → Fn) : (s.updFn f g).dust = s.dust := rfl
@[simp] theorem State.updFn_dbgPort (s : State) (f : Nat) (g : Fn → Fn) : (s.updFn f g).dbgPort = s.dbgPort := rfl
@[simp] theorem State.updFn_grps (s : State) (f : Nat) (g : Fn → Fn) : (s.updFn f g).grps = s.grps := rfl
@[simp] theorem State.updFn_flights (s : State) (f : Nat) (g : Fn → Fn) : (s.updFn f g).flights = s.flights := rfl
@[simp] theorem State.updFn_moeHub (s : State) (f : Nat) (g : Fn → Fn) : (s.updFn f g).moeHub = s.moeHub := rfl
@[simp] theorem State.updFn_wqs (s : State) (f : Nat) (g : Fn → Fn) : (s.updFn f g).wqs = s.wqs := rfl
@[simp] theorem State.updFn_evqs (s : State) (f : Nat) (g : Fn → Fn) : (s.updFn f g).evqs = s.evqs := rfl
@[simp] theorem State.updFn_arb (s : State) (f : Nat) (g : Fn → Fn) : (s.updFn f g).arb = s.arb := rfl
@[simp] theorem State.updFn_mgmt (s : State) (f : Nat) (g : Fn → Fn) : (s.updFn f g).mgmt = s.mgmt := rfl
@[simp] theorem State.updFn_mbx (s : State) (f : Nat) (g : Fn → Fn) : (s.updFn f g).mbx = s.mbx := rfl
@[simp] theorem State.updFn_wqViews (s : State) (f : Nat) (g : Fn → Fn) : (s.updFn f g).wqViews = s.wqViews := rfl
@[simp] theorem State.updFn_evqViews (s : State) (f : Nat) (g : Fn → Fn) : (s.updFn f g).evqViews = s.evqViews := rfl
@[simp] theorem State.updFn_pcieRds (s : State) (f : Nat) (g : Fn → Fn) : (s.updFn f g).pcieRds = s.pcieRds := rfl
@[simp] theorem State.updFn_freeCtr (s : State) (f : Nat) (g : Fn → Fn) : (s.updFn f g).freeCtr = s.freeCtr := rfl
@[simp] theorem State.updFn_out (s : State) (f : Nat) (g : Fn → Fn) : (s.updFn f g).out = s.out := rfl
@[simp] theorem State.updFn_pending (s : State) (f : Nat) (g : Fn → Fn) : (s.updFn f g).pending = s.pending := rfl

/-! `State.updEvq` -/

@[simp] theorem State.updEvq_glb (s : State) (q : Nat) (g : Evq → Evq) : (s.updEvq q g).glb = s.glb := rfl
@[simp] theorem State.updEvq_plumb (s : State) (q : Nat) (g : Evq → Evq) : (s.updEvq q g).plumb = s.plumb := rfl
@[simp] theorem State.updEvq_regs (s : State) (q : Nat) (g : Evq → Evq) : (s.updEvq q g).regs = s.regs := rfl
@[simp] theorem State.updEvq_pages (s : State) (q : Nat) (g : Evq → Evq) : (s.updEvq q g).pages = s.pages := rfl
@[simp] theorem State.updEvq_halves (s : State) (q : Nat) (g : Evq → Evq) : (s.updEvq q g).halves = s.halves := rfl
@[simp] theorem State.updEvq_snaps (s : State) (q : Nat) (g : Evq → Evq) : (s.updEvq q g).snaps = s.snaps := rfl
@[simp] theorem State.updEvq_snap (s : State) (q : Nat) (g : Evq → Evq) : (s.updEvq q g).snap = s.snap := rfl
@[simp] theorem State.updEvq_recs (s : State) (q : Nat) (g : Evq → Evq) : (s.updEvq q g).recs = s.recs := rfl
@[simp] theorem State.updEvq_todo (s : State) (q : Nat) (g : Evq → Evq) : (s.updEvq q g).todo = s.todo := rfl
@[simp] theorem State.updEvq_hbm (s : State) (q : Nat) (g : Evq → Evq) : (s.updEvq q g).hbm = s.hbm := rfl
@[simp] theorem State.updEvq_stackTab (s : State) (q : Nat) (g : Evq → Evq) : (s.updEvq q g).stackTab = s.stackTab := rfl
@[simp] theorem State.updEvq_mem (s : State) (q : Nat) (g : Evq → Evq) : (s.updEvq q g).mem = s.mem := rfl
@[simp] theorem State.updEvq_xlt (s : State) (q : Nat) (g : Evq → Evq) : (s.updEvq q g).xlt = s.xlt := rfl
@[simp] theorem State.updEvq_noc (s : State) (q : Nat) (g : Evq → Evq) : (s.updEvq q g).noc = s.noc := rfl
@[simp] theorem State.updEvq_tileMem (s : State) (q : Nat) (g : Evq → Evq) : (s.updEvq q g).tileMem = s.tileMem := rfl
@[simp] theorem State.updEvq_tileFull (s : State) (q : Nat) (g : Evq → Evq) : (s.updEvq q g).tileFull = s.tileFull := rfl
@[simp] theorem State.updEvq_tilePoison (s : State) (q : Nat) (g : Evq → Evq) : (s.updEvq q g).tilePoison = s.tilePoison := rfl
@[simp] theorem State.updEvq_engs (s : State) (q : Nat) (g : Evq → Evq) : (s.updEvq q g).engs = s.engs := rfl
@[simp] theorem State.updEvq_ctxs (s : State) (q : Nat) (g : Evq → Evq) : (s.updEvq q g).ctxs = s.ctxs := rfl
@[simp] theorem State.updEvq_tiles (s : State) (q : Nat) (g : Evq → Evq) : (s.updEvq q g).tiles = s.tiles := rfl
@[simp] theorem State.updEvq_hlth (s : State) (q : Nat) (g : Evq → Evq) : (s.updEvq q g).hlth = s.hlth := rfl
@[simp] theorem State.updEvq_sched (s : State) (q : Nat) (g : Evq → Evq) : (s.updEvq q g).sched = s.sched := rfl
@[simp] theorem State.updEvq_reps (s : State) (q : Nat) (g : Evq → Evq) : (s.updEvq q g).reps = s.reps := rfl
@[simp] theorem State.updEvq_conns (s : State) (q : Nat) (g : Evq → Evq) : (s.updEvq q g).conns = s.conns := rfl
@[simp] theorem State.updEvq_msgId (s : State) (q : Nat) (g : Evq → Evq) : (s.updEvq q g).msgId = s.msgId := rfl
@[simp] theorem State.updEvq_psl (s : State) (q : Nat) (g : Evq → Evq) : (s.updEvq q g).psl = s.psl := rfl
@[simp] theorem State.updEvq_ports (s : State) (q : Nat) (g : Evq → Evq) : (s.updEvq q g).ports = s.ports := rfl
@[simp] theorem State.updEvq_cores (s : State) (q : Nat) (g : Evq → Evq) : (s.updEvq q g).cores = s.cores := rfl
@[simp] theorem State.updEvq_keySlots (s : State) (q : Nat) (g : Evq → Evq) : (s.updEvq q g).keySlots = s.keySlots := rfl
@[simp] theorem State.updEvq_boot (s : State) (q : Nat) (g : Evq → Evq) : (s.updEvq q g).boot = s.boot := rfl
@[simp] theorem State.updEvq_nv (s : State) (q : Nat) (g : Evq → Evq) : (s.updEvq q g).nv = s.nv := rfl
@[simp] theorem State.updEvq_pwr (s : State) (q : Nat) (g : Evq → Evq) : (s.updEvq q g).pwr = s.pwr := rfl
@[simp] theorem State.updEvq_thm (s : State) (q : Nat) (g : Evq → Evq) : (s.updEvq q g).thm = s.thm := rfl
@[simp] theorem State.updEvq_dust (s : State) (q : Nat) (g : Evq → Evq) : (s.updEvq q g).dust = s.dust := rfl
@[simp] theorem State.updEvq_dbgPort (s : State) (q : Nat) (g : Evq → Evq) : (s.updEvq q g).dbgPort = s.dbgPort := rfl
@[simp] theorem State.updEvq_grps (s : State) (q : Nat) (g : Evq → Evq) : (s.updEvq q g).grps = s.grps := rfl
@[simp] theorem State.updEvq_flights (s : State) (q : Nat) (g : Evq → Evq) : (s.updEvq q g).flights = s.flights := rfl
@[simp] theorem State.updEvq_moeHub (s : State) (q : Nat) (g : Evq → Evq) : (s.updEvq q g).moeHub = s.moeHub := rfl
@[simp] theorem State.updEvq_fns (s : State) (q : Nat) (g : Evq → Evq) : (s.updEvq q g).fns = s.fns := rfl
@[simp] theorem State.updEvq_wqs (s : State) (q : Nat) (g : Evq → Evq) : (s.updEvq q g).wqs = s.wqs := rfl
@[simp] theorem State.updEvq_arb (s : State) (q : Nat) (g : Evq → Evq) : (s.updEvq q g).arb = s.arb := rfl
@[simp] theorem State.updEvq_mgmt (s : State) (q : Nat) (g : Evq → Evq) : (s.updEvq q g).mgmt = s.mgmt := rfl
@[simp] theorem State.updEvq_mbx (s : State) (q : Nat) (g : Evq → Evq) : (s.updEvq q g).mbx = s.mbx := rfl
@[simp] theorem State.updEvq_wqViews (s : State) (q : Nat) (g : Evq → Evq) : (s.updEvq q g).wqViews = s.wqViews := rfl
@[simp] theorem State.updEvq_evqViews (s : State) (q : Nat) (g : Evq → Evq) : (s.updEvq q g).evqViews = s.evqViews := rfl
@[simp] theorem State.updEvq_pcieRds (s : State) (q : Nat) (g : Evq → Evq) : (s.updEvq q g).pcieRds = s.pcieRds := rfl
@[simp] theorem State.updEvq_freeCtr (s : State) (q : Nat) (g : Evq → Evq) : (s.updEvq q g).freeCtr = s.freeCtr := rfl
@[simp] theorem State.updEvq_out (s : State) (q : Nat) (g : Evq → Evq) : (s.updEvq q g).out = s.out := rfl
@[simp] theorem State.updEvq_pending (s : State) (q : Nat) (g : Evq → Evq) : (s.updEvq q g).pending = s.pending := rfl

/-! `State.updArb` -/

@[simp] theorem State.updArb_glb (s : State) (g : Arb → Arb) : (s.updArb g).glb = s.glb := rfl
@[simp] theorem State.updArb_plumb (s : State) (g : Arb → Arb) : (s.updArb g).plumb = s.plumb := rfl
@[simp] theorem State.updArb_regs (s : State) (g : Arb → Arb) : (s.updArb g).regs = s.regs := rfl
@[simp] theorem State.updArb_pages (s : State) (g : Arb → Arb) : (s.updArb g).pages = s.pages := rfl
@[simp] theorem State.updArb_halves (s : State) (g : Arb → Arb) : (s.updArb g).halves = s.halves := rfl
@[simp] theorem State.updArb_snaps (s : State) (g : Arb → Arb) : (s.updArb g).snaps = s.snaps := rfl
@[simp] theorem State.updArb_snap (s : State) (g : Arb → Arb) : (s.updArb g).snap = s.snap := rfl
@[simp] theorem State.updArb_recs (s : State) (g : Arb → Arb) : (s.updArb g).recs = s.recs := rfl
@[simp] theorem State.updArb_todo (s : State) (g : Arb → Arb) : (s.updArb g).todo = s.todo := rfl
@[simp] theorem State.updArb_hbm (s : State) (g : Arb → Arb) : (s.updArb g).hbm = s.hbm := rfl
@[simp] theorem State.updArb_stackTab (s : State) (g : Arb → Arb) : (s.updArb g).stackTab = s.stackTab := rfl
@[simp] theorem State.updArb_mem (s : State) (g : Arb → Arb) : (s.updArb g).mem = s.mem := rfl
@[simp] theorem State.updArb_xlt (s : State) (g : Arb → Arb) : (s.updArb g).xlt = s.xlt := rfl
@[simp] theorem State.updArb_noc (s : State) (g : Arb → Arb) : (s.updArb g).noc = s.noc := rfl
@[simp] theorem State.updArb_tileMem (s : State) (g : Arb → Arb) : (s.updArb g).tileMem = s.tileMem := rfl
@[simp] theorem State.updArb_tileFull (s : State) (g : Arb → Arb) : (s.updArb g).tileFull = s.tileFull := rfl
@[simp] theorem State.updArb_tilePoison (s : State) (g : Arb → Arb) : (s.updArb g).tilePoison = s.tilePoison := rfl
@[simp] theorem State.updArb_engs (s : State) (g : Arb → Arb) : (s.updArb g).engs = s.engs := rfl
@[simp] theorem State.updArb_ctxs (s : State) (g : Arb → Arb) : (s.updArb g).ctxs = s.ctxs := rfl
@[simp] theorem State.updArb_tiles (s : State) (g : Arb → Arb) : (s.updArb g).tiles = s.tiles := rfl
@[simp] theorem State.updArb_hlth (s : State) (g : Arb → Arb) : (s.updArb g).hlth = s.hlth := rfl
@[simp] theorem State.updArb_sched (s : State) (g : Arb → Arb) : (s.updArb g).sched = s.sched := rfl
@[simp] theorem State.updArb_reps (s : State) (g : Arb → Arb) : (s.updArb g).reps = s.reps := rfl
@[simp] theorem State.updArb_conns (s : State) (g : Arb → Arb) : (s.updArb g).conns = s.conns := rfl
@[simp] theorem State.updArb_msgId (s : State) (g : Arb → Arb) : (s.updArb g).msgId = s.msgId := rfl
@[simp] theorem State.updArb_psl (s : State) (g : Arb → Arb) : (s.updArb g).psl = s.psl := rfl
@[simp] theorem State.updArb_ports (s : State) (g : Arb → Arb) : (s.updArb g).ports = s.ports := rfl
@[simp] theorem State.updArb_cores (s : State) (g : Arb → Arb) : (s.updArb g).cores = s.cores := rfl
@[simp] theorem State.updArb_keySlots (s : State) (g : Arb → Arb) : (s.updArb g).keySlots = s.keySlots := rfl
@[simp] theorem State.updArb_boot (s : State) (g : Arb → Arb) : (s.updArb g).boot = s.boot := rfl
@[simp] theorem State.updArb_nv (s : State) (g : Arb → Arb) : (s.updArb g).nv = s.nv := rfl
@[simp] theorem State.updArb_pwr (s : State) (g : Arb → Arb) : (s.updArb g).pwr = s.pwr := rfl
@[simp] theorem State.updArb_thm (s : State) (g : Arb → Arb) : (s.updArb g).thm = s.thm := rfl
@[simp] theorem State.updArb_dust (s : State) (g : Arb → Arb) : (s.updArb g).dust = s.dust := rfl
@[simp] theorem State.updArb_dbgPort (s : State) (g : Arb → Arb) : (s.updArb g).dbgPort = s.dbgPort := rfl
@[simp] theorem State.updArb_grps (s : State) (g : Arb → Arb) : (s.updArb g).grps = s.grps := rfl
@[simp] theorem State.updArb_flights (s : State) (g : Arb → Arb) : (s.updArb g).flights = s.flights := rfl
@[simp] theorem State.updArb_moeHub (s : State) (g : Arb → Arb) : (s.updArb g).moeHub = s.moeHub := rfl
@[simp] theorem State.updArb_fns (s : State) (g : Arb → Arb) : (s.updArb g).fns = s.fns := rfl
@[simp] theorem State.updArb_wqs (s : State) (g : Arb → Arb) : (s.updArb g).wqs = s.wqs := rfl
@[simp] theorem State.updArb_evqs (s : State) (g : Arb → Arb) : (s.updArb g).evqs = s.evqs := rfl
@[simp] theorem State.updArb_mgmt (s : State) (g : Arb → Arb) : (s.updArb g).mgmt = s.mgmt := rfl
@[simp] theorem State.updArb_mbx (s : State) (g : Arb → Arb) : (s.updArb g).mbx = s.mbx := rfl
@[simp] theorem State.updArb_wqViews (s : State) (g : Arb → Arb) : (s.updArb g).wqViews = s.wqViews := rfl
@[simp] theorem State.updArb_evqViews (s : State) (g : Arb → Arb) : (s.updArb g).evqViews = s.evqViews := rfl
@[simp] theorem State.updArb_pcieRds (s : State) (g : Arb → Arb) : (s.updArb g).pcieRds = s.pcieRds := rfl
@[simp] theorem State.updArb_freeCtr (s : State) (g : Arb → Arb) : (s.updArb g).freeCtr = s.freeCtr := rfl
@[simp] theorem State.updArb_out (s : State) (g : Arb → Arb) : (s.updArb g).out = s.out := rfl
@[simp] theorem State.updArb_pending (s : State) (g : Arb → Arb) : (s.updArb g).pending = s.pending := rfl
@[simp] theorem State.updArb_arb (s : State) (g : Arb → Arb) : (s.updArb g).arb = g s.arb := rfl

/-! `State.updRep` -/

@[simp] theorem State.updRep_glb (s : State) (r : Nat) (g : Rep → Rep) : (s.updRep r g).glb = s.glb := rfl
@[simp] theorem State.updRep_plumb (s : State) (r : Nat) (g : Rep → Rep) : (s.updRep r g).plumb = s.plumb := rfl
@[simp] theorem State.updRep_regs (s : State) (r : Nat) (g : Rep → Rep) : (s.updRep r g).regs = s.regs := rfl
@[simp] theorem State.updRep_pages (s : State) (r : Nat) (g : Rep → Rep) : (s.updRep r g).pages = s.pages := rfl
@[simp] theorem State.updRep_halves (s : State) (r : Nat) (g : Rep → Rep) : (s.updRep r g).halves = s.halves := rfl
@[simp] theorem State.updRep_snaps (s : State) (r : Nat) (g : Rep → Rep) : (s.updRep r g).snaps = s.snaps := rfl
@[simp] theorem State.updRep_snap (s : State) (r : Nat) (g : Rep → Rep) : (s.updRep r g).snap = s.snap := rfl
@[simp] theorem State.updRep_recs (s : State) (r : Nat) (g : Rep → Rep) : (s.updRep r g).recs = s.recs := rfl
@[simp] theorem State.updRep_todo (s : State) (r : Nat) (g : Rep → Rep) : (s.updRep r g).todo = s.todo := rfl
@[simp] theorem State.updRep_hbm (s : State) (r : Nat) (g : Rep → Rep) : (s.updRep r g).hbm = s.hbm := rfl
@[simp] theorem State.updRep_stackTab (s : State) (r : Nat) (g : Rep → Rep) : (s.updRep r g).stackTab = s.stackTab := rfl
@[simp] theorem State.updRep_mem (s : State) (r : Nat) (g : Rep → Rep) : (s.updRep r g).mem = s.mem := rfl
@[simp] theorem State.updRep_xlt (s : State) (r : Nat) (g : Rep → Rep) : (s.updRep r g).xlt = s.xlt := rfl
@[simp] theorem State.updRep_noc (s : State) (r : Nat) (g : Rep → Rep) : (s.updRep r g).noc = s.noc := rfl
@[simp] theorem State.updRep_tileMem (s : State) (r : Nat) (g : Rep → Rep) : (s.updRep r g).tileMem = s.tileMem := rfl
@[simp] theorem State.updRep_tileFull (s : State) (r : Nat) (g : Rep → Rep) : (s.updRep r g).tileFull = s.tileFull := rfl
@[simp] theorem State.updRep_tilePoison (s : State) (r : Nat) (g : Rep → Rep) : (s.updRep r g).tilePoison = s.tilePoison := rfl
@[simp] theorem State.updRep_engs (s : State) (r : Nat) (g : Rep → Rep) : (s.updRep r g).engs = s.engs := rfl
@[simp] theorem State.updRep_ctxs (s : State) (r : Nat) (g : Rep → Rep) : (s.updRep r g).ctxs = s.ctxs := rfl
@[simp] theorem State.updRep_tiles (s : State) (r : Nat) (g : Rep → Rep) : (s.updRep r g).tiles = s.tiles := rfl
@[simp] theorem State.updRep_hlth (s : State) (r : Nat) (g : Rep → Rep) : (s.updRep r g).hlth = s.hlth := rfl
@[simp] theorem State.updRep_sched (s : State) (r : Nat) (g : Rep → Rep) : (s.updRep r g).sched = s.sched := rfl
@[simp] theorem State.updRep_conns (s : State) (r : Nat) (g : Rep → Rep) : (s.updRep r g).conns = s.conns := rfl
@[simp] theorem State.updRep_msgId (s : State) (r : Nat) (g : Rep → Rep) : (s.updRep r g).msgId = s.msgId := rfl
@[simp] theorem State.updRep_psl (s : State) (r : Nat) (g : Rep → Rep) : (s.updRep r g).psl = s.psl := rfl
@[simp] theorem State.updRep_ports (s : State) (r : Nat) (g : Rep → Rep) : (s.updRep r g).ports = s.ports := rfl
@[simp] theorem State.updRep_cores (s : State) (r : Nat) (g : Rep → Rep) : (s.updRep r g).cores = s.cores := rfl
@[simp] theorem State.updRep_keySlots (s : State) (r : Nat) (g : Rep → Rep) : (s.updRep r g).keySlots = s.keySlots := rfl
@[simp] theorem State.updRep_boot (s : State) (r : Nat) (g : Rep → Rep) : (s.updRep r g).boot = s.boot := rfl
@[simp] theorem State.updRep_nv (s : State) (r : Nat) (g : Rep → Rep) : (s.updRep r g).nv = s.nv := rfl
@[simp] theorem State.updRep_pwr (s : State) (r : Nat) (g : Rep → Rep) : (s.updRep r g).pwr = s.pwr := rfl
@[simp] theorem State.updRep_thm (s : State) (r : Nat) (g : Rep → Rep) : (s.updRep r g).thm = s.thm := rfl
@[simp] theorem State.updRep_dust (s : State) (r : Nat) (g : Rep → Rep) : (s.updRep r g).dust = s.dust := rfl
@[simp] theorem State.updRep_dbgPort (s : State) (r : Nat) (g : Rep → Rep) : (s.updRep r g).dbgPort = s.dbgPort := rfl
@[simp] theorem State.updRep_grps (s : State) (r : Nat) (g : Rep → Rep) : (s.updRep r g).grps = s.grps := rfl
@[simp] theorem State.updRep_flights (s : State) (r : Nat) (g : Rep → Rep) : (s.updRep r g).flights = s.flights := rfl
@[simp] theorem State.updRep_moeHub (s : State) (r : Nat) (g : Rep → Rep) : (s.updRep r g).moeHub = s.moeHub := rfl
@[simp] theorem State.updRep_fns (s : State) (r : Nat) (g : Rep → Rep) : (s.updRep r g).fns = s.fns := rfl
@[simp] theorem State.updRep_wqs (s : State) (r : Nat) (g : Rep → Rep) : (s.updRep r g).wqs = s.wqs := rfl
@[simp] theorem State.updRep_evqs (s : State) (r : Nat) (g : Rep → Rep) : (s.updRep r g).evqs = s.evqs := rfl
@[simp] theorem State.updRep_arb (s : State) (r : Nat) (g : Rep → Rep) : (s.updRep r g).arb = s.arb := rfl
@[simp] theorem State.updRep_mgmt (s : State) (r : Nat) (g : Rep → Rep) : (s.updRep r g).mgmt = s.mgmt := rfl
@[simp] theorem State.updRep_mbx (s : State) (r : Nat) (g : Rep → Rep) : (s.updRep r g).mbx = s.mbx := rfl
@[simp] theorem State.updRep_wqViews (s : State) (r : Nat) (g : Rep → Rep) : (s.updRep r g).wqViews = s.wqViews := rfl
@[simp] theorem State.updRep_evqViews (s : State) (r : Nat) (g : Rep → Rep) : (s.updRep r g).evqViews = s.evqViews := rfl
@[simp] theorem State.updRep_pcieRds (s : State) (r : Nat) (g : Rep → Rep) : (s.updRep r g).pcieRds = s.pcieRds := rfl
@[simp] theorem State.updRep_freeCtr (s : State) (r : Nat) (g : Rep → Rep) : (s.updRep r g).freeCtr = s.freeCtr := rfl
@[simp] theorem State.updRep_out (s : State) (r : Nat) (g : Rep → Rep) : (s.updRep r g).out = s.out := rfl
@[simp] theorem State.updRep_pending (s : State) (r : Nat) (g : Rep → Rep) : (s.updRep r g).pending = s.pending := rfl

/-! `State.updXlt` -/

@[simp] theorem State.updXlt_glb (s : State) (g : Xlt → Xlt) : (s.updXlt g).glb = s.glb := rfl
@[simp] theorem State.updXlt_plumb (s : State) (g : Xlt → Xlt) : (s.updXlt g).plumb = s.plumb := rfl
@[simp] theorem State.updXlt_regs (s : State) (g : Xlt → Xlt) : (s.updXlt g).regs = s.regs := rfl
@[simp] theorem State.updXlt_pages (s : State) (g : Xlt → Xlt) : (s.updXlt g).pages = s.pages := rfl
@[simp] theorem State.updXlt_halves (s : State) (g : Xlt → Xlt) : (s.updXlt g).halves = s.halves := rfl
@[simp] theorem State.updXlt_snaps (s : State) (g : Xlt → Xlt) : (s.updXlt g).snaps = s.snaps := rfl
@[simp] theorem State.updXlt_snap (s : State) (g : Xlt → Xlt) : (s.updXlt g).snap = s.snap := rfl
@[simp] theorem State.updXlt_recs (s : State) (g : Xlt → Xlt) : (s.updXlt g).recs = s.recs := rfl
@[simp] theorem State.updXlt_todo (s : State) (g : Xlt → Xlt) : (s.updXlt g).todo = s.todo := rfl
@[simp] theorem State.updXlt_hbm (s : State) (g : Xlt → Xlt) : (s.updXlt g).hbm = s.hbm := rfl
@[simp] theorem State.updXlt_stackTab (s : State) (g : Xlt → Xlt) : (s.updXlt g).stackTab = s.stackTab := rfl
@[simp] theorem State.updXlt_mem (s : State) (g : Xlt → Xlt) : (s.updXlt g).mem = s.mem := rfl
@[simp] theorem State.updXlt_noc (s : State) (g : Xlt → Xlt) : (s.updXlt g).noc = s.noc := rfl
@[simp] theorem State.updXlt_tileMem (s : State) (g : Xlt → Xlt) : (s.updXlt g).tileMem = s.tileMem := rfl
@[simp] theorem State.updXlt_tileFull (s : State) (g : Xlt → Xlt) : (s.updXlt g).tileFull = s.tileFull := rfl
@[simp] theorem State.updXlt_tilePoison (s : State) (g : Xlt → Xlt) : (s.updXlt g).tilePoison = s.tilePoison := rfl
@[simp] theorem State.updXlt_engs (s : State) (g : Xlt → Xlt) : (s.updXlt g).engs = s.engs := rfl
@[simp] theorem State.updXlt_ctxs (s : State) (g : Xlt → Xlt) : (s.updXlt g).ctxs = s.ctxs := rfl
@[simp] theorem State.updXlt_tiles (s : State) (g : Xlt → Xlt) : (s.updXlt g).tiles = s.tiles := rfl
@[simp] theorem State.updXlt_hlth (s : State) (g : Xlt → Xlt) : (s.updXlt g).hlth = s.hlth := rfl
@[simp] theorem State.updXlt_sched (s : State) (g : Xlt → Xlt) : (s.updXlt g).sched = s.sched := rfl
@[simp] theorem State.updXlt_reps (s : State) (g : Xlt → Xlt) : (s.updXlt g).reps = s.reps := rfl
@[simp] theorem State.updXlt_conns (s : State) (g : Xlt → Xlt) : (s.updXlt g).conns = s.conns := rfl
@[simp] theorem State.updXlt_msgId (s : State) (g : Xlt → Xlt) : (s.updXlt g).msgId = s.msgId := rfl
@[simp] theorem State.updXlt_psl (s : State) (g : Xlt → Xlt) : (s.updXlt g).psl = s.psl := rfl
@[simp] theorem State.updXlt_ports (s : State) (g : Xlt → Xlt) : (s.updXlt g).ports = s.ports := rfl
@[simp] theorem State.updXlt_cores (s : State) (g : Xlt → Xlt) : (s.updXlt g).cores = s.cores := rfl
@[simp] theorem State.updXlt_keySlots (s : State) (g : Xlt → Xlt) : (s.updXlt g).keySlots = s.keySlots := rfl
@[simp] theorem State.updXlt_boot (s : State) (g : Xlt → Xlt) : (s.updXlt g).boot = s.boot := rfl
@[simp] theorem State.updXlt_nv (s : State) (g : Xlt → Xlt) : (s.updXlt g).nv = s.nv := rfl
@[simp] theorem State.updXlt_pwr (s : State) (g : Xlt → Xlt) : (s.updXlt g).pwr = s.pwr := rfl
@[simp] theorem State.updXlt_thm (s : State) (g : Xlt → Xlt) : (s.updXlt g).thm = s.thm := rfl
@[simp] theorem State.updXlt_dust (s : State) (g : Xlt → Xlt) : (s.updXlt g).dust = s.dust := rfl
@[simp] theorem State.updXlt_dbgPort (s : State) (g : Xlt → Xlt) : (s.updXlt g).dbgPort = s.dbgPort := rfl
@[simp] theorem State.updXlt_grps (s : State) (g : Xlt → Xlt) : (s.updXlt g).grps = s.grps := rfl
@[simp] theorem State.updXlt_flights (s : State) (g : Xlt → Xlt) : (s.updXlt g).flights = s.flights := rfl
@[simp] theorem State.updXlt_moeHub (s : State) (g : Xlt → Xlt) : (s.updXlt g).moeHub = s.moeHub := rfl
@[simp] theorem State.updXlt_fns (s : State) (g : Xlt → Xlt) : (s.updXlt g).fns = s.fns := rfl
@[simp] theorem State.updXlt_wqs (s : State) (g : Xlt → Xlt) : (s.updXlt g).wqs = s.wqs := rfl
@[simp] theorem State.updXlt_evqs (s : State) (g : Xlt → Xlt) : (s.updXlt g).evqs = s.evqs := rfl
@[simp] theorem State.updXlt_arb (s : State) (g : Xlt → Xlt) : (s.updXlt g).arb = s.arb := rfl
@[simp] theorem State.updXlt_mgmt (s : State) (g : Xlt → Xlt) : (s.updXlt g).mgmt = s.mgmt := rfl
@[simp] theorem State.updXlt_mbx (s : State) (g : Xlt → Xlt) : (s.updXlt g).mbx = s.mbx := rfl
@[simp] theorem State.updXlt_wqViews (s : State) (g : Xlt → Xlt) : (s.updXlt g).wqViews = s.wqViews := rfl
@[simp] theorem State.updXlt_evqViews (s : State) (g : Xlt → Xlt) : (s.updXlt g).evqViews = s.evqViews := rfl
@[simp] theorem State.updXlt_pcieRds (s : State) (g : Xlt → Xlt) : (s.updXlt g).pcieRds = s.pcieRds := rfl
@[simp] theorem State.updXlt_freeCtr (s : State) (g : Xlt → Xlt) : (s.updXlt g).freeCtr = s.freeCtr := rfl
@[simp] theorem State.updXlt_out (s : State) (g : Xlt → Xlt) : (s.updXlt g).out = s.out := rfl
@[simp] theorem State.updXlt_pending (s : State) (g : Xlt → Xlt) : (s.updXlt g).pending = s.pending := rfl
@[simp] theorem State.updXlt_xlt (s : State) (g : Xlt → Xlt) : (s.updXlt g).xlt = g s.xlt := rfl

/-! `State.updCtx` -/

@[simp] theorem State.updCtx_glb (s : State) (k : Nat) (g : Ctx → Ctx) : (s.updCtx k g).glb = s.glb := rfl
@[simp] theorem State.updCtx_plumb (s : State) (k : Nat) (g : Ctx → Ctx) : (s.updCtx k g).plumb = s.plumb := rfl
@[simp] theorem State.updCtx_regs (s : State) (k : Nat) (g : Ctx → Ctx) : (s.updCtx k g).regs = s.regs := rfl
@[simp] theorem State.updCtx_pages (s : State) (k : Nat) (g : Ctx → Ctx) : (s.updCtx k g).pages = s.pages := rfl
@[simp] theorem State.updCtx_halves (s : State) (k : Nat) (g : Ctx → Ctx) : (s.updCtx k g).halves = s.halves := rfl
@[simp] theorem State.updCtx_snaps (s : State) (k : Nat) (g : Ctx → Ctx) : (s.updCtx k g).snaps = s.snaps := rfl
@[simp] theorem State.updCtx_snap (s : State) (k : Nat) (g : Ctx → Ctx) : (s.updCtx k g).snap = s.snap := rfl
@[simp] theorem State.updCtx_recs (s : State) (k : Nat) (g : Ctx → Ctx) : (s.updCtx k g).recs = s.recs := rfl
@[simp] theorem State.updCtx_todo (s : State) (k : Nat) (g : Ctx → Ctx) : (s.updCtx k g).todo = s.todo := rfl
@[simp] theorem State.updCtx_hbm (s : State) (k : Nat) (g : Ctx → Ctx) : (s.updCtx k g).hbm = s.hbm := rfl
@[simp] theorem State.updCtx_stackTab (s : State) (k : Nat) (g : Ctx → Ctx) : (s.updCtx k g).stackTab = s.stackTab := rfl
@[simp] theorem State.updCtx_mem (s : State) (k : Nat) (g : Ctx → Ctx) : (s.updCtx k g).mem = s.mem := rfl
@[simp] theorem State.updCtx_xlt (s : State) (k : Nat) (g : Ctx → Ctx) : (s.updCtx k g).xlt = s.xlt := rfl
@[simp] theorem State.updCtx_noc (s : State) (k : Nat) (g : Ctx → Ctx) : (s.updCtx k g).noc = s.noc := rfl
@[simp] theorem State.updCtx_tileMem (s : State) (k : Nat) (g : Ctx → Ctx) : (s.updCtx k g).tileMem = s.tileMem := rfl
@[simp] theorem State.updCtx_tileFull (s : State) (k : Nat) (g : Ctx → Ctx) : (s.updCtx k g).tileFull = s.tileFull := rfl
@[simp] theorem State.updCtx_tilePoison (s : State) (k : Nat) (g : Ctx → Ctx) : (s.updCtx k g).tilePoison = s.tilePoison := rfl
@[simp] theorem State.updCtx_engs (s : State) (k : Nat) (g : Ctx → Ctx) : (s.updCtx k g).engs = s.engs := rfl
@[simp] theorem State.updCtx_tiles (s : State) (k : Nat) (g : Ctx → Ctx) : (s.updCtx k g).tiles = s.tiles := rfl
@[simp] theorem State.updCtx_hlth (s : State) (k : Nat) (g : Ctx → Ctx) : (s.updCtx k g).hlth = s.hlth := rfl
@[simp] theorem State.updCtx_sched (s : State) (k : Nat) (g : Ctx → Ctx) : (s.updCtx k g).sched = s.sched := rfl
@[simp] theorem State.updCtx_reps (s : State) (k : Nat) (g : Ctx → Ctx) : (s.updCtx k g).reps = s.reps := rfl
@[simp] theorem State.updCtx_conns (s : State) (k : Nat) (g : Ctx → Ctx) : (s.updCtx k g).conns = s.conns := rfl
@[simp] theorem State.updCtx_msgId (s : State) (k : Nat) (g : Ctx → Ctx) : (s.updCtx k g).msgId = s.msgId := rfl
@[simp] theorem State.updCtx_psl (s : State) (k : Nat) (g : Ctx → Ctx) : (s.updCtx k g).psl = s.psl := rfl
@[simp] theorem State.updCtx_ports (s : State) (k : Nat) (g : Ctx → Ctx) : (s.updCtx k g).ports = s.ports := rfl
@[simp] theorem State.updCtx_cores (s : State) (k : Nat) (g : Ctx → Ctx) : (s.updCtx k g).cores = s.cores := rfl
@[simp] theorem State.updCtx_keySlots (s : State) (k : Nat) (g : Ctx → Ctx) : (s.updCtx k g).keySlots = s.keySlots := rfl
@[simp] theorem State.updCtx_boot (s : State) (k : Nat) (g : Ctx → Ctx) : (s.updCtx k g).boot = s.boot := rfl
@[simp] theorem State.updCtx_nv (s : State) (k : Nat) (g : Ctx → Ctx) : (s.updCtx k g).nv = s.nv := rfl
@[simp] theorem State.updCtx_pwr (s : State) (k : Nat) (g : Ctx → Ctx) : (s.updCtx k g).pwr = s.pwr := rfl
@[simp] theorem State.updCtx_thm (s : State) (k : Nat) (g : Ctx → Ctx) : (s.updCtx k g).thm = s.thm := rfl
@[simp] theorem State.updCtx_dust (s : State) (k : Nat) (g : Ctx → Ctx) : (s.updCtx k g).dust = s.dust := rfl
@[simp] theorem State.updCtx_dbgPort (s : State) (k : Nat) (g : Ctx → Ctx) : (s.updCtx k g).dbgPort = s.dbgPort := rfl
@[simp] theorem State.updCtx_grps (s : State) (k : Nat) (g : Ctx → Ctx) : (s.updCtx k g).grps = s.grps := rfl
@[simp] theorem State.updCtx_flights (s : State) (k : Nat) (g : Ctx → Ctx) : (s.updCtx k g).flights = s.flights := rfl
@[simp] theorem State.updCtx_moeHub (s : State) (k : Nat) (g : Ctx → Ctx) : (s.updCtx k g).moeHub = s.moeHub := rfl
@[simp] theorem State.updCtx_fns (s : State) (k : Nat) (g : Ctx → Ctx) : (s.updCtx k g).fns = s.fns := rfl
@[simp] theorem State.updCtx_wqs (s : State) (k : Nat) (g : Ctx → Ctx) : (s.updCtx k g).wqs = s.wqs := rfl
@[simp] theorem State.updCtx_evqs (s : State) (k : Nat) (g : Ctx → Ctx) : (s.updCtx k g).evqs = s.evqs := rfl
@[simp] theorem State.updCtx_arb (s : State) (k : Nat) (g : Ctx → Ctx) : (s.updCtx k g).arb = s.arb := rfl
@[simp] theorem State.updCtx_mgmt (s : State) (k : Nat) (g : Ctx → Ctx) : (s.updCtx k g).mgmt = s.mgmt := rfl
@[simp] theorem State.updCtx_mbx (s : State) (k : Nat) (g : Ctx → Ctx) : (s.updCtx k g).mbx = s.mbx := rfl
@[simp] theorem State.updCtx_wqViews (s : State) (k : Nat) (g : Ctx → Ctx) : (s.updCtx k g).wqViews = s.wqViews := rfl
@[simp] theorem State.updCtx_evqViews (s : State) (k : Nat) (g : Ctx → Ctx) : (s.updCtx k g).evqViews = s.evqViews := rfl
@[simp] theorem State.updCtx_pcieRds (s : State) (k : Nat) (g : Ctx → Ctx) : (s.updCtx k g).pcieRds = s.pcieRds := rfl
@[simp] theorem State.updCtx_freeCtr (s : State) (k : Nat) (g : Ctx → Ctx) : (s.updCtx k g).freeCtr = s.freeCtr := rfl
@[simp] theorem State.updCtx_out (s : State) (k : Nat) (g : Ctx → Ctx) : (s.updCtx k g).out = s.out := rfl
@[simp] theorem State.updCtx_pending (s : State) (k : Nat) (g : Ctx → Ctx) : (s.updCtx k g).pending = s.pending := rfl

/-! `State.updEng` -/

@[simp] theorem State.updEng_glb (s : State) (e : Nat) (g : Eng → Eng) : (s.updEng e g).glb = s.glb := rfl
@[simp] theorem State.updEng_plumb (s : State) (e : Nat) (g : Eng → Eng) : (s.updEng e g).plumb = s.plumb := rfl
@[simp] theorem State.updEng_regs (s : State) (e : Nat) (g : Eng → Eng) : (s.updEng e g).regs = s.regs := rfl
@[simp] theorem State.updEng_pages (s : State) (e : Nat) (g : Eng → Eng) : (s.updEng e g).pages = s.pages := rfl
@[simp] theorem State.updEng_halves (s : State) (e : Nat) (g : Eng → Eng) : (s.updEng e g).halves = s.halves := rfl
@[simp] theorem State.updEng_snaps (s : State) (e : Nat) (g : Eng → Eng) : (s.updEng e g).snaps = s.snaps := rfl
@[simp] theorem State.updEng_snap (s : State) (e : Nat) (g : Eng → Eng) : (s.updEng e g).snap = s.snap := rfl
@[simp] theorem State.updEng_recs (s : State) (e : Nat) (g : Eng → Eng) : (s.updEng e g).recs = s.recs := rfl
@[simp] theorem State.updEng_todo (s : State) (e : Nat) (g : Eng → Eng) : (s.updEng e g).todo = s.todo := rfl
@[simp] theorem State.updEng_hbm (s : State) (e : Nat) (g : Eng → Eng) : (s.updEng e g).hbm = s.hbm := rfl
@[simp] theorem State.updEng_stackTab (s : State) (e : Nat) (g : Eng → Eng) : (s.updEng e g).stackTab = s.stackTab := rfl
@[simp] theorem State.updEng_mem (s : State) (e : Nat) (g : Eng → Eng) : (s.updEng e g).mem = s.mem := rfl
@[simp] theorem State.updEng_xlt (s : State) (e : Nat) (g : Eng → Eng) : (s.updEng e g).xlt = s.xlt := rfl
@[simp] theorem State.updEng_noc (s : State) (e : Nat) (g : Eng → Eng) : (s.updEng e g).noc = s.noc := rfl
@[simp] theorem State.updEng_tileMem (s : State) (e : Nat) (g : Eng → Eng) : (s.updEng e g).tileMem = s.tileMem := rfl
@[simp] theorem State.updEng_tileFull (s : State) (e : Nat) (g : Eng → Eng) : (s.updEng e g).tileFull = s.tileFull := rfl
@[simp] theorem State.updEng_tilePoison (s : State) (e : Nat) (g : Eng → Eng) : (s.updEng e g).tilePoison = s.tilePoison := rfl
@[simp] theorem State.updEng_ctxs (s : State) (e : Nat) (g : Eng → Eng) : (s.updEng e g).ctxs = s.ctxs := rfl
@[simp] theorem State.updEng_tiles (s : State) (e : Nat) (g : Eng → Eng) : (s.updEng e g).tiles = s.tiles := rfl
@[simp] theorem State.updEng_hlth (s : State) (e : Nat) (g : Eng → Eng) : (s.updEng e g).hlth = s.hlth := rfl
@[simp] theorem State.updEng_sched (s : State) (e : Nat) (g : Eng → Eng) : (s.updEng e g).sched = s.sched := rfl
@[simp] theorem State.updEng_reps (s : State) (e : Nat) (g : Eng → Eng) : (s.updEng e g).reps = s.reps := rfl
@[simp] theorem State.updEng_conns (s : State) (e : Nat) (g : Eng → Eng) : (s.updEng e g).conns = s.conns := rfl
@[simp] theorem State.updEng_msgId (s : State) (e : Nat) (g : Eng → Eng) : (s.updEng e g).msgId = s.msgId := rfl
@[simp] theorem State.updEng_psl (s : State) (e : Nat) (g : Eng → Eng) : (s.updEng e g).psl = s.psl := rfl
@[simp] theorem State.updEng_ports (s : State) (e : Nat) (g : Eng → Eng) : (s.updEng e g).ports = s.ports := rfl
@[simp] theorem State.updEng_cores (s : State) (e : Nat) (g : Eng → Eng) : (s.updEng e g).cores = s.cores := rfl
@[simp] theorem State.updEng_keySlots (s : State) (e : Nat) (g : Eng → Eng) : (s.updEng e g).keySlots = s.keySlots := rfl
@[simp] theorem State.updEng_boot (s : State) (e : Nat) (g : Eng → Eng) : (s.updEng e g).boot = s.boot := rfl
@[simp] theorem State.updEng_nv (s : State) (e : Nat) (g : Eng → Eng) : (s.updEng e g).nv = s.nv := rfl
@[simp] theorem State.updEng_pwr (s : State) (e : Nat) (g : Eng → Eng) : (s.updEng e g).pwr = s.pwr := rfl
@[simp] theorem State.updEng_thm (s : State) (e : Nat) (g : Eng → Eng) : (s.updEng e g).thm = s.thm := rfl
@[simp] theorem State.updEng_dust (s : State) (e : Nat) (g : Eng → Eng) : (s.updEng e g).dust = s.dust := rfl
@[simp] theorem State.updEng_dbgPort (s : State) (e : Nat) (g : Eng → Eng) : (s.updEng e g).dbgPort = s.dbgPort := rfl
@[simp] theorem State.updEng_grps (s : State) (e : Nat) (g : Eng → Eng) : (s.updEng e g).grps = s.grps := rfl
@[simp] theorem State.updEng_flights (s : State) (e : Nat) (g : Eng → Eng) : (s.updEng e g).flights = s.flights := rfl
@[simp] theorem State.updEng_moeHub (s : State) (e : Nat) (g : Eng → Eng) : (s.updEng e g).moeHub = s.moeHub := rfl
@[simp] theorem State.updEng_fns (s : State) (e : Nat) (g : Eng → Eng) : (s.updEng e g).fns = s.fns := rfl
@[simp] theorem State.updEng_wqs (s : State) (e : Nat) (g : Eng → Eng) : (s.updEng e g).wqs = s.wqs := rfl
@[simp] theorem State.updEng_evqs (s : State) (e : Nat) (g : Eng → Eng) : (s.updEng e g).evqs = s.evqs := rfl
@[simp] theorem State.updEng_arb (s : State) (e : Nat) (g : Eng → Eng) : (s.updEng e g).arb = s.arb := rfl
@[simp] theorem State.updEng_mgmt (s : State) (e : Nat) (g : Eng → Eng) : (s.updEng e g).mgmt = s.mgmt := rfl
@[simp] theorem State.updEng_mbx (s : State) (e : Nat) (g : Eng → Eng) : (s.updEng e g).mbx = s.mbx := rfl
@[simp] theorem State.updEng_wqViews (s : State) (e : Nat) (g : Eng → Eng) : (s.updEng e g).wqViews = s.wqViews := rfl
@[simp] theorem State.updEng_evqViews (s : State) (e : Nat) (g : Eng → Eng) : (s.updEng e g).evqViews = s.evqViews := rfl
@[simp] theorem State.updEng_pcieRds (s : State) (e : Nat) (g : Eng → Eng) : (s.updEng e g).pcieRds = s.pcieRds := rfl
@[simp] theorem State.updEng_freeCtr (s : State) (e : Nat) (g : Eng → Eng) : (s.updEng e g).freeCtr = s.freeCtr := rfl
@[simp] theorem State.updEng_out (s : State) (e : Nat) (g : Eng → Eng) : (s.updEng e g).out = s.out := rfl
@[simp] theorem State.updEng_pending (s : State) (e : Nat) (g : Eng → Eng) : (s.updEng e g).pending = s.pending := rfl

/-! `State.event` -/

@[simp] theorem State.event_glb (s : State) (e : Ev) : (s.event e).glb = s.glb := rfl
@[simp] theorem State.event_plumb (s : State) (e : Ev) : (s.event e).plumb = s.plumb := rfl
@[simp] theorem State.event_regs (s : State) (e : Ev) : (s.event e).regs = s.regs := rfl
@[simp] theorem State.event_pages (s : State) (e : Ev) : (s.event e).pages = s.pages := rfl
@[simp] theorem State.event_halves (s : State) (e : Ev) : (s.event e).halves = s.halves := rfl
@[simp] theorem State.event_snaps (s : State) (e : Ev) : (s.event e).snaps = s.snaps := rfl
@[simp] theorem State.event_snap (s : State) (e : Ev) : (s.event e).snap = s.snap := rfl
@[simp] theorem State.event_recs (s : State) (e : Ev) : (s.event e).recs = s.recs := rfl
@[simp] theorem State.event_hbm (s : State) (e : Ev) : (s.event e).hbm = s.hbm := rfl
@[simp] theorem State.event_stackTab (s : State) (e : Ev) : (s.event e).stackTab = s.stackTab := rfl
@[simp] theorem State.event_mem (s : State) (e : Ev) : (s.event e).mem = s.mem := rfl
@[simp] theorem State.event_xlt (s : State) (e : Ev) : (s.event e).xlt = s.xlt := rfl
@[simp] theorem State.event_noc (s : State) (e : Ev) : (s.event e).noc = s.noc := rfl
@[simp] theorem State.event_tileMem (s : State) (e : Ev) : (s.event e).tileMem = s.tileMem := rfl
@[simp] theorem State.event_tileFull (s : State) (e : Ev) : (s.event e).tileFull = s.tileFull := rfl
@[simp] theorem State.event_tilePoison (s : State) (e : Ev) : (s.event e).tilePoison = s.tilePoison := rfl
@[simp] theorem State.event_engs (s : State) (e : Ev) : (s.event e).engs = s.engs := rfl
@[simp] theorem State.event_ctxs (s : State) (e : Ev) : (s.event e).ctxs = s.ctxs := rfl
@[simp] theorem State.event_tiles (s : State) (e : Ev) : (s.event e).tiles = s.tiles := rfl
@[simp] theorem State.event_hlth (s : State) (e : Ev) : (s.event e).hlth = s.hlth := rfl
@[simp] theorem State.event_sched (s : State) (e : Ev) : (s.event e).sched = s.sched := rfl
@[simp] theorem State.event_reps (s : State) (e : Ev) : (s.event e).reps = s.reps := rfl
@[simp] theorem State.event_conns (s : State) (e : Ev) : (s.event e).conns = s.conns := rfl
@[simp] theorem State.event_msgId (s : State) (e : Ev) : (s.event e).msgId = s.msgId := rfl
@[simp] theorem State.event_psl (s : State) (e : Ev) : (s.event e).psl = s.psl := rfl
@[simp] theorem State.event_ports (s : State) (e : Ev) : (s.event e).ports = s.ports := rfl
@[simp] theorem State.event_cores (s : State) (e : Ev) : (s.event e).cores = s.cores := rfl
@[simp] theorem State.event_keySlots (s : State) (e : Ev) : (s.event e).keySlots = s.keySlots := rfl
@[simp] theorem State.event_boot (s : State) (e : Ev) : (s.event e).boot = s.boot := rfl
@[simp] theorem State.event_nv (s : State) (e : Ev) : (s.event e).nv = s.nv := rfl
@[simp] theorem State.event_pwr (s : State) (e : Ev) : (s.event e).pwr = s.pwr := rfl
@[simp] theorem State.event_thm (s : State) (e : Ev) : (s.event e).thm = s.thm := rfl
@[simp] theorem State.event_dust (s : State) (e : Ev) : (s.event e).dust = s.dust := rfl
@[simp] theorem State.event_dbgPort (s : State) (e : Ev) : (s.event e).dbgPort = s.dbgPort := rfl
@[simp] theorem State.event_grps (s : State) (e : Ev) : (s.event e).grps = s.grps := rfl
@[simp] theorem State.event_flights (s : State) (e : Ev) : (s.event e).flights = s.flights := rfl
@[simp] theorem State.event_moeHub (s : State) (e : Ev) : (s.event e).moeHub = s.moeHub := rfl
@[simp] theorem State.event_fns (s : State) (e : Ev) : (s.event e).fns = s.fns := rfl
@[simp] theorem State.event_wqs (s : State) (e : Ev) : (s.event e).wqs = s.wqs := rfl
@[simp] theorem State.event_evqs (s : State) (e : Ev) : (s.event e).evqs = s.evqs := rfl
@[simp] theorem State.event_arb (s : State) (e : Ev) : (s.event e).arb = s.arb := rfl
@[simp] theorem State.event_mgmt (s : State) (e : Ev) : (s.event e).mgmt = s.mgmt := rfl
@[simp] theorem State.event_mbx (s : State) (e : Ev) : (s.event e).mbx = s.mbx := rfl
@[simp] theorem State.event_wqViews (s : State) (e : Ev) : (s.event e).wqViews = s.wqViews := rfl
@[simp] theorem State.event_evqViews (s : State) (e : Ev) : (s.event e).evqViews = s.evqViews := rfl
@[simp] theorem State.event_pcieRds (s : State) (e : Ev) : (s.event e).pcieRds = s.pcieRds := rfl
@[simp] theorem State.event_freeCtr (s : State) (e : Ev) : (s.event e).freeCtr = s.freeCtr := rfl
@[simp] theorem State.event_out (s : State) (e : Ev) : (s.event e).out = s.out := rfl
@[simp] theorem State.event_pending (s : State) (e : Ev) : (s.event e).pending = s.pending := rfl

/-! `State.audit` -/

@[simp] theorem State.audit_glb (s : State) (a : Aud) : (s.audit a).glb = s.glb := rfl
@[simp] theorem State.audit_plumb (s : State) (a : Aud) : (s.audit a).plumb = s.plumb := rfl
@[simp] theorem State.audit_regs (s : State) (a : Aud) : (s.audit a).regs = s.regs := rfl
@[simp] theorem State.audit_pages (s : State) (a : Aud) : (s.audit a).pages = s.pages := rfl
@[simp] theorem State.audit_halves (s : State) (a : Aud) : (s.audit a).halves = s.halves := rfl
@[simp] theorem State.audit_snaps (s : State) (a : Aud) : (s.audit a).snaps = s.snaps := rfl
@[simp] theorem State.audit_snap (s : State) (a : Aud) : (s.audit a).snap = s.snap := rfl
@[simp] theorem State.audit_recs (s : State) (a : Aud) : (s.audit a).recs = s.recs := rfl
@[simp] theorem State.audit_hbm (s : State) (a : Aud) : (s.audit a).hbm = s.hbm := rfl
@[simp] theorem State.audit_stackTab (s : State) (a : Aud) : (s.audit a).stackTab = s.stackTab := rfl
@[simp] theorem State.audit_mem (s : State) (a : Aud) : (s.audit a).mem = s.mem := rfl
@[simp] theorem State.audit_xlt (s : State) (a : Aud) : (s.audit a).xlt = s.xlt := rfl
@[simp] theorem State.audit_noc (s : State) (a : Aud) : (s.audit a).noc = s.noc := rfl
@[simp] theorem State.audit_tileMem (s : State) (a : Aud) : (s.audit a).tileMem = s.tileMem := rfl
@[simp] theorem State.audit_tileFull (s : State) (a : Aud) : (s.audit a).tileFull = s.tileFull := rfl
@[simp] theorem State.audit_tilePoison (s : State) (a : Aud) : (s.audit a).tilePoison = s.tilePoison := rfl
@[simp] theorem State.audit_engs (s : State) (a : Aud) : (s.audit a).engs = s.engs := rfl
@[simp] theorem State.audit_ctxs (s : State) (a : Aud) : (s.audit a).ctxs = s.ctxs := rfl
@[simp] theorem State.audit_tiles (s : State) (a : Aud) : (s.audit a).tiles = s.tiles := rfl
@[simp] theorem State.audit_hlth (s : State) (a : Aud) : (s.audit a).hlth = s.hlth := rfl
@[simp] theorem State.audit_sched (s : State) (a : Aud) : (s.audit a).sched = s.sched := rfl
@[simp] theorem State.audit_reps (s : State) (a : Aud) : (s.audit a).reps = s.reps := rfl
@[simp] theorem State.audit_conns (s : State) (a : Aud) : (s.audit a).conns = s.conns := rfl
@[simp] theorem State.audit_msgId (s : State) (a : Aud) : (s.audit a).msgId = s.msgId := rfl
@[simp] theorem State.audit_psl (s : State) (a : Aud) : (s.audit a).psl = s.psl := rfl
@[simp] theorem State.audit_ports (s : State) (a : Aud) : (s.audit a).ports = s.ports := rfl
@[simp] theorem State.audit_cores (s : State) (a : Aud) : (s.audit a).cores = s.cores := rfl
@[simp] theorem State.audit_keySlots (s : State) (a : Aud) : (s.audit a).keySlots = s.keySlots := rfl
@[simp] theorem State.audit_boot (s : State) (a : Aud) : (s.audit a).boot = s.boot := rfl
@[simp] theorem State.audit_nv (s : State) (a : Aud) : (s.audit a).nv = s.nv := rfl
@[simp] theorem State.audit_pwr (s : State) (a : Aud) : (s.audit a).pwr = s.pwr := rfl
@[simp] theorem State.audit_thm (s : State) (a : Aud) : (s.audit a).thm = s.thm := rfl
@[simp] theorem State.audit_dust (s : State) (a : Aud) : (s.audit a).dust = s.dust := rfl
@[simp] theorem State.audit_dbgPort (s : State) (a : Aud) : (s.audit a).dbgPort = s.dbgPort := rfl
@[simp] theorem State.audit_grps (s : State) (a : Aud) : (s.audit a).grps = s.grps := rfl
@[simp] theorem State.audit_flights (s : State) (a : Aud) : (s.audit a).flights = s.flights := rfl
@[simp] theorem State.audit_moeHub (s : State) (a : Aud) : (s.audit a).moeHub = s.moeHub := rfl
@[simp] theorem State.audit_fns (s : State) (a : Aud) : (s.audit a).fns = s.fns := rfl
@[simp] theorem State.audit_wqs (s : State) (a : Aud) : (s.audit a).wqs = s.wqs := rfl
@[simp] theorem State.audit_evqs (s : State) (a : Aud) : (s.audit a).evqs = s.evqs := rfl
@[simp] theorem State.audit_arb (s : State) (a : Aud) : (s.audit a).arb = s.arb := rfl
@[simp] theorem State.audit_mgmt (s : State) (a : Aud) : (s.audit a).mgmt = s.mgmt := rfl
@[simp] theorem State.audit_mbx (s : State) (a : Aud) : (s.audit a).mbx = s.mbx := rfl
@[simp] theorem State.audit_wqViews (s : State) (a : Aud) : (s.audit a).wqViews = s.wqViews := rfl
@[simp] theorem State.audit_evqViews (s : State) (a : Aud) : (s.audit a).evqViews = s.evqViews := rfl
@[simp] theorem State.audit_pcieRds (s : State) (a : Aud) : (s.audit a).pcieRds = s.pcieRds := rfl
@[simp] theorem State.audit_freeCtr (s : State) (a : Aud) : (s.audit a).freeCtr = s.freeCtr := rfl
@[simp] theorem State.audit_out (s : State) (a : Aud) : (s.audit a).out = s.out := rfl
@[simp] theorem State.audit_pending (s : State) (a : Aud) : (s.audit a).pending = s.pending := rfl

/-! `State.evqSend` -/

@[simp] theorem State.evqSend_glb (s : State) (q : Nat) (r : EvqRec) : (s.evqSend q r).glb = s.glb := rfl
@[simp] theorem State.evqSend_plumb (s : State) (q : Nat) (r : EvqRec) : (s.evqSend q r).plumb = s.plumb := rfl
@[simp] theorem State.evqSend_regs (s : State) (q : Nat) (r : EvqRec) : (s.evqSend q r).regs = s.regs := rfl
@[simp] theorem State.evqSend_pages (s : State) (q : Nat) (r : EvqRec) : (s.evqSend q r).pages = s.pages := rfl
@[simp] theorem State.evqSend_halves (s : State) (q : Nat) (r : EvqRec) : (s.evqSend q r).halves = s.halves := rfl
@[simp] theorem State.evqSend_snaps (s : State) (q : Nat) (r : EvqRec) : (s.evqSend q r).snaps = s.snaps := rfl
@[simp] theorem State.evqSend_snap (s : State) (q : Nat) (r : EvqRec) : (s.evqSend q r).snap = s.snap := rfl
@[simp] theorem State.evqSend_recs (s : State) (q : Nat) (r : EvqRec) : (s.evqSend q r).recs = s.recs := rfl
@[simp] theorem State.evqSend_hbm (s : State) (q : Nat) (r : EvqRec) : (s.evqSend q r).hbm = s.hbm := rfl
@[simp] theorem State.evqSend_stackTab (s : State) (q : Nat) (r : EvqRec) : (s.evqSend q r).stackTab = s.stackTab := rfl
@[simp] theorem State.evqSend_mem (s : State) (q : Nat) (r : EvqRec) : (s.evqSend q r).mem = s.mem := rfl
@[simp] theorem State.evqSend_xlt (s : State) (q : Nat) (r : EvqRec) : (s.evqSend q r).xlt = s.xlt := rfl
@[simp] theorem State.evqSend_noc (s : State) (q : Nat) (r : EvqRec) : (s.evqSend q r).noc = s.noc := rfl
@[simp] theorem State.evqSend_tileMem (s : State) (q : Nat) (r : EvqRec) : (s.evqSend q r).tileMem = s.tileMem := rfl
@[simp] theorem State.evqSend_tileFull (s : State) (q : Nat) (r : EvqRec) : (s.evqSend q r).tileFull = s.tileFull := rfl
@[simp] theorem State.evqSend_tilePoison (s : State) (q : Nat) (r : EvqRec) : (s.evqSend q r).tilePoison = s.tilePoison := rfl
@[simp] theorem State.evqSend_engs (s : State) (q : Nat) (r : EvqRec) : (s.evqSend q r).engs = s.engs := rfl
@[simp] theorem State.evqSend_ctxs (s : State) (q : Nat) (r : EvqRec) : (s.evqSend q r).ctxs = s.ctxs := rfl
@[simp] theorem State.evqSend_tiles (s : State) (q : Nat) (r : EvqRec) : (s.evqSend q r).tiles = s.tiles := rfl
@[simp] theorem State.evqSend_hlth (s : State) (q : Nat) (r : EvqRec) : (s.evqSend q r).hlth = s.hlth := rfl
@[simp] theorem State.evqSend_sched (s : State) (q : Nat) (r : EvqRec) : (s.evqSend q r).sched = s.sched := rfl
@[simp] theorem State.evqSend_reps (s : State) (q : Nat) (r : EvqRec) : (s.evqSend q r).reps = s.reps := rfl
@[simp] theorem State.evqSend_conns (s : State) (q : Nat) (r : EvqRec) : (s.evqSend q r).conns = s.conns := rfl
@[simp] theorem State.evqSend_msgId (s : State) (q : Nat) (r : EvqRec) : (s.evqSend q r).msgId = s.msgId := rfl
@[simp] theorem State.evqSend_psl (s : State) (q : Nat) (r : EvqRec) : (s.evqSend q r).psl = s.psl := rfl
@[simp] theorem State.evqSend_ports (s : State) (q : Nat) (r : EvqRec) : (s.evqSend q r).ports = s.ports := rfl
@[simp] theorem State.evqSend_cores (s : State) (q : Nat) (r : EvqRec) : (s.evqSend q r).cores = s.cores := rfl
@[simp] theorem State.evqSend_keySlots (s : State) (q : Nat) (r : EvqRec) : (s.evqSend q r).keySlots = s.keySlots := rfl
@[simp] theorem State.evqSend_boot (s : State) (q : Nat) (r : EvqRec) : (s.evqSend q r).boot = s.boot := rfl
@[simp] theorem State.evqSend_nv (s : State) (q : Nat) (r : EvqRec) : (s.evqSend q r).nv = s.nv := rfl
@[simp] theorem State.evqSend_pwr (s : State) (q : Nat) (r : EvqRec) : (s.evqSend q r).pwr = s.pwr := rfl
@[simp] theorem State.evqSend_thm (s : State) (q : Nat) (r : EvqRec) : (s.evqSend q r).thm = s.thm := rfl
@[simp] theorem State.evqSend_dust (s : State) (q : Nat) (r : EvqRec) : (s.evqSend q r).dust = s.dust := rfl
@[simp] theorem State.evqSend_dbgPort (s : State) (q : Nat) (r : EvqRec) : (s.evqSend q r).dbgPort = s.dbgPort := rfl
@[simp] theorem State.evqSend_grps (s : State) (q : Nat) (r : EvqRec) : (s.evqSend q r).grps = s.grps := rfl
@[simp] theorem State.evqSend_flights (s : State) (q : Nat) (r : EvqRec) : (s.evqSend q r).flights = s.flights := rfl
@[simp] theorem State.evqSend_moeHub (s : State) (q : Nat) (r : EvqRec) : (s.evqSend q r).moeHub = s.moeHub := rfl
@[simp] theorem State.evqSend_fns (s : State) (q : Nat) (r : EvqRec) : (s.evqSend q r).fns = s.fns := rfl
@[simp] theorem State.evqSend_wqs (s : State) (q : Nat) (r : EvqRec) : (s.evqSend q r).wqs = s.wqs := rfl
@[simp] theorem State.evqSend_evqs (s : State) (q : Nat) (r : EvqRec) : (s.evqSend q r).evqs = s.evqs := rfl
@[simp] theorem State.evqSend_arb (s : State) (q : Nat) (r : EvqRec) : (s.evqSend q r).arb = s.arb := rfl
@[simp] theorem State.evqSend_mgmt (s : State) (q : Nat) (r : EvqRec) : (s.evqSend q r).mgmt = s.mgmt := rfl
@[simp] theorem State.evqSend_mbx (s : State) (q : Nat) (r : EvqRec) : (s.evqSend q r).mbx = s.mbx := rfl
@[simp] theorem State.evqSend_wqViews (s : State) (q : Nat) (r : EvqRec) : (s.evqSend q r).wqViews = s.wqViews := rfl
@[simp] theorem State.evqSend_evqViews (s : State) (q : Nat) (r : EvqRec) : (s.evqSend q r).evqViews = s.evqViews := rfl
@[simp] theorem State.evqSend_pcieRds (s : State) (q : Nat) (r : EvqRec) : (s.evqSend q r).pcieRds = s.pcieRds := rfl
@[simp] theorem State.evqSend_freeCtr (s : State) (q : Nat) (r : EvqRec) : (s.evqSend q r).freeCtr = s.freeCtr := rfl
@[simp] theorem State.evqSend_out (s : State) (q : Nat) (r : EvqRec) : (s.evqSend q r).out = s.out := rfl
@[simp] theorem State.evqSend_pending (s : State) (q : Nat) (r : EvqRec) : (s.evqSend q r).pending = s.pending := rfl

/-! `State.reply` -/

@[simp] theorem State.reply_glb (s : State) (st : Nat) (d : List Byte) : (s.reply st d).glb = s.glb := rfl
@[simp] theorem State.reply_plumb (s : State) (st : Nat) (d : List Byte) : (s.reply st d).plumb = s.plumb := rfl
@[simp] theorem State.reply_regs (s : State) (st : Nat) (d : List Byte) : (s.reply st d).regs = s.regs := rfl
@[simp] theorem State.reply_pages (s : State) (st : Nat) (d : List Byte) : (s.reply st d).pages = s.pages := rfl
@[simp] theorem State.reply_halves (s : State) (st : Nat) (d : List Byte) : (s.reply st d).halves = s.halves := rfl
@[simp] theorem State.reply_snaps (s : State) (st : Nat) (d : List Byte) : (s.reply st d).snaps = s.snaps := rfl
@[simp] theorem State.reply_snap (s : State) (st : Nat) (d : List Byte) : (s.reply st d).snap = s.snap := rfl
@[simp] theorem State.reply_recs (s : State) (st : Nat) (d : List Byte) : (s.reply st d).recs = s.recs := rfl
@[simp] theorem State.reply_todo (s : State) (st : Nat) (d : List Byte) : (s.reply st d).todo = s.todo := rfl
@[simp] theorem State.reply_hbm (s : State) (st : Nat) (d : List Byte) : (s.reply st d).hbm = s.hbm := rfl
@[simp] theorem State.reply_stackTab (s : State) (st : Nat) (d : List Byte) : (s.reply st d).stackTab = s.stackTab := rfl
@[simp] theorem State.reply_mem (s : State) (st : Nat) (d : List Byte) : (s.reply st d).mem = s.mem := rfl
@[simp] theorem State.reply_xlt (s : State) (st : Nat) (d : List Byte) : (s.reply st d).xlt = s.xlt := rfl
@[simp] theorem State.reply_noc (s : State) (st : Nat) (d : List Byte) : (s.reply st d).noc = s.noc := rfl
@[simp] theorem State.reply_tileMem (s : State) (st : Nat) (d : List Byte) : (s.reply st d).tileMem = s.tileMem := rfl
@[simp] theorem State.reply_tileFull (s : State) (st : Nat) (d : List Byte) : (s.reply st d).tileFull = s.tileFull := rfl
@[simp] theorem State.reply_tilePoison (s : State) (st : Nat) (d : List Byte) : (s.reply st d).tilePoison = s.tilePoison := rfl
@[simp] theorem State.reply_engs (s : State) (st : Nat) (d : List Byte) : (s.reply st d).engs = s.engs := rfl
@[simp] theorem State.reply_ctxs (s : State) (st : Nat) (d : List Byte) : (s.reply st d).ctxs = s.ctxs := rfl
@[simp] theorem State.reply_tiles (s : State) (st : Nat) (d : List Byte) : (s.reply st d).tiles = s.tiles := rfl
@[simp] theorem State.reply_hlth (s : State) (st : Nat) (d : List Byte) : (s.reply st d).hlth = s.hlth := rfl
@[simp] theorem State.reply_sched (s : State) (st : Nat) (d : List Byte) : (s.reply st d).sched = s.sched := rfl
@[simp] theorem State.reply_reps (s : State) (st : Nat) (d : List Byte) : (s.reply st d).reps = s.reps := rfl
@[simp] theorem State.reply_conns (s : State) (st : Nat) (d : List Byte) : (s.reply st d).conns = s.conns := rfl
@[simp] theorem State.reply_msgId (s : State) (st : Nat) (d : List Byte) : (s.reply st d).msgId = s.msgId := rfl
@[simp] theorem State.reply_psl (s : State) (st : Nat) (d : List Byte) : (s.reply st d).psl = s.psl := rfl
@[simp] theorem State.reply_ports (s : State) (st : Nat) (d : List Byte) : (s.reply st d).ports = s.ports := rfl
@[simp] theorem State.reply_cores (s : State) (st : Nat) (d : List Byte) : (s.reply st d).cores = s.cores := rfl
@[simp] theorem State.reply_keySlots (s : State) (st : Nat) (d : List Byte) : (s.reply st d).keySlots = s.keySlots := rfl
@[simp] theorem State.reply_boot (s : State) (st : Nat) (d : List Byte) : (s.reply st d).boot = s.boot := rfl
@[simp] theorem State.reply_nv (s : State) (st : Nat) (d : List Byte) : (s.reply st d).nv = s.nv := rfl
@[simp] theorem State.reply_pwr (s : State) (st : Nat) (d : List Byte) : (s.reply st d).pwr = s.pwr := rfl
@[simp] theorem State.reply_thm (s : State) (st : Nat) (d : List Byte) : (s.reply st d).thm = s.thm := rfl
@[simp] theorem State.reply_dust (s : State) (st : Nat) (d : List Byte) : (s.reply st d).dust = s.dust := rfl
@[simp] theorem State.reply_dbgPort (s : State) (st : Nat) (d : List Byte) : (s.reply st d).dbgPort = s.dbgPort := rfl
@[simp] theorem State.reply_grps (s : State) (st : Nat) (d : List Byte) : (s.reply st d).grps = s.grps := rfl
@[simp] theorem State.reply_flights (s : State) (st : Nat) (d : List Byte) : (s.reply st d).flights = s.flights := rfl
@[simp] theorem State.reply_moeHub (s : State) (st : Nat) (d : List Byte) : (s.reply st d).moeHub = s.moeHub := rfl
@[simp] theorem State.reply_fns (s : State) (st : Nat) (d : List Byte) : (s.reply st d).fns = s.fns := rfl
@[simp] theorem State.reply_wqs (s : State) (st : Nat) (d : List Byte) : (s.reply st d).wqs = s.wqs := rfl
@[simp] theorem State.reply_evqs (s : State) (st : Nat) (d : List Byte) : (s.reply st d).evqs = s.evqs := rfl
@[simp] theorem State.reply_arb (s : State) (st : Nat) (d : List Byte) : (s.reply st d).arb = s.arb := rfl
@[simp] theorem State.reply_mgmt (s : State) (st : Nat) (d : List Byte) : (s.reply st d).mgmt = s.mgmt := rfl
@[simp] theorem State.reply_mbx (s : State) (st : Nat) (d : List Byte) : (s.reply st d).mbx = s.mbx := rfl
@[simp] theorem State.reply_wqViews (s : State) (st : Nat) (d : List Byte) : (s.reply st d).wqViews = s.wqViews := rfl
@[simp] theorem State.reply_evqViews (s : State) (st : Nat) (d : List Byte) : (s.reply st d).evqViews = s.evqViews := rfl
@[simp] theorem State.reply_pcieRds (s : State) (st : Nat) (d : List Byte) : (s.reply st d).pcieRds = s.pcieRds := rfl
@[simp] theorem State.reply_freeCtr (s : State) (st : Nat) (d : List Byte) : (s.reply st d).freeCtr = s.freeCtr := rfl
@[simp] theorem State.reply_pending (s : State) (st : Nat) (d : List Byte) : (s.reply st d).pending = s.pending := rfl
@[simp] theorem State.reply_out (s : State) (st : Nat) (d : List Byte) : (s.reply st d).out = .answer st d :: s.out := rfl

end Sys2Proof.Machine
end

