-- ==== Sys2Proof/WellFormed.lean ====
section
/-! DEFINITION. WellFormed.lean: the commands whose operands lie in the ranges that the spec gives them. A command outside them
names no unit of the device. -/

namespace Sys2Proof

/-- Is an index below the number of units? -/
def below (n bound : Nat) : Bool := decide (n < bound)

/-- Does a number lie in a range? -/
def within (n lo hi : Nat) : Bool := decide (lo ≤ n) && decide (n ≤ hi)

/-- An origin that exists: VF 1 to 511, core 0 to 15. -/
def Origin.wf : Origin → Bool
  | .vf n => within n 1 511
  | .core n => below n 16
  | _ => true

/-- Field widths of an instruction word (04 Table 4.1). -/
def Fields.wf (f : Fields) : Bool :=
  below f.pg 8 && below f.rnd 4 && below f.rsvLo 4 && below f.d 64 && below f.a 64 && below f.b 64 && below f.c 64 && below f.cg 16
  && below f.sub 256 && below f.rsvHi 256

/-- Field widths of a Phisal header (09 Table 9.3), and parts that fit a frame (09 Table 9.2). -/
def Pkt.wf (p : Pkt) : Bool :=
  below p.port 24 && below p.encap 4 && below p.version 16 && below p.flags 4096 && below p.pkey 65536 && below p.msgSeq 65536
  && below p.dstConn (2 ^ 24) && below p.extLen 256 && below p.path 256 && below p.psn (2 ^ 32) && below p.raddr (2 ^ 64) && below p.msgOff (2 ^ 32)
  && below p.mkey (2 ^ 32) && below p.payload.length 8193

/-- A frame is no longer than 9,216 bytes and no shorter than its addresses (11 R307), with a priority and code point that fit. -/
def EthFrame.wf (f : EthFrame) : Bool :=
  below f.dst (2 ^ 48) && below f.src (2 ^ 48) && f.pcp.all (below · 8) && f.dscp.all (below · 64)
  && f.symErr.all (below ·.1 8)

/-- A chunk header names one of 512 ranks and one of 16 groups' sizes (06 Table 6.7). -/
def ChunkHdr.wf (h : ChunkHdr) : Bool := below h.root 512 && below h.src 512 && below h.opcode 256

/-- An output tile of a product (at most 65,536, one cycle each: 04 R113), and a slice of the datapath, or the checksum path. -/
def Scrim.wf : Scrim → Bool
  | .clean => true
  | .pending t sl => below t 65536 && below sl 256
  | .samePass t sl => below t 65536 && below sl 256
  | .otherPass t sl => below t 65536 && below sl 256
  | .again t sl => below t 65536 && below sl 256

/-- One of 10 symbols of one of 32 codes (07 R192). -/
def Noise.wf (n : Noise) : Bool := below n.pos 10 && below n.code 32

/-- A requester that exists. -/
def Requester.wf : Requester → Bool
  | .engine e x => below e 48 && below x 4
  | .core n => below n 16
  | _ => true

/-- One of the 73 stored bits of a tile-store word (03 R65). -/
def TileErr.wf : TileErr → Bool
  | .single b => below b 73
  | _ => true

/-- Every operand of a command lies in its range. -/
def Instr.wf : Instr → Bool
  | .tickBoundary => true
  | .tickLengthApply => true
  | .launchStart e x => below e 48 && below x 4
  | .contextSwitchComplete e => below e 48
  | .migrationCopyComplete e => below e 48
  | .plumbMarkSend i => below i 4
  | .plumbEntrySilent i => below i 4
  | .plumbMark p => p.wf
  | .plumbAnswer p => p.wf
  | .plumbPartnerExpire port dev => below port 24 && below dev (2 ^ 14)
  | .holdoverEvent => true
  | .plumbLoad o _ => o.wf
  | .planeRetire p => below p 2
  | .planeReturn p => below p 2
  | .planeFinalMarker src dst => below src 73 && below dst 73
  | .planeFailTimeout => true
  | .nocFenceMarker src dst p => below src 73 && below dst 73 && below p 2
  | .routerInboundTransfer src p e x off fn _ _ _ _ => below src 73 && below p 2 && below e 48 && below x 4 && below off (2 ^ 23) && fn.all (below · 512)
  | .tileScrub t w err => below t 52 && below w (2 ^ 20) && err.wf
  | .forcedScrubCycle t w err => below t 52 && below w (2 ^ 20) && err.wf
  | .nop e x f => below e 48 && below x 4 && f.wf
  | .sliceEnd e x f => below e 48 && below x 4 && f.wf
  | .halt e x f => below e 48 && below x 4 && f.wf
  | .launchComplete e x => below e 48 && below x 4
  | .br e x f => below e 48 && below x 4 && f.wf
  | .loop e x f => below e 48 && below x 4 && f.wf
  | .plumbRd e x f => below e 48 && below x 4 && f.wf
  | .flagsRd e x f => below e 48 && below x 4 && f.wf
  | .flagsClr e x f => below e 48 && below x 4 && f.wf
  | .event e x f => below e 48 && below x 4 && f.wf
  | .regroup e x f => below e 48 && below x 4 && f.wf
  | .mbxRd e x f => below e 48 && below x 4 && f.wf
  | .sLi e x f => below e 48 && below x 4 && f.wf
  | .sAdd e x f => below e 48 && below x 4 && f.wf
  | .sSub e x f => below e 48 && below x 4 && f.wf
  | .sMul e x f => below e 48 && below x 4 && f.wf
  | .sAnd e x f => below e 48 && below x 4 && f.wf
  | .sOr e x f => below e 48 && below x 4 && f.wf
  | .sXor e x f => below e 48 && below x 4 && f.wf
  | .sShl e x f => below e 48 && below x 4 && f.wf
  | .sShr e x f => below e 48 && below x 4 && f.wf
  | .sSar e x f => below e 48 && below x 4 && f.wf
  | .sCmp e x f => below e 48 && below x 4 && f.wf
  | .sLd e x f => below e 48 && below x 4 && f.wf
  | .sSt e x f => below e 48 && below x 4 && f.wf
  | .pOp e x f => below e 48 && below x 4 && f.wf
  | .tdLd e x f => below e 48 && below x 4 && f.wf
  | .tdSt e x f => below e 48 && below x 4 && f.wf
  | .tdSetf e x f => below e 48 && below x 4 && f.wf
  | .tdGetf e x f => below e 48 && below x 4 && f.wf
  | .tdAddb e x f => below e 48 && below x 4 && f.wf
  | .tdCopy e x f => below e 48 && below x 4 && f.wf
  | .mov e x f => below e 48 && below x 4 && f.wf
  | .fill e x f => below e 48 && below x 4 && f.wf
  | .mma e x f sc => below e 48 && below x 4 && f.wf && sc.wf
  | .mmaT e x f sc => below e 48 && below x 4 && f.wf && sc.wf
  | .accZero e x f => below e 48 && below x 4 && f.wf
  | .accSt e x f => below e 48 && below x 4 && f.wf
  | .accLd e x f => below e 48 && below x 4 && f.wf
  | .vAdd e x f => below e 48 && below x 4 && f.wf
  | .vSub e x f => below e 48 && below x 4 && f.wf
  | .vMul e x f => below e 48 && below x 4 && f.wf
  | .vFma e x f => below e 48 && below x 4 && f.wf
  | .vMin e x f => below e 48 && below x 4 && f.wf
  | .vMax e x f => below e 48 && below x 4 && f.wf
  | .vCmp e x f => below e 48 && below x 4 && f.wf
  | .vFn e x f => below e 48 && below x 4 && f.wf
  | .vCvt e x f => below e 48 && below x 4 && f.wf
  | .vRed e x f => below e 48 && below x 4 && f.wf
  | .vSel e x f => below e 48 && below x 4 && f.wf
  | .topk e x f => below e 48 && below x 4 && f.wf
  | .gather e x f => below e 48 && below x 4 && f.wf
  | .scatter e x f => below e 48 && below x 4 && f.wf
  | .scatterAdd e x f => below e 48 && below x 4 && f.wf
  | .compact e x f => below e 48 && below x 4 && f.wf
  | .feWait e x f => below e 48 && below x 4 && f.wf
  | .feWaite e x f => below e 48 && below x 4 && f.wf
  | .feWaitComplete e x => below e 48 && below x 4
  | .syncWaitRetry e x => below e 48 && below x 4
  | .feWaitStall e x => below e 48 && below x 4
  | .feSet e x f => below e 48 && below x 4 && f.wf
  | .feClr e x f => below e 48 && below x 4 && f.wf
  | .feTest e x f => below e 48 && below x 4 && f.wf
  | .fence e x f => below e 48 && below x 4 && f.wf
  | .fenceComplete e x => below e 48 && below x 4
  | .contextFaultHalt e x => below e 48 && below x 4
  | .mmaReduce e x f sc => below e 48 && below x 4 && f.wf && sc.wf
  | .bcastMma e x f => below e 48 && below x 4 && f.wf
  | .reduce e x f => below e 48 && below x 4 && f.wf
  | .bcast e x f => below e 48 && below x 4 && f.wf
  | .lseReduce e x f => below e 48 && below x 4 && f.wf
  | .attnBlock e x f => below e 48 && below x 4 && f.wf
  | .dispatch e x f => below e 48 && below x 4 && f.wf
  | .dispatchComplete e x => below e 48 && below x 4
  | .combine e x f => below e 48 && below x 4 && f.wf
  | .combineCompute e x => below e 48 && below x 4
  | .chunkPlaced g r _ h _ _ => below g 16 && below r 512 && h.wf
  | .chunkCombine g r => below g 16 && below r 512
  | .chunkSend g r => below g 16 && below r 512
  | .readyWordPlaced g r _ _ => below g 16 && below r 512
  | .bcastChunkForward g r => below g 16 && below r 512
  | .abandonWordPlaced g r src _ _ => below g 16 && below r 512 && below src 512
  | .instanceComplete g r sc => below g 16 && below r 512 && sc.wf
  | .collectiveStall g r => below g 16 && below r 512
  | .cgCancel o g => o.wf && below g 16
  | .snapshotArm o _ => o.wf
  | .snapshotCapture => true
  | .domainResetStart o g => o.wf && below g 16
  | .domrst p => p.wf
  | .domrstAck p => p.wf
  | .domrstAckTimeout => true
  | .recordStart r => below r 4
  | .replayStart r => below r 4
  | .replayStop r => below r 4
  | .replayInputTimeout r => below r 4
  | .contextHold o e x => o.wf && below e 48 && below x 4
  | .contextRelease o e x => o.wf && below e 48 && below x 4
  | .dbgFeRead o => o.wf
  | .dbgFeWriteKeep o => o.wf
  | .dbgFeWriteFull o => o.wf
  | .dbgFeWriteEmpty o => o.wf
  | .dbgFeSetFull o => o.wf
  | .dbgFeSetEmpty o => o.wf
  | .hbmRead r off noise => r.wf && below off (2 ^ 49) && noise.all Noise.wf
  | .hbmWrite r off data _ => r.wf && below off (2 ^ 49) && data.length == 256
  | .hbmPartialWrite r off parts noise => r.wf && below off (2 ^ 49) && parts.all (fun y => decide (y.1 + y.2.length ≤ 256)) && noise.all Noise.wf
  | .sanderScrub m lam noise => below m 8 && below lam (6 * 2 ^ 25) && noise.all Noise.wf
  | .sanderInit m => below m 8
  | .dieRetire m lost => below m 8 && lost.all fun d => below d 16
  | .hbmDieRetire o m die => o.wf && below m 8 && below die 16
  | .sanderRebuildStep m noise => below m 8 && noise.all Noise.wf
  | .hbmRepairCmd o m pc bank row => o.wf && below m 8 && below pc 60 && below bank 16 && below row (2 ^ 15)
  | .rowRepairStart m => below m 8
  | .rowRepairComplete m => below m 8
  | .diagRawRead o => o.wf
  | .diagRawWrite o => o.wf
  | .diagArmFlip o => o.wf
  | .diagDisarm o => o.wf
  | .walkStart w => below w 32
  | .walkComplete w => below w 32
  | .walkTimeout w => below w 32
  | .xltSweepVisit set => below set (2 ^ 12)
  | .invTag o fn tag _ => o.wf && below fn 512 && below tag (2 ^ 16)
  | .invFunction o fn _ => o.wf && below fn 512
  | .invFunctionReload o fn _ => o.wf && below fn 512
  | .invComplete win => below win 512
  | .xltFaultAck o => o.wf
  | .atsCompletion fn va xlated log2 _ _ _ => below fn 512 && below va (2 ^ 64) && below xlated (2 ^ 64) && below log2 64
  | .atsTimeout fn va => below fn 512 && below va (2 ^ 64)
  | .atsInvalidate fn => below fn 512
  | .atsInvComplete fn => below fn 512
  | .write p => p.wf
  | .readReq p => p.wf
  | .readResp p => p.wf
  | .flush p => p.wf
  | .dispatchPacket p => p.wf
  | .ack p => p.wf
  | .nak p => p.wf
  | .connReq p => p.wf
  | .connAccept p => p.wf
  | .connReject p => p.wf
  | .connClose p => p.wf
  | .connClosed p => p.wf
  | .packetSend c => below c (2 ^ 20)
  | .gapTimerExpiry c => below c (2 ^ 20)
  | .retransmitTimeout c => below c (2 ^ 20)
  | .reorderDeadline c => below c (2 ^ 20)
  | .busyResend c => below c (2 ^ 20)
  | .connReqResend c => below c (2 ^ 20)
  | .connOpenTimeout c => below c (2 ^ 20)
  | .closingTimeout c => below c (2 ^ 20)
  | .connCmdOpen o c => o.wf && below c (2 ^ 20)
  | .connCmdClose o c => o.wf && below c (2 ^ 20)
  | .connCmdForceClose o c => o.wf && below c (2 ^ 20)
  | .connCmdView o c => o.wf && below c (2 ^ 20)
  | .mrInvalidate o i => o.wf && below i (2 ^ 16)
  | .mrInvComplete => true
  | .sealEpochStage o n _ => o.wf && below n 512
  | .keyDerivationComplete n => below n 512
  | .ctxFillComplete c _ => below c (2 ^ 20)
  | .ctxSweepVisit slice set way => below slice 4 && below set (2 ^ 10) && below way 16
  | .frameReceive q f => below q 24 && f.wf
  | .frameDeliver q p => below q 24 && below p 8
  | .pfcRepeat q p => below q 24 && below p 8
  | .pfcReceive q en quanta => below q 24 && below en 256 && quanta.length == 8 && quanta.all (below · 65536)
  | .pauseExpiry q p => below q 24 && below p 8
  | .pauseLimit q p => below q 24 && below p 8
  | .pauseWatchdog q p => below q 24 && below p 8
  | .stallEnd q p => below q 24 && below p 8
  | .frameTransmit q => below q 24
  | .lpiEnter q => below q 24
  | .lpiWake q => below q 24
  | .lpiNegotiationComplete q wakeUs => below q 24 && below wakeUs (2 ^ 16)
  | .localFault q => below q 24
  | .linkDown q => below q 24
  | .faultClear q => below q 24
  | .linkUp q => below q 24
  | .holdExpiry q => below q 24
  | .portModeChange q => below q 24
  | .descriptorIssue => true
  | .wqDoorbell fn slot _ => below fn 512 && below slot (2 ^ 16)
  | .cqConsumerWrite fn slot _ => below fn 512 && below slot (2 ^ 16)
  | .evqDoorbell fn slot count _ => below fn 512 && below slot (2 ^ 12) && below count (2 ^ 31)
  | .descriptorFetch q _ => below q (2 ^ 16)
  | .wdNop q n => below q (2 ^ 16) && below n (2 ^ 16)
  | .wdCopy q n _ _ => below q (2 ^ 16) && below n (2 ^ 16)
  | .wdWrite q n _ => below q (2 ^ 16) && below n (2 ^ 16)
  | .wdRead q n => below q (2 ^ 16) && below n (2 ^ 16)
  | .wdFlush q n => below q (2 ^ 16) && below n (2 ^ 16)
  | .launch q n => below q (2 ^ 16) && below n (2 ^ 16)
  | .wqLoad q n => below q (2 ^ 16) && below n (2 ^ 16)
  | .wqDisable q n => below q (2 ^ 16) && below n (2 ^ 16)
  | .evqLoad q n => below q (2 ^ 16) && below n (2 ^ 16)
  | .fnRemove q n => below q (2 ^ 16) && below n (2 ^ 16)
  | .descriptorComplete q n => below q (2 ^ 16) && below n (2 ^ 16)
  | .msixSend v => below v (2 ^ 12)
  | .msixVectorUnmask fn v => below fn 512 && below v 32
  | .pcieCompletion ctl _ _ _ => below ctl 4
  | .completionTimeout ctl _ => below ctl 4
  | .flr fn => below fn 512
  | .flrBound fn => below fn 512
  | .vfEnable num _ => below num 512
  | .controllerReset ctl => below ctl 4
  | .rootPortInbound ctl addr _ _ _ => below ctl 4 && below addr (2 ^ 64)
  | .mbxSend o vf _ => o.wf && within vf 1 511
  | .mbxDeliver vf _ => within vf 1 511
  | .mbxAck o vf => o.wf && within vf 1 511
  | .mbxCancel o vf => o.wf && within vf 1 511
  | .mbxTimeout vf _ => within vf 1 511
  | .fnMask o fn => o.wf && below fn 512
  | .fnUnmask o fn => o.wf && below fn 512
  | .wqView o q => o.wf && below q (2 ^ 16)
  | .evqView o q => o.wf && below q (2 ^ 12)
  | .ownershipRequest line reqs _ => below line (2 ^ 34) && reqs.all (below · 16)
  | .coreOffline n => below n 16
  | .coreRxPost o h _ => o.wf && below h 16
  | .coreTxPost o h _ => o.wf && below h 16
  | .nbInvalidate o dev => o.wf && below dev (2 ^ 14)
  | .nbSweepVisit set => below set 256
  | .stippleCompare e x _ sc => below e 48 && below x 4 && sc.wf
  | .stippleSecondCheck e x _ _ sc => below e 48 && below x 4 && sc.wf
  | .stippleUndecidedTimeout e x => below e 48 && below x 4
  | .observationEnd t => below t 52
  | .testDue t => below t 52
  | .testStart t => below t 52
  | .testComplete kind i _ _ => below kind 4 && below i 64
  | .testDeferTimeout t => below t 52
  | .tileRetire t => below t 52
  | .hlthTestNow o kind i => o.wf && below kind 4 && below i 64
  | .hlthRetire o i => o.wf && below i 64
  | .evrFreeze o => o.wf
  | .evrUnfreeze o => o.wf
  | .freezeLimit => true
  | .evrFlush o => o.wf
  | .flushComplete => true
  | .auditHoldEnd _ => true
  | .powerSample _ _ => true
  | .thermalReading n _ => below n 36
  | .thermalCapStep => true
  | .thermalTripRecover => true
  | .hbKickLink o tok => o.wf && below tok 256
  | .hbKickCore o tok => o.wf && below tok 256
  | .heartbeatMiss _ => true
  | .silenceEnd => true
  | .powerOn => true
  | .devrstNAssert cause => within cause 1 2
  | .resetRelease s0 s1 s2 => below s0 (2 ^ 16) && below s1 (2 ^ 16) && below s2 (2 ^ 16)
  | .primerServiceStart bad => bad.all fun x => below x.1 8 && below x.2 2
  | .imageVerifyComplete kind ver _ _ => within kind 1 4 && below ver (2 ^ 32)
  | .engineSelfTestComplete failed => failed.all (below · 52)
  | .portCalibrationComplete q _ => below q 24
  | .stackRetrainComplete m _ => below m 8
  | .finishServiceStart => true
  | .trialConfirm => true
  | .trialFail => true
  | .supplyFault => true
  | .sysrefLoss => true
  | .pwrfailWarning => true
  | .pwrfailClear => true
  | .pldmEventSend => true
  | .pldmEventRetry => true
  | .setEndpointId eid => below eid 256
  | .getEndpointId => true
  | .getMctpVersionSupport ty => below ty 256
  | .getMessageTypeSupport => true
  | .setTid tid => below tid 256
  | .getTid => true
  | .getPldmVersion ty => below ty 256
  | .getPldmTypes => true
  | .getPldmCommands ty => below ty 256
  | .setEventReceiver _ addr => below addr 256
  | .getSensorReading id => below id (2 ^ 16)
  | .getStateSensorReadings id => below id (2 ^ 16)
  | .getPdr handle => below handle (2 ^ 32)
  | .pollForPlatformEventMessage => true
  | .getFruRecordTableMetadata => true
  | .getFruRecordTable => true
  | .queryDeviceIdentifiers => true
  | .getFirmwareParameters => true
  | .requestUpdate => true
  | .passComponentTable _ _ => true
  | .updateComponent _ _ _ => true
  | .transferComplete _ => true
  | .verifyComplete => true
  | .applyComplete => true
  | .activateFirmware _ => true
  | .getStatus => true
  | .cancelUpdateComponent => true
  | .cancelUpdate => true
  | .regRead off _ => below off (2 ^ 26)
  | .regWrite off _ _ => below off (2 ^ 26)
  | .bboxRead area _ _ _ => below area 5
  | .bootcfgWrite record _ => record.length == 256
  | .ownerKeyWrite slot key _ => below slot 4 && key.length == 32
  | .ownerKeyRevoke slot _ => below slot 4
  | .deviceReset => true
  | .getState => true
  | .getVersion => true
  | .getCapabilities ver => below ver 256
  | .negotiateAlgorithms => true
  | .pskExchange reqSession _ => below reqSession (2 ^ 16)
  | .pskFinish session _ => below session (2 ^ 32)
  | .getMeasurements _ i => below i 256
  | .keyUpdate session op tag => below session (2 ^ 32) && below op 256 && below tag 256
  | .heartbeat session => below session (2 ^ 32)
  | .endSession session => below session (2 ^ 32)
  | .blkCommit o pg _ => o.wf && below pg (2 ^ 14)
  | .blkLock o pg => o.wf && below pg (2 ^ 14)
  | .blkIrqStatClear o pg _ => o.wf && below pg (2 ^ 14)
  | .blkIrqForce o pg _ => o.wf && below pg (2 ^ 14)
  | .counterRead o off _ => o.wf && below off (2 ^ 26)
  | .registerWrite o off _ _ => o.wf && below off (2 ^ 26)
  | .pcieLinkDown c => below c 4
  | .pcieLinkUp c speed width _ => below c 4 && within speed 1 6 && within width 1 16
  | .debugPortAttached => true
  | .debugPortDetached => true
  | .mctpAssemblyTimeout => true
  | .partnerLpi q _ => below q 24
  | .hbmTemperatureReadout m _ => below m 8
  | .hbmStackLost m => below m 8

end Sys2Proof
end

