-- ==== Sys2Proof/Laws/Word.lean ====
section
/-! SUPPORT. Laws/Word.lean: an instruction word holds its opcode and every field, and the words that spell no instruction are those of
reserved opcodes (04 R88, R89, R98). -/

namespace Sys2Proof

/-- A single bit as a quotient. -/
theorem bitAt_div (w i : Nat) : bitAt w i = decide (w / 2 ^ i % 2 = 1) := Nat.testBit_eq_decide_div_mod_eq

/-- The opcode of a word is the one it was made of. -/
theorem insOp_insWord {op : Nat} {f : Fields} (ho : op < 256) : insOp (insWord op f) = op := by
  simp only [insOp, insWord, bits, Nat.shiftRight_eq_div_pow]; omega

/-- The fields of a word are those it was made of; what the instruction meets is no part of it. -/
theorem insFields_insWord {op : Nat} {f : Fields} (ho : op < 256) (hf : f.wf = true) :
    insFields (insWord op f) = { f with met := {} } := by
  obtain ⟨pg, pn, rnd, rsvLo, d, a, b, c, cg, fence, feSet, feWait, feClear, sub, rsvHi, imm, met⟩ := f
  simp only [Fields.wf, below, Bool.and_eq_true, decide_eq_true_eq] at hf
  have := imm.isLt
  have := pn.toNat_lt; have := fence.toNat_lt; have := feSet.toNat_lt; have := feWait.toNat_lt; have := feClear.toNat_lt
  have hb (v : Bool) (n : Nat) (h : n % 2 = v.toNat) : decide (n % 2 = 1) = v := by cases v <;> simp_all
  simp only [insFields, insWord, bits, bitAt_div, Nat.shiftRight_eq_div_pow, Fields.mk.injEq]
  refine ⟨?_, hb _ _ ?_, ?_, ?_, ?_, ?_, ?_, ?_, ?_, hb _ _ ?_, hb _ _ ?_, hb _ _ ?_, hb _ _ ?_, ?_, ?_, ?_, trivial⟩
  case refine_16 => apply BitVec.eq_of_toNat_eq; rw [BitVec.toNat_ofNat]; omega
  all_goals omega

end Sys2Proof

namespace Sys2Proof.Machine

/-- A word spells an instruction exactly where its opcode is not reserved. -/
theorem insCommand_isSome : ∀ op < 256, (insCommand 0 0 op).isSome = engOpcodes.contains op := by decide +kernel

end Sys2Proof.Machine
end

