-- ==== Sys2Proof/Tests/Slice0.lean ====
section
/-! SUPPORT. Tests/Slice0.lean: small states and commands that check the model against the spec's words, and for every statement a state
and operands that meet its hypotheses. -/

set_option Elab.async false

namespace Sys2Proof.Tests

open Sys2Proof Sys2Proof.Machine

/-! ## Small states -/

/-- A device in Finish service. -/
def fin : State := { State.reset with
  boot := { State.reset.boot with stage := 4, running := [(1, 0, 1), (2, 0, 1), (3, 0, 1), (4, 0, 1)] }, glb := { service := 2 } }

/-- Context 0 of engine 0 runs there as `c`. -/
def runs (c : Ctx) : State := { fin with ctxs := [(0, { c with st := 2 })], engs := [(0, { interval := some 0 })] }

/-- The word of a dense tensor: base, sizes of its two dimensions, format and rank. -/
def td (base n0 n1 fcode rank : Nat) : TdWord :=
  BitVec.ofNat 256 (base + 2 ^ 64 * (n0 - 1) + 2 ^ 84 * (n1 - 1) + 2 ^ 124 * fcode + 2 ^ 148 * 64 + 2 ^ 178 * (rank - 1) + 2 ^ 183)

/-- Does a command answer a next state of which a test holds? -/
def gives (c : Instr) (s : State) (p : State → Bool) : Bool := match exec c s with
  | .next t => p t
  | _ => false

/-- Does a command answer a next state? -/
def goes (c : Instr) (s : State) : Bool := gives c s fun _ => true

/-- Does a command answer exactly this state with its records written? -/
def becomes (c : Instr) (s u : State) : Bool := gives c s (· == settle u)

/-! ## Instruction words and the algorithms of other standards -/

/-- The word of the example after 04 R110. -/
theorem test_word_mma_t : insCommand 0 0 0x00022000920A1041 =
    some (.mmaT 0 0 { rnd := 1, d := 10, a := 8, b := 9, feSet := true, sub := 2 } .clean) := by decide +kernel

/-- S.LI to S[3] of 5 under the inverted guard P[2], field by field of 04 Table 4.1. -/
theorem test_word_s_li : insCommand 1 2 (0x10 + 2 ^ 8 * 2 + 2 ^ 11 + 2 ^ 16 * 3 + 2 ^ 64 * 5) =
    some (.sLi 1 2 { pg := 2, pn := true, d := 3, imm := 5 }) := by decide +kernel

/-- The AES-256 example of FIPS 197. -/
theorem test_aes : aesBlock (aesKeys ((List.range 32).map (BitVec.ofNat 8))) 0x00112233445566778899aabbccddeeff
    = 0x8ea2b7ca516745bfeafc49904b496089 := by decide +kernel

/-- The 40-byte AES-256 example of SP 800-38B. -/
theorem test_cmac : aesCmac (beBytes 32 0x603deb1015ca71be2b73aef0857d77811f352c073b6108d72d9810a30914dff4)
      (beBytes 40 0x6bc1bee22e409f96e93d7e117393172aae2d8a571e03ac9c9eb76fac45af8e5130c81c46a35ce411)
    = beBytes 16 0xaaf3d8f1de5640c232f5b169b9c911e6 := by decide +kernel

/-- Test case 16 of the GCM specification: the tag of 60 bytes with 20 bytes of additional data. -/
theorem test_gcm :
    let k := beBytes 32 0xfeffe9928665731c6d6a8f9467308308feffe9928665731c6d6a8f9467308308
    let n := beBytes 12 0xcafebabefacedbaddecaf888
    let p := beBytes 60 0xd9313225f88406e5a55909c5aff5269a86a7a9531534f7da2e4c303d8a318a721c3c0c95956809532fcf0e2449a6b525b16aedf5aa0de657ba637b39
    gcmTag k n (beBytes 20 0xfeedfacedeadbeeffeedfacedeadbeefabaddad2) (gcmCrypt k n p) = beBytes 16 0x76fc6ece0f4e1768cddf8853bb2d551b := by
  decide +kernel

/-- SHA-384 of "abc", from FIPS 180-4. -/
theorem test_sha384 : sha384 [0x61, 0x62, 0x63] = beBytes 48
    0xcb00753f45a35e8bb5a03d699ac65007272c32ab0eded1631a8b605a43ff5bed8086072ba1e7cc2358baeca134c825a7 := by decide +kernel

/-! ## Well-formed commands -/

/-- Does a check refuse each of these? -/
def refused {α : Type} (wf : α → Bool) (l : List α) : Bool := l.all fun x => !wf x
/-- Does a check accept each of these? -/
def accepted {α : Type} (wf : α → Bool) (l : List α) : Bool := l.all wf
/-- A chunk header with a root, a source and an opcode. -/
def chunk (root src opcode : Nat) : ChunkHdr :=
  { inst := 0, seq := 0, opcode, redOp := 0, compressed := false, root, src, index := 0, bytes := 1, total := 1, digest := 0 }

theorem test_wf_packets : Pkt.wf {} = true ∧ refused Pkt.wf [{ port := 24 }, { encap := 4 }, { version := 16 }, { flags := 4096 }, { pkey := 65536 }, { msgSeq := 65536 },
    { dstConn := 2 ^ 24 }, { extLen := 256 }, { path := 256 }, { psn := 2 ^ 32 }, { raddr := 2 ^ 64 }, { msgOff := 2 ^ 32 }, { mkey := 2 ^ 32 },
    { payload := List.replicate 8193 0 }] = true := by decide +kernel
theorem test_wf_fields : Fields.wf {} = true ∧ refused Fields.wf [{ pg := 8 }, { rnd := 4 }, { rsvLo := 4 }, { d := 64 }, { a := 64 }, { b := 64 }, { c := 64 }, { cg := 16 },
    { sub := 256 }, { rsvHi := 256 }] = true := by decide +kernel
theorem test_wf_parts : refused Origin.wf [.vf 0, .vf 512, .core 16] = true ∧ accepted Origin.wf [.pf0, .vf 511, .core 15, .link] = true
    ∧ refused Requester.wf [.engine 48 0, .engine 0 4, .core 16] = true ∧ refused Scrim.wf [.samePass 65536 0, .otherPass 0 256, .again 65536 0, .pending 65536 0] = true
    ∧ accepted Scrim.wf [.pending 65535 255, .clean] = true
    ∧ TileErr.wf (.single 73) = false ∧ TileErr.wf (.single 72) = true ∧ Noise.wf { pos := 10, code := 0, xor := 1 } = false
    ∧ Noise.wf { pos := 0, code := 32, xor := 1 } = false := by decide +kernel
theorem test_wf_frames : EthFrame.wf { bytes := 64, dst := 1 } = true ∧ EthFrame.wf { bytes := 64, dst := 2 ^ 48 } = false
    ∧ EthFrame.wf { bytes := 64, dst := 1, src := 2 ^ 48 } = false ∧ EthFrame.wf { bytes := 64, dst := 1, pcp := some 8 } = false
    ∧ EthFrame.wf { bytes := 64, dst := 1, dscp := some 64 } = false ∧ EthFrame.wf { bytes := 64, dst := 1, symErr := [(8, 1)] } = false := by decide +kernel
theorem test_wf_chunks : refused ChunkHdr.wf [chunk 512 0 0, chunk 0 512 0, chunk 0 0 256] = true ∧ accepted ChunkHdr.wf [chunk 511 511 255] = true := by
  decide +kernel
theorem test_wf_units : refused Instr.wf [.nop 48 0 {}, .nop 0 4 {}, .nop 0 0 { pg := 8 }, .launchStart 48 0, .planeRetire 2, .planeFinalMarker 73 0, .nocFenceMarker 73 0 0, .nocFenceMarker 0 0 2, .tileScrub 52 0 .none,
    .forcedScrubCycle 0 0x100000 .none, .routerInboundTransfer 0 0 0 0 (2 ^ 23) none [] false false false, .routerInboundTransfer 0 0 0 0 0 (some 512) [] false false false,
    .routerInboundTransfer 73 0 0 0 0 none [] false false false, .routerInboundTransfer 0 2 0 0 0 none [] false false false,
    .mma 0 0 {} (.again 65536 0), .plumbPartnerExpire 24 0, .plumbPartnerExpire 0 16384, .plumbMarkSend 4, .cgCancel .pf0 16, .recordStart 4,
    .readyWordPlaced 16 0 0 0, .abandonWordPlaced 0 0 512 0 0] = true := by decide +kernel
theorem test_wf_memory : refused Instr.wf [.hbmRead .remote (2 ^ 49) [], .hbmRead (.core 16) 0 [], .hbmRead .remote 0 [{ pos := 10, code := 0, xor := 0 }], .hbmWrite .remote 0 [0] false,
    .hbmPartialWrite .remote 0 [(255, [0, 0])] [], .hbmPartialWrite .remote 0 [] [{ pos := 10, code := 0, xor := 0 }], .sanderScrub 8 0 [], .sanderScrub 0 (6 * 2 ^ 25) [],
    .hbmDieRetire .pf0 0 16, .dieRetire 0 (some 16), .hbmRepairCmd .pf0 0 60 0 0, .hbmRepairCmd .pf0 0 0 16 0, .hbmRepairCmd .pf0 0 0 0 (2 ^ 15), .walkStart 32, .xltSweepVisit 4096,
    .invTag .pf0 512 0 false, .invTag .pf0 0 65536 false, .atsInvalidate 512, .atsCompletion 0 (2 ^ 64) 0 12 true true true] = true := by
  decide +kernel
theorem test_wf_transport : refused Instr.wf [.write { port := 24 }, .packetSend (2 ^ 20), .connCmdOpen (.vf 512) 0, .mrInvalidate .pf0 65536, .sealEpochStage .pf0 512 0, .ctxSweepVisit 4 0 0,
    .ctxSweepVisit 0 1024 0, .ctxSweepVisit 0 0 16, .frameReceive 24 { bytes := 64, dst := 1 }, .frameDeliver 0 8, .pfcReceive 0 256 (List.replicate 8 0),
    .pfcReceive 0 1 [0], .pfcReceive 0 1 (List.replicate 8 65536), .linkUp 24, .lpiNegotiationComplete 0 65536] = true := by decide +kernel
theorem test_wf_queues : refused Instr.wf [.wqDoorbell 512 0 0, .wqDoorbell 0 65536 0, .evqDoorbell 0 4096 0 false, .evqDoorbell 0 0 (2 ^ 31) false, .wdNop 65536 0, .wdNop 0 65536, .msixSend 4096,
    .msixVectorUnmask 0 32, .completionTimeout 4 0, .flr 512, .vfEnable 512 true, .rootPortInbound 0 (2 ^ 64) 1 none false, .mbxSend .pf0 0 false, .mbxDeliver 512 true,
    .fnMask .pf0 512, .evqView .pf0 4096, .ownershipRequest 0 [16] .none, .ownershipRequest (2 ^ 34) [] .none, .coreOffline 16, .coreRxPost .pf0 16 0, .nbInvalidate .pf0 16384, .nbSweepVisit 256] = true := by decide +kernel
theorem test_wf_health : refused Instr.wf [.stippleCompare 48 0 true .clean, .stippleSecondCheck 0 0 true true (.again 0 256), .primerServiceStart [(8, 0)], .primerServiceStart [(0, 2)], .testStart 52, .testComplete 4 0 true 0, .testComplete 0 64 true 0, .hlthTestNow .pf0 4 0, .thermalReading 36 0,
    .hbKickLink .island 256, .devrstNAssert 0, .devrstNAssert 3, .resetRelease 65536 0 0, .imageVerifyComplete 0 0 true true, .imageVerifyComplete 5 0 true true,
    .imageVerifyComplete 1 (2 ^ 32) true true, .engineSelfTestComplete [52], .portCalibrationComplete 24 true, .stackRetrainComplete 8 true] = true := by decide +kernel
theorem test_wf_management : refused Instr.wf [.setEndpointId 256, .getSensorReading 65536, .getPdr (2 ^ 32), .regRead (2 ^ 26) false, .bboxRead 5 0 0 1, .bootcfgWrite [] none,
    .ownerKeyWrite 4 (List.replicate 32 0) none, .ownerKeyWrite 0 [] none, .ownerKeyRevoke 4 none, .getCapabilities 256, .pskExchange 65536 [], .heartbeat (2 ^ 32),
    .keyUpdate 0 256 0, .blkCommit .pf0 16384 0, .counterRead (.core 16) 0 false, .registerWrite .pf0 (2 ^ 26) false 0, .pcieLinkUp 4 1 1 false,
    .pcieLinkUp 0 0 1 false, .pcieLinkUp 0 7 1 false, .pcieLinkUp 0 1 17 false, .partnerLpi 24 true, .hbmTemperatureReadout 8 0] = true := by
  decide +kernel
theorem test_wf_accepts : accepted Instr.wf [.nop 47 3 { pg := 7, d := 63 }, .tileScrub 51 0xFFFFF (.single 72), .hbmWrite .remote 0 (List.replicate 256 0) false,
    .pfcReceive 23 255 (List.replicate 8 65535), .pcieLinkUp 3 6 16 true, .mbxSend .pf0 511 true, .imageVerifyComplete 4 (2 ^ 32 - 1) true true,
    .getTid, .registerWrite (.vf 511) (2 ^ 26 - 1) true 0] = true := by decide +kernel

/-! ## Witnesses: the machine and Plumb time -/

theorem test_queue_passes : State.reset.pending = [] ∧ State.reset.boot.stage < 2 ∧ fin.pending = [] ∧ 2 ≤ fin.boot.stage := by decide

theorem test_step_keeps_quiet : State.quiet { fin with pending := [.getTid] } ∧ (∃ t, step { fin with pending := [.getTid] } = .next t) :=
  ⟨⟨rfl, rfl⟩, _, rfl⟩

theorem test_memory_form : Memory.wf { fin with hbm := [(5, 1)], pending := [.getTid] }.hbm = true
    ∧ (∃ t, step { fin with hbm := [(5, 1)], pending := [.getTid] } = .next t) := ⟨by decide, _, rfl⟩

/-- A follower whose entry 0 names device 7 at port 3. -/
def follower : State := fin.setReg 0x1050 0x80000703

theorem test_mark_due : follower.upstream 0 = some (3, 7) ∧ follower.plumbRoot = false ∧ (follower.up 0).sentAt = none
    ∧ ((follower.updUp 0 ({ · with sentAt := some 0 })).updPlumb ({ · with now := 65536 })).upstream 0 = some (3, 7)
    ∧ goes (.plumbMarkSend 0) ((follower.updUp 0 ({ · with sentAt := some 0 })).updPlumb ({ · with now := 65536 })) = true
    ∧ goes (.plumbMarkSend 0) ((follower.updUp 0 ({ · with sentAt := some 1 })).updPlumb ({ · with now := 65536 })) = false := by decide +kernel

theorem test_entry_silent : ((follower.updUp 0 ({ · with unanswered := 8 })).up 0).silent = false
    ∧ goes (.plumbEntrySilent 0) (follower.updUp 0 ({ · with unanswered := 8 })) = true
    ∧ goes (.plumbEntrySilent 0) (follower.updUp 0 ({ · with unanswered := 7 })) = false := by decide +kernel

/-- A partner unheard for eight periods, in a holdover of one second, with a tick length that applies now. -/
def late : State := fin.updPlumb ({ · with
  now := 1000000000, st := 3, holdAt := some 0, waiting := some (12, 1000000000)
  partners := [{ port := 2, dev := 9, last := 1000000000 - 8 * 65536 }] })

theorem test_plumb_timers : (∃ y ∈ late.plumb.partners, y.last + 8 * 65536 ≤ late.plumb.now) ∧ late.plumb.holdAt = some 0 ∧ late.alignSt = 3
    ∧ late.plumb.waiting = some (12, 1000000000) ∧ goes (.plumbPartnerExpire 2 9) late = true ∧ goes .holdoverEvent late = true
    ∧ gives .tickLengthApply late (·.tickLog == 12) = true := by decide +kernel

/-- A frame of opcode `op` with its integrity check. -/
def sealed (op : Nat) (p : Pkt) : Pkt := { p with icrc := BitVec.ofNat 32 (p.check op) }

/-- A mark or an answer of device 7 at port 3. -/
def plumbFrame (op : Nat) : Pkt := sealed op {
  port := 3, encap := 2, flags := flFirst + flLast, pkey := 0xFFFF, dstConn := 0xFFFFFF, payload := [0, 7] ++ zeros 14 ++ [0, 7] ++ zeros 14 }

theorem test_marks_and_answers : fin.glb.service ≠ 0 ∧ fin.isPhisal (plumbFrame 0x20) = true ∧ (plumbFrame 0x20).malformed 0x20 = false
    ∧ (plumbFrame 0x20).icrc.toNat = (plumbFrame 0x20).check 0x20 ∧ (plumbFrame 0x21).malformed 0x21 = false
    ∧ (plumbFrame 0x21).icrc.toNat = (plumbFrame 0x21).check 0x21 := by decide +kernel

/-! ## Witnesses and tests: instructions of the engines -/

theorem test_issues : Issues (runs {}) 0 0 {} := ⟨⟨rfl, rfl⟩, by decide, by decide, by decide, by decide⟩

/-- The last word of the region, under the last predicate. -/
theorem test_issues_last : Issues (runs { pc := 0x1FFFF0 }) 0 0 { pg := 7, pn := true } := ⟨⟨rfl, rfl⟩, by decide, by decide, by decide, by decide⟩

/-- S2 = 5, S3 = -2 and P1 true. -/
def regs : State := runs { sr := [(2, 5), (3, 0xFFFFFFFFFFFFFFFE)], pr := [(1, true)] }

theorem test_add_wraps : gives (.sAdd 0 0 { d := 4, a := 2, b := 3 }) regs (fun t => (t.ctx 0).s 4 == 3 && (t.ctx 0).pc == 16) = true := by decide
theorem test_zero_discards : gives (.sAdd 0 0 { a := 2, b := 3 }) regs (· == regs.updCtx 0 (·.next)) = true := by decide +kernel
theorem test_sub : gives (.sSub 0 0 { d := 4, a := 2, sub := 1, imm := 7 }) regs (fun t => (t.ctx 0).s 4 == -2) = true := by decide
theorem test_shift_is_modulo_64 : gives (.sSar 0 0 { d := 4, a := 3, sub := 1, imm := 65 }) regs (fun t => (t.ctx 0).s 4 == -1) = true := by decide
theorem test_shr_fills_zeros : gives (.sShr 0 0 { d := 4, a := 3, sub := 1, imm := 63 }) regs (fun t => (t.ctx 0).s 4 == 1) = true := by decide
theorem test_cmp_signed : gives (.sCmp 0 0 { d := 2, a := 3, b := 2, sub := 0x20 }) regs (fun t => (t.ctx 0).p 2) = true
    ∧ gives (.sCmp 0 0 { d := 2, a := 3, b := 2, sub := 0x40 }) regs (fun t => !(t.ctx 0).p 2) = true := by decide
theorem test_p_and_not : gives (.pOp 0 0 { d := 2, a := 1, b := 2, sub := 0x30 }) regs (fun t => (t.ctx 0).p 2) = true := by decide
theorem test_reserved_condition_fails : gives (.sCmp 0 0 { d := 2, a := 3, b := 2, sub := 0x60 }) regs (fun t => (t.ctx 0).failing == some 1) = true := by
  decide
theorem test_skipped : gives (.sAdd 0 0 { pg := 1, pn := true, d := 4, a := 2, b := 3 }) regs (· == regs.updCtx 0 (·.next)) = true := by decide +kernel
theorem test_past_the_region : issuedWord (.nop 0 0 {}) = some (0, 0, {}) ∧ State.quiet (runs { pc := 0x1FFFF8 })
    ∧ (runs { pc := 0x1FFFF8 }).canIssue 0 0 = true ∧ (runs { pc := 0x1FFFF8 }).regionSize 0 < 0x1FFFF8 + 16
    ∧ gives (.nop 0 0 {}) (runs { pc := 0x1FFFF8 }) (fun t => (t.ctx 0).failing == some 3) = true := ⟨rfl, ⟨rfl, rfl⟩, by decide, by decide, by decide +kernel⟩
theorem test_guard_fails : (regs.ctx 0).pc + 16 ≤ regs.regionSize 0 ∧ (regs.ctx 0).p 1 = true := by decide

theorem test_branch_back : gives (.br 0 0 { imm := 0xFFFFFFFE }) (runs { pc := 64 }) (fun t => (t.ctx 0).pc == 32) = true := by decide +kernel
theorem test_loop_ends : gives (.loop 0 0 { a := 2, imm := 0xFFFFFFFE }) (runs { pc := 64, sr := [(2, 1)] })
    (fun t => (t.ctx 0).pc == 80 && (t.ctx 0).s 2 == 0) = true
    ∧ gives (.loop 0 0 { a := 2, imm := 0xFFFFFFFE }) (runs { pc := 64, sr := [(2, 2)] }) (fun t => (t.ctx 0).pc == 32) = true := by decide +kernel
theorem test_control_hypotheses : ((runs {}).ctx 0).pendingOps = [] := rfl
theorem test_replay_off : (runs {}).rpOf 0 = none := by decide +kernel
theorem test_flags_read : gives (.flagsRd 0 0 { d := 1 }) (runs { of := true, pz := true }) (fun t => (t.ctx 0).s 1 == 10) = true := by decide
theorem test_slice_end : gives (.sliceEnd 0 0 {}) (runs {}) (fun t => (t.ctx 0).st == 1 && (t.ctx 0).slices == 1) = true := by decide
theorem test_event_twice : ((runs { evTick := some 0 }).ctx 0).evTick = some (runs {}).ticks := by decide
theorem test_event_once : ((runs {}).ctx 0).evTick ≠ some (runs {}).ticks
    ∧ gives (.event 0 0 { imm := 9 }) (runs {}) (fun t => t.recs.prod == 1 && (t.page (Blk.eng.page)).irqStat == 8) = true := by decide +kernel

/-- S1 points at the last 8 bytes of the region, S2 at its last 32, and TD[0] is 7. -/
def stores : State := runs { sr := [(1, 0x1FFFF8), (2, 0x1FFFE0)], td := [(0, 7)] }

theorem test_scalar_memory : ((stores.ctx 0).s 1 + 0).toNat % 8 = 0 ∧ ((stores.ctx 0).s 1 + 0).toNat + 8 ≤ stores.regionSize 0
    ∧ ((stores.ctx 0).s 2 + 0).toNat + 32 ≤ stores.regionSize 0 ∧ stores.tsBad (stores.tsAddr 0 0x1FFFF8) 8 = false
    ∧ stores.tsBad (stores.tsAddr 0 0x1FFFE0) 32 = false ∧ Memory.wf stores.tileMem = true := by decide +kernel
theorem test_store_little_endian : gives (.sSt 0 0 { a := 1, b := 2 }) stores
    (fun t => t.tileMem == [(0x1FFFF8, 0xE0), (0x1FFFF9, 0xFF), (0x1FFFFA, 0x1F)]) = true := by decide +kernel
theorem test_td_store : gives (.tdSt 0 0 { b := 2 }) stores (fun t => t.tileMem == [(0x1FFFE0, 7)]) = true := by decide +kernel
theorem test_load_past_the_end : gives (.sLd 0 0 { d := 3, a := 1, imm := 8 }) stores (fun t => (t.ctx 0).failing.isSome) = true := by decide +kernel
theorem test_td_fields : tdField 0 = some (63, 0) ∧ tdField 15 = some (251, 246)
    ∧ gives (.tdSetf 0 0 { d := 63, a := 1, sub := 10 }) (runs { sr := [(1, 7)] }) (fun t => (t.ctx 0).td == [(63, BitVec.ofNat 256 (3 <<< 178))]) = true
    ∧ gives (.tdGetf 0 0 { d := 2, a := 0, sub := 9 }) (runs { td := [(0, BitVec.ofNat 256 (5 <<< 175))] }) (fun t => (t.ctx 0).s 2 == 5) = true := by decide +kernel
theorem test_td_add_wraps : gives (.tdAddb 0 0 { sub := 1, imm := 0xFFFFFFFFFFFFFFFF }) (runs { td := [(0, BitVec.ofNat 256 (3 <<< 64))] })
    (fun t => (t.ctx 0).td == [(0, BitVec.ofNat 256 ((3 <<< 64) + 0xFFFFFFFFFFFFFFFF))]) = true := by decide +kernel
/-! ## Witnesses and tests: tensors -/

/-- Do the hypotheses of a statement about the word `f` of an instruction hold on context 0 of engine 0? -/
def meets (i : Ins) (s : State) (f : Fields) : Bool :=
  s.todo.isEmpty && s.mem.stalled.isNone && s.canIssue 0 0 && decide ((s.ctx 0).pc + 16 ≤ s.regionSize 0) && engOpcodes.contains (s.opAt 0)
  && (s.ctx 0).p f.pg != f.pn
  && i.encOk (s.ctx 0) f && i.check s 0 f == 0

theorem meets_issues {i : Ins} {s : State} {f : Fields} (h : meets i s f = true) : Issues s 0 0 f ∧ i.passes s 0 f := by
  simp only [meets, Bool.and_eq_true, List.isEmpty_iff, Option.isNone_iff_eq_none, decide_eq_true_eq, bne_iff_ne, beq_iff_eq] at h
  obtain ⟨⟨⟨⟨⟨⟨⟨ht, hs⟩, hi⟩, hp⟩, ho⟩, hg⟩, he⟩, hc⟩ := h
  exact ⟨⟨⟨ht, hs⟩, hi, hp, ho, hg⟩, he, hc⟩

/-- TD[0] and TD[1] are 64 bytes of UINT8, TD[2] and TD[3] two rows of 32, TD[4] 128 bytes and TD[5] the 128 from its byte 64 on. -/
def bytesAt : State := { runs { td := [(0, td 0 64 1 9 1), (1, td 0x100 64 1 9 1), (2, td 0x200 32 2 9 2), (3, td 0x300 32 2 9 2),
    (4, td 0x100 128 1 9 1), (5, td 0x140 128 1 9 1)] } with
  tileMem := [(0x100, 7), (0x13F, 9), (0x200, 1), (0x25F, 5)] }

theorem test_fill_meets : meets fillIns bytesAt { imm := 0xFF } = true ∧ OwnDense ((bytesAt.ctx 0).tdAt 0)
    ∧ Memory.wf bytesAt.tileMem = true := ⟨by decide +kernel, by unfold OwnDense; decide +kernel, by decide⟩
theorem test_fill : gives (.fill 0 0 { imm := 0xA5 }) bytesAt (fun t => t.tsBytes 0 64 == List.replicate 64 0xA5 && t.tsBytes 64 8 == zeros 8) = true := by
  decide +kernel
theorem test_mov_meets : meets movIns bytesAt { d := 2, a := 3 } = true ∧ OwnDense ((bytesAt.ctx 0).tdAt 3) ∧ Unpoisoned bytesAt 0 ((bytesAt.ctx 0).tdAt 3)
    ∧ ((bytesAt.ctx 0).tdAt 2).rank ≤ 2 ∧ Apart ((bytesAt.ctx 0).tdAt 3) ((bytesAt.ctx 0).tdAt 2) :=
  ⟨by decide +kernel, by unfold OwnDense; decide +kernel, by unfold Unpoisoned; decide +kernel, by decide +kernel, by unfold Apart; decide +kernel⟩
theorem test_mov : gives (.mov 0 0 { d := 0, a := 1 }) bytesAt (fun t => t.tileMem == [(0, 7), (0x3F, 9)] ++ bytesAt.tileMem) = true := by
  decide +kernel

theorem test_mov_overlap_meets : meets movIns bytesAt { d := 5, a := 4 } = true ∧ OwnDense ((bytesAt.ctx 0).tdAt 5) ∧ OwnDense ((bytesAt.ctx 0).tdAt 4)
    ∧ Unpoisoned bytesAt 0 ((bytesAt.ctx 0).tdAt 4) ∧ ((bytesAt.ctx 0).tdAt 5).rank = 1
    ∧ ((bytesAt.ctx 0).tdAt 4).base < ((bytesAt.ctx 0).tdAt 5).base :=
  ⟨by decide +kernel, by unfold OwnDense; decide +kernel, by unfold OwnDense; decide +kernel, by unfold Unpoisoned; decide +kernel, by decide +kernel,
    by decide +kernel⟩
theorem test_mov_overlap : gives (.mov 0 0 { d := 5, a := 4 }) bytesAt (fun t => t.tsBytes 0x100 0xC0 ==
    ([7] ++ zeros 62 ++ [9]) ++ ([7] ++ zeros 62 ++ [9]) ++ ([7] ++ zeros 62 ++ [9])) = true := by decide +kernel

/-- TD[0] to TD[2] are two INT32 each: 2^31 - 1 and 3, 2 and -1. -/
def ints : State := { runs { td := [(0, td 0 2 1 8 1), (1, td 0x40 2 1 8 1), (2, td 0x80 2 1 8 1)] } with
  tileMem := [(0x40, 0xFF), (0x41, 0xFF), (0x42, 0xFF), (0x43, 0x7F), (0x44, 3), (0x80, 2), (0x84, 0xFF), (0x85, 0xFF), (0x86, 0xFF), (0x87, 0xFF)] }

theorem test_ints_meet : meets (binIns 0x50 { a := 1, b := 2 }) ints { a := 1, b := 2 } = true ∧ meets (binIns 0x51 { a := 1, b := 2 }) ints { a := 1, b := 2 } = true
    ∧ meets (binIns 0x52 { a := 1, b := 2 }) ints { a := 1, b := 2 } = true ∧ ((ints.ctx 0).tdAt 1).fcode = 8 ∧ ((ints.ctx 0).tdAt 0).rank = 1 := by
  decide +kernel
theorem test_int_add_wraps : gives (.vAdd 0 0 { a := 1, b := 2 }) ints (fun t => t.tsBytes 0 8 == [1, 0, 0, 0x80, 2, 0, 0, 0]) = true := by decide +kernel
theorem test_int_mul_wraps : gives (.vMul 0 0 { a := 1, b := 2 }) ints (fun t => t.tsBytes 0 8 == [0xFE, 0xFF, 0xFF, 0xFF, 0xFD, 0xFF, 0xFF, 0xFF]) = true := by
  decide +kernel

theorem test_accumulator_meets : Tab.wf (0 : W32) ((runs { acc := [(0, 5), (4096, 7)] }).ctx 0).acc = true := by decide

/-- A word of a tensor of rank 3 or 4: base, extents, strides in units of 64 bytes, format and rank. -/
def td4 (base n0 n1 n2 n3 s1 s2 s3 fcode rank : Nat) : TdWord :=
  BitVec.ofNat 256 (base + 2 ^ 64 * (n0 - 1) + 2 ^ 84 * (n1 - 1) + 2 ^ 104 * (n2 - 1) + 2 ^ 124 * fcode + 2 ^ 128 * (n3 - 1) + 2 ^ 148 * s1
    + 2 ^ 178 * (rank - 1) + 2 ^ 183 + 2 ^ 192 * s2 + 2 ^ 219 * s3)

/-- Tensors for one instruction each: scalars in FP32 (0 to 3), UINT8 (4), INT32 rows and indexes (5 to 8), BF16 matrices (9, 10) with
FP32 results (11), and the operands of ATTN.BLOCK (12 to 16) in BF16. -/
def tensors : State := runs { td := [
  (0, td 0x000 1 1 7 1), (1, td 0x040 1 1 7 1), (2, td 0x080 1 1 7 1), (3, td 0x0C0 1 1 7 1), (4, td 0x100 1 1 9 1),
  (5, td 0x140 1 1 8 2), (6, td 0x180 1 1 8 2), (7, td 0x1C0 1 1 8 1), (8, td 0x200 1 1 9 1),
  (9, td 0x240 32 1 6 2), (10, td 0x280 32 1 6 2), (11, td 0x2C0 1 1 7 2),
  (12, td4 0x400 64 1 1 1 2 2 2 6 3), (13, td4 0x480 64 1 1 1 2 2 2 6 3), (14, td4 0x1000 64 64 1 1 2 128 128 6 4),
  (15, td 0x8000 16384 1 9 1), (16, td4 0xC000 80 1 1 1 5 5 5 7 3), (17, td 0x300 1 1 8 2), (18, td 0x10000 256 1 9 1)] }

theorem test_moves_meet : meets (rowIns 0x61) tensors { d := 5, a := 6, b := 7 } = true ∧ meets (rowIns 0x62) tensors { d := 5, a := 6, b := 7 } = true
    ∧ meets (rowIns 0x63) tensors { d := 5, a := 6, b := 7 } = true ∧ meets (rowIns 0x64) tensors { d := 5, a := 6, b := 8, c := 1 } = true := by
  decide +kernel
theorem test_vectors_meet : (∀ op ∈ [0x50, 0x51, 0x52, 0x54, 0x55], meets (binIns op { d := 0, a := 1, b := 2 }) tensors { d := 0, a := 1, b := 2 } = true)
    ∧ meets fmaIns tensors { d := 0, a := 1, b := 2, c := 3 } = true ∧ meets cmpIns tensors { d := 4, a := 1, b := 2 } = true
    ∧ meets selIns tensors { d := 0, a := 1, b := 2, c := 4 } = true ∧ meets fnIns tensors { d := 0, a := 1 } = true
    ∧ meets (cvtIns (tensors.ctx 0) { d := 0, a := 1 }) tensors { d := 0, a := 1 } = true ∧ meets redIns tensors { d := 0, a := 1 } = true
    ∧ meets topkIns tensors { d := 11, a := 11, b := 17, imm := 1 } = true := by decide +kernel
theorem test_matrices_meet : meets mmaIns tensors { d := 3, a := 9, b := 10 } = true ∧ meets (mmatIns true) tensors { d := 11, a := 9, b := 10, sub := 1 } = true
    ∧ meets accZeroIns tensors { d := 3 } = true ∧ meets accStIns tensors { d := 11, a := 3 } = true ∧ meets accLdIns tensors { d := 3, a := 11 } = true
    ∧ meets attnIns tensors { d := 16, a := 12, b := 13, c := 14, imm := 0x601 } = true := by decide +kernel
theorem test_synchronising_meet : meets (feIns 0x70 .none) tensors { a := 1 } = true ∧ meets (feIns 0x71 .none) tensors { a := 1 } = true
    ∧ meets (feIns 0x72 .none) tensors { a := 1 } = true ∧ meets (feIns 0x73 .none) tensors { a := 1 } = true ∧ meets (feIns 0x74 .p) tensors { d := 1, a := 1 } = true
    ∧ meets { op := 0x75, sub := 3, enc := fun _ f => f.sub % 4 != 3 } tensors { sub := 2 } = true
    ∧ meets (mbxRdIns (tensors.owner 0)) tensors { d := 18, a := 1, imm := 1 } = true := by decide +kernel

/-- Words that are full, for instructions with fe_wait. -/
def filled : State := { tensors with tileFull := (List.range 9).map fun w => (w + 8, true) }

theorem test_fe_wait_meets : meets movIns filled { d := 0, a := 1, feWait := true } = true ∧ movIns.runsFrom filled 0 { d := 0, a := 1, feWait := true } filled
    ∧ gives (.mov 0 0 { d := 0, a := 1, feWait := true }) tensors (fun t => (t.ctx 0).wait.isSome && (t.ctx 0).pc == 0) = true
    ∧ gives (.mov 0 0 { d := 0, a := 1, feWait := true }) filled (fun t => (t.ctx 0).wait.isNone && (t.ctx 0).pc == 16) = true :=
  ⟨by decide +kernel, ⟨by decide +kernel, by decide +kernel⟩, by decide +kernel, by decide +kernel⟩

/-- Does an instruction move its context on? -/
def moves (c : Instr) (s : State) : Bool := gives c s fun t => (t.ctx 0).pc == 16 && (t.ctx 0).failing.isNone

theorem test_moves_run : moves (.gather 0 0 { d := 5, a := 6, b := 7 }) tensors = true ∧ moves (.scatter 0 0 { d := 5, a := 6, b := 7 }) tensors = true
    ∧ moves (.scatterAdd 0 0 { d := 5, a := 6, b := 7 }) tensors = true ∧ moves (.compact 0 0 { d := 5, a := 6, b := 8, c := 1 }) tensors = true := by
  decide +kernel
theorem test_vectors_run : moves (.vFma 0 0 { d := 0, a := 1, b := 2, c := 3 }) tensors = true ∧ moves (.vMin 0 0 { d := 0, a := 1, b := 2 }) tensors = true
    ∧ moves (.vMax 0 0 { d := 0, a := 1, b := 2 }) tensors = true ∧ moves (.vCmp 0 0 { d := 4, a := 1, b := 2 }) tensors = true
    ∧ moves (.vSel 0 0 { d := 0, a := 1, b := 2, c := 4 }) tensors = true ∧ moves (.vFn 0 0 { d := 0, a := 1 }) tensors = true
    ∧ moves (.vCvt 0 0 { d := 0, a := 1 }) tensors = true ∧ moves (.vRed 0 0 { d := 0, a := 1 }) tensors = true
    ∧ moves (.topk 0 0 { d := 11, a := 11, b := 17, imm := 1 }) tensors = true := by decide +kernel
theorem test_acc_st : moves (.accSt 0 0 { d := 11, a := 3 }) tensors = true := by decide +kernel
theorem test_synchronising_run : moves (.feTest 0 0 { d := 1, a := 1 }) tensors = true ∧ moves (.fence 0 0 { sub := 2 }) tensors = true
    ∧ moves (.mbxRd 0 0 { d := 18, a := 1, imm := 1 }) tensors = true ∧ moves (.feWait 0 0 { a := 1 }) filled = true
    ∧ moves (.feWaite 0 0 { a := 2 }) filled = false ∧ moves (.feWaite 0 0 { a := 0 }) filled = true := by decide +kernel
theorem test_fe_set : gives (.feSet 0 0 { a := 0 }) tensors (fun t => t.tileFull == [(0, true)] && (t.ctx 0).pc == 16) = true
    ∧ gives (.feClr 0 0 { a := 1 }) filled (fun t => t.tileFull == filled.tileFull.tail && (t.ctx 0).pc == 16) = true := by decide +kernel
/-! ## Witnesses and tests: waits, programs, launches and the fabric -/

theorem test_fe_marks_meet : Tab.wf false filled.tileFull = true ∧ OwnDense ((filled.ctx 0).tdAt 1) := ⟨by decide, by unfold OwnDense; decide +kernel⟩

/-- Context 0 waits for the words of TD[1] to be full, since tick 0. -/
def waits (retry : Bool) : State := filled.updCtx 0 ({ · with wait := some { op := true, empty := false, ranges := [(0, 64, 8)], since := 0, retry } })

theorem test_waits_end : (waits false).runs 0 0 = true ∧ feErr ((waits false).feRanges 0 true [(0, 64, 8)]).2 = none
    ∧ ((waits false).feRanges 0 true [(0, 64, 8)]).1.feBlock true ((waits false).feRanges 0 true [(0, 64, 8)]).2 = (waits false, none)
    ∧ (waits true).runs 0 0 = true ∧ gives (.feWaitComplete 0 0) (waits false) (fun t => (t.ctx 0).pc == 16 && (t.ctx 0).wait.isNone) = true
    ∧ goes (.syncWaitRetry 0 0) ((waits true).updPlumb ({ · with now := 1000 })) = true
    ∧ goes (.syncWaitRetry 0 0) ((waits true).updPlumb ({ · with now := 999 })) = false
    ∧ goes (.feWaitStall 0 0) ((waits false).updPlumb ({ · with count := 4096 })) = true
    ∧ goes (.feWaitStall 0 0) ((waits false).updPlumb ({ · with count := 4095 })) = false := by decide +kernel

theorem test_programs_end : (runs { fence := some 0 }).runs 0 0 = true ∧ ((runs { fence := some 0 }).ctx 0).pendingOps = []
    ∧ ((runs { fence := some 0 }).ctx 0).heldErr = none ∧ ((runs { fence := some 0 }).ctx 0).heldLocal = none
    ∧ gives (.fenceComplete 0 0) (runs { fence := some 0 }) (fun t => (t.ctx 0).pc == 16) = true
    ∧ gives (.launchComplete 0 0) (runs { halting := true }) (fun t => (t.ctx 0).st == 0 && (t.ctx 0).slices == 1) = true
    ∧ gives (.contextFaultHalt 0 0) (runs { failing := some 3 }) (fun t => (t.ctx 0).faulted && (t.ctx 0).err == 3) = true := by decide +kernel

/-- A launch for context 1 of engine 47, whose interval it is. -/
def launching : State := { fin with engs := [(47, { interval := some 1 })], sched := [{ e := 47, x := 1, tick := 0, asked := 0, entry := 64, arg := 9, tag := 5 }], plumb := { now := 256 } }

theorem test_launch_meets : (launching.sched.find? (fun y => y.e == 47 && y.x == 1)).isSome = true ∧ (launching.eng 47).interval = some 1
    ∧ (launching.eng 47).switching = none ∧ (launching.eng 47).noTile = false ∧ (launching.eng 47).copying = false
    ∧ (launching.eng 47).underTest = false ∧ (launching.ctx 189).st = 0
    ∧ gives (.launchStart 47 1) launching (fun t => (t.ctx 189).pc == 64 && (t.ctx 189).s 1 == 9 && (t.ctx 189).tag == 5 && t.sched.isEmpty) = true
    ∧ goes (.launchStart 47 1) (launching.updPlumb ({ · with now := 255 })) = false := by
  decide +kernel

theorem test_switches_end : gives (.contextSwitchComplete 0) { fin with engs := [(0, { switching := some 2 })], ctxs := [(2, { st := 1 })] }
      (fun t => (t.eng 0).interval == some 2 && (t.ctx 2).st == 2) = true
    ∧ gives (.migrationCopyComplete 47) { fin with engs := [(47, { migrTo := some 51, copying := true })] }
      (fun t => t.tileOf 47 == 51 && !(t.eng 47).copying) = true := by decide +kernel

/-- Both planes in service; plane 1 retired; plane 1 draining. -/
def planes : State := fin.setReg 0x64 0
def retiring : State := (planes.updNoc ({ · with lastUsed := [(0, 72)] })).setReg 0x64 2
def drains : State := { retiring with noc := { st1 := 1, awaiting := [(0, 72)] } }

theorem test_planes : retiring.noc.st 1 = 0 ∧ bitAt (retiring.reg 0x64) 1 = true ∧ drains.draining = some 1
    ∧ goes (.planeRetire 1) retiring = true ∧ gives (.planeFinalMarker 0 72) drains (fun t => t.noc.st1 == 2) = true
    ∧ gives .planeFailTimeout (drains.updPlumb ({ · with count := 8 })) (fun t => t.noc.st1 == 3 && t.recs.prod == 1) = true
    ∧ goes .planeFailTimeout (drains.updPlumb ({ · with count := 7 })) = false
    ∧ gives (.planeReturn 1) (planes.updNoc ({ · with st1 := 2 })) (fun t => t.noc.st1 == 0) = true := by decide +kernel

/-- A transfer of agent 0 to tile 3 that came with FENCE on plane 1 and waits for its marker on plane 0. -/
def held : Fenced := { src := 0, dst := 3, plane := 1, cmd := .tileScrub 0 0 .none }
def fencing : State := planes.updNoc ({ · with fenced := [held] })

theorem test_fence_markers : (planes.noc.carries 0 0 72 && planes.noc.carries 1 0 72 && fencing.noc.carries 0 0 3) = true ∧ fencing.noc.fenced.isEmpty = false
    ∧ gives (.nocFenceMarker 0 72 1) planes (fun t => t.noc.markers == [(0, 72, 1)]) = true
    ∧ gives (.nocFenceMarker 0 3 0) fencing (fun t => t.noc.fenced.isEmpty && t.noc.markers.isEmpty) = true
    ∧ gives (.nocFenceMarker 1 3 0) fencing (fun t => t.noc.fenced == [held] && t.noc.markers == [(1, 3, 0)]) = true
    ∧ gives (.nocFenceMarker 0 3 1) fencing (fun t => t.noc.fenced == [held]) = true := by decide +kernel

/-- The last context of the last engine is resident. -/
def resident : State := { fin with ctxs := [(191, { st := 1 })] }

theorem test_inbound : resident.windowAddr 191 0x1FFFF8 8 none = some (resident.tsAddr 191 0x1FFFF8) ∧ (resident.eng 47).copying = false
    ∧ resident.noc.carries 1 72 (resident.tileOf 47) = true ∧ resident.noc.planeOk 1 0x1FFFF8 = true ∧ resident.noc.planeOk 0 0x1FFFF8 = false
    ∧ resident.copyingOn (resident.tsAddr 191 0x1FFFF8 / 0x800000) = none
    ∧ gives (.routerInboundTransfer 72 1 47 3 0x1FFFF8 none [1, 2, 3, 4, 5, 6, 7, 8] false false false) resident
        (fun t => t.tsBytes (resident.tsAddr 191 0x1FFFF8) 8 == [1, 2, 3, 4, 5, 6, 7, 8]) = true
    ∧ resident.windowAddr 191 0x1FFFF9 8 none = none ∧ resident.windowAddr 0 0 8 none = none
    ∧ gives (.routerInboundTransfer 3 0 0 0 0 none [1] false false false) resident (fun t => t.tileMem == []) = true := by decide +kernel

theorem test_inbound_held : gives (.routerInboundTransfer 3 0 0 0 0 none [1] false false false) { fin with engs := [(0, { copying := true })] }
      (fun t => (t.eng 0).heldIn.length == 1) = true
    ∧ gives (.routerInboundTransfer 3 0 0 0 0 none [1] true false false) fin (fun t => t.noc.fenced.length == 1) = true
    ∧ gives (.routerInboundTransfer 3 0 0 0 0 none [1] false false true) resident (fun t => t.tileMem == []) = true := by decide +kernel

theorem test_scrub : (Tab.wf false filled.tileFull && Memory.wf filled.tileMem) = true
    ∧ gives (.tileScrub 51 0xFFFFF (.other 0)) fin (fun t => t.tilePoison == [(0x100000 * 51 + 0xFFFFF, true)]) = true
    ∧ gives (.forcedScrubCycle 0 0 (.single 72)) fin (fun t => t.tilePoison == []) = true := by decide +kernel
/-! ## Witnesses and tests: collectives, experts, snapshots and replay -/

/-- Group 0 of two ranks of radix 2 on engines 0 and 1 of this device, whose contexts 0 run, with a window of 512 KiB at the start of their
regions; TD[0] is what a member gives, TD[1] lies in the receive area, TD[2] is the result, all of 32 FP32. -/
def group (a : Ctx) : State := { fin with
  ctxs := [(0, { a with st := 2, td := [(0, td 0x80000 32 1 7 1), (1, td 0x50000 32 1 7 1), (2, td 0x80100 32 1 7 1), (3, td 0x50000 32 1 7 1)] }), (4, { st := 2 })]
  engs := [(0, { interval := some 0 }), (1, { interval := some 0 })]
  grps := [(0, { valid := true, cfg := 0x10800, stage := 0x800, table := [{ dev := 0, eng := 0, ctx := 0, conn := 0, gen := 0 }, { dev := 0, eng := 1, ctx := 0, conn := 0, gen := 0 }] })] }

/-- The same group with matrices as operands. -/
def mats : State := { group {} with
  ctxs := [(0, { st := 2, td := [(0, td 0x80000 32 1 6 2), (1, td 0x80100 32 1 6 2), (2, td 0x50000 1 1 7 2), (3, td 0x80200 1 1 7 2), (4, td 0x50000 32 1 6 2)] })] }

theorem test_collectives_meet : meets reduceIns (group {}) { a := 0, c := 1, d := 2 } = true
    ∧ meets lseIns (group {}) { a := 0, c := 1, d := 2 } = true ∧ meets (bcastIns (bcastSrc true { a := 0, d := 1 })) (group {}) { a := 0, d := 1 } = true
    ∧ meets mmaReduceIns mats { a := 0, b := 1, c := 2, d := 3 } = true
    ∧ meets { bcastMmaIns with waits := some (bcastMmaSrc true { a := 0, b := 1, c := 4, d := 3 }) } mats { a := 0, b := 1, c := 4, d := 3 } = true := by
  decide +kernel
theorem test_collectives_begin : gives (.reduce 0 0 { a := 0, c := 1, d := 2 }) (group {}) (fun t => (t.ctx 0).coll.isSome && (t.ctx 0).failing.isNone) = true
    ∧ gives (.bcast 0 0 { a := 0, d := 1 }) (group {}) (fun t => (t.ctx 0).coll.isSome && (t.ctx 0).failing.isNone) = true
    ∧ gives (.lseReduce 0 0 { a := 0, c := 1, d := 2 }) (group {}) (fun t => (t.ctx 0).coll.isSome && (t.ctx 0).failing.isNone) = true := by decide +kernel

/-- Rank 0 as the root of a REDUCE of 128 bytes, whose child is rank 1. -/
def coll (op : Nat) : Coll := { g := 0, rank := 0, v := 0, op, seq := 1, imm := 0, root := 0, f := { a := 0, c := 1, d := if op = 0x83 then 1 else 2 }, total := 128 }
/-- Its child, which has its part of the result ready. -/
def child : Coll := { coll 0x82 with rank := 1, v := 1, ready := 1 }

/-- The chunk of rank 1 in its slot of rank 0, and its flight. -/
def hdr : ChunkHdr := { inst := 0, seq := 1, opcode := 0x82, redOp := 0, compressed := false, root := 0, src := 1, index := 0, bytes := 128, total := 128, digest := 0 }
def flying (kind : Nat) : State := { group { coll := some (coll 0x82) } with flights := [{ kind, g := 0, dest := 0, src := 1, j := 1, hdr := some hdr, data := zeros 128, seq := 1 }] }


/-- The state after a command, or the same where it stops. -/
def after (c : Instr) (s : State) : State := match exec c s with
  | .next t => t
  | _ => s

theorem test_chunk_meets : ((flying 0).arrive 0 0 hdr.src
      { kind := 0, g := 0, dest := 0, src := hdr.src, j := 1, hdr := some hdr, data := zeros 128, bad := [], seq := hdr.seq }).isSome = true
    ∧ 1 ≤ hdr.bytes ∧ hdr.bytes ≤ 65536 ∧ (zeros 128).length = hdr.bytes ∧ goes (.chunkPlaced 0 0 1 hdr (zeros 128) []) (flying 0) = true := by
  decide +kernel
theorem test_ready_word_meets : (flying 1).flights.find? (fun x => x.kind == 1 && x.g == 0 && x.dest == 0 && x.j == 1) = (flying 1).flights.head?
    ∧ ((flying 1).arrive 0 0 1 { kind := 1, g := 0, dest := 0, src := 1, j := 1, hdr := some hdr, data := zeros 128, seq := 1 }).isSome = true
    ∧ goes (.readyWordPlaced 0 0 1 1) (flying 1) = true := by decide +kernel
theorem test_ready_word_early : (group {}).flights.find? (fun x => x.kind == 1 && x.g == 0 && x.dest == 0 && x.j == 15) = none
    ∧ (group {}).rankLocal 0 0 = true ∧ (group {}).collAt 0 0 = none ∧ goes (.readyWordPlaced 0 0 15 1) (group {}) = true := by decide +kernel

/-- An abandon word of rank 1 on its way to rank 0. -/
def abandoned (a : Ctx) : State := { group a with flights := [{ kind := 2, g := 0, dest := 0, src := 1, j := 0, seq := 1, code := 3 }] }

theorem test_abandon_meets : ((abandoned { coll := some (coll 0x82) }).arrive 0 0 1
        { kind := 2, g := 0, dest := 0, src := 1, j := 0, seq := 1, code := 3 }).any (·.collAt 0 0 == some (0, coll 0x82)) = true ∧ (coll 0x82).seq = 1
    ∧ ((abandoned {}).arrive 0 0 1 { kind := 2, g := 0, dest := 0, src := 1, j := 0, seq := 1, code := 3 }).any (·.collAt 0 0 == none) = true
    ∧ goes (.abandonWordPlaced 0 0 1 1 3) (abandoned { coll := some (coll 0x82) }) = true ∧ goes (.abandonWordPlaced 0 0 1 1 3) (abandoned {}) = true := by
  decide +kernel

/-- The engine of rank 0 is copied. -/
def copied (s : State) : State := { s with engs := [(0, { interval := some 0, copying := true }), (1, { interval := some 0 })] }

theorem test_arrivals_held : gives (.chunkPlaced 0 0 1 hdr (zeros 128) []) (copied (flying 0)) (fun t => (t.eng 0).heldIn.length == 1) = true
    ∧ gives (.readyWordPlaced 0 0 1 1) (copied (flying 1)) (fun t => (t.eng 0).heldIn.length == 1) = true
    ∧ gives (.abandonWordPlaced 0 0 1 1 3) (copied (abandoned {})) (fun t => (t.eng 0).heldIn.length == 1) = true := by decide +kernel

/-- Rank 0 with the chunk of rank 1 in its slot; rank 1 with a credit; rank 0 as the root of a broadcast that rank 1 is ready for. -/
def slotted : State := after (.chunkPlaced 0 0 1 hdr (zeros 128) []) (flying 0)
def credited : State :=
  let s := (group {}).updCtx 4 ({ · with coll := some child, td := ((group {}).ctx 0).td })
  s.markWord (s.grp 0) 1 0x8C0 true
def root : State := after (.readyWordPlaced 0 0 1 1)
  { flying 1 with ctxs := (group { coll := some { coll 0x83 with comb := 1 } }).ctxs }

theorem test_instances_meet : slotted.collAt 0 0 = some (0, { coll 0x82 with last := 0 }) ∧ slotted.holds 0 = true
    ∧ (slotted.kidsOf (coll 0x82)).filter (fun x => (coll 0x82).active x.1) = [(1, 1)] ∧ slotted.slotReady (coll 0x82) 1 = true
    ∧ ((coll 0x82).recv (slotted.ctx 0)).sparse ≠ 3 ∧ gives (.chunkCombine 0 0) slotted (fun t => (((t.ctx 0).coll.map (·.comb)) == some 1)) = true
    ∧ credited.collAt 0 1 = some (4, child) ∧ credited.holds 4 = true ∧ credited.parentOf child = some 0
    ∧ credited.wordFull (credited.grp 0) 1 (0x8C0 + 8 * (child.sent % 2)) = true
    ∧ gives (.chunkSend 0 1) credited (fun t => (((t.ctx 4).coll.map (·.sent)) == some 1)) = true := by decide +kernel
theorem test_broadcast_meets : root.collAt 0 0 = some (0, { coll 0x83 with comb := 1 }) ∧ root.holds 0 = true
    ∧ (root.kidsOf { coll 0x83 with comb := 1 }).filter (root.canForward { coll 0x83 with comb := 1 }) = [(1, 1)]
    ∧ goes (.bcastChunkForward 0 0) root = true := by decide +kernel
theorem test_instance_ends : (after (.chunkCombine 0 0) slotted).collAt 0 0 = some (0, { coll 0x82 with comb := 1, ready := 1, need := [(1, 128)] })
    ∧ (after (.chunkCombine 0 0) slotted).collDone 0 { coll 0x82 with comb := 1, ready := 1, need := [(1, 128)] } = true
    ∧ gives (.instanceComplete 0 0 .clean) (after (.chunkCombine 0 0) slotted) (fun t => (t.ctx 0).coll.isNone && (t.ctx 0).pc == 16) = true := by decide +kernel
/-- A product that has its result, as the instance of rank 0. -/
def product : State := (after (.chunkCombine 0 0) slotted).updCtx 0 fun c => { c with coll := c.coll.map ({ · with op := 0x81, fwd := [(1, 1)] }) }

theorem test_product_awaits_rerun : (product.collAt 0 0).any (fun x => x.2.op == 0x81 && product.collDone 0 x.2) = true
    ∧ product.pendingRerun (.pending 0 9) = some (0, 9)
    ∧ gives (.instanceComplete 0 0 (.pending 0 9)) product (fun t => (t.ctx 0).rerun == some (0, 9) && (t.ctx 0).coll.isSome) = true := by decide +kernel
theorem test_stall : gives (.collectiveStall 0 0) ((group { coll := some (coll 0x82) }).updPlumb ({ · with count := 4096 })) (fun t => (t.grp 0).stall) = true
    ∧ goes (.collectiveStall 0 0) ((group { coll := some (coll 0x82) }).updPlumb ({ · with count := 4095 })) = false := by decide +kernel

/-- A group of one rank whose table names one expert of capacity 1. -/
def solo : State := { fin with
  ctxs := [(0, { st := 2, td := [(0, td 0x80000 1 1 7 2), (1, td 0x80040 32 1 6 2), (2, td 0x80080 4 1 8 2), (3, td 0x800C0 32 1 6 2),
    (4, td 0x80100 256 1 9 1), (5, td 0x80200 32 1 6 2), (6, td 0x800C0 32 1 6 2), (7, td 0x80280 32 1 6 2)] })]
  engs := [(0, { interval := some 0 })], tileMem := [(0x80084, 1)]
  grps := [(0, { valid := true, cfg := 0x800, stage := 0x800, table := [{ dev := 0, eng := 0, ctx := 0, conn := 0, gen := 0 }] })] }
def gate : Fields := { a := 0, b := 1, c := 2, d := 4, imm := 0x100000301 }
def gated : State := after (.dispatch 0 0 gate) solo
def combines : Fields := { a := 5, b := 4, d := 7, imm := 0x100000301 }

theorem test_dispatch_meets : meets dispatchIns solo gate = true ∧ goes (.dispatch 0 0 gate) solo = true := by decide +kernel
theorem test_dispatch_ends : gated.holds 0 = true ∧ (gated.ctx 0).moe.fail = none ∧ (gated.ctx 0).moe.wait = 1
    ∧ ((gated.ctx 0).moe.acks.all fun a => !(gated.ctx 0).pendingOps.contains a) = true ∧ gated.moeHub.held = []
    ∧ (gated.ctx 0).moe.allPlaced 1 = true := by decide +kernel

def combining : State := after (.combine 0 0 combines) (after (.dispatchComplete 0 0) gated)

theorem test_combine_meets : meets { combineIns with waits := some (combineSrc combines) } (after (.dispatchComplete 0 0) gated) combines = true
    ∧ combining.holds 0 = true ∧ (combining.ctx 0).moe.wait = 2 ∧ (combining.ctx 0).moe.fail = none
    ∧ combining.recAt 0 (combining.ctx 0).moe.f 20 4 ≤ (combining.ctx 0).moe.rows
    ∧ gives (.combineCompute 0 0) combining (fun t => (t.ctx 0).moe.wait == 0 && (t.ctx 0).pc == 32) = true := by decide +kernel

/-- Stack 0 operates, alone and initialised, in a variant of eight stacks. -/
def memory : State := { fin with
  glb := { variant := 1, service := 2 }, mem := { order := [0] }, stackTab := [(0, { st := 2, initPtr := 24576 })] }

/-- Replay group 0 replays since tick 0; its trace holds a message that was due at tick 0. -/
def replaying : State :=
  let s := { memory with reps := [(0, { mode := 2, start := some 0 })] }
  let s := (s.setReg (rpReg 0 0x100) 0x400).setReg (rpReg 0 0x104) 1
  (s.memWrite 0 0 (traceBytes 2 0 0 0 0 0 0 6 (zeros 8))).1.updPlumb ({ · with now := 1024 * 8192 })

theorem test_replay_timeout : (replaying.rep 0).live = true ∧ (replaying.overdue 0).isSome = true := by decide +kernel
theorem test_snapshots : ({ fin with snap := some { time := 0, tick := 0, vals := [] } } : State).snap.isSome = true
    ∧ goes .snapshotCapture { fin with snap := some { time := 0, tick := 0, vals := [] } } = true
    ∧ goes .domrstAckTimeout { fin with boot := { fin.boot with dom := some { g := 0, seq := 0, wait := [1], since := 0 } }, plumb := { now := 1000000 } } = true := by
  decide +kernel
theorem test_replay_groups : (fin.setReg (rpReg 3 0x100) 0x200).rpMode 3 = 1 ∧ ((fin.setReg (rpReg 3 0x100) 0x200).rep 3).mode ≠ 1
    ∧ (fin.setReg (rpReg 0 0x100) 0x400).rpMode 0 = 2 ∧ ((fin.setReg (rpReg 0 0x100) 0x400).rep 0).mode ≠ 2
    ∧ ({ fin with reps := [(2, { mode := 1 })] } : State).rpMode 2 = 0 ∧ Tab.wf ({} : Rep) [(2, { mode := 1 })] = true
    ∧ goes (.recordStart 3) (fin.setReg (rpReg 3 0x100) 0x200) = true ∧ goes (.replayStart 0) (fin.setReg (rpReg 0 0x100) 0x400) = true
    ∧ goes (.replayStop 2) { fin with reps := [(2, { mode := 1 })] } = true := by decide +kernel
/-! ## Witnesses and tests: registers and commands -/

theorem fin_commandable : fin.commandable := by unfold State.commandable; decide

/-- Is an offset of PF0's window a register for which a test holds? -/
def hit (s : State) (off : Nat) (p : Hit → Bool) : Bool := match s.target .pf0 off with
  | .reg h => p h
  | _ => false

/-- A device with a device number. -/
def numbered : State := fin.setReg 0x48 0x80000000

theorem test_register_write_meets : numbered.reaches .pf0 = true ∧ hit numbered 0x1050 (fun h => h.a == h.base && h.r.size == 4 && decide (0x40 ≤ h.base % 0x1000)
    && decide (¬(h.b = .mbx ∧ 0x100 ≤ h.base % 0x1000)) && (h.r.flds.all fun x => x.acc == .rw) && !h.r.flds.isEmpty
    && mayWrite .pf0 h.b h.i (h.base % 0x1000) && h.r.legal (2 ^ 32 - 1) 0x80000703 (merge (numbered.reg h.key) 0x80000703 (2 ^ 32 - 1))
    && (let full := merge (numbered.reg h.key) 0x80000703 (h.r.now &&& (2 ^ 32 - 1))
        let w : RegWrite := { o := .pf0, h, v := 0x80000703 }
        numbered.writeOk w (numbered.reg h.key) full && h.r.now &&& (2 ^ 32 - 1) != 0
        && (State.effect numbered (numbered.setReg h.key full) w (numbered.reg h.key) 0x80000703).isSome)) = true := by decide +kernel
theorem test_register_write : gives (.registerWrite .pf0 0x1050 false 0x80000703) numbered (fun t => t.upstream 0 == some (3, 7) && t.recs.audProd == 1) = true := by
  decide +kernel
theorem test_refused_write_meets : hit fin 0x40 (fun h => h.a == h.base && h.r.size == 4 && ! [Blk.dbg, .hbm, .xlt, .fn, .evq, .hlth].contains h.b && h.r.readOnly) = true
    ∧ hit (fin.updPage 4 ({ · with lock := true })) 0x4040 (fun h => h.a == h.base && h.r.size == 4 && ! [Blk.dbg, .hbm, .xlt, .fn, .evq, .hlth].contains h.b
        && ((fin.updPage 4 ({ · with lock := true })).page (h.b.page + h.i)).lock && (h.r.flds.all fun x => x.acc == .rwL)
        && h.r.mask (· == .rwL) &&& (2 ^ 32 - 1) != 0) = true := by decide +kernel
theorem test_locked_register_keeps : gives (.registerWrite .pf0 0x4040 false 1) (fin.updPage 4 ({ · with lock := true }))
    (fun t => t.reg 0x4040 == fin.reg 0x4040) = true := by decide +kernel

/-- The audit record that a command wrote. -/
def written (s : State) : List Aud := (s.recs.audQueue ++ s.recs.audit).map (·.entry)

/-- Does a command turn one state into another and write an audit record? -/
def performs (c : Instr) (s u : State) : Bool := gives c s fun t => (written t).any fun a => t == settle (u.audit a)

theorem test_header_meets : pageOf 1 = some (.plumb, 0) ∧ fin.instThere .plumb 0 = true
    ∧ performs (.blkCommit .pf0 1 0) fin (fin.updPage 1 fun g => { g with armed := some none }) = true
    ∧ performs (.blkLock .pf0 1) fin (fin.updPage 1 ({ · with lock := true })) = true
    ∧ goes (.blkIrqStatClear .pf0 1 2) fin = true ∧ performs (.blkIrqForce .pf0 1 4) fin (fin.irqForce .plumb 0 4) = true := by decide +kernel

/-- The record ring freezes at its 2^10th record; a Plumb root; core 15 runs. -/
def rooted : State := { (fin.setReg 0x6040 0xA00).setReg 0x1048 0x2D with cores := { running := true } }

theorem test_record_commands : rooted.reg 0x6040 = 256 * 10 ∧ rooted.plumbRoot = true ∧ rooted.halves = [] ∧ rooted.coreOnline 15 = true
    ∧ (rooted.tile 51).role ≠ 4 ∧ (rooted.page 1).lock = false ∧ rooted.tick < 1
    ∧ performs (.evrFreeze .pf0) rooted (rooted.setReg 0x6040 0xA01).freeze = true
    ∧ performs (.evrUnfreeze .pf0) rooted (rooted.setReg 0x6040 0xA00).unfreeze = true
    ∧ performs (.evrFlush .pf0) rooted (rooted.startFlush none false) = true
    ∧ performs (.hlthRetire .pf0 51) rooted (rooted.updTile 51 ({ · with retire := true })) = true
    ∧ performs (.hlthTestNow .pf0 0 0) rooted { (rooted.dueNow 0 2) with hlth := { (rooted.dueNow 0 2).hlth with cmd := some (0, 0), outcome := 3 } } = true
    ∧ performs (.hbKickLink .island 255) rooted (rooted.kick false 255) = true ∧ performs (.hbKickCore (.core 15) 0) rooted (rooted.kick true 0) = true
    ∧ performs (.snapshotArm .pf0 1) rooted ((rooted.setReg 0xA800 1).setReg 0xA810 1) = true
    ∧ performs (.plumbLoad .pf0 9) rooted ((rooted.setReg 0x1068 9).stepTo 9) = true := by decide +kernel
theorem test_group_commands : ((group {}).domStart 0).isSome = true ∧ performs (.cgCancel .pf0 0) (group {}) ((group {}).cancelGroup 0) = true
    ∧ performs (.domainResetStart .pf0 0) (group {}) (((group {}).domStart 0).getD fin) = true := by decide +kernel

/-- Context 0 is held and the debug page names its last word. -/
def overriding : State := ({ fin with ctxs := [(0, { st := 3 })] } : State).setReg 0x14208 0x1FFFF8

theorem test_debug_commands : (∀ cmd ∈ [0, 1, 2, 3, 4, 5], (overriding.feCommand .pf0 cmd).isSome = true)
    ∧ performs (.contextHold .pf0 47 3) fin (((fin.setReg 0x14048 0).holdCtx 191).updCtx 191 ({ · with dbgHold := true })) = true
    ∧ goes (.contextRelease .pf0 47 3) fin = true
    ∧ performs (.dbgFeRead .pf0) overriding ((overriding.feCommand .pf0 0).getD fin) = true
    ∧ performs (.dbgFeWriteKeep .pf0) overriding ((overriding.feCommand .pf0 1).getD fin) = true
    ∧ performs (.dbgFeWriteFull .pf0) overriding ((overriding.feCommand .pf0 2).getD fin) = true
    ∧ performs (.dbgFeWriteEmpty .pf0) overriding ((overriding.feCommand .pf0 3).getD fin) = true
    ∧ performs (.dbgFeSetFull .pf0) overriding ((overriding.feCommand .pf0 4).getD fin) = true
    ∧ performs (.dbgFeSetEmpty .pf0) overriding ((overriding.feCommand .pf0 5).getD fin) = true := by decide +kernel

/-- Diagnostic mode `n` on a line of stack 0. -/
def diagnosing (n : Nat) : State := memory.setReg 0x68044 n

theorem test_memory_commands : memory.siteThere 0 = true ∧ (memory.stack 0).retired = 0 ∧ (memory.stack 0).repair = none ∧ memory.bankRepairs 0 59 15 < 2
    ∧ (diagnosing 0).diagOk 1 = true ∧ (diagnosing 1).diagOk 2 = true ∧ (diagnosing 2).diagOk 3 = true
    ∧ performs (.hbmDieRetire .pf0 0 15) memory (memory.updStack 0 fun k => { k with pendDie := k.pendDie ++ [(15, 2, 0)] }) = true
    ∧ performs (.hbmRepairCmd .pf0 0 59 15 32767) memory
        (memory.updStack 0 ({ · with repair := some { pc := 59, bank := 15, row := 32767, stage := 1, tick := 0 } })) = true
    ∧ performs (.diagRawRead .pf0) (diagnosing 0) (diagCommand (diagnosing 0) 1) = true
    ∧ performs (.diagRawWrite .pf0) (diagnosing 1) (diagCommand (diagnosing 1) 2) = true
    ∧ performs (.diagArmFlip .pf0) (diagnosing 2) (diagCommand (diagnosing 2) 3) = true
    ∧ performs (.diagDisarm .pf0) fin (diagCommand fin 4) = true := by decide +kernel

theorem test_invalidations : performs (.invTag .pf0 511 65535 true) fin ((fin.invCommand .pf0 0 (65535 + 65536 * 511 + 2 ^ 30 + 2 ^ 31)).getD fin) = true
    ∧ performs (.invFunction .pf0 0 false) fin ((fin.invCommand .pf0 0 (2 ^ 25 + 2 ^ 31)).getD fin) = true
    ∧ performs (.invFunctionReload .pf0 0 false) fin ((fin.invCommand .pf0 0 (2 ^ 26 + 2 ^ 31)).getD fin) = true
    ∧ performs (.xltFaultAck .pf0) fin (fin.faultAck 0) = true := by decide +kernel

/-- Connection 2^20 - 1 is open. -/
def opened : State := { numbered with conns := [(1048575, { st := 2 })] }

theorem test_connection_commands : bitAt (opened.reg 0x48) 31 = true ∧ (opened.conn 1048575).st = 2 ∧ opened.psl.mrInv = none
    ∧ performs (.connCmdOpen .pf0 0) opened (opened.openCmd 0 0) = true
    ∧ performs (.connCmdClose .pf0 1048575) opened ((opened.connStat 0 0 0).startClose 1048575 true) = true
    ∧ performs (.connCmdForceClose .pf0 1048575) opened ((opened.connStat 0 0 0).forceClose 1048575).1 = true
    ∧ performs (.connCmdView .pf0 1048575) opened
        ((opened.connStat 0 0 0).updPsl fun p => { p with view := p.view.set [] 0 (opened.conn 1048575).image }) = true
    ∧ performs (.mrInvalidate .pf0 65535) opened (opened.mrInvStart 65535) = true ∧ goes (.sealEpochStage .pf0 511 7) opened = true := by decide +kernel

/-- VF 1 is active and VF 511 masked; the box from VF 1 is full and the one to it timed out. -/
def functions : State := { fin with fns := [(0, { st := 1 }), (1, { st := 1 }), (511, { st := 2 })], mbx := [(2, { busy := true, timedOut := true }), (3, { full := true })] }

theorem test_function_commands : (functions.fn 1).st = 1 ∧ (functions.fn 511).st = 2 ∧ (functions.fn 511).removal = none
    ∧ (functions.box (inBox .pf0 1)).full = true ∧ (functions.box (outBox .pf0 1)).timedOut = true
    ∧ performs (.fnMask .pf0 1) functions (functions.maskFn 1 1).arbEnter = true
    ∧ performs (.fnUnmask .pf0 511) functions (functions.unmaskFn 511) = true
    ∧ performs (.mbxSend .pf0 511 true) functions ((functions.mbxCommand .pf0 511 9).getD fin) = true
    ∧ performs (.mbxAck .pf0 1) functions (functions.mbxAck 3) = true ∧ performs (.mbxCancel .pf0 1) functions (functions.mbxCancel 2) = true
    ∧ goes (.wqView .pf0 65535) functions = true ∧ goes (.evqView .pf0 4095) functions = true := by decide +kernel
theorem test_core_commands : fin.postOk (0x12100 + 0x20 * 15) 1 = true ∧ fin.postOk (0x12300 + 0x20 * 15) 1 = true
    ∧ performs (.coreRxPost .pf0 15 1) fin (fin.setReg 0x122EC 1) = true ∧ performs (.coreTxPost .pf0 15 1) fin (fin.setReg 0x124EC 1).coreSend = true
    ∧ performs (.nbInvalidate .pf0 16383) fin (fin.nbDrop 16383) = true := by decide +kernel
/-! ## Witnesses and tests: memory stacks, translation, connections and ports -/

theorem test_memory_requests_meet : memory.locate 0x1000 = some (0, 16) ∧ (memory.stack 0).st = 2 ∧ (memory.stack 0).fenced 16 = false
    ∧ goes (.hbmRead .remote 0x1000 []) memory = true ∧ goes (.hbmWrite .remote 0x1000 (List.replicate 256 7) false) memory = true
    ∧ goes (.hbmPartialWrite .remote 0x1000 [(248, zeros 8)] []) memory = true := by decide +kernel

theorem test_side_table_is_closed : (memory.locate memory.sideBase).isSome = true ∧ memory.inMem memory.sideBase = false ∧ memory.inInfra 0x1000 = false
    ∧ (memory.locate memory.infraBase).isSome = true ∧ memory.inInfra memory.infraBase = true
    ∧ goes (.hbmRead .remote memory.sideBase []) memory = false ∧ goes (.hbmRead (.core 0) 0x1000 []) memory = false
    ∧ goes (.hbmRead (.core 0) memory.infraBase []) memory = true := by decide +kernel

/-- Stack 0 operates with no chunk initialised. -/
def blank : State := memory.updStack 0 ({ · with initPtr := 0 })
/-- A lost stack. -/
def lost : State := memory.updStack 0 ({ · with st := 3 })

theorem test_uninitialised_reads_zeros : blank.inSync 0x1000 = false ∧ (blank.stack 0).inited (16 / 8192) = false
    ∧ gives (.hbmRead .hostDma 0x1000 []) blank (fun t => t.out == [.line .hostDma 0x1000 0 (zeros 256)]) = true
    ∧ lost.inSync 0x1000 = false ∧ gives (.hbmRead .hostDma 0x1000 []) lost (fun t => t.out.head? == some (.line .hostDma 0x1000 2 (zeros 256))) = true := by
  decide +kernel

/-- A die that waits to retire, a spare that rebuilds die 3, and a row repair in both stages. -/
def tended : State := memory.updStack 0 ({ · with pendDie := [(15, 1, 0)], spareFor := some 3, repair := some { pc := 59, bank := 15, row := 0, stage := 2, tick := 0 } }) |>.updPlumb ({ · with count := 1 })
/-- A row repair that may start. -/
def repairs : State := (memory.updStack 0 ({ · with repair := some { pc := 59, bank := 15, row := 0, stage := 1, tick := 0 } })).updPlumb ({ · with count := 1 })

theorem test_stacks_meet : (memory.stack 0).inited ((stackLines - 1) / 8192) = true ∧ stackLines - 1 < stackLines ∧ 0 < (blank.stack 0).initLeft
    ∧ (tended.stack 0).hasSpare 3 = true ∧ (tended.stack 0).rebuilt = false ∧ (tended.stack 0).pendDie = [(15, 1, 0)]
    ∧ ((tended.stack 0).repair.map (·.stage)) = some 2 ∧ ((repairs.stack 0).repair.map (·.stage)) = some 1
    ∧ goes (.sanderInit 0) blank = true ∧ goes (.hbmStackLost 0) memory = true ∧ goes (.dieRetire 0 none) tended = true
    ∧ stackCommand (.sanderInit 0) = true ∧ Memory.wf blank.hbm = true := by decide +kernel
theorem test_stacks_run : gives (.sanderScrub 0 (stackLines - 1) []) (memory.updStack 0 ({ · with scrubAt := stackLines - 1 })) (fun t => (t.stack 0).scrubAt == 0) = true
    ∧ goes (.sanderScrub 0 (stackLines - 1) []) memory = false
    ∧ (memory.stack 0).retired.getLsbD 15 = false ∧ gives (.dieRetire 0 (some 15)) memory (fun t => (t.stack 0).pendDie == [(15, 1, 0)]) = true
    ∧ gives (.sanderScrub 0 0 []) (memory.updStack 0 ({ · with repair := some { pc := 0, bank := 0, row := 0, stage := 2, tick := 0 } }))
        (fun t => (t.stack 0).held == [.sanderScrub 0 0 []]) = true ∧ goes (.sanderRebuildStep 0 []) tended = true := by decide +kernel

/-- A function with a queued miss, a walk that runs since tick 0, an invalidation and two host translations. -/
def walking : State := { fin with xlt := { fin.xlt with
  recs := [(5, { valid := true, cap := 2 })], misses := [{ fn := 5, tag := 1, page := 9 }], walkers := [(31, some { fn := 5, tag := 1, page := 8, since := 0 })]
  inv := [(0, { busy := true })], ats := [{ fn := 5, page := 3, since := 0 }], atsInv := [(5, [])], sweepPtr := 4095 } }

theorem test_walkers_meet : walking.nextMissFn = some 5 ∧ (walking.xlt.misses.find? (fun y => y.fn == 5)).isSome = true
    ∧ walking.xlt.walkers.get none 0 = none ∧ (walking.xlt.walkers.get none 31).isSome = true ∧ walking.fld (Blk.xlt.at 0 0x040) 15 8 = 16
    ∧ goes (.walkStart 0) walking = true ∧ goes (.walkComplete 31) (walking.updPlumb ({ · with count := 15 })) = true
    ∧ goes (.walkTimeout 31) (walking.updPlumb ({ · with count := 15 })) = false ∧ goes (.walkTimeout 31) (walking.updPlumb ({ · with count := 16 })) = true
    ∧ goes (.xltSweepVisit 4095) walking = false
    ∧ gives (.xltSweepVisit 4095) (walking.updPlumb ({ · with count := 2 ^ 16 })) (fun t => t.xlt.sweepPtr == 0 && t.xlt.sweepFrom != 0) = true := by decide +kernel
theorem test_invalidations_end : (walking.xlt.inv.get {} 0).busy = true ∧ (walking.xlt.ats.find? (fun a => a.fn == 5 && a.page == 0x3FFF / 4096)).isSome = true
    ∧ (((walking.atsDone 5 3).xltFill (newEnt 5 none (atsClass 12) 0x3000 0x7000 true true)).xltFind 5 none 0x3000).isSome = true
    ∧ goes (.invComplete 0) walking = true ∧ goes (.atsCompletion 5 0x3000 0x7000 12 false true true) walking = true
    ∧ goes (.atsCompletion 5 0x3FFF 0x7000 12 true true false) walking = true
    ∧ goes (.atsTimeout 5 0x3000) (walking.updPlumb ({ · with count := walking.fld (Blk.xlt.at 0 0x040) 23 16 })) = true
    ∧ goes (.atsInvalidate 5) walking = true ∧ goes (.atsInvComplete 5) walking = true := by decide +kernel

/-- Partition 0x7FFF at entry 0, and a WRITE of 8 bytes to connection 0. -/
def parted : State := opened.setReg (pslReg 0x800) 0x8000FFFF
def writes : Pkt := sealed 0x01 { encap := 2, flags := flFirst + flLast, pkey := 0xFFFF, payload := zeros 8 }

theorem test_packets_meet : pktOf (.write writes) = some (1, writes) ∧ parted.glb.service ≠ 0 ∧ parted.isPhisal writes = true
    ∧ parted.isPhisal { writes with encap := 0, udpPort := 1 } = false := ⟨rfl, by decide +kernel, by decide +kernel, by decide +kernel⟩
theorem test_packet_arrives : (parted.arrival 1 writes).2.isSome = true ∧ (parted.arrival 1 { writes with icrc := 0 }).2 = none ∧ goes (.write writes) parted = true := by
  decide +kernel

/-- A write of 8 bytes. -/
def message : Msg := { id := 1, kind := 0, len := 8, data := zeros 8 }
/-- Connection 0 is open and cached on port 0, with a message queued. -/
def sending (x : Conn) : State := { fin.setReg (pslReg 0x800) 0x80008000 with
  conns := [(0, { x with st := 2, window := 16, portMask := 1, pktLog2 := 8 })], ports := [(0, { link := 2, mode := 1 })]
  psl := { fin.psl with cache := [(0, some { conn := 0 })] } }
/-- It has a message to send, and its context cached or not. -/
def queued : State := sending { queue := [message] }
def uncached : State := { queued with psl := fin.psl }

theorem test_sending_meets : (queued.cached 0).isSome = true ∧ (queued.sendNext 0).isSome = true ∧ ((queued.cacheHit 0).sendNext 0).isSome = true
    ∧ (uncached.cached 0) = none ∧ (uncached.sendNext 0).isSome = true ∧ goes (.packetSend 0) queued = true ∧ goes (.packetSend 0) uncached = true := by
  decide +kernel

/-- A packet that is sent and not acknowledged when its timers end. -/
def k1 : SentPkt := { psn := 0, msg := 1, op := 1, seq := 0, off := 0, len := 8, last := true }
def inflight : State := (sending { sent := [k1], flying := [message], nextPsn := 1, busy := [(0, 0)], retryMax := 1, rexmitTo := 4, reorderTo := 4, gapTimer := true, gapOpen := true, reorderDl := 5 }).updPlumb ({ · with count := 5, now := 5 * 8192 })

theorem test_timers_meet : (inflight.cached 0).isSome = true ∧ inflight.gapDue 0 = true ∧ inflight.rtoDue 0 = true ∧ inflight.reorderDue 0 = true
    ∧ (inflight.conn 0).round + 1 ≤ (inflight.conn 0).retryMax ∧ (inflight.conn 0).busy.find? (fun b => decide (b.2 < inflight.ticks)) = some (0, 0)
    ∧ (inflight.conn 0).message 1 = some message ∧ (inflight.sendOne 0 1 message k1 true).2 = true ∧ 0 ≤ (inflight.conn 0).credit := by decide +kernel
theorem test_timers_run : goes (.gapTimerExpiry 0) inflight = true ∧ goes (.retransmitTimeout 0) inflight = true
    ∧ goes (.reorderDeadline 0) inflight = true ∧ goes (.busyResend 0) inflight = true := by decide +kernel

/-- A fill of connection 0's context. -/
def filling (x : Conn): State := { memory with conns := [(0, x)], psl := { fin.psl with fills := [{ conn := 0 }] } }

theorem test_fills_meet : (filling {}).psl.fills.find? (fun y => y.conn == 0) = some { conn := 0 }
    ∧ ((filling { st := 2 }).memRead 5 ((filling { st := 2 }).reg (pslReg 0x058)) 256).2.kind = 0
    ∧ (((filling { st := 2 }).memRead 5 ((filling { st := 2 }).reg (pslReg 0x058)) 256).1.cacheWay 0).isSome = true := by decide +kernel
theorem test_fill_bad : goes (.ctxFillComplete 0 true) (filling { st := 2 }) = true ∧ goes (.ctxFillComplete 0 false) (filling {}) = true := by decide +kernel

/-- Connection 0 opens, with its `n`-th request sent 16 ticks ago. -/
def opening (n : Nat) : State := { fin with conns := [(0, { st := 1, reqs := n })], plumb := { count := 16 } }

theorem test_opening : goes (.connReqResend 0) (opening 63) = true ∧ goes (.connOpenTimeout 0) (opening 63) = false
    ∧ goes (.connReqResend 0) (opening 64) = false ∧ goes (.connOpenTimeout 0) (opening 64) = true
    ∧ goes (.closingTimeout 0) { fin with conns := [(0, { st := 3, closeTick := some 0 })] } = true := by decide +kernel

/-- A cached connection that has been idle for one period. -/
def idle : State := (sending {}).updPlumb ({ · with count := 2 ^ bits (fin.reg (Blk.ctx.at 0 0x040)) 3 0 })

theorem test_sweep_meets : fin.psl.cache.get none 0 = none ∧ idle.psl.cache.get none 0 = some { conn := 0 } ∧ idle.gapDue 0 = false ∧ idle.rtoDue 0 = false
    ∧ idle.reorderDue 0 = false ∧ (idle.conn 0).pinned = false ∧ bits (idle.reg (Blk.ctx.at 0 0x040)) 6 4 = 7
    ∧ goes (.ctxSweepVisit 0 0 0) fin = true ∧ gives (.ctxSweepVisit 0 0 0) idle (fun t => t.psl.cache == [(0, some { conn := 0, age := 1, aged := 1 })]) = true := by
  decide +kernel
/-- The same at its largest age. -/
def aged : State := { idle with psl := { idle.psl with cache := [(0, some { conn := 0, age := 7 })] } }

theorem test_sweep_evicts : aged.gapDue 0 = false ∧ aged.rtoDue 0 = false ∧ aged.reorderDue 0 = false ∧ (aged.conn 0).pinned = false
    ∧ gives (.ctxSweepVisit 0 0 0) aged (fun t => t.psl.cache == []) = true := by decide +kernel
theorem test_region_and_key : ((opened.mrInvStart 65535).psl.mrInv.map (·.1)) = some 65535 ∧ opened.mrOpen (0, 2) = false
    ∧ goes .mrInvComplete { fin with psl := { fin.psl with mrInv := some (65535, [(0, 2)]) } } = true
    ∧ gives (.keyDerivationComplete 511) { fin with psl := { fin.psl with deriving_ := [(511, 7, false)] } } (fun t => t.psl.keys == [(511, 7)]) = true := by
  decide +kernel
/-- Port 0 as `x`, in mode 4. -/
def port (x : Port) : State := { fin with ports := [(0, { x with mode := 4 })] }
/-- A broadcast frame of priority 7. -/
def frame : EthFrame := { bytes := 64, dst := 0xFFFFFFFFFFFF, pcp := some 7 }

theorem test_frames_meet : (port { link := 2 }).rxOn 0 = true ∧ (port { link := 2 }).dropClass 0 frame = none
    ∧ (port { link := 2 }).dropClass 0 { frame with control := some 0x101 } = some 0 ∧ (port { link := 2 }).dropClass 0 { frame with codeErr := true } = some 1
    ∧ (port { link := 2 }).dropClass 0 { frame with bytes := 63 } = some 5 ∧ (port { link := 2 }).dropClass 0 { frame with bytes := 9216 } = none
    ∧ (port { link := 2 }).dropClass 0 { frame with bytes := 9217 } = some 3 ∧ (port { link := 2 }).dropClass 0 { frame with dst := 2 } = some 6 := by decide +kernel
theorem test_codewords_counted :
    gives (.frameReceive 0 { frame with codeErr := true, fecCe := 3, fecUe := 1, symErr := [(3, 9), (4, 9)] }) (port { link := 2 }) (fun t =>
      t.reg (Blk.pcs.at 0 0x048) == 3 && t.reg (Blk.pcs.at 0 0x050) == 1 && t.reg (Blk.pcs.at 0 0x070) == 9
      && t.reg (Blk.pcs.at 0 0x078) == 0 && (t.port 0).ueTick == some t.ticks) = true := by decide +kernel
theorem test_frame_joins : gives (.frameReceive 0 frame) (port { link := 2 }) (fun t => (t.prio 0 7).rx == [frame]) = true
    ∧ becomes (.frameReceive 0 { frame with bytes := 63 }) (port { link := 2 }) ((port { link := 2 }).inc (macReg 0 0x148)) = true := by decide +kernel

/-- Priority 7 holds nearly all of its part and pauses the partner. -/
def pauses : State := (port { link := 2, rxPart := [(7, { rx := List.replicate 56 { frame with bytes := 9216 }, ours := true })] }).updPlumb ({ · with now := 63000000 })

theorem test_pauses : goes (.frameDeliver 0 7) pauses = true ∧ 1024 * pauses.fld (macReg 0 0x04C) 19 10 ≤ (pauses.prio 0 7).occ
    ∧ 0 + 256 * pauses.quanta 0 / modeRate (pauses.port 0).mode ≤ pauses.plumb.now ∧ 0 + 1000000 * pauses.fld 0x4054 5 0 ≤ pauses.plumb.now
    ∧ gives (.pfcRepeat 0 7) pauses (fun t => (t.prio 0 7).sentAt == 63000000) = true
    ∧ gives (.pauseLimit 0 7) pauses (fun t => (t.prio 0 7).limit && !(t.prio 0 7).ours) = true := by decide +kernel
theorem test_pfc_receive : gives (.pfcReceive 0 128 (List.replicate 7 0 ++ [65535])) (port { link := 2 }) (fun t => (t.prio 0 7).until_ == some 41943) = true
    ∧ gives (.pfcReceive 0 1 [1]) (port { link := 2 }) (fun t => (t.prio 0 0).until_ == some 1) = true := by decide +kernel

/-- Priority 7 as `x`, at a count. -/
def priority (x : Prio) (now : Nat) : State := (port { link := 2, rxPart := [(7, x)] }).updPlumb ({ · with now })

theorem test_pause_ends : becomes (.pauseExpiry 0 7) (priority { until_ := some 5 } 5) (priority { freeAt := 5 } 5) = true
    ∧ goes (.pauseExpiry 0 7) (priority { until_ := some 5 } 4) = false
    ∧ gives (.pauseWatchdog 0 7) (priority { until_ := some (2 ^ 40), pausedAt := some 0 } 20000000) (fun t => (t.prio 0 7).stalled) = true
    ∧ goes (.pauseWatchdog 0 7) (priority { until_ := some (2 ^ 40), pausedAt := some 0 } 19999999) = false
    ∧ gives (.stallEnd 0 7) (priority { stalled := true } 20000000) (fun t => !(t.prio 0 7).stalled) = true := by decide +kernel
theorem test_transmits : gives (.frameTransmit 0) (port { link := 2, tx := [{ prio := 0, bytes := 64 }] }) (fun t => (t.port 0).cur.isSome && (t.port 0).tx.isEmpty) = true
    ∧ ((port { link := 2, tx := [{ prio := 0, bytes := 64 }] }).nextFrame 0).isSome = true
    ∧ becomes (.frameTransmit 0) (port { link := 2, tx := [{ prio := 0, bytes := 64, pfc := some (0, 5) }] })
        ((port { link := 2, tx := [{ prio := 0, bytes := 64, pfc := some (0, 5) }] }).startFrame 0 { prio := 0, bytes := 64, pfc := some (0, 5) }) = true := by
  decide +kernel

/-- Port 0 as `x`, at a count. -/
def portAt (x : Port) (now : Nat) : State := (port x).updPlumb ({ · with now })

theorem test_links : gives (.localFault 0) (port { link := 1 }) (fun t => (t.port 0).link == 0) = true
    ∧ gives (.localFault 0) (port { link := 2 }) (fun t => (t.port 0).link == 2 && (t.port 0).fault) = true
    ∧ becomes (.faultClear 0) (port { link := 2, fault := true }) (port { link := 2 }) = true
    ∧ becomes (.faultClear 0) (portAt { link := 0 } 9) (portAt { link := 1, alignAt := 9 } 9) = true
    ∧ gives (.linkUp 0) (portAt { link := 1 } 1000000) (fun t => (t.port 0).link == 2) = true ∧ goes (.linkUp 0) (portAt { link := 1 } 999999) = false
    ∧ becomes (.linkDown 0) (portAt { link := 2, fault := true } 1000000) ((portAt { link := 2, fault := true } 1000000).linkFalls 0) = true
    ∧ goes (.linkDown 0) (portAt { link := 2, fault := true } 999999) = false ∧ goes (.holdExpiry 0) (portAt { holding := true } 2000000) = true
    ∧ goes (.portModeChange 0) (fin.setReg (macReg 0 0x040) 0xC) = true := by decide +kernel
theorem test_low_power : gives (.lpiEnter 0) ((port { link := 2, lpiDef := true, lpiDone := true }).setReg (macReg 0 0x050) 1) (fun t => (t.port 0).lpiTx) = true
    ∧ gives (.lpiWake 0) (portAt { link := 2, lpiTx := true, wakeAt := some 5 } 5) (fun t => !(t.port 0).lpiTx) = true
    ∧ gives (.lpiNegotiationComplete 0 65535) (port { link := 2 }) (fun t => (t.port 0).lpiWake == 65535) = true
    ∧ gives (.partnerLpi 0 true) (port { link := 2, lpiDef := true }) (fun t => (t.port 0).lpiRx) = true
    ∧ gives (.partnerLpi 0 false) (port { link := 2, lpiDef := true, lpiRx := true }) (fun t => !(t.port 0).lpiRx) = true := by decide +kernel
/-! ## Witnesses and tests: queues, functions and cores -/

/-- Queue 65535 of function 5 runs with slot 3, and its entry 9 is issued with opcode `op`. -/
def queues (op : Nat) (priv : Bool) : State := { fin with
  fns := [(0, { st := 1 }), (5, { st := 1 })], evqs := [(4095, { valid := true, owner := 5, slot := 3, msgDue := true })]
  wqs := [(65535, { st := 1, cfg := { owner := 5, slot := 3, priv }, jobs := [{ entry := 9, d := { op, o8 := 65535, o16 := 1 }, stage := 1 }] })] }

theorem test_descriptors_meet : (∀ op ∈ [1, 2, 3, 4, 5, 6, 0x20, 0x21, 0x22, 0x23], ((queues op true).jobAt 65535 9 1).map (·.d.op) = some op) := by decide +kernel
theorem test_descriptors_run : goes (.wdNop 65535 9) (queues 1 false) = true ∧ goes (.wdCopy 65535 9 [] false) (queues 2 false) = true
    ∧ goes (.wdWrite 65535 9 []) (queues 3 false) = true ∧ goes (.wdRead 65535 9) (queues 4 false) = true ∧ goes (.wdFlush 65535 9) (queues 5 false) = true
    ∧ goes (.launch 65535 9) (queues 6 false) = true ∧ goes (.wqLoad 65535 9) (queues 0x20 true) = true ∧ goes (.wqDisable 65535 9) (queues 0x21 true) = true
    ∧ goes (.evqLoad 65535 9) (queues 0x22 true) = true ∧ goes (.fnRemove 65535 9) (queues 0x23 true) = true := by decide +kernel
theorem test_privilege : gives (.wqDisable 65535 9) (queues 0x21 false) (fun t => ((t.wq 65535).jobs.map fun j => (j.stage, j.status)) == [(3, 2)]) = true := by
  decide +kernel

/-- The queue with a fetched entry, with a finished one, and with nothing fetched. -/
def rings (stage : Nat) : State :=
  let jobs : List Job := if stage = 9 then [] else [{ entry := 9, d := { op := 1 }, stage }]
  { queues 1 false with wqs := [(65535, { st := 1, cfg := { owner := 5, slot := 3 }, p := 1, jobs })] }

theorem test_rings_meet : (rings 0).grantIssue.isSome = true ∧ (rings 9).slotQueue 5 3 = some 65535 ∧ (rings 9).slotQueue 5 4 = none ∧ (rings 9).takes 5 = true
    ∧ (rings 9).rpFn 5 2 = none ∧ (rings 9).rpFn 5 1 = none ∧ (rings 9).canFetch ((rings 9).wq 65535) = true
    ∧ ((rings 3).wq 65535).jobs.find? (fun y => y.stage == 3) = some { entry := 9, d := { op := 1 }, stage := 3 } := by decide +kernel
theorem test_rings_run : gives .descriptorIssue (rings 0) (fun t => ((t.wq 65535).jobs.map (·.stage)) == [1]) = true
    ∧ gives (.wqDoorbell 5 3 2) (rings 9) (fun t => (t.wq 65535).p == 2) = true ∧ gives (.wqDoorbell 5 4 2) (rings 9) (fun t => t == rings 9) = true
    ∧ gives (.cqConsumerWrite 5 3 7) (rings 9) (fun t => (t.wq 65535).cqCons == 7) = true
    ∧ gives (.evqDoorbell 5 3 0x7FFFFFFF false) (rings 9) (fun t => (t.evqs.get {} 4095).cons == 0x7FFFFFFF) = true
    ∧ goes (.evqDoorbell 5 3 0 true) (rings 9) = true ∧ goes (.descriptorFetch 65535 (zeros 64)) (rings 9) = true
    ∧ gives (.descriptorComplete 65535 9) (rings 3) (fun t => (t.wq 65535).jobs.isEmpty) = true := by decide +kernel
theorem test_doorbell_too_far : gives (.wqDoorbell 5 3 17) (rings 9) (fun t => (t.wq 65535).p != 17) = true := by decide +kernel
theorem test_messages : gives (.msixSend 4095) (queues 1 false) (fun t => (t.fn 5).pba == 1) = true
    ∧ gives (.msixVectorUnmask 5 31) { queues 1 false with fns := [(5, { st := 1, pba := 0x80000000 })] } (fun t => t.out == [.msix 5 31]) = true := by decide +kernel

/-- A read of 8 bytes is outstanding on controller 3, which is a root port. -/
def reads : State := { (queues 4 false).setReg (Blk.pcie.at 3 0x040) 1 with pcieRds := [{ ctl := 3, tag := 5, q := 65535, n := 9, addr := 0, len := 8 }] }

theorem test_pcie_meets : (reads.pcieRds.find? (fun r => r.ctl == 3 && r.tag == 5)).isSome = true ∧ reads.pcieRds.find? (fun r => r.ctl == 3 && r.tag == 6) = none
    ∧ reads.rootPort 3 = true := by decide +kernel
theorem test_pcie : goes (.pcieCompletion 3 6 (zeros 8) false) reads = true ∧ goes (.pcieCompletion 3 5 (zeros 8) false) reads = true
    ∧ goes (.pcieCompletion 3 5 [] true) reads = true ∧ goes (.completionTimeout 3 5) (reads.updPlumb ({ · with now := 50000 })) = true
    ∧ goes (.completionTimeout 3 5) (reads.updPlumb ({ · with now := 49999 })) = false
    ∧ gives (.rootPortInbound 3 0 4096 none false) reads (fun t => t.out == [.completion 3 0 2 []]) = true := by decide +kernel

/-- The root port translates for function 5, whose page it has not. -/
def translates : State := reads.setReg (Blk.xlt.at 0 0x060) (5 + 2 ^ 31)

theorem test_root_port : bitAt (reads.rpWord 3) 31 = false ∧ bitAt (translates.rpWord 3) 31 = true
    ∧ gives (.rootPortInbound 3 0x5000 8 none false) translates (fun t => t.out == [] && t.xlt.misses.map (·.page) == [5] && t.xlt.waits.length == 1) = true
    ∧ gives (.rootPortInbound 3 0x5000 8 none true) translates (fun t => t.out == [.completion 3 0x5000 2 []]) = true := by decide +kernel
theorem test_flr : becomes (.flr 9) functions functions = true ∧ gives (.flr 511) functions (fun t => (t.fn 511).st == 3) = true
    ∧ goes (.flrBound 1) { fin with fns := [(1, { st := 3, flrAt := some 0 })], plumb := { now := 100000000 } } = true
    ∧ goes (.flrBound 1) { fin with fns := [(1, { st := 3, flrAt := some 0 })], plumb := { now := 99999999 } } = false := by decide +kernel
theorem test_vf_enable : (fin.fn 1).st = 0 ∧ becomes (.vfEnable 1 true) fin (fin.setFn 1 1 0 0) = true
    ∧ becomes (.controllerReset 3) fin (match fin.ctlFn 3 with | some g => (fin.ctlDown 3).flr g | none => fin.ctlDown 3) = true := by decide +kernel
theorem test_vf_enable_all : becomes (.vfEnable 0 true) fin fin = true ∧ becomes (.vfEnable 3 false) fin fin = true := by decide +kernel
theorem test_mailboxes : (fin.box (mbxKey 511 true)).sent = false
    ∧ gives (.mbxDeliver 511 true) { fin with mbx := [(mbxKey 511 true, { sent := true, busy := true, seq := 7 })] }
        (fun t => (t.box (mbxKey 511 true)).full && (t.box (mbxKey 511 true)).inSeq == 7) = true
    ∧ gives (.mbxTimeout 511 true) { fin with mbx := [(mbxKey 511 true, { busy := true })], plumb := { count := fin.fld (Blk.mbx.at 511 0x048) 15 0 } }
        (fun t => (t.box (mbxKey 511 true)).timedOut) = true := by decide +kernel

/-- The core cluster runs, with the pointer of home slice 0 at core 1. -/
def cluster : State := { fin with cores := { running := true, ptr := [(0, 1)] } }

theorem test_cores : cluster.coreOnline 15 = true ∧ homeSlice 0 = 0
    ∧ gives (.ownershipRequest 0 [15] .none) cluster (fun t => t.cores.dir == [(0, { modified := true, sharers := 0x8000 })]) = true
    ∧ gives (.ownershipRequest 0 [0, 1] .none) cluster (fun t => t.cores.dir == [(0, { modified := true, sharers := 1 })] && t.cores.ptr == [(0, 2)]) = true
    ∧ gives (.ownershipRequest 0 [1, 15] .none) cluster (fun t => t.cores.dir == [(0, { modified := true, sharers := 0x8000 })] && t.cores.ptr == [(0, 2)]) = true
    ∧ gives (.ownershipRequest 0 [0, 15] .none) cluster (fun t => t.cores.dir == [(0, { modified := true, sharers := 1 })] && t.cores.ptr == []) = true
    ∧ gives (.coreOffline 15) (cluster.setReg (Blk.core.at 0 0x040) 0x8000) (fun t => !t.coreOnline 15) = true
    ∧ gives (.nbSweepVisit 0) cluster (fun t => t.cores.nbSweep == 1) = true := by decide +kernel
/-- Core 15 has line 0, modified or not, in a memory of one stack. -/
def cachedLine (modified : Bool) : State := { memory with cores := { running := true, dir := [(0, { modified, sharers := 0x8000 })] } }

theorem test_cache_errors : gives (.ownershipRequest 0 [15] .corrected) (cachedLine true) (fun t => t.reg (Blk.core.at 0 0x060) == 1 && t.cores.dir != []) = true
    ∧ gives (.ownershipRequest 0 [14] .clean) (cachedLine false)
        (fun t => t.cores.dir == [(0, { modified := true, sharers := 0x4000 })] && t.reg (Blk.core.at 0 0x068) == 1) = true
    ∧ gives (.ownershipRequest 0 [14] (.modified (zeros 64))) (cachedLine true)
        (fun t => t.cores.dir == [] && (t.memRead 3 t.infraBase 64).2.kind == 1) = true
    ∧ goes (.ownershipRequest 0 [14] .clean) (cachedLine true) = false := by decide +kernel
theorem test_neighbour_sweep_is_spread : goes (.nbSweepVisit 255) { cluster with cores := { cluster.cores with nbSweep := 255 } } = false
    ∧ gives (.nbSweepVisit 255) { cluster with cores := { cluster.cores with nbSweep := 255 }, plumb := { count := 2 ^ 16 } }
        (fun t => t.cores.nbSweep == 0 && t.cores.nbFrom != 0) = true := by decide +kernel
/-! ## Witnesses and tests: health, records, power and heartbeats -/

/-- Tile 51, a spare unless it says otherwise, as `x`, after ten days of operation. -/
def tile (x : Tile) : State := { fin with glb := { service := 2, opSec := 864000 }, tiles := [(51, x)], plumb := { count := 1000000 } }
/-- Tile 0, which has an engine, as `x`, with tile 51 as a spare. -/
def tile0 (x : Tile) : State := { tile { role := 1 } with tiles := [(0, x), (51, { role := 1 })] }

theorem test_tiles_meet : Tab.wf ({} : Tile) (tile { role := 1 }).tiles = true ∧ Tab.wf ({} : Eng) (tile {}).engs = true
    ∧ 86400 * (tile {}).fld (Blk.hlth.at 0 0x040) 11 8 ≤ 864000 ∧ (tile { role := 1, dueNow := some (0, 0) }).canTest 51 = true
    ∧ (tile { role := 1, dueNow := some (0, 0) }).testsNow < (tile {}).fld (Blk.hlth.at 0 0x040) 14 12
    ∧ ((List.range 52).all fun u => !((tile { role := 1, dueNow := some (0, 0) }).canTest u && (tile { role := 1, dueNow := some (0, 0) }).testBefore u 51)) = true
    ∧ (tile0 { dueNow := some (0, 0) }).engineOn 0 = some 0 ∧ (tile0 {}).freeSpare = some 51 ∧ (tile { role := 1 }).engineOn 51 = none := by decide +kernel
theorem test_tiles : gives (.observationEnd 51) (tile { role := 1, observing := true }) (fun t => !(t.tile 51).observing) = true
    ∧ gives (.testDue 51) (tile { role := 1 }) (fun t => (t.tile 51).dueNow.isSome) = true
    ∧ gives (.testStart 51) (tile { role := 1, dueNow := some (0, 0) }) (fun t => (t.tile 51).role == 2) = true
    ∧ gives (.testDeferTimeout 0) (tile0 { dueNow := some (0, 0) }) (fun t => (t.tile 0).inPlace && (t.eng 0).underTest) = true
    ∧ goes (.testDeferTimeout 0) (tile0 { dueNow := some (0, 1) }) = false
    ∧ gives (.testComplete 0 51 true 0) (tile { role := 2 }) (fun t => (t.tile 51).role == 1) = true
    ∧ gives (.testComplete 3 15 false 9) { tile {} with hlth := { tests := [(3, 15, 0)] } } (fun t => t.hlth.tests.isEmpty) = true
    ∧ gives (.tileRetire 51) (tile { role := 1, retire := true }) (fun t => (t.tile 51).role == 4) = true
    ∧ gives (.tileRetire 0) (tile0 { retire := true }) (fun t => (t.eng 0).migrTo == some 51 && (t.tile 0).role == 4) = true := by decide +kernel

/-- A check of context 0's slice 4 on tile 51. -/
def checking (c : Check) : State := { fin with
  tiles := [(12, { role := 1 }), (25, { role := 1 }), (38, { role := 1 }), (51, { role := 3 })], ctxs := [(0, { slices := 5 })], hlth := { checks := [c] }
  plumb := { count := 64 } }
def check : Check := { k := 0, slice := 4, checker := 51, mirror := { final := some ({}, []) } }

theorem test_stipple : gives (.stippleCompare 0 0 true .clean) (checking check) (fun t => t.hlth.checks.isEmpty && (t.tile 51).role == 1) = true
    ∧ gives (.stippleCompare 0 0 false .clean) (checking check) (fun t => t.hlth.checks == [{ check with second := some 25 }]) = true
    ∧ gives (.stippleSecondCheck 0 0 true true .clean) (checking { check with second := some 38 }) (fun t => t.hlth.checks.isEmpty) = true
    ∧ goes (.stippleSecondCheck 0 0 false true .clean) (checking { check with second := some 38 }) = true
    ∧ goes (.stippleSecondCheck 0 0 false false .clean) (checking { check with second := some 38 }) = true
    ∧ goes (.stippleUndecidedTimeout 0 0) (checking { check with missing := some 0 }) = true
    ∧ goes (.stippleUndecidedTimeout 0 0) (checking { check with missing := some 1 }) = false := by decide +kernel

theorem test_stipple_needs_scrim : gives (.stippleCompare 0 0 false .clean) (checking { check with scrimBad := true }) (fun t => t.hlth.checks.isEmpty) = true
    ∧ (checking check).scrimPassed (.again 0 9) = false ∧ (checking check).scrimPassed (.samePass 0 9) = true
    ∧ gives (.stippleCompare 0 0 false (.again 0 9)) (checking check) (fun t => t.hlth.checks.isEmpty && t.recs.prod != 0) = true
    ∧ goes (.stippleSecondCheck 0 0 true true (.again 0 9)) (checking { check with second := some 38 }) = true := by decide +kernel

theorem test_records : gives .freezeLimit { fin with recs := { frozen := true, freezeLim := 9 }, plumb := { count := 9 } } (fun t => !t.recs.frozen) = true
    ∧ goes .freezeLimit { fin with recs := { frozen := true, freezeLim := 9 }, plumb := { count := 8 } } = false
    ∧ gives .flushComplete { fin with recs := { flushing := true } } (fun t => !t.recs.flushing) = true
    ∧ gives (.auditHoldEnd 12) { fin with recs := { heldWrites := [{ org := .pf0, off := 0x1054, wide := false, val := 1 }] } }
        (fun t => t.recs.heldWrites.isEmpty && t.reg 0x1054 == 1) = true := by decide +kernel

theorem test_power : fin.powerLimit = 8480 ∧ gives (.powerSample 4480 4000) fin (fun t => !t.pwr.clamp) = true
    ∧ gives (.powerSample 4481 4000) fin (fun t => t.pwr.clamp) = true ∧ fin.sensorThere 35 = true
    ∧ gives (.thermalReading 35 600) fin (fun t => (t.thm.sens.get {} 35).q == some 600) = true
    ∧ gives (.thermalReading 0 601) fin (fun t => (t.thm.sens.get {} 0).bad == 1) = true
    ∧ gives (.thermalReading 0 (-160)) fin (fun t => (t.thm.sens.get {} 0).q == some (-160)) = true
    ∧ gives (.thermalReading 0 41) { fin with thm := { sens := [(0, { q := some 0, bad := 2 })] } } (fun t => (t.thm.sens.get {} 0).failed) = true
    ∧ gives (.thermalReading 0 40) { fin with thm := { sens := [(0, { q := some 0, bad := 2 })] } } (fun t => (t.thm.sens.get {} 0).q == some 40) = true
    ∧ gives (.hbmTemperatureReadout 0 95) fin (fun t => (t.stack 0).hot) = true := by decide +kernel

/-- The hottest sensor reads `q` quarter degrees, with a cap in force. -/
def hot (q : Int) (cap n : Nat) : State := { fin with thm := { sens := [(0, { q := some q })], cap }, plumb := { count := n } }

theorem test_thermal : (hot 400 0 0).hottest = some 400 ∧ gives .thermalCapStep (hot 400 0 0) (fun t => t.thm.cap == 1 && t.thm.duty == 16) = true
    ∧ gives .thermalCapStep (hot 400 3 0) (fun t => t.thm.cap == 3 && t.thm.duty == 15) = true ∧ goes .thermalCapStep (hot 399 0 0) = false
    ∧ gives .thermalCapStep (hot 387 3 64) (fun t => t.thm.cap == 2) = true ∧ goes .thermalCapStep (hot 388 3 64) = false
    ∧ goes .thermalCapStep (hot 387 3 63) = false
    ∧ gives .thermalTripRecover { hot 379 0 0 with thm := { (hot 379 0 0).thm with hold := true, row := 4 } } (fun t => !t.thm.hold) = true
    ∧ goes .thermalTripRecover { hot 380 0 0 with thm := { (hot 380 0 0).thm with hold := true, row := 4 } } = false := by decide +kernel

/-- Both heartbeats are required and late. -/
def beats : State := { fin with dust := { linkArmed := true, coreArmed := true }, plumb := { now := fin.hbNs } }

theorem test_heartbeats : beats.hbDue true = true ∧ beats.hbDue false = true ∧ gives (.heartbeatMiss true) beats (fun t => t.dust.silent) = true
    ∧ gives (.heartbeatMiss false) beats (fun t => t.dust.linkMiss) = true
    ∧ gives .silenceEnd { fin with dust := { silent := true, run := 64 } } (fun t => !t.dust.silent) = true
    ∧ goes .silenceEnd { fin with dust := { silent := true, run := 63 } } = false := by decide +kernel
/-! ## Witnesses and tests: boot, management and attestation -/

/-- A device that boots, at a stage, with images that run. -/
def boots (stage service : Nat) (running : List (Nat × Nat × Nat)) : State := { State.reset with
  boot := { State.reset.boot with stage, running }, glb := { service } }

theorem test_resets : gives .powerOn fin (fun t => t.boot.stage == 1 && t.glb.cycles == fin.glb.cycles + 1) = true
    ∧ gives (.devrstNAssert 2) fin (fun t => t.boot.stage == 1 && t.boot.cause == 2) = true ∧ State.reset.thm.hold = false ∧ State.reset.recs.flushing = false
    ∧ gives (.resetRelease 0x380 0x380 0x380) State.reset (fun t => t.boot.stage == 2 && t.boot.smbAddr == 0x5F && t.plumb.now == 0) = true := by decide +kernel
theorem test_primer_service : (boots 2 0 [(1, 0, 1)]).boot.runs 1 = true
    ∧ gives (.primerServiceStart []) (boots 2 0 [(1, 0, 1)]) (fun t => t.boot.stage == 3 && t.glb.service == 1) = true ∧ goes (.primerServiceStart []) (boots 2 0 []) = false := by
  decide +kernel
theorem test_untrained_stacks : gives (.primerServiceStart [(1, 0)]) { boots 2 0 [(1, 0, 1)] with glb := { variant := 1 } }
    (fun t => t.mem.order == [0, 2, 3, 4, 5, 6, 7] && (t.stack 1).st == 3 && (t.stack 0).st == 2) = true := by decide +kernel
theorem test_ordering_code : (boots 3 1 [(1, 0, 1)]).orderingCode.length = 15
    ∧ ({ fin with glb := { variant := 1, service := 2 } } : State).orderingCode.take 4 = [0x59, 0x53, 0x2D, 0x4F] := by decide +kernel
theorem test_images_meet : (boots 2 0 []).verifies 1 = true ∧ (boots 3 1 [(1, 0, 1)]).verifies 4 = true ∧ (boots 3 1 [(1, 0, 1), (4, 0, 1)]).verifies 3 = true
    ∧ (boots 3 1 [(1, 0, 1), (4, 0, 1), (3, 0, 1)]).verifies 2 = true
    ∧ (∀ ok bank, bank < 2 → (boots 2 0 []).agrees bank 1 7 ok = true) := by
  refine ⟨by decide, by decide, by decide, by decide, fun ok bank _ => ?_⟩
  rfl
theorem test_boot_steps : gives (.engineSelfTestComplete []) (boots 3 1 [(1, 0, 1), (4, 0, 1)]) (fun t => t.boot.selfTested) = true
    ∧ gives (.portCalibrationComplete 1 false) { boots 3 1 [(1, 0, 1), (4, 0, 1), (3, 0, 1)] with
          boot := { (boots 3 1 [(1, 0, 1), (4, 0, 1), (3, 0, 1)]).boot with mac := [(1, 4)] } } (fun t => (t.port 1).failed) = true
    ∧ gives (.stackRetrainComplete 0 true) { boots 3 1 [(1, 0, 1)] with stackTab := [(0, { st := 2 })] } (fun t => t.boot.retrained == [0]) = true := by
  decide +kernel

/-- Every step of the boot has ended. -/
def booted : State := { fin with boot := { fin.boot with stage := 3, selfTested := true }, glb := { service := 1 } }
/-- A trial that has run for a minute. -/
def trying (bad : Bool) : State := { fin with boot := { fin.boot with trialBad := bad }, glb := { service := 2, trial := true, opSec := 60 }, nv := { trial := true } }

theorem test_finish_service : booted.bootEnded = true ∧ gives .finishServiceStart booted (fun t => t.glb.service == 2) = true := by decide +kernel
theorem test_trials : gives .trialConfirm (trying false) (fun t => t.nv.active == 1 && !t.nv.trial) = true ∧ goes .trialConfirm (trying true) = false
    ∧ goes .trialFail (trying false) = false ∧ gives .trialFail (trying true) (fun t => t.nv.active == 0 && !t.nv.trial && t.boot.cause == 5) = true := by decide +kernel
theorem test_supplies : gives .supplyFault fin (fun t => t.boot.stage == 1) = true ∧ gives .sysrefLoss fin (fun t => t.boot.noSysref) = true
    ∧ gives .pwrfailWarning fin (fun t => t.boot.warning && t.recs.flushing) = true
    ∧ gives .pwrfailClear { fin with boot := { fin.boot with warning := true } } (fun t => !t.boot.warning) = true := by decide +kernel
theorem test_pcie_links : gives (.pcieLinkDown 3) (fin.setReg (Blk.pcie.at 3 0x044) 1) (fun t => t.reg (Blk.pcie.at 3 0x044) == 0) = true
    ∧ gives (.pcieLinkUp 3 6 16 true) fin (fun t => t.reg (Blk.pcie.at 3 0x044) == 0x30D) = true
    ∧ gives (.pcieLinkUp 0 1 1 false) (boots 2 0 [(1, 0, 1)]) (fun t => t.reg (Blk.pcie.at 0 0x044) == 0x13) = true
    ∧ gives .debugPortAttached fin (·.dbgPort) = true ∧ gives .debugPortDetached { fin with dbgPort := true } (!·.dbgPort) = true
    ∧ becomes .mctpAssemblyTimeout fin fin = true := by decide +kernel

/-- Island firmware, with an update in a state and a session. -/
def island (m : Mgmt) : State := { fin with mgmt := m, nv := { owner := [zeros 32] } }

theorem test_management_meets : (island {}).islandUp = true ∧ (island {}).ownerKey = true ∧ bitAt ((island {}).reg 0x405C) 0 = false
    ∧ (∃ v, (hot 400 0 0).sensorReading 0 = some v) := ⟨by decide +kernel, by decide +kernel, by decide +kernel, ⟨400, by decide +kernel⟩⟩
theorem test_endpoint : gives (.setEndpointId 1) fin (fun t => t.mgmt.eid == 1 && t.out == [.answer 0 [0, 1]]) = true
    ∧ gives (.setEndpointId 254) fin (fun t => t.mgmt.eid == 254) = true ∧ gives (.setEndpointId 255) fin (fun t => t.out == [.answer 2 []]) = true
    ∧ gives (.setTid 0) fin (fun t => t.out == [.answer 2 []]) = true ∧ gives .getMessageTypeSupport fin (fun t => t.out == [.answer 0 [2, 1, 5]]) = true := by
  decide +kernel
/-- An event to the management controller. -/
def pldm : PldmEv := { what := 0 }

theorem test_platform_events : gives .pldmEventSend (island { evts := [pldm], receiver := some 9 }) (fun t => t.mgmt.tries == 1) = true
    ∧ gives .pldmEventRetry { island { evts := [pldm], receiver := some 9, sentAt := some 0, tries := 2 } with glb := { service := 2, opNs := 250000000 } }
        (fun t => t.mgmt.tries == 3) = true
    ∧ gives .pldmEventRetry { island { evts := [pldm], receiver := some 9, sentAt := some 0, tries := 3 } with glb := { service := 2, opNs := 250000000 } }
        (fun t => t.mgmt.evts.isEmpty) = true
    ∧ goes .pldmEventRetry { island { evts := [pldm], receiver := some 9, sentAt := some 0, tries := 3 } with glb := { service := 2, opNs := 249999999 } } = false := by
  decide +kernel
theorem test_update : gives .requestUpdate fin (fun t => t.mgmt.upd.st == 1) = true
    ∧ gives (.passComponentTable 4 7) (island { upd := { st := 1 } }) (fun t => t.mgmt.upd.comps == [(4, 7)]) = true
    ∧ gives (.updateComponent 4 7 [1]) (island { upd := { st := 2, comps := [(4, 7)] } }) (fun t => t.mgmt.upd.st == 3 && t.nv.flash == [(12, [1])]) = true
    ∧ gives (.transferComplete true) (island { upd := { st := 3 } }) (fun t => t.mgmt.upd.st == 4) = true
    ∧ gives .applyComplete (island { upd := { st := 5, cur := some (4, 7), comps := [(4, 7)] } }) (fun t => t.mgmt.upd.applied == [4]) = true
    ∧ gives (.activateFirmware false) (island { upd := { st := 2, comps := [(4, 7)], applied := [4] } }) (fun t => t.nv.trial) = true
    ∧ gives .cancelUpdateComponent (island { upd := { st := 3 } }) (fun t => t.mgmt.upd.st == 2) = true
    ∧ gives .cancelUpdate (island { upd := { st := 1 } }) (fun t => t.mgmt.upd.st == 0) = true := by decide +kernel
/-- A session that has not been established, and one that has. -/
def session (up : Bool) : State := island { spdmVer := some 0x13, spdmAlg := true, sessions := [{ id := 5, req := 5, up }] }

theorem test_attestation_meets : (session true).inSession (some 5) = true ∧ ((session false).session 5).map (·.up) = some false
    ∧ (session true).mgmt.spdmVer ≠ none ∧ (session true).mgmt.sessions.length < 4 := by decide +kernel
theorem test_attestation : gives (.getCapabilities 0x12) (session true) (fun t => t.mgmt.spdmVer == some 0x12) = true
    ∧ goes .getVersion (session true) = true ∧ goes .negotiateAlgorithms (session true) = true
    ∧ gives (.pskExchange 9 []) (session true) (fun t => t.mgmt.sessions.length == 2) = true ∧ goes (.getMeasurements (some 5) 1) (session true) = true
    ∧ gives (.keyUpdate 5 1 7) (session true) (fun t => t.out == [.answer 0 [1, 7]]) = true ∧ goes (.heartbeat 5) (session true) = true
    ∧ gives (.endSession 5) (session true) (fun t => t.mgmt.sessions.isEmpty) = true ∧ goes .getState (session true) = true
    ∧ goes (.pskFinish 5 []) (session false) = true := by decide +kernel
theorem test_island_commands : goes (.regRead 0x40 false) fin = true ∧ goes (.regWrite 0x4054 false 1) fin = true ∧ goes (.bboxRead 4 0 0 8) fin = true
    ∧ goes (.bootcfgWrite (zeros 256) (some 5)) (session true) = true ∧ gives (.ownerKeyWrite 1 (zeros 32) (some 5)) (session true) (fun t => t.nv.owner.length == 2) = true
    ∧ gives (.ownerKeyRevoke 0 (some 5)) (session true) (fun t => t.nv.revoked == 1) = true ∧ gives .deviceReset fin (fun t => t.boot.cause == 3) = true := by
  decide +kernel

/-! ## Witnesses and tests: records and formats -/

theorem test_events_meet : State.quiet fin ∧ fin.recs.frozen = false ∧ bitAt ((fin.setReg 0x1014 0).reg (0x1000 * Blk.plumb.page + 0x14)) 1 = false := ⟨⟨rfl, rfl⟩, by decide, by decide +kernel⟩
/-- An event queue of 16 records with `n` of them unread. -/
def evq (n : Nat) : State := { fin with evqs := [(9, { valid := true, prod := n })] }

theorem test_overflow : (evq 16).evqs.get {} 9 |>.valid := by decide
theorem test_overflow_counts : (evq 16).fld 0xB0008 0 0 = 0 ∧ (evq 16).reg 0xB00A8 + 1 < 2 ^ 64 ∧ ((settleEvq (evq 16) 9 { kind := 1 }).evqs.get {} 9).lost = 1
    ∧ ((settleEvq (evq 15) 9 { kind := 1 }).evqs.get {} 9).prod = 16 := by decide +kernel
theorem test_no_word_bits : decodeTableWord 64 0 = none := rfl
/-- Rounding to BF16 is to nearest, ties to even (03 R81). -/
theorem test_rounds_to_even : (Fmt.bf16.round false (Fmt.fp32.decode 0x3F808000)).1 = 0x3F80 ∧ (Fmt.bf16.round false (Fmt.fp32.decode 0x3F818000)).1 = 0x3F82
    ∧ (Fmt.bf16.round false (Fmt.fp32.decode 0x3F808001)).1 = 0x3F81 := by decide +kernel
/-- CRC-32C of the nine digits, the check value that its definition gives (09 R245). -/
theorem test_crc32c : crc32c [0x31, 0x32, 0x33, 0x34, 0x35, 0x36, 0x37, 0x38, 0x39] = 0xE3069283 := by decide +kernel
/-- The example after 03 R82: a group whose largest magnitude is 3.7 is quantised to FP4 with scale code 0x7E, saturating the largest
and giving an underflow for 0.04. -/
theorem test_quantises_example :
    let xs := [0x406CCCCD, 0xBFA66666, 0x3E851EB8, 0x3D23D70A].map Fmt.fp32.decode
    chooseScale Fmt.fp4 xs = (0x7E, false)
    ∧ (xs.map fun x => (Fmt.fp4.quantise false 0x7E false x).1) = [0x7, 0xD, 0x1, 0x0]
    ∧ (xs.map fun x => (Fmt.fp4.quantise false 0x7E false x).2.uf) = [false, false, false, true] := by decide +kernel

end Sys2Proof.Tests
end

section
/-! PROOFS. The four-bit floating format: what a code of FP4 denotes, in its two ranges, and the magnitudes of Table 3.6
(03_engines_and_formats.md R78, R79). -/

namespace Sys2Proof.Machine

/-- The magnitude of a finite value, counted in units of `2^q`. -/
theorem Num.abs_at_fin (neg : Bool) (m : Nat) (e q : Int) :
    (Num.fin neg m e).abs.at q = ((m * 2 ^ (e - q).toNat : Nat) : Int) := by
  simp [Num.abs, Num.at]

/-- Exponent field 0 (R78): the value is the mantissa bit, in halves. -/
theorem Fmt.decode_fp4_of_exponent_eq_zero {c : Nat} (h : c % 8 / 2 = 0) :
    Fmt.fp4.decode c = .fin (c.testBit 3) (c % 8 % 2) (-1) := by
  simp [Fmt.decode, Fmt.params, Fmt.isFloat, Fmt.hasInf, h]

/-- Exponent field `k` above 0 (R78): the mantissa has its leading one, and counts in units of `2^(k - 2)`. -/
theorem Fmt.decode_fp4_of_exponent_ne_zero {c : Nat} (h : c % 8 / 2 ≠ 0) :
    Fmt.fp4.decode c = .fin (c.testBit 3) (2 + c % 8 % 2) (((c % 8 / 2 : Nat) : Int) - 1 - 1) := by
  simp [Fmt.decode, Fmt.params, Fmt.isFloat, Fmt.hasInf, h]

/-- The magnitude, in halves, that the low three bits `k` of an FP4 code denote. -/
def fp4Halves (k : Nat) : Nat := if k / 2 = 0 then k % 2 else (2 + k % 2) * 2 ^ (k / 2 - 1)

/-- The column Magnitude of Table 3.6, in halves. -/
theorem fp4Halves_eq_table : ∀ k < 8, fp4Halves k = [0, 1, 2, 3, 4, 6, 8, 12].getD k 0 := by decide

/-- No code of FP4 denotes a NaN or an infinity: each is a finite value with sign bit 3 and the magnitude of its low three bits. -/
theorem Fmt.decode_fp4_finite (c : Nat) :
    ∃ m e, Fmt.fp4.decode c = .fin (c.testBit 3) m e ∧ (Fmt.fp4.decode c).abs.at (-1) = (fp4Halves (c % 8) : Nat) := by
  by_cases h : c % 8 / 2 = 0
  · refine ⟨_, _, decode_fp4_of_exponent_eq_zero h, ?_⟩
    rw [decode_fp4_of_exponent_eq_zero h, Num.abs_at_fin, fp4Halves, if_pos h]
    simp
  · refine ⟨_, _, decode_fp4_of_exponent_ne_zero h, ?_⟩
    have unit : (((c % 8 / 2 : Nat) : Int) - 1 - 1 - -1).toNat = c % 8 / 2 - 1 := by omega
    rw [decode_fp4_of_exponent_ne_zero h, Num.abs_at_fin, fp4Halves, if_neg h, unit]

/-- Bit 3 of a four-bit code is set from 8 on. -/
theorem testBit_three_of_lt {c : Nat} (hc : c < 16) : c.testBit 3 = decide (8 ≤ c) := by
  rw [Nat.testBit_eq_decide_div_mod_eq, decide_eq_decide]
  omega

/-- Settles O56: a code decodes by its exponent field, and the eight magnitudes are those of the table. -/
theorem fourBitFloats : Obligations.FourBitFloats := by
  unfold Obligations.FourBitFloats
  refine ⟨rfl, fun c hc => ?_⟩
  obtain ⟨m, e, hdecode, hhalves⟩ := Fmt.decode_fp4_finite c
  rw [← testBit_three_of_lt hc, ← fp4Halves_eq_table (c % 8) (Nat.mod_lt c (by decide))]
  exact ⟨m, e, hdecode, hhalves⟩

end Sys2Proof.Machine
end

section
/-! PROOFS. The priority of a received frame: one equation for each of the three sources of R307, and its range
(11_ethernet_ports.md R307). -/

namespace Sys2Proof.Machine

/-- A field of three bits is a digit of base 8. -/
theorem bits_of_width_three (v lo : Nat) : bits v (lo + 2) lo = v / 2 ^ lo % 8 := by
  have width : lo + 2 - lo + 1 = 3 := by omega
  have shift : v >>> lo = v / 2 ^ lo := Nat.shiftRight_eq_div_pow v lo
  calc
    bits v (lo + 2) lo = (v >>> lo) % 2 ^ (lo + 2 - lo + 1) := rfl
    _ = v / 2 ^ lo % 2 ^ 3 := by rw [width, shift]
    _ = v / 2 ^ lo % 8 := rfl

/-- MAC_DSCP_RX, one number of 192 bits: entry `d` is its `d`-th group of three. -/
def State.dscpRx (s : State) (q : Nat) : Nat :=
  s.reg (macReg q 0x060) + 2 ^ 64 * s.reg (macReg q 0x068) + 2 ^ 128 * s.reg (macReg q 0x070)

/-- A tagged frame takes its PCP, whatever its DSCP. -/
theorem State.rxPrio_of_tagged (s : State) (q : Nat) {f : EthFrame} {p : Nat} (hp : f.pcp = some p) :
    s.rxPrio q f = p % 8 := by
  simp only [rxPrio, hp]

/-- An untagged IP frame takes the entry of its DSCP. -/
theorem State.rxPrio_of_dscp (s : State) (q : Nat) {f : EthFrame} {d : Nat} (hp : f.pcp = none) (hd : f.dscp = some d) :
    s.rxPrio q f = s.dscpRx q / 2 ^ (3 * (d % 64)) % 8 := by
  simp only [rxPrio, hp, hd]
  exact bits_of_width_three _ _

/-- Any other frame takes MAC_CFG.def_prio. -/
theorem State.rxPrio_of_other (s : State) (q : Nat) {f : EthFrame} (hp : f.pcp = none) (hd : f.dscp = none) :
    s.rxPrio q f = s.reg (macReg q 0x040) / 2 ^ 27 % 8 := by
  simp only [rxPrio, hp, hd]
  exact bits_of_width_three _ 27

/-- Each of the three sources gives a value from 0 to 7. -/
theorem State.rxPrio_lt_eight (s : State) (q : Nat) (f : EthFrame) : s.rxPrio q f < 8 := by
  cases hp : f.pcp with
  | some p =>
    rw [rxPrio_of_tagged s q hp]
    exact Nat.mod_lt _ (by decide)
  | none =>
    cases hd : f.dscp with
    | some d =>
      rw [rxPrio_of_dscp s q hp hd]
      exact Nat.mod_lt _ (by decide)
    | none =>
      rw [rxPrio_of_other s q hp hd]
      exact Nat.mod_lt _ (by decide)

/-- Settles O57: the three sources of R307 in turn, where a PCP below 8 and a DSCP below 64 are taken whole. -/
theorem receivedPriorities : Obligations.ReceivedPriorities := by
  unfold Obligations.ReceivedPriorities
  intro s q f
  refine ⟨s.rxPrio_lt_eight q f, fun p hp htag => ?_, fun d hd huntagged hdscp => ?_, s.rxPrio_of_other q⟩
  · rw [s.rxPrio_of_tagged q htag, Nat.mod_eq_of_lt hp]
  · have entry := s.rxPrio_of_dscp q huntagged hdscp
    rw [Nat.mod_eq_of_lt hd] at entry
    exact entry

end Sys2Proof.Machine
end

section
/-! PROOFS. Event queues: what a record does to a queue that is full, and to one that has room
(13_host_functions_and_rings.md R353, R355). -/

namespace Sys2Proof.Machine

/-! ### Counting in a register -/

@[simp] theorem State.inc_evqs (s : State) (a n : Nat) : (s.inc a n).evqs = s.evqs := by
  rw [(s.inc_memStep a n).1]

@[simp] theorem State.inc_out (s : State) (a n : Nat) : (s.inc a n).out = s.out := by
  rw [(s.inc_memStep a n).1]

@[simp] theorem State.inc_hbm (s : State) (a n : Nat) : (s.inc a n).hbm = s.hbm := by
  unfold inc
  split
  · rfl
  · rfl

@[simp] theorem State.memWrite_evqs (s : State) (rq off : Nat) (d : List Byte) (fe : Option Bool) :
    (s.memWrite rq off d fe).1.evqs = s.evqs := by
  rw [(s.memWrite_memStep rq off d fe).1]

/-- A register written with a value that is not its reset value holds it, in whatever form the table is. -/
theorem State.reg_setReg_of_ne_reset (s : State) {a v : Nat} (hv : v < 2 ^ 64)
    (hne : BitVec.ofNat 64 v ≠ BitVec.ofNat 64 (resetAt a)) : (s.setReg a v).reg a = v := by
  have listed : (s.setReg a v).regs.find a = some (BitVec.ofNat 64 v) := by
    simp [setReg, Tab.set, hne, Tab.find_insert]
  rw [reg, listed]
  exact Nat.mod_eq_of_lt hv

/-- A counter that is reset to zero counts one, where its page does not stop it and it does not wrap. -/
theorem State.reg_inc_of_reset_zero (s : State) {a : Nat} (hreset : resetAt a = 0)
    (hrun : s.fld (0x1000 * (a / 0x1000) + 8) 0 0 = 0) (hwrap : s.reg a + 1 < 2 ^ 64) :
    (s.inc a).reg a = s.reg a + 1 := by
  have counts : s.inc a = s.setReg a (s.reg a + 1) := by
    rw [inc, hrun, if_neg (by decide), Nat.mod_eq_of_lt hwrap]
  have nonzero : BitVec.ofNat 64 (s.reg a + 1) ≠ BitVec.ofNat 64 (resetAt a) := by
    rw [hreset]
    bv_omega
  rw [counts, s.reg_setReg_of_ne_reset hwrap nonzero]

/-- FN_EVQ_LOST_CNT is reset to zero. -/
theorem resetAt_evqLostCount : resetAt 0xB00A8 = 0 := by decide +kernel

/-! ### A queue that is full, and one that has room -/

/-- A queue whose ring had no room for a record. -/
def Evq.lose (v : Evq) : Evq := { v with lost := v.lost + 1, overflow := true }

/-- A queue whose ring took a record. -/
def Evq.take (v : Evq) : Evq :=
  { v with prod := v.prod + 1, overflow := false, msgDue := v.msgDue || v.armed, armed := false }

/-- A valid queue is not the default one, so the table lists it as it was written. -/
theorem Evq.get_set_of_valid (t : Tab Evq) (q : Nat) {v : Evq} (hv : v.valid = true) : (t.set {} q v).get {} q = v := by
  refine Tab.get_set_self_ne t {} q v fun h => ?_
  rw [h] at hv
  cases hv

section
variable {s : State} {q : Nat} {v : Evq} (r : EvqRec) (hq : s.evqs.get {} q = v) (hv : v.valid = true)
include hq hv

/-- A full ring: the loss is counted in the queue and in FN_EVQ_LOST_CNT, and an event is raised. -/
theorem settleEvq_of_full (hfull : 2 ^ v.log2 ≤ v.unread) :
    settleEvq s q r =
      (({ s with evqs := s.evqs.set {} q v.lose }).inc 0xB00A8).event { blk := .evq, num := 1 } := by
  dsimp only [settleEvq]
  rw [hq, if_neg (by simp [hv]), if_pos hfull]
  rfl

/-- A ring with room: the record goes to the place of the producer index, in the device's memory or the owner's. -/
theorem settleEvq_of_room (hroom : v.unread < 2 ^ v.log2) :
    settleEvq s q r =
      let bs := r.bytes v.overflow s.plumb.now
      let a := v.base + 32 * (v.prod % 2 ^ v.log2)
      let t := { s with evqs := s.evqs.set {} q v.take }
      if v.infra then (t.memWrite 3 a bs).1 else t.emit (.hostWrite v.owner a bs false) := by
  dsimp only [settleEvq]
  rw [hq, if_neg (by simp [hv]), if_neg (Nat.not_le.mpr hroom)]
  rfl

theorem settleEvq_evqs_of_full (hfull : 2 ^ v.log2 ≤ v.unread) :
    (settleEvq s q r).evqs = s.evqs.set {} q v.lose := by
  rw [settleEvq_of_full r hq hv hfull, State.event_evqs, State.inc_evqs]

/-- FN_EVQ_LOST_CNT counts the loss, where its page does not stop it and it does not wrap. -/
theorem settleEvq_lostCount_of_full (hfull : 2 ^ v.log2 ≤ v.unread) (hrun : s.fld 0xB0008 0 0 = 0)
    (hwrap : s.reg 0xB00A8 + 1 < 2 ^ 64) : (settleEvq s q r).reg 0xB00A8 = s.reg 0xB00A8 + 1 := by
  rw [settleEvq_of_full r hq hv hfull]
  exact State.reg_inc_of_reset_zero { s with evqs := s.evqs.set {} q v.lose } resetAt_evqLostCount hrun hwrap

/-- The lost record is written nowhere: the device's memory is as it was, and nothing goes to the host. -/
theorem settleEvq_writes_nothing_of_full (hfull : 2 ^ v.log2 ≤ v.unread) :
    (settleEvq s q r).hbm = s.hbm ∧ (settleEvq s q r).out = s.out := by
  rw [settleEvq_of_full r hq hv hfull]
  exact ⟨by rw [State.event_hbm, State.inc_hbm], by rw [State.event_out, State.inc_out]⟩

theorem settleEvq_evqs_of_room (hroom : v.unread < 2 ^ v.log2) :
    (settleEvq s q r).evqs = s.evqs.set {} q v.take := by
  rw [settleEvq_of_room r hq hv hroom]
  dsimp only
  split
  · rw [State.memWrite_evqs]
  · rw [State.emit_evqs]

theorem settleEvq_out_of_room (hroom : v.unread < 2 ^ v.log2) (hhost : v.infra = false) :
    (settleEvq s q r).out =
      .hostWrite v.owner (v.base + 32 * (v.prod % 2 ^ v.log2)) (r.bytes v.overflow s.plumb.now) false :: s.out := by
  rw [settleEvq_of_room r hq hv hroom]
  dsimp only
  rw [if_neg (by simp [hhost]), State.emit_out]

/-- The event queues after a record do not depend on the debug freeze of the event ring (R355). -/
theorem settleEvq_evqs_of_frozen (frozen : Bool) :
    (settleEvq { s with recs := { s.recs with frozen } } q r).evqs = (settleEvq s q r).evqs := by
  rcases Nat.lt_or_ge v.unread (2 ^ v.log2) with hroom | hfull
  · rw [settleEvq_evqs_of_room r hq hv hroom]
    exact settleEvq_evqs_of_room r hq hv hroom
  · rw [settleEvq_evqs_of_full r hq hv hfull]
    exact settleEvq_evqs_of_full r hq hv hfull

end

/-! ### The overflow bit of a record -/

/-- The first byte of a record: ownership, overflow and forced, from bit 0 up (13 Table 13.12). -/
theorem EvqRec.head?_bytes (r : EvqRec) (overflow : Bool) (now : Nat) :
    (r.bytes overflow now).head? = some (BitVec.ofNat 8 (1 + 2 * b2n overflow + 4 * b2n r.forced)) := rfl

/-- Bit 1 of that byte is overflow. -/
theorem overflow_bit_of_flags (overflow forced : Bool) :
    (BitVec.ofNat 8 (1 + 2 * b2n overflow + 4 * b2n forced)).getLsbD 1 = overflow := by
  cases overflow <;> cases forced <;> rfl

/-- Settles O60: a full ring loses the record and marks its queue; a ring with room writes it with the queue's mark and clears
that; neither reads the freeze. -/
theorem eventQueueOverflow : Obligations.EventQueueOverflow := by
  unfold Obligations.EventQueueOverflow
  intro s q r v t hv
  refine ⟨fun hfull => ?_, fun hroom => ?_, settleEvq_evqs_of_frozen r rfl hv⟩
  · have marked : t.evqs.get {} q = v.lose := by
      rw [settleEvq_evqs_of_full r rfl hv hfull]
      exact Evq.get_set_of_valid _ _ hv
    obtain ⟨hhbm, hout⟩ := settleEvq_writes_nothing_of_full r rfl hv hfull
    exact ⟨marked, hhbm, hout, settleEvq_lostCount_of_full r rfl hv hfull⟩
  · have taken : t.evqs.get {} q = v.take := by
      rw [settleEvq_evqs_of_room r rfl hv hroom]
      exact Evq.get_set_of_valid _ _ hv
    rw [taken]
    exact ⟨rfl, rfl, rfl, settleEvq_out_of_room r rfl hv hroom,
      _, r.head?_bytes v.overflow s.plumb.now, overflow_bit_of_flags v.overflow r.forced⟩

end Sys2Proof.Machine
end

section
/-! PROOFS. The verification of images: the engines' work leaves the list of running images, and an image that starts joins it
(14_infrastructure_cores_and_security.md R382, R383; 16_bringup_power_and_management.md R432 to R434). -/

namespace Sys2Proof.Machine

/-! ### The work of the key and CMAC engines leaves the boot state -/

/-- What every step of a fold leaves as it is, the fold leaves. -/
theorem State.foldl_eq_of_step_eq {α β : Type} (g : State → α) (f : State → β → State) (hf : ∀ s x, g (f s x) = g s)
    (l : List β) (s : State) : g (l.foldl f s) = g s := by
  induction l generalizing s with
  | nil => rfl
  | cons x l ih => rw [List.foldl_cons, ih, hf]

@[simp] theorem State.inc_boot (s : State) (a n : Nat) : (s.inc a n).boot = s.boot := by
  rw [(s.inc_memStep a n).1]

@[simp] theorem State.cmacRun_boot (s : State) (n : Nat) : (s.cmacRun n).boot = s.boot := s.inc_boot _ _

@[simp] theorem State.deriveKey_boot (s : State) : s.deriveKey.boot = s.boot := by
  rw [deriveKey, cmacRun_boot, cmacRun_boot, inc_boot]

@[simp] theorem State.useKey_boot (s : State) (name : Nat) : (s.useKey name).boot = s.boot := by
  unfold useKey
  split
  · rfl
  · exact s.deriveKey_boot

@[simp] theorem State.tagged_boot (s : State) (name : Nat) (d : List Byte) : (s.tagged name d).1.boot = s.boot := by
  rw [tagged, cmacRun_boot, useKey_boot]

@[simp] theorem State.verified_boot (s : State) (name : Nat) (d tag : List Byte) : (s.verified name d tag).1.boot = s.boot := by
  dsimp only [verified]
  split
  · exact s.tagged_boot name d
  · rw [inc_boot, tagged_boot]

@[simp] theorem State.imageRun_boot (s : State) (kind : Nat) (img : List Byte) : (s.imageRun kind img).boot = s.boot := by
  refine foldl_eq_of_step_eq State.boot _ (fun t p => ?_) _ s
  rw [apply_ite State.boot, inc_boot, ite_self, cmacRun_boot, useKey_boot]

@[simp] theorem State.verifyRun_boot (s : State) (bank kind : Nat) (ok : Bool) : (s.verifyRun bank kind ok).boot = s.boot := by
  unfold verifyRun
  split
  case h_1 img _ => exact s.imageRun_boot kind img
  case h_2 =>
    have tags_boot := foldl_eq_of_step_eq State.boot
      (fun t p => (t.useKey (t.imageKey p kind)).cmacRun ((Config.factoryImage (8 * bank + kind)).length - 32))
      (fun t p => by rw [cmacRun_boot, useKey_boot]) s.imageTags s
    dsimp only
    split
    · exact tags_boot
    · rw [inc_boot, tags_boot]

/-! ### An image that starts joins the running images -/

/-- The boot configuration sets registers and the ports' modes, and no image runs or stops by it (R434). -/
@[simp] theorem State.applyCfg_running (s : State) : s.applyCfg.boot.running = s.boot.running := by
  unfold applyCfg
  split
  case h_1 => rfl
  case h_2 d _ =>
    dsimp only
    split
    · rw [event_boot, verified_boot]
    · rw [updBoot_boot, foldl_eq_of_step_eq State.boot _ fun t x => ?_, verified_boot]
      rw [auditWrite, audit_boot, setReg_boot]

/-- Versions are fused without the boot state (R433). -/
@[simp] theorem State.raiseVersions_boot (s : State) : s.raiseVersions.boot = s.boot := by
  unfold raiseVersions
  extract_lets ask t
  split
  · rw [updNv_boot]
  · split
    · rw [event_boot, updNv_boot]
    · rw [event_boot, foldl_eq_of_step_eq State.boot _ (fun t x => t.updNv_boot _), updNv_boot]

/-- What starts with an image, of whatever kind, leaves the list to which it was added. -/
theorem State.startImage_running (s : State) (kind bank ver : Nat) :
    (s.startImage kind bank ver).boot.running = s.boot.running ++ [(kind, bank, ver)] := by
  unfold startImage
  split
  · rw [raiseVersions_boot, applyCfg_running, updBoot_boot]
  · rfl
  · rfl

/-! ### The completion of a verification -/

/-- The image of the first bank did not pass and that of the other did; on a trial the trial is marked. -/
def State.afterReplacement (s : State) (kind : Nat) : State :=
  let t := s.verifyRun s.firstBank kind false
  (t.verifyRun (1 - s.firstBank) kind true).updBoot fun b => { b with trialBad := b.trialBad || t.glb.trial }

@[simp] theorem State.afterReplacement_running (s : State) (kind : Nat) :
    (s.afterReplacement kind).boot.running = s.boot.running := by
  rw [afterReplacement, updBoot_boot, verifyRun_boot, verifyRun_boot]

section
variable {s : State} {kind ver : Nat} (hdue : s.verifies kind = true)
include hdue

/-- The image of the first bank passes and starts, whatever the other bank holds. -/
theorem exec_imageVerifyComplete_of_pass (h : s.agrees s.firstBank kind ver true = true) (okOther : Bool) :
    exec (.imageVerifyComplete kind ver true okOther) s
      = .next (settle ((s.verifyRun s.firstBank kind true).startImage kind s.firstBank ver)) := by
  have cause : (s.verifies kind && s.agrees s.firstBank kind ver true
      && (true || s.agrees (1 - s.firstBank) kind ver okOther)) = true := by simp [hdue, h]
  exact if_pos cause

/-- The image of the first bank fails: that of the other bank starts in its place, after the event. -/
theorem exec_imageVerifyComplete_of_replace (h : s.agrees s.firstBank kind ver false = true)
    (h' : s.agrees (1 - s.firstBank) kind ver true = true) :
    exec (.imageVerifyComplete kind ver false true) s
      = .next (settle (((s.afterReplacement kind).event { blk := .glb, num := 5 }).startImage kind (1 - s.firstBank) ver)) := by
  have cause : (s.verifies kind && s.agrees s.firstBank kind ver false
      && (false || s.agrees (1 - s.firstBank) kind ver true)) = true := by simp [hdue, h, h']
  exact if_pos cause

end

/-- Settles O58: the bank first tried is R432's; the image that starts is added with its bank to those that run, and where it replaces
another the event is raised before it starts. -/
theorem imagesAndTheirReplacements : Obligations.ImagesAndTheirReplacements := by
  unfold Obligations.ImagesAndTheirReplacements
  intro s kind ver hdue bank other
  refine ⟨fun hpass okOther => ⟨_, exec_imageVerifyComplete_of_pass hdue hpass okOther, ?joins⟩, fun hfail hpass => ?replaces⟩
  case joins =>
    show _ = s.boot.running ++ [(kind, s.firstBank, ver)]
    rw [settle_boot, State.startImage_running, State.verifyRun_boot]
  case replaces =>
    have replaces := exec_imageVerifyComplete_of_replace hdue hfail hpass
    refine ⟨_, replaces, ?_, s.afterReplacement kind, _, replaces, rfl, rfl⟩
    show _ = s.boot.running ++ [(kind, 1 - s.firstBank, ver)]
    rw [settle_boot, State.startImage_running, State.event_boot, State.afterReplacement_running]

end Sys2Proof.Machine
end

section
/-! PROOFS. The canonical form of protected memory: every operation of the model keeps it, in the order in which the model defines
them. An operation that does not reach protected memory leaves it as it is; one that does goes through those of Laws/Memory.lean; the
others are made of operations before them (07_hbm_memory.md R200). -/

namespace Sys2Proof.Machine

/-- Protected memory is in canonical form (07 R200). -/
def State.Formed (s : State) : Prop := Memory.wf s.hbm = true

theorem State.Formed.of_memStep {s t : State} (h : s.Formed) (k : MemStep s t) : t.Formed := k.2 h
theorem State.Formed.of_recStep {s t : State} (h : s.Formed) (k : RecStep s t) : t.Formed := k.2 h

theorem State.Formed.foldl {β : Type} {f : State → β → State} (hf : ∀ s x, s.Formed → (f s x).Formed) (l : List β) {s : State}
    (h : s.Formed) : (l.foldl f s).Formed := by
  induction l generalizing s with
  | nil => exact h
  | cons x l ih => exact ih (hf s x h)

theorem State.Formed.foldlFst {β γ : Type} {f : State × γ → β → State × γ} (hf : ∀ a x, a.1.Formed → (f a x).1.Formed)
    (l : List β) {a : State × γ} (h : a.1.Formed) : (l.foldl f a).1.Formed := by
  induction l generalizing a with
  | nil => exact h
  | cons x l ih => exact ih (hf a x h)

/-! An effect of an instruction changes the state within a `Run`. -/

theorem Run.formed_foldl {β : Type} {f : Run → β → Run} (hf : ∀ r x, r.s.Formed → (f r x).s.Formed) (l : List β) {r : Run}
    (h : r.s.Formed) : (l.foldl f r).s.Formed := by
  induction l generalizing r with
  | nil => exact h
  | cons x l ih => exact ih (hf r x h)

theorem Run.formed_foldlFst {β γ : Type} {f : Run × γ → β → Run × γ} (hf : ∀ a x, a.1.s.Formed → (f a x).1.s.Formed)
    (l : List β) {a : Run × γ} (h : a.1.s.Formed) : (l.foldl f a).1.s.Formed := by
  induction l generalizing a with
  | nil => exact h
  | cons x l ih => exact ih (hf a x h)

/-! `Machine/Ops.lean` -/

theorem State.Formed.setReg {s : State} (h : s.Formed) (a v) : (s.setReg a v).Formed := h

theorem State.Formed.updPage {s : State} (h : s.Formed) (pg g) : (s.updPage pg g).Formed := h.of_recStep (State.updPage_recStep ..)

theorem State.Formed.inc {s : State} (h : s.Formed) (a n) : (s.inc a n).Formed := h.of_memStep (State.inc_memStep ..)

theorem State.Formed.push {s : State} (h : s.Formed) (t) : (s.push t).Formed := h

theorem State.Formed.event {s : State} (h : s.Formed) (e) : (s.event e).Formed := h.of_recStep (State.event_recStep ..)

theorem State.Formed.audit {s : State} (h : s.Formed) (a) : (s.audit a).Formed := by
  unfold State.audit
  grind only [State.Formed.push]

theorem State.Formed.evqSend {s : State} (h : s.Formed) (q r) : (s.evqSend q r).Formed := by
  unfold State.evqSend
  grind only [State.Formed.push]

theorem State.Formed.emit {s : State} (h : s.Formed) (o) : (s.emit o).Formed := h.of_recStep (State.emit_recStep ..)

theorem State.Formed.free {s : State} (h : s.Formed) : s.free.2.Formed := h

theorem State.Formed.notify {s : State} (h : s.Formed) (fn r) : (s.notify fn r).Formed := h.of_recStep (State.notify_recStep ..)

theorem State.Formed.eventTo {s : State} (h : s.Formed) (e fn) : (s.eventTo e fn).Formed := by
  unfold State.eventTo
  grind only [State.Formed.event, State.Formed.notify]

theorem State.Formed.useNoc {s : State} (h : s.Formed) (src dst) : (s.useNoc src dst).Formed := h.of_memStep (State.useNoc_memStep ..)

/-! `Machine/Hbm.lean` -/

theorem State.Formed.putCells {s : State} (h : s.Formed) (k bs) : (s.putCells k bs).Formed := h.of_memStep (State.putCells_memStep ..)

theorem State.Formed.updStack {s : State} (h : s.Formed) (m g) : (s.updStack m g).Formed := h.of_memStep (State.updStack_memStep ..)

theorem State.Formed.initChunk {s : State} (h : s.Formed) (m c) : (s.initChunk m c).Formed := h.of_memStep (State.initChunk_memStep ..)

theorem State.Formed.storeLine {s : State} (h : s.Formed) (m lam pos) :
    (s.storeLine m lam pos).Formed := h.of_memStep (State.storeLine_memStep ..)

theorem State.Formed.storeData {s : State} (h : s.Formed) (m lam d poison) :
    (s.storeData m lam d poison).Formed := h.of_memStep (State.storeData_memStep ..)

theorem State.Formed.rollWindow {s : State} (h : s.Formed) (m) : (s.rollWindow m).Formed := h.of_memStep (State.rollWindow_memStep ..)

theorem State.Formed.requestRepair {s : State} (h : s.Formed) (m pc bank row) :
    (s.requestRepair m pc bank row).Formed := h.of_memStep (State.requestRepair_memStep ..)

theorem State.Formed.countDie {s : State} (h : s.Formed) (m die) : (s.countDie m die).Formed := h.of_memStep (State.countDie_memStep ..)

theorem State.Formed.countRow {s : State} (h : s.Formed) (m q pc) : (s.countRow m q pc).Formed := h.of_memStep (State.countRow_memStep ..)

theorem State.Formed.countFix {s : State} (h : s.Formed) (m lam p pc) :
    (s.countFix m lam p pc).Formed := h.of_memStep (State.countFix_memStep ..)

theorem State.Formed.freshUe {s : State} (h : s.Formed) (m lam rq) : (s.freshUe m lam rq).Formed := h.of_memStep (State.freshUe_memStep ..)

theorem State.Formed.noteUnchecked {s : State} (h : s.Formed) (m u) :
    (s.noteUnchecked m u).Formed := h.of_memStep (State.noteUnchecked_memStep ..)

theorem State.Formed.fixLine {s : State} (h : s.Formed) (m lam fixes pos) :
    (s.fixLine m lam fixes pos).Formed := h.of_memStep (State.fixLine_memStep ..)

theorem State.Formed.decodeLine {s : State} (h : s.Formed) (m lam rq raw) :
    (s.decodeLine m lam rq raw).1.Formed := h.of_memStep (State.decodeLine_memStep ..)

theorem State.Formed.readLine {s : State} (h : s.Formed) (m lam rq) :
    (s.readLine m lam rq).1.Formed := h.of_memStep (State.readLine_memStep ..)

theorem State.Formed.disturb {s : State} (h : s.Formed) (m lam ns) : (s.disturb m lam ns).Formed := h.of_memStep (State.disturb_memStep ..)

theorem State.Formed.disarm {s : State} (h : s.Formed) : s.disarm.Formed := h.of_memStep (State.disarm_memStep ..)

theorem State.Formed.writeLine {s : State} (h : s.Formed) (off m lam rq d poison) :
    (s.writeLine off m lam rq d poison).1.Formed := h.of_memStep (State.writeLine_memStep ..)

theorem State.Formed.writeParts {s : State} (h : s.Formed) (off m lam rq parts) :
    (s.writeParts off m lam rq parts).1.Formed := h.of_memStep (State.writeParts_memStep ..)

theorem State.Formed.meetBank {s : State} (h : s.Formed) (m lam) : (s.meetBank m lam).Formed := h.of_memStep (State.meetBank_memStep ..)

theorem State.Formed.readSideAt {s : State} (h : s.Formed) (line rq) :
    (s.readSideAt line rq).1.Formed := h.of_memStep (State.readSideAt_memStep ..)

theorem State.Formed.readSide {s : State} (h : s.Formed) (line rq) :
    (s.readSide line rq).1.Formed := h.of_memStep (State.readSide_memStep ..)

theorem State.Formed.readAny {s : State} (h : s.Formed) (m lam rq) : (s.readAny m lam rq).1.Formed := by
  unfold State.readAny
  grind only [State.Formed.readLine, State.Formed.readSideAt]

theorem State.Formed.syncFull {s : State} (h : s.Formed) (w rq) : (s.syncFull w rq).1.Formed := by
  unfold State.syncFull
  grind only [State.Formed.readSide]

theorem State.Formed.setSide {s : State} (h : s.Formed) (w n rq v) : (s.setSide w n rq v).Formed := h.of_memStep (State.setSide_memStep ..)

theorem State.Formed.clearSide {s : State} (h : s.Formed) (w n) : (s.clearSide w n).Formed := h.of_memStep (State.clearSide_memStep ..)

theorem State.Formed.readPiece {s : State} (h : s.Formed) (rq line a n) :
    (s.readPiece rq line a n).1.Formed := h.of_memStep (State.readPiece_memStep ..)

theorem State.Formed.readPieces {s : State} (h : s.Formed) (rq off n) :
    (s.readPieces rq off n).1.Formed := h.of_memStep (State.readPieces_memStep ..)

theorem State.Formed.nocMem {s : State} (h : s.Formed) (src off n) : (s.nocMem src off n).Formed := h.of_memStep (State.nocMem_memStep ..)

theorem State.Formed.memRead {s : State} (h : s.Formed) (rq off n) :
    (s.memRead rq off n).1.Formed := h.of_memStep (State.memRead_memStep ..)

theorem State.Formed.putPart {s : State} (h : s.Formed) (line m lam rq a d poison) :
    (s.putPart line m lam rq a d poison).1.Formed := h.of_memStep (State.putPart_memStep ..)

theorem State.Formed.putWords {s : State} (h : s.Formed) (line m lam rq parts poison fe) :
    (s.putWords line m lam rq parts poison fe).1.Formed := h.of_memStep (State.putWords_memStep ..)

theorem State.Formed.writePiece {s : State} (h : s.Formed) (rq line a d poison fe) :
    (s.writePiece rq line a d poison fe).1.Formed := h.of_memStep (State.writePiece_memStep ..)

theorem State.Formed.memWrite {s : State} (h : s.Formed) (rq off d fe) :
    (s.memWrite rq off d fe).1.Formed := h.of_memStep (State.memWrite_memStep ..)

/-! `Machine/Records.lean` -/

theorem State.Formed.startFlush {s : State} (h : s.Formed) (faultAt power) :
    (s.startFlush faultAt power).Formed := h.of_recStep (State.startFlush_recStep ..)

theorem storeEvent_formed {s : State} (h : s.Formed) (e) : (storeEvent s e).Formed := h.of_recStep (storeEvent_recStep ..)

theorem settleEvent_formed {s : State} (h : s.Formed) (e) : (settleEvent s e).Formed := h.of_recStep (settleEvent_recStep ..)

theorem settleEvq_formed {s : State} (h : s.Formed) (q r) : (settleEvq s q r).Formed := h.of_recStep (settleEvq_recStep ..)

theorem storeAudit_formed {s : State} (h : s.Formed) (rec') : (storeAudit s rec').Formed := h.of_recStep (storeAudit_recStep ..)

theorem settleAudit_formed {s : State} (h : s.Formed) (a) : (settleAudit s a).Formed := h.of_recStep (settleAudit_recStep ..)

theorem settleOne_formed {s : State} (h : s.Formed) (x : Todo) : (settleOne s x).Formed := h.of_recStep (settleOne_recStep ..)

theorem settleRound_formed {s : State} (h : s.Formed) : (settleRound s).Formed := h.of_recStep (settleRound_recStep ..)

theorem settleRounds_formed {s : State} (h : s.Formed) (n : Nat) : (settleRounds n s).Formed := h.of_recStep (settleRounds_recStep ..)

theorem State.Formed.beginReset {s : State} (h : s.Formed) (cause missing) : (s.beginReset cause missing).Formed := by
  unfold State.beginReset
  grind only [State.Formed, State.Formed.event, State.Formed.startFlush]

theorem State.Formed.pldm {s : State} (h : s.Formed) (e) : (s.pldm e).Formed := by
  unfold State.pldm
  grind only [State.Formed, State.Formed.inc, State.Formed.event]

theorem State.Formed.refuse {s : State} (h : s.Formed) (o a old v wide) : (s.refuse o a old v wide).Formed := by
  unfold State.refuse
  grind only [State.Formed.event, State.Formed.audit]

theorem State.Formed.auditWrite {s : State} (h : s.Formed) (o a old v wide kind) : (s.auditWrite o a old v wide kind).Formed := by
  unfold State.auditWrite
  grind only [State.Formed.audit]

theorem State.Formed.auditDev {s : State} (h : s.Formed) (a old new sec) : (s.auditDev a old new sec).Formed := by
  unfold State.auditDev
  grind only [State.Formed.audit]

theorem State.Formed.healthRec {s : State} (h : s.Formed) (r) : (s.healthRec r).Formed := h

/-! `Machine/Xlat.lean` -/

theorem State.Formed.xltCount {s : State} (h : s.Formed) (f i) : (s.xltCount f i).Formed := by
  unfold State.xltCount
  grind only [State.Formed, State.Formed.inc]

theorem State.Formed.tableRead {s : State} (h : s.Formed) (off) : (s.tableRead off).1.Formed := by
  unfold State.tableRead
  grind only [State.Formed.memRead]

theorem State.Formed.readGroup {s : State} (h : s.Formed) (off) : (s.readGroup off).1.Formed := by
  unfold State.readGroup
  grind only [State.Formed.memRead]

theorem State.Formed.pte {s : State} (h : s.Formed) (l off notValid) : (s.pte l off notValid).1.Formed := by
  unfold State.pte
  grind only [State.Formed.tableRead, State.Formed.readGroup]

theorem State.Formed.walk2 {s : State} (h : s.Formed) (l tbl ipa : Nat) : (State.walk2 l s tbl ipa).1.Formed := by
  induction l generalizing s tbl with
  | zero => unfold State.walk2; grind only [State.Formed.pte]
  | succ l ih => unfold State.walk2; grind only [State.Formed.pte]

theorem State.Formed.stage2 {s : State} (h : s.Formed) (f ipa) : (s.stage2 f ipa).1.Formed := by
  unfold State.stage2
  grind only [State.Formed, State.Formed.walk2]

theorem State.Formed.walkFind {s : State} (h : s.Formed) (kind f tag key) : (s.walkFind kind f tag key).1.Formed := by
  unfold State.walkFind
  grind only [State.Formed]

theorem State.Formed.walkFill {s : State} (h : s.Formed) (kind f tag key val) : (s.walkFill kind f tag key val).Formed := h

theorem State.Formed.tableAt {s : State} (h : s.Formed) (f tag ipa) : (s.tableAt f tag ipa).1.Formed := by
  unfold State.tableAt
  grind only [State.Formed.stage2, State.Formed.walkFind, State.Formed.walkFill]

theorem State.Formed.walk1 {s : State} (h : s.Formed) (l f tag tbl va : Nat) : (State.walk1 l s f tag tbl va).1.Formed := by
  induction l generalizing s tbl with
  | zero => unfold State.walk1; grind only [State.Formed.pte, State.Formed.tableAt]
  | succ l ih => unfold State.walk1; grind only [State.Formed.pte, State.Formed.tableAt, State.Formed.walkFill]

theorem State.Formed.tagEntry {s : State} (h : s.Formed) (f tag) : (s.tagEntry f tag).1.Formed := by
  unfold State.tagEntry
  grind only [State.Formed.tableRead, State.Formed.walkFind, State.Formed.walkFill, State.Formed.tableAt]

theorem State.Formed.stage1 {s : State} (h : s.Formed) (f tag va) : (s.stage1 f tag va).1.Formed := by
  unfold State.stage1
  grind only [State.Formed, State.Formed.walkFind, State.Formed.walk1, State.Formed.tagEntry]

theorem State.Formed.walkPage {s : State} (h : s.Formed) (f tag va) : (s.walkPage f tag va).1.Formed := by
  unfold State.walkPage
  grind only [State.Formed.stage2, State.Formed.stage1]

theorem State.Formed.walkAll {s : State} (h : s.Formed) (f tag va wr) : (s.walkAll f tag va wr).1.Formed := by
  unfold State.walkAll
  grind only [State.Formed.xltCount, State.Formed.walkPage]

theorem State.Formed.xltPut {s : State} (h : s.Formed) (k e) : (s.xltPut k e).Formed := h

theorem State.Formed.xltFill {s : State} (h : s.Formed) (e) : (s.xltFill e).Formed := by
  unfold State.xltFill
  grind only [State.Formed.xltCount, State.Formed.xltPut]

theorem State.Formed.xltFault {s : State} (h : s.Formed) (f tag va wr cause stage2) : (s.xltFault f tag va wr cause stage2).Formed := by
  unfold State.xltFault
  grind only [State.Formed, State.Formed.event, State.Formed.notify, State.Formed.xltCount]

theorem State.Formed.walkFor {s : State} (h : s.Formed) (f tag va wr) : (s.walkFor f tag va wr).1.Formed := by
  unfold State.walkFor
  grind only [State.Formed.walkAll, State.Formed.xltFill, State.Formed.xltFault]

theorem State.Formed.translate {s : State} (h : s.Formed) (f tag va wr) : (s.translate f tag va wr).1.Formed := by
  unfold State.translate
  grind only [State.Formed.xltCount, State.Formed.xltPut, State.Formed.xltFault, State.Formed.walkFor]

theorem State.Formed.translateIn {s : State} (h : s.Formed) (gs f tag va wr) : (s.translateIn gs f tag va wr).1.Formed := by
  unfold State.translateIn
  grind only [State.Formed.xltFault, State.Formed.translate]

theorem State.Formed.lookup {s : State} (h : s.Formed) (w) : (s.lookup w).1.Formed := by
  unfold State.lookup
  grind only [State.Formed.xltCount, State.Formed.xltPut]

/-! `Machine/Context.lean` -/

theorem State.Formed.updCtx {s : State} (h : s.Formed) (k g) : (s.updCtx k g).Formed := h

theorem State.Formed.updEng {s : State} (h : s.Formed) (e g) : (s.updEng e g).Formed := h

/-! `Machine/Book.lean` -/

theorem State.Formed.updTile {s : State} (h : s.Formed) (t g) : (s.updTile t g).Formed := h

theorem State.Formed.audited {s : State} (t : Nat) (e : Option Nat) {g : State → State} (hg : (g s).Formed) :
    (s.audited t e g).Formed := by
  unfold State.audited
  grind only [State.Formed.auditDev]

theorem State.Formed.hlthEvent {s : State} (h : s.Formed) (num p0 p1 p2) : (s.hlthEvent num p0 p1 p2).Formed := by
  unfold State.hlthEvent
  grind only [State.Formed.event]

theorem State.Formed.dueNow {s : State} (h : s.Formed) (t cause) : (s.dueNow t cause).Formed := by
  unfold State.dueNow
  grind only [State.Formed.updTile, State.Formed.hlthEvent]

theorem State.Formed.book {s : State} (h : s.Formed) (t k kind locus) : (s.book t k kind locus).Formed := by
  unfold State.book
  grind only [State.Formed, State.Formed.healthRec, State.Formed.updTile, State.Formed.audited, State.Formed.hlthEvent,
    State.Formed.dueNow]

theorem State.Formed.routerParity {s : State} (h : s.Formed) (e) : (s.routerParity e).Formed := by
  unfold State.routerParity
  grind only [State.Formed.event, State.Formed.book]

theorem State.Formed.freeChecker {s : State} (h : s.Formed) (t) : (s.freeChecker t).Formed := by
  unfold State.freeChecker
  grind only [State.Formed.updTile]

theorem State.Formed.setCheck {s : State} (h : s.Formed) (k c) : (s.setCheck k c).Formed := by
  unfold State.setCheck
  grind only [State.Formed, State.Formed.freeChecker]

theorem State.Formed.abandonCheck {s : State} (h : s.Formed) (c why) : (s.abandonCheck c why).Formed := by
  unfold State.abandonCheck
  grind only [State.Formed.inc, State.Formed.event, State.Formed.setCheck]

theorem State.Formed.updMirror {s : State} (h : s.Formed) (k g) : (s.updMirror k g).Formed := by
  unfold State.updMirror
  grind only [State.Formed.setCheck, State.Formed.abandonCheck]

theorem State.Formed.mirrorIn {s : State} (h : s.Formed) (a d) : (s.mirrorIn a d).Formed := by
  unfold State.mirrorIn
  grind only [State.Formed.foldl, State.Formed.foldlFst, State.Formed.updMirror]

theorem State.Formed.mirrorEnd {s : State} (h : s.Formed) (k) : (s.mirrorEnd k).Formed := by
  unfold State.mirrorEnd
  grind only [State.Formed.updMirror]

/-! `Machine/Tile.lean` -/

theorem State.Formed.tsMark {s : State} (h : s.Formed) (ws v) : (s.tsMark ws v).Formed := by
  unfold State.tsMark
  grind only [State.Formed, State.Formed.foldl, State.Formed.foldlFst]

theorem State.Formed.tsWrite {s : State} (h : s.Formed) (a d fe poison) : (s.tsWrite a d fe poison).Formed := by
  unfold State.tsWrite
  grind only [State.Formed, State.Formed.foldl, State.Formed.foldlFst, State.Formed.tsMark]

theorem State.Formed.tsClear {s : State} (h : s.Formed) (a n) : (s.tsClear a n).Formed := h

theorem State.Formed.flipWord {s : State} (h : s.Formed) (w x) : (s.flipWord w x).Formed := h

theorem State.Formed.scrubWord {s : State} (h : s.Formed) (t w err) : (s.scrubWord t w err).Formed := by
  unfold State.scrubWord
  grind only [State.Formed, State.Formed.inc, State.Formed.event, State.Formed.book, State.Formed.flipWord]

theorem State.Formed.holdInbound {s : State} (h : s.Formed) (e h') : (s.holdInbound e h').Formed := by
  unfold State.holdInbound
  grind only [State.Formed.updEng]

theorem State.Formed.tsPlace {s : State} (h : s.Formed) (a d fe poison) : (s.tsPlace a d fe poison).Formed := by
  unfold State.tsPlace
  grind only [State.Formed.mirrorIn, State.Formed.tsWrite, State.Formed.holdInbound]

theorem State.Formed.seen {s : State} (h : s.Formed) (t) : (s.seen t).Formed := by
  unfold State.seen
  grind only [State.Formed.foldl, State.Formed.foldlFst, State.Formed.tsWrite]

theorem Run.formed_fail {r : Run} (h : r.s.Formed) (c) : (r.fail c).s.Formed := h

theorem Run.formed_flag {r : Run} (h : r.s.Formed) (st) : (r.flag st).s.Formed := h

theorem Run.formed_upd {r : Run} {g : State → State} (hg : (g r.s).Formed) : (r.upd g).s.Formed := hg

theorem Run.formed_transfer {r : Run} (h : r.s.Formed) : (r.transfer).1.s.Formed := by
  unfold Run.transfer
  grind only [State.Formed, State.Formed.routerParity, Run.formed_upd]

theorem State.Formed.places {s : State} (h : s.Formed) (k space a n wr) : (s.places k space a n wr).1.Formed := by
  unfold State.places
  grind only [State.Formed.foldl, State.Formed.foldlFst, State.Formed.xltFault, State.Formed.translate]

theorem Run.formed_lose {r : Run} (h : r.s.Formed) (c o n) : (r.lose c o n).s.Formed := by
  unfold Run.lose
  grind only [Run.formed_fail]

theorem Run.formed_readPlace {r : Run} (h : r.s.Formed) (o p) : (r.readPlace o p).1.s.Formed := by
  unfold Run.readPlace
  grind only [State.Formed.useNoc, State.Formed.readPieces, State.Formed.nocMem, State.Formed.seen, Run.formed_fail, Run.formed_transfer,
    Run.formed_lose]

theorem Run.formed_read {r : Run} (h : r.s.Formed) (space a n wr) : (r.read space a n wr).1.s.Formed := by
  unfold Run.read
  grind only [State.Formed.foldl, State.Formed.foldlFst, Run.formed_foldl, Run.formed_foldlFst, State.Formed.places, Run.formed_readPlace]

theorem Run.formed_bytes {r : Run} (h : r.s.Formed) (a n) : (r.bytes a n).1.s.Formed := by
  unfold Run.bytes
  grind only [Run.formed_read]

theorem State.Formed.holdErr {s : State} (h : s.Formed) (k c localMem) : (s.holdErr k c localMem).Formed := by
  unfold State.holdErr
  grind only [State.Formed.updCtx]

theorem State.Formed.postMsg {s : State} (h : s.Formed) (c m) : (s.postMsg c m).1.Formed := h

theorem State.Formed.remoteWrite {s : State} (h : s.Formed) (k dev off d fence fe poison) :
    (s.remoteWrite k dev off d fence fe poison).Formed := by
  unfold State.remoteWrite
  grind only [State.Formed.updCtx, State.Formed.holdErr, State.Formed.postMsg]

theorem Run.formed_writeRun {r : Run} (h : r.s.Formed) (p o d fe) : (r.writeRun p o d fe).s.Formed := by
  unfold Run.writeRun
  grind only [State.Formed, State.Formed.foldl, State.Formed.foldlFst, Run.formed_foldl, Run.formed_foldlFst, State.Formed.useNoc,
    State.Formed.nocMem, State.Formed.writePiece, State.Formed.memWrite, State.Formed.tsWrite, State.Formed.tsPlace, Run.formed_fail,
    Run.formed_upd, Run.formed_transfer, State.Formed.holdErr, State.Formed.remoteWrite]

theorem Run.formed_write {r : Run} (h : r.s.Formed) (space a d fe) : (r.write space a d fe).s.Formed := by
  unfold Run.write
  grind only [State.Formed.foldl, State.Formed.foldlFst, Run.formed_foldl, Run.formed_foldlFst, State.Formed.places, Run.formed_writeRun]

/-! `Machine/Operands.lean` -/

theorem Run.formed_row {r : Run} (h : r.s.Formed) (d i) : (r.row d i).1.s.Formed := by
  unfold Run.row
  grind only [Run.formed_read]

theorem Run.formed_codes {r : Run} (h : r.s.Formed) (d i) : (r.codes d i).1.s.Formed := by
  unfold Run.codes
  grind only [Run.formed_row]

theorem Run.formed_scales {r : Run} (h : r.s.Formed) (d i) : (r.scales d i).1.s.Formed := by
  unfold Run.scales
  grind only [Run.formed_row]

theorem Run.formed_vals {r : Run} (h : r.s.Formed) (d i) : (r.vals d i).1.s.Formed := by
  unfold Run.vals
  grind only [Run.formed_codes, Run.formed_scales]

theorem Run.formed_deq {r : Run} (h : r.s.Formed) (d i) : (r.deq d i).1.s.Formed := by
  unfold Run.deq
  grind only [Run.formed_vals]

theorem Run.formed_rowsOf {α : Type} {r : Run} (h : r.s.Formed) (n : Nat) {g : Run → Nat → Run × α}
    (hg : ∀ r i, r.s.Formed → (g r i).1.s.Formed) : (r.rowsOf n g).1.s.Formed := by
  unfold Run.rowsOf
  refine Run.formed_foldlFst (fun a i ha => ?_) _ h
  dsimp only
  exact hg a.1 i ha

theorem Run.formed_putRow {r : Run} (h : r.s.Formed) (d i b) : (r.putRow d i b).s.Formed := by
  unfold Run.putRow
  grind only [Run.formed_write]

theorem Run.formed_putCodes {r : Run} (h : r.s.Formed) (d rows) : (r.putCodes d rows).s.Formed := by
  unfold Run.putCodes
  grind only [State.Formed.foldl, State.Formed.foldlFst, Run.formed_foldl, Run.formed_foldlFst, Run.formed_putRow]

theorem Run.formed_rounded {r : Run} (h : r.s.Formed) (d rows given) : (r.rounded d rows given).1.s.Formed := by
  unfold Run.rounded
  grind only [State.Formed, State.Formed.foldl, State.Formed.foldlFst, Run.formed_foldl, Run.formed_foldlFst, Run.formed_flag,
    Run.formed_row, Run.formed_rowsOf]

theorem Run.formed_putScales {r : Run} (h : r.s.Formed) (d scs) : (r.putScales d scs).s.Formed := by
  unfold Run.putScales
  grind only [Run.formed_putCodes]

theorem Run.formed_putVals {r : Run} (h : r.s.Formed) (d rows given) : (r.putVals d rows given).s.Formed := by
  unfold Run.putVals
  grind only [Run.formed_putCodes, Run.formed_rounded, Run.formed_putScales]

/-! `Machine/Flags.lean` -/

theorem State.Formed.feRanges {s : State} (h : s.Formed) (k own rs) : (s.feRanges k own rs).1.Formed := by
  unfold State.feRanges
  grind only [State.Formed.foldl, State.Formed.foldlFst, State.Formed.places]

theorem State.Formed.feFull {s : State} (h : s.Formed) (w : FeWord) : (s.feFull w).1.Formed := by
  unfold State.feFull
  grind only [State.Formed.syncFull]

theorem State.Formed.feBlock {s : State} (h : s.Formed) (full : Bool) (ws : List FeWord) : (s.feBlock full ws).1.Formed := by
  induction ws generalizing s with
  | nil => exact h
  | cons w ws ih =>
    unfold State.feBlock
    grind only [State.Formed.feFull]

theorem State.Formed.feMark {s : State} (h : s.Formed) (v ws) : (s.feMark v ws).Formed := by
  unfold State.feMark
  grind only [State.Formed.foldl, State.Formed.foldlFst, State.Formed.emit, State.Formed.setSide, State.Formed.tsMark]

theorem Run.formed_feClear {r : Run} (h : r.s.Formed) (us) : (r.feClear us).s.Formed := by
  unfold Run.feClear
  grind only [Run.formed_fail, State.Formed.feRanges, State.Formed.feMark]

theorem State.Formed.startWait {s : State} (h : s.Formed) (k op empty rs ws) : (s.startWait k op empty rs ws).Formed := by
  unfold State.startWait
  grind only [State.Formed.updStack, State.Formed.updCtx]

theorem State.Formed.endWait {s : State} (h : s.Formed) (k) : (s.endWait k).Formed := by
  unfold State.endWait
  grind only [State.Formed, State.Formed.foldl, State.Formed.foldlFst, State.Formed.updCtx]

/-! `Machine/Issue.lean` -/

theorem State.Formed.engEvent {s : State} (h : s.Formed) (k num p0 p1 p2 p3) : (s.engEvent k num p0 p1 p2 p3).Formed := by
  unfold State.engEvent
  grind only [State.Formed.eventTo]

theorem State.Formed.errEvent {s : State} (h : s.Formed) (k code op) : (s.errEvent k code op).Formed := by
  unfold State.errEvent
  grind only [State.Formed.engEvent]

theorem State.Formed.failCtx {s : State} (h : s.Formed) (k code op) : (s.failCtx k code op).Formed := by
  unfold State.failCtx
  grind only [State.Formed.updCtx, State.Formed.errEvent]

theorem Run.formed_mirror {s : State} (h : s.Formed) (r) : (Run.mirror r s).Formed := by
  unfold Run.mirror
  grind only [State.Formed.foldl, State.Formed.foldlFst, State.Formed.updMirror]

theorem Run.formed_finish {r : Run} (h : r.s.Formed) (op) : (r.finish op).Formed := by
  unfold Run.finish
  grind only [State.Formed.updCtx, State.Formed.mirrorEnd, State.Formed.errEvent, State.Formed.failCtx, Run.formed_mirror]

theorem State.Formed.meet {s : State} (h : s.Formed) (k us) : (s.meet k us).Formed := by
  unfold State.meet
  grind only [State.Formed.foldl, State.Formed.foldlFst, State.Formed.scrubWord]

theorem issueCore_formed {s : State} (h : s.Formed) (i : Ins) (k : Nat) (f : Fields) {run : Run → Run}
    (hrun : ∀ r, r.s.Formed → (run r).s.Formed) : (issueCore i k f s run).Formed := by
  unfold issueCore
  grind only [State.Formed.failCtx, State.Formed.updCtx, State.Formed.meet, State.Formed.feRanges, State.Formed.feBlock,
    State.Formed.startWait, Run.formed_finish]

theorem State.Formed.slowed {s : State} (h : s.Formed) (k pages) : (s.slowed k pages).Formed := by
  unfold State.slowed
  grind only [State.Formed]

theorem State.Formed.issued {s t : State} (h : s.Formed) (ht : t.Formed) (pages : List Nat) : (s.issued pages t).Formed := by
  unfold State.issued
  grind only [State.Formed]

theorem State.Formed.jobDone {s : State} (h : s.Formed) (q n status detail bytes late extra) :
    (s.jobDone q n status detail bytes late extra).Formed := h

theorem State.Formed.launchDone {s : State} (h : s.Formed) (l status detail) : (s.launchDone l status detail).Formed := by
  unfold State.launchDone
  grind only [State.Formed.notify, State.Formed.jobDone]

theorem State.Formed.emptyCtx {s : State} (h : s.Formed) (k code) : (s.emptyCtx k code).Formed := by
  unfold State.emptyCtx
  grind only [State.Formed.updCtx, State.Formed.mirrorEnd, State.Formed.launchDone]

/-! `Machine/Keys.lean` -/

theorem State.Formed.cmacRun {s : State} (h : s.Formed) (n) : (s.cmacRun n).Formed := by
  unfold State.cmacRun
  grind only [State.Formed.inc]

theorem State.Formed.deriveKey {s : State} (h : s.Formed) : s.deriveKey.Formed := by
  unfold State.deriveKey
  grind only [State.Formed.inc, State.Formed.cmacRun]

theorem State.Formed.useKey {s : State} (h : s.Formed) (name) : (s.useKey name).Formed := by
  unfold State.useKey
  grind only [State.Formed, State.Formed.deriveKey]

theorem State.Formed.tagged {s : State} (h : s.Formed) (name d) : (s.tagged name d).1.Formed := by
  unfold State.tagged
  grind only [State.Formed.cmacRun, State.Formed.useKey]

theorem State.Formed.verified {s : State} (h : s.Formed) (name d tag) : (s.verified name d tag).1.Formed := by
  unfold State.verified
  grind only [State.Formed.inc, State.Formed.tagged]

/-! `Machine/Wire.lean` -/

theorem State.Formed.drop {s : State} (h : s.Formed) (a) : (s.drop a).Formed := by
  unfold State.drop
  grind only [State.Formed, State.Formed.inc, State.Formed.event]

theorem State.Formed.arrival {s : State} (h : s.Formed) (op p) : (s.arrival op p).1.Formed := by
  unfold State.arrival
  grind only [State.Formed.drop]

/-! `Machine/Port.lean` -/

theorem State.Formed.updPort {s : State} (h : s.Formed) (q g) : (s.updPort q g).Formed := h

theorem State.Formed.updPrio {s : State} (h : s.Formed) (q p g) : (s.updPrio q p g).Formed := by
  unfold State.updPrio
  grind only [State.Formed.updPort]

theorem State.Formed.wakePort {s : State} (h : s.Formed) (q) : (s.wakePort q).Formed := by
  unfold State.wakePort
  grind only [State.Formed.updPort]

theorem State.Formed.enterStream {s : State} (h : s.Formed) (q p fn) : (s.enterStream q p fn).Formed := by
  unfold State.enterStream
  grind only [State.Formed.updPrio]

theorem State.Formed.offer {s : State} (h : s.Formed) (q f) : (s.offer q f).1.Formed := by
  unfold State.offer
  grind only [State.Formed.inc, State.Formed.updPort, State.Formed.wakePort, State.Formed.enterStream]

theorem State.Formed.sendPfc {s : State} (h : s.Formed) (q p quanta) : (s.sendPfc q p quanta).Formed := by
  unfold State.sendPfc
  grind only [State.Formed.updPort, State.Formed.wakePort]

theorem State.Formed.pausePartner {s : State} (h : s.Formed) (q p) : (s.pausePartner q p).Formed := by
  unfold State.pausePartner
  grind only [State.Formed.updPrio, State.Formed.sendPfc]

theorem State.Formed.coreFill {s : State} (h : s.Formed) (h' q p f) : (s.coreFill h' q p f).1.Formed := by
  unfold State.coreFill
  grind only [State.Formed.setReg, State.Formed.memRead, State.Formed.memWrite]

theorem State.Formed.coreDeliver {s : State} (h : s.Formed) (q p f) : (s.coreDeliver q p f).Formed := by
  unfold State.coreDeliver
  grind only [State.Formed.inc, State.Formed.offer, State.Formed.coreFill]

theorem State.Formed.corePump {s : State} (h : s.Formed) (q n : Nat) : (State.corePump q n s).Formed := by
  induction n generalizing s with
  | zero => exact h
  | succ n ih =>
    unfold State.corePump
    grind only [State.Formed.memRead, State.Formed.memWrite, State.Formed.setReg, State.Formed.offer]

theorem State.Formed.coreSend {s : State} (h : s.Formed) : s.coreSend.Formed := by
  unfold State.coreSend
  grind only [State.Formed, State.Formed.foldl, State.Formed.foldlFst, State.Formed.corePump]

theorem State.Formed.fecSeen {s : State} (h : s.Formed) (q f) : (s.fecSeen q f).Formed := by
  unfold State.fecSeen
  grind only [State.Formed.foldl, State.Formed.foldlFst, State.Formed.inc, State.Formed.event, State.Formed.updPort]

theorem State.Formed.pauseFor {s : State} (h : s.Formed) (q p n) : (s.pauseFor q p n).Formed := by
  unfold State.pauseFor
  grind only [State.Formed.inc, State.Formed.updPrio]

theorem State.Formed.discardHeld {s : State} (h : s.Formed) (q) : (s.discardHeld q).Formed := by
  unfold State.discardHeld
  grind only [State.Formed.inc, State.Formed.updPort]

theorem State.Formed.holdPort {s : State} (h : s.Formed) (q) : (s.holdPort q).Formed := by
  unfold State.holdPort
  grind only [State.Formed.updPort, State.Formed.discardHeld]

theorem State.Formed.silencePorts {s : State} (h : s.Formed) : s.silencePorts.Formed := by
  unfold State.silencePorts
  grind only [State.Formed.foldl, State.Formed.foldlFst, State.Formed.updPort, State.Formed.holdPort]

theorem State.Formed.cutFrame {s : State} (h : s.Formed) (q) : (s.cutFrame q).Formed := by
  unfold State.cutFrame
  grind only [State.Formed.inc, State.Formed.updPort]

theorem State.Formed.clearPauses {s : State} (h : s.Formed) (q) : (s.clearPauses q).Formed := by
  unfold State.clearPauses
  grind only [State.Formed.foldl, State.Formed.foldlFst, State.Formed.event, State.Formed.updPrio]

theorem State.Formed.lpiOff {s : State} (h : s.Formed) (q) : (s.lpiOff q).Formed := by
  unfold State.lpiOff
  grind only [State.Formed.inc, State.Formed.updPort]

theorem State.Formed.linkFalls {s : State} (h : s.Formed) (q) : (s.linkFalls q).Formed := by
  unfold State.linkFalls
  grind only [State.Formed.inc, State.Formed.event, State.Formed.updPort, State.Formed.holdPort, State.Formed.clearPauses,
    State.Formed.lpiOff]

theorem State.Formed.retrain {s : State} (h : s.Formed) (q mode medium) : (s.retrain q mode medium).Formed := by
  unfold State.retrain
  grind only [State.Formed.updPort, State.Formed.cutFrame, State.Formed.clearPauses, State.Formed.linkFalls]

/-! `Machine/Storage.lean` -/

theorem State.Formed.updPair {s : State} (h : s.Formed) (c g) : (s.updPair c g).Formed := h

theorem State.Formed.nvmPlaced {s : State} (h : s.Formed) (c off d) : (s.nvmPlaced c off d).Formed := by
  unfold State.nvmPlaced
  grind only [State.Formed.updPair]

theorem State.Formed.nvmStarted {s : State} (h : s.Formed) (c m) : (s.nvmStarted c m).Formed := by
  unfold State.nvmStarted
  grind only [State.Formed.updPair]

theorem State.Formed.nvmEnded {s : State} (h : s.Formed) (c m status) : (s.nvmEnded c m status).Formed := by
  unfold State.nvmEnded
  grind only [State.Formed.updPair]

/-! `Machine/Conn.lean` -/

theorem State.Formed.updConn {s : State} (h : s.Formed) (c g) : (s.updConn c g).Formed := h

theorem State.Formed.updPsl {s : State} (h : s.Formed) (g) : (s.updPsl g).Formed := h

theorem State.Formed.cachePut {s : State} (h : s.Formed) (k e) : (s.cachePut k e).Formed := by
  unfold State.cachePut
  grind only [State.Formed.updPsl]

theorem State.Formed.writeBack {s : State} (h : s.Formed) (c) : (s.writeBack c).Formed := by
  unfold State.writeBack
  grind only [State.Formed.memWrite, State.Formed.updConn]

theorem State.Formed.rateUpdate {s : State} (h : s.Formed) (c) : (s.rateUpdate c).Formed := by
  unfold State.rateUpdate
  grind only [State.Formed.inc, State.Formed.updConn]

theorem State.Formed.rateCatchUp {s : State} (h : s.Formed) (c) : (s.rateCatchUp c).Formed := by
  unfold State.rateCatchUp
  grind only [State.Formed.updConn, State.Formed.rateUpdate]

theorem State.Formed.cacheFill {s : State} (h : s.Formed) (c) : (s.cacheFill c).Formed := by
  unfold State.cacheFill
  grind only [State.Formed.inc, State.Formed.cachePut, State.Formed.writeBack, State.Formed.rateCatchUp]

theorem State.Formed.uncache {s : State} (h : s.Formed) (c) : (s.uncache c).Formed := by
  unfold State.uncache
  grind only [State.Formed.cachePut, State.Formed.writeBack]

theorem State.Formed.cacheHit {s : State} (h : s.Formed) (c) : (s.cacheHit c).Formed := by
  unfold State.cacheHit
  grind only [State.Formed.inc, State.Formed.updPsl]

theorem State.Formed.cacheMiss {s : State} (h : s.Formed) (c i) : (s.cacheMiss c i).Formed := by
  unfold State.cacheMiss
  grind only [State.Formed.inc, State.Formed.updPsl]

theorem State.Formed.neighbour {s : State} (h : s.Formed) (dev) : (s.neighbour dev).1.Formed := by
  unfold State.neighbour
  grind only [State.Formed, State.Formed.memRead]

theorem State.Formed.queuePkt {s : State} (h : s.Formed) (q sport prio fn conn dev mac op p first) :
    (s.queuePkt q sport prio fn conn dev mac op p first).1.Formed := by
  unfold State.queuePkt
  grind only [State.Formed.offer, State.Formed.neighbour]

theorem State.Formed.connPkt {s : State} (h : s.Formed) (c at_ op p first) : (s.connPkt c at_ op p first).1.Formed := by
  unfold State.connPkt
  grind only [State.Formed.queuePkt]

theorem State.Formed.sendCtl {s : State} (h : s.Formed) (c op payload) : (s.sendCtl c op payload).Formed := by
  unfold State.sendCtl
  grind only [State.Formed.connPkt]

theorem State.Formed.sendAck {s : State} (h : s.Formed) (c) : (s.sendAck c).Formed := by
  unfold State.sendAck
  grind only [State.Formed.updConn, State.Formed.connPkt]

theorem State.Formed.sendNak {s : State} (h : s.Formed) (c p code) : (s.sendNak c p code).Formed := by
  unfold State.sendNak
  grind only [State.Formed.inc, State.Formed.connPkt]

theorem State.Formed.jobEnd {s : State} (h : s.Formed) (q n status detail bytes) : (s.jobEnd q n status detail bytes).Formed := by
  unfold State.jobEnd
  grind only [State.Formed, State.Formed.jobDone]

theorem State.Formed.opEnd {s : State} (h : s.Formed) (src c id status detail bytes) : (s.opEnd src c id status detail bytes).Formed := by
  unfold State.opEnd
  grind only [State.Formed.updCtx, State.Formed.holdErr, State.Formed.jobEnd]

theorem State.Formed.msgEnd {s : State} (h : s.Formed) (c m status detail) : (s.msgEnd c m status detail).Formed := by
  unfold State.msgEnd
  grind only [State.Formed.nvmEnded, State.Formed.updConn, State.Formed.opEnd]

theorem State.Formed.flushConn {s : State} (h : s.Formed) (c status) : (s.flushConn c status).1.Formed := by
  unfold State.flushConn
  grind only [State.Formed.foldl, State.Formed.foldlFst, State.Formed.updConn, State.Formed.opEnd]

theorem State.Formed.flushQueued {s : State} (h : s.Formed) (c) : (s.flushQueued c).Formed := by
  unfold State.flushQueued
  grind only [State.Formed.foldl, State.Formed.foldlFst, State.Formed.updConn, State.Formed.opEnd]

theorem State.Formed.connOutcome {s : State} (h : s.Formed) (c outcome reason) : (s.connOutcome c outcome reason).Formed := by
  unfold State.connOutcome
  grind only [State.Formed.updConn, State.Formed.updPsl]

theorem State.Formed.openConn {s : State} (h : s.Formed) (c) : (s.openConn c).Formed := by
  unfold State.openConn
  grind only [State.Formed.updConn, State.Formed.connOutcome]

theorem State.Formed.freeConn {s : State} (h : s.Formed) (c) : (s.freeConn c).Formed := by
  unfold State.freeConn
  grind only [State.Formed.updConn, State.Formed.uncache]

theorem State.Formed.progressConn {s : State} (h : s.Formed) (c) : (s.progressConn c).Formed := by
  unfold State.progressConn
  grind only [State.Formed.updConn, State.Formed.sendCtl, State.Formed.freeConn]

theorem State.Formed.startClose {s : State} (h : s.Formed) (c own) : (s.startClose c own).Formed := by
  unfold State.startClose
  grind only [State.Formed.updConn, State.Formed.flushQueued, State.Formed.progressConn]

theorem State.Formed.forceClose {s : State} (h : s.Formed) (c) : (s.forceClose c).1.Formed := by
  unfold State.forceClose
  grind only [State.Formed.sendCtl, State.Formed.flushConn, State.Formed.connOutcome, State.Formed.freeConn]

theorem State.Formed.failConn {s : State} (h : s.Formed) (c) : (s.failConn c).Formed := by
  unfold State.failConn
  grind only [State.Formed.eventTo, State.Formed.updConn, State.Formed.flushConn]

theorem State.Formed.connStat {s : State} (h : s.Formed) (w outcome gen) : (s.connStat w outcome gen).Formed := by
  unfold State.connStat
  grind only [State.Formed.updPsl]

theorem State.Formed.sendReq {s : State} (h : s.Formed) (c) : (s.sendReq c).Formed := by
  unfold State.sendReq
  grind only [State.Formed.updConn, State.Formed.sendCtl]

theorem State.Formed.openCmd {s : State} (h : s.Formed) (w c) : (s.openCmd w c).Formed := by
  unfold State.openCmd
  grind only [State.Formed.inc, State.Formed.updConn, State.Formed.updPsl, State.Formed.cacheFill, State.Formed.connStat,
    State.Formed.sendReq]

theorem State.Formed.connCommand {s : State} (h : s.Formed) (w v) {t : State} : s.connCommand w v = some t → t.Formed := by
  unfold State.connCommand
  grind only [State.Formed.updPsl, State.Formed.startClose, State.Formed.forceClose, State.Formed.connStat, State.Formed.openCmd]

/-! `Machine/Replay.lean` -/

theorem State.Formed.updRep {s : State} (h : s.Formed) (r g) : (s.updRep r g).Formed := h

theorem State.Formed.nextOrdinal {s : State} (h : s.Formed) (r consumer) : (s.nextOrdinal r consumer).1.Formed := by
  unfold State.nextOrdinal
  grind only [State.Formed.updRep]

theorem State.Formed.traceWrite {s : State} (h : s.Formed) (r ty consumer src pl) : (s.traceWrite r ty consumer src pl).Formed := by
  unfold State.traceWrite
  grind only [State.Formed.memWrite, State.Formed.updRep, State.Formed.nextOrdinal]

theorem State.Formed.rpEnd {s : State} (h : s.Formed) (r reason) : (s.rpEnd r reason).Formed := by
  unfold State.rpEnd
  grind only [State.Formed.eventTo, State.Formed.updRep, State.Formed.traceWrite]

theorem State.Formed.record {s : State} (h : s.Formed) (r ty consumer src pl) : (s.record r ty consumer src pl).Formed := by
  unfold State.record
  grind only [State.Formed.traceWrite, State.Formed.rpEnd]

theorem State.Formed.diverge {s : State} (h : s.Formed) (r seq) : (s.diverge r seq).Formed := by
  unfold State.diverge
  grind only [State.Formed.foldl, State.Formed.foldlFst, State.Formed.eventTo, State.Formed.updCtx, State.Formed.rpEnd]

theorem State.Formed.replay {s : State} (h : s.Formed) (r ty consumer) : (s.replay r ty consumer).1.Formed := by
  unfold State.replay
  grind only [State.Formed.memWrite, State.Formed.updRep, State.Formed.diverge]

theorem State.Formed.updPwr {s : State} (h : s.Formed) (g) : (s.updPwr g).Formed := h

theorem State.Formed.pwrAudited {s : State} {g : State → State} (hg : (g s).Formed) : (s.pwrAudited g).Formed := by
  unfold State.pwrAudited
  grind only [State.Formed.auditDev]

theorem State.Formed.planChanged {s : State} (h : s.Formed) (was) : (s.planChanged was).Formed := by
  unfold State.planChanged
  grind only [State.Formed.foldl, State.Formed.foldlFst, State.Formed.inc, State.Formed.event, State.Formed.record]

theorem State.Formed.startPlan {s : State} (h : s.Formed) (r) : (s.startPlan r).Formed := by
  unfold State.startPlan
  grind only [State.Formed, State.Formed.updRep, State.Formed.updPwr, State.Formed.pwrAudited, State.Formed.planChanged]

theorem State.Formed.rpLaunch {s : State} (h : s.Formed) (k) : (s.rpLaunch k).Formed := by
  unfold State.rpLaunch
  grind only [State.Formed.updRep, State.Formed.record, State.Formed.startPlan]

/-! `Machine/Dma.lean` -/

theorem State.Formed.dmaAt {s : State} (h : s.Formed) (fn tag pa n wr) : (s.dmaAt fn tag pa n wr).1.Formed := by
  unfold State.dmaAt
  grind only [State.Formed.xltFault]

theorem State.Formed.hostPlace {s : State} (h : s.Formed) (e va wr) : (s.hostPlace e va wr).1.Formed := by
  unfold State.hostPlace
  grind only [State.Formed.xltFault]

theorem State.Formed.dmaPlaces {s : State} (h : s.Formed) (e n wr) : (s.dmaPlaces e n wr).1.Formed := by
  unfold State.dmaPlaces
  grind only [State.Formed.foldl, State.Formed.foldlFst, State.Formed.translateIn, State.Formed.dmaAt, State.Formed.hostPlace]

theorem State.Formed.memPBytes {s : State} (h : s.Formed) (rq off n) : (s.memPBytes rq off n).1.Formed := by
  unfold State.memPBytes
  grind only [State.Formed.foldl, State.Formed.foldlFst, State.Formed.readPieces, State.Formed.nocMem]

theorem State.Formed.dmaRead {s : State} (h : s.Formed) (ps ext) : (s.dmaRead ps ext).1.Formed := by
  unfold State.dmaRead
  grind only [State.Formed.foldl, State.Formed.foldlFst, State.Formed.memPBytes]

theorem State.Formed.putMem {s : State} (h : s.Formed) (rq off d fe) : (s.putMem rq off d fe).1.Formed := by
  unfold State.putMem
  grind only [State.Formed.foldl, State.Formed.foldlFst, State.Formed.nocMem, State.Formed.writePiece]

theorem State.Formed.tsPut {s : State} (h : s.Formed) (a d fe) : (s.tsPut a d fe).Formed := by
  unfold State.tsPut
  grind only [State.Formed.foldl, State.Formed.foldlFst, State.Formed.useNoc, State.Formed.tsPlace]

theorem State.Formed.dmaPut {s : State} (h : s.Formed) (p o d strict) : (s.dmaPut p o d strict).1.Formed := by
  unfold State.dmaPut
  grind only [State.Formed.foldl, State.Formed.foldlFst, State.Formed.inc, State.Formed.emit, State.Formed.putMem, State.Formed.tsPut]

theorem State.Formed.dmaWrite {s : State} (h : s.Formed) (ps d strict r) : (s.dmaWrite ps d strict r).1.Formed := by
  unfold State.dmaWrite
  grind only [State.Formed.foldl, State.Formed.foldlFst, State.Formed.dmaPut]

/-! `Machine/Memory.lean` -/

theorem State.Formed.disturbed {s : State} (h : s.Formed) (m lam ns) : (s.disturbed m lam ns).Formed := by
  unfold State.disturbed
  grind only [State.Formed.disturb]

theorem serveRead_formed {s : State} (h : s.Formed) (r off m lam ns) : (serveRead s r off m lam ns).Formed := by
  unfold serveRead
  grind only [State.Formed, State.Formed.emit, State.Formed.readPiece, State.Formed.disturbed]

theorem reportWrite_formed {s : State} (h : s.Formed) (r off m lam kind) : (reportWrite s r off m lam kind).Formed := by
  unfold reportWrite
  grind only [State.Formed, State.Formed.event, State.Formed.emit, State.Formed.holdErr]

theorem serveWrite_formed {s : State} (h : s.Formed) (r off m lam d poison) : (serveWrite s r off m lam d poison).Formed := by
  unfold serveWrite
  grind only [State.Formed, State.Formed.writePiece, reportWrite_formed]

theorem serveParts_formed {s : State} (h : s.Formed) (r off m lam parts ns) : (serveParts s r off m lam parts ns).Formed := by
  unfold serveParts
  grind only [State.Formed, State.Formed.writeParts, State.Formed.putWords, State.Formed.disturbed, reportWrite_formed]

theorem rebuildAdvance_formed {s : State} (h : s.Formed) (m) : (rebuildAdvance s m).Formed := by
  unfold rebuildAdvance
  grind only [State.Formed, State.Formed.event, State.Formed.updStack, State.Formed.auditDev]

theorem serveScrub_formed {s : State} (h : s.Formed) (m lam ns) : (serveScrub s m lam ns).Formed := by
  unfold serveScrub
  grind only [State.Formed, State.Formed.inc, State.Formed.updStack, State.Formed.readAny, State.Formed.disturbed]

theorem serveRebuild_formed {s : State} (h : s.Formed) (m lam ns) : (serveRebuild s m lam ns).Formed := by
  unfold serveRebuild
  grind only [State.Formed, State.Formed.storeData, State.Formed.disturb, State.Formed.readAny, rebuildAdvance_formed]

theorem serveHeld_formed {s : State} (h : s.Formed) (c) : (serveHeld s c).Formed := by
  unfold serveHeld
  grind only [State.Formed, serveRead_formed, serveWrite_formed, serveParts_formed, serveScrub_formed, serveRebuild_formed]

theorem orHold_formed {s : State} (h : s.Formed) (m lam c) : (orHold s m lam c).Formed := by
  unfold orHold
  grind only [State.Formed, State.Formed.updStack, serveHeld_formed]

theorem State.Formed.rewriteLine {s : State} (h : s.Formed) (m lam) : (s.rewriteLine m lam).Formed := by
  unfold State.rewriteLine
  grind only [State.Formed.storeData, State.Formed.readSideAt]

theorem retireDie_formed {s : State} (h : s.Formed) (m die cause) : (retireDie s m die cause).Formed := by
  unfold retireDie
  grind only [State.Formed, State.Formed.event, State.Formed.updStack, State.Formed.auditDev, State.Formed.healthRec]

theorem State.Formed.rawBytes {s : State} (h : s.Formed) (m lam) : (s.rawBytes m lam).1.Formed := by
  unfold State.rawBytes
  grind only [State.Formed, State.Formed.foldl, State.Formed.foldlFst, State.Formed.free]

theorem diagRead_formed {s : State} (h : s.Formed) : (diagRead s).Formed := by
  unfold diagRead
  grind only [State.Formed, State.Formed.foldl, State.Formed.foldlFst, State.Formed.setReg, State.Formed.rawBytes]

theorem diagWrite_formed {s : State} (h : s.Formed) : (diagWrite s).Formed := by
  unfold diagWrite
  grind only [State.Formed, State.Formed.initChunk, State.Formed.storeLine]

theorem diagCommand_formed {s : State} (h : s.Formed) (cmd) : (diagCommand s cmd).Formed := by
  unfold diagCommand
  grind only [State.Formed, diagRead_formed, diagWrite_formed]

/-! `Machine/Health.lean` -/

theorem State.Formed.scrimBook {s : State} (h : s.Formed) (t k kind slice) : (s.scrimBook t k kind slice).Formed := by
  unfold State.scrimBook
  grind only [State.Formed.inc, State.Formed.hlthEvent, State.Formed.book]

theorem State.Formed.scrimBookings {s : State} (h : s.Formed) (t k sc) : (s.scrimBookings t k sc).Formed := by
  unfold State.scrimBookings
  grind only [State.Formed.scrimBook]

theorem State.Formed.scrim {s : State} (h : s.Formed) (k sc) : (s.scrim k sc).1.Formed := by
  unfold State.scrim
  grind only [State.Formed.updCtx, State.Formed.setCheck, State.Formed.scrimBookings]

theorem Run.formed_unlessPending {r : Run} (h : r.s.Formed) (sc : Scrim) {g : Run → Run} (hg : (g r).s.Formed) :
    (r.unlessPending sc g).s.Formed := by
  unfold Run.unlessPending
  grind only [Run.formed_upd, State.Formed.updCtx]

theorem State.Formed.dropRerun {s : State} (h : s.Formed) (k) : (s.dropRerun k).Formed := by
  unfold State.dropRerun
  grind only [State.Formed.updCtx, State.Formed.book]

theorem State.Formed.leaveCtx {s : State} (h : s.Formed) (k) : (s.leaveCtx k).Formed := by
  unfold State.leaveCtx
  grind only [State.Formed.updCtx, State.Formed.endWait]

theorem State.Formed.switchOut {s : State} (h : s.Formed) (e) : (s.switchOut e).Formed := by
  unfold State.switchOut
  grind only [State.Formed.foldl, State.Formed.foldlFst, State.Formed.updEng, State.Formed.leaveCtx]

theorem State.Formed.migrate {s : State} (h : s.Formed) (e t) : (s.migrate e t).Formed := by
  unfold State.migrate
  grind only [State.Formed, State.Formed.updEng, State.Formed.updTile, State.Formed.audited]

theorem State.Formed.dropCheck {s : State} (h : s.Formed) (why) : (s.dropCheck why).1.Formed := by
  unfold State.dropCheck
  grind only [State.Formed.abandonCheck]

theorem State.Formed.leaveTile {s : State} (h : s.Formed) (e must) : (s.leaveTile e must).Formed := by
  unfold State.leaveTile
  grind only [State.Formed.foldl, State.Formed.foldlFst, State.Formed.updCtx, State.Formed.updEng, State.Formed.hlthEvent,
    State.Formed.switchOut, State.Formed.migrate, State.Formed.dropCheck]

theorem State.Formed.migrated {s : State} (h : s.Formed) (e t) : (s.migrated e t).Formed := by
  unfold State.migrated
  grind only [State.Formed, State.Formed.foldl, State.Formed.foldlFst, State.Formed.event, State.Formed.updEng, State.Formed.updTile,
    State.Formed.audited, State.Formed.tsClear]

theorem State.Formed.cmdDone {s : State} (h : s.Formed) (kind i outcome) : (s.cmdDone kind i outcome).Formed := by
  unfold State.cmdDone
  grind only [State.Formed]

theorem hlthCommand_formed {s : State} (h : s.Formed) (v idleUnit) {t : State} : hlthCommand s v idleUnit = some t → t.Formed := by
  unfold hlthCommand
  grind only [State.Formed, State.Formed.inc, State.Formed.updTile, State.Formed.dueNow]

theorem State.Formed.stippleSample {s : State} (h : s.Formed) (k) : (s.stippleSample k).Formed := by
  unfold State.stippleSample
  grind only [State.Formed, State.Formed.inc, State.Formed.updTile]

theorem State.Formed.stipEvent {s : State} (h : s.Formed) (num c) : (s.stipEvent num c).Formed := by
  unfold State.stipEvent
  grind only [State.Formed.event, State.Formed.eventTo]

theorem State.Formed.stipUndecided {s : State} (h : s.Formed) (c) : (s.stipUndecided c).Formed := by
  unfold State.stipUndecided
  grind only [State.Formed.book, State.Formed.setCheck, State.Formed.stipEvent]

/-! `Machine/Launch.lean` -/

theorem State.Formed.clearRegion {s : State} (h : s.Formed) (k) : (s.clearRegion k).Formed := by
  unfold State.clearRegion
  grind only [State.Formed.tsClear]

theorem State.Formed.claimRegion {s : State} (h : s.Formed) (k) : (s.claimRegion k).Formed := by
  unfold State.claimRegion
  grind only [State.Formed.foldl, State.Formed.foldlFst, State.Formed.updEng, State.Formed.tsClear]

theorem State.Formed.submit {s : State} (h : s.Formed) (l fn) : (s.submit l fn).Formed := by
  unfold State.submit
  grind only [State.Formed, State.Formed.inc, State.Formed.updCtx, State.Formed.launchDone]

theorem State.Formed.unsched {s : State} (h : s.Formed) (k) : (s.unsched k).Formed := h

theorem State.Formed.holdNow {s : State} (h : s.Formed) (k) : (s.holdNow k).Formed := by
  unfold State.holdNow
  grind only [State.Formed.updCtx, State.Formed.leaveCtx]

theorem State.Formed.holdCtx {s : State} (h : s.Formed) (k) : (s.holdCtx k).Formed := by
  unfold State.holdCtx
  grind only [State.Formed.updCtx]

theorem State.Formed.releaseCtx {s : State} (h : s.Formed) (k) : (s.releaseCtx k).Formed := by
  unfold State.releaseCtx
  grind only [State.Formed.updCtx]

theorem State.Formed.flushCtx {s : State} (h : s.Formed) (k) : (s.flushCtx k).Formed := by
  unfold State.flushCtx
  grind only [State.Formed.updCtx, State.Formed.endWait, State.Formed.launchDone, State.Formed.clearRegion, State.Formed.unsched]

theorem State.Formed.startSlice {s : State} (h : s.Formed) (k) : (s.startSlice k).Formed := by
  unfold State.startSlice
  grind only [State.Formed.updCtx, State.Formed.stippleSample]

theorem State.Formed.overrunMark {s : State} (h : s.Formed) (e) : (s.overrunMark e).Formed := by
  unfold State.overrunMark
  grind only [State.Formed.inc, State.Formed.updCtx, State.Formed.updEng, State.Formed.engEvent]

theorem State.Formed.giveTo {s : State} (h : s.Formed) (e x) : (s.giveTo e x).Formed := by
  unfold State.giveTo
  grind only [State.Formed.updEng, State.Formed.leaveCtx]

theorem State.Formed.applyHolds {s : State} (h : s.Formed) (e) : (s.applyHolds e).Formed := by
  unfold State.applyHolds
  grind only [State.Formed.foldl, State.Formed.foldlFst, State.Formed.updEng, State.Formed.holdNow]

theorem State.Formed.dropLaunches {s : State} (h : s.Formed) (e) : (s.dropLaunches e).Formed := by
  unfold State.dropLaunches
  grind only [State.Formed.foldl, State.Formed.foldlFst, State.Formed.updCtx, State.Formed.launchDone, State.Formed.unsched]

theorem State.Formed.grant {s : State} (h : s.Formed) (e) : (s.grant e).Formed := by
  unfold State.grant
  grind only [State.Formed.updEng, State.Formed.switchOut, State.Formed.giveTo, State.Formed.applyHolds, State.Formed.dropLaunches]

theorem State.Formed.startParked {s : State} (h : s.Formed) (e) : (s.startParked e).Formed := by
  unfold State.startParked
  grind only [State.Formed.startSlice]

theorem State.Formed.startLaunch {s : State} (h : s.Formed) (k l) : (s.startLaunch k l).Formed := by
  unfold State.startLaunch
  grind only [State.Formed.inc, State.Formed.updCtx, State.Formed.rpLaunch, State.Formed.clearRegion, State.Formed.unsched,
    State.Formed.startSlice]

/-! `Machine/Mailbox.lean` -/

theorem State.Formed.updBox {s : State} (h : s.Formed) (b g) : (s.updBox b g).Formed := h

theorem mbxRec_formed {s : State} (h : s.Formed) (b fn peer what seq) : (mbxRec b fn peer what seq s).Formed := by
  unfold mbxRec
  grind only [State.Formed, State.Formed.notify]

theorem State.Formed.mbxSend {s : State} (h : s.Formed) (b control) : (s.mbxSend b control).Formed := by
  unfold State.mbxSend
  grind only [State.Formed.updBox]

theorem State.Formed.mbxMessage {s : State} (h : s.Formed) (b) : (s.mbxMessage b).1.Formed := by
  unfold State.mbxMessage
  grind only [State.Formed.tagged]

theorem State.Formed.mbxDeliver {s : State} (h : s.Formed) (b) : (s.mbxDeliver b).Formed := by
  unfold State.mbxDeliver
  grind only [State.Formed.event, State.Formed.verified, State.Formed.updBox, mbxRec_formed, State.Formed.mbxMessage]

theorem State.Formed.mbxAck {s : State} (h : s.Formed) (b) : (s.mbxAck b).Formed := by
  unfold State.mbxAck
  grind only [State.Formed.updBox, mbxRec_formed]

theorem State.Formed.mbxCancel {s : State} (h : s.Formed) (b) : (s.mbxCancel b).Formed := by
  unfold State.mbxCancel
  grind only [State.Formed.updBox]

/-! `Machine/Scalar.lean` -/

theorem Run.formed_ctx {r : Run} (h : r.s.Formed) (g) : (r.ctx g).s.Formed := by
  unfold Run.ctx
  grind only [State.Formed, State.Formed.updCtx, Run.formed_upd]

theorem State.Formed.flushAll {s : State} (h : s.Formed) (k) : (s.flushAll k).Formed := by
  unfold State.flushAll
  grind only [State.Formed.foldl, State.Formed.foldlFst, State.Formed.updCtx, State.Formed.postMsg]

theorem haltRun_formed {r : Run} (h : r.s.Formed) : (haltRun r).s.Formed := by
  unfold haltRun
  grind only [State.Formed, Run.formed_upd, Run.formed_ctx, State.Formed.flushAll]

theorem Run.formed_external {r : Run} (h : r.s.Formed) (ty consumer : Nat) {live : State → State × List Byte}
    (hlive : (live r.s).1.Formed) : (r.external ty consumer live).1.s.Formed := by
  unfold Run.external
  grind only [State.Formed.replay, State.Formed.record]

theorem plumbRdRun_formed {r : Run} (h : r.s.Formed) (f) : (plumbRdRun f r).s.Formed := by
  unfold plumbRdRun
  grind only [State.Formed, Run.formed_ctx, Run.formed_external]

theorem eventRun_formed {r : Run} (h : r.s.Formed) (f) : (eventRun f r).s.Formed := by
  unfold eventRun
  grind only [State.Formed, State.Formed.event, State.Formed.notify, Run.formed_upd, Run.formed_ctx]

theorem mbxTake_formed {s : State} (h : s.Formed) (b) : (mbxTake b s).1.Formed := by
  unfold mbxTake
  grind only [State.Formed, State.Formed.mbxAck]

theorem mbxRdRun_formed {r : Run} (h : r.s.Formed) (box f) : (mbxRdRun box f r).s.Formed := by
  unfold mbxRdRun
  grind only [State.Formed, State.Formed.foldl, State.Formed.foldlFst, Run.formed_foldl, Run.formed_foldlFst, Run.formed_write,
    Run.formed_ctx, Run.formed_external, mbxTake_formed]

theorem Run.formed_put {r : Run} (h : r.s.Formed) (off d) : (r.put off d).s.Formed := by
  unfold Run.put
  grind only [State.Formed, State.Formed.tsWrite, Run.formed_upd]

theorem feWaitRun_formed {r : Run} (h : r.s.Formed) (full f) : (feWaitRun full f r).s.Formed := by
  unfold feWaitRun
  grind only [State.Formed, Run.formed_fail, State.Formed.feRanges, State.Formed.feBlock, State.Formed.startWait]

theorem feSetRun_formed {r : Run} (h : r.s.Formed) (v f) : (feSetRun v f r).s.Formed := by
  unfold feSetRun
  grind only [Run.formed_fail, State.Formed.feRanges, State.Formed.feMark]

theorem feTestRun_formed {r : Run} (h : r.s.Formed) (f) : (feTestRun f r).s.Formed := by
  unfold feTestRun
  grind only [State.Formed, Run.formed_fail, State.Formed.feRanges, State.Formed.feBlock, Run.formed_ctx]

theorem State.Formed.takeHeld {s : State} (h : s.Formed) (k scope) : (s.takeHeld k scope).1.Formed := by
  unfold State.takeHeld
  grind only [State.Formed.updCtx, State.Formed.engEvent]

theorem fenceRun_formed {r : Run} (h : r.s.Formed) (f) : (fenceRun f r).s.Formed := by
  unfold fenceRun
  grind only [State.Formed, Run.formed_fail, Run.formed_upd, Run.formed_ctx, State.Formed.flushAll, State.Formed.takeHeld]

/-! `Machine/Move.lean` -/

theorem Run.formed_clearSrcs {r : Run} (h : r.s.Formed) (i) : (r.clearSrcs i).s.Formed := by
  unfold Run.clearSrcs
  grind only [Run.formed_feClear]

theorem Run.formed_putRows {r : Run} (h : r.s.Formed) (d rows) : (r.putRows d rows).s.Formed := by
  unfold Run.putRows
  grind only [State.Formed.foldl, State.Formed.foldlFst, Run.formed_foldl, Run.formed_foldlFst, Run.formed_putRow]

theorem Run.formed_copy {r : Run} (h : r.s.Formed) (srcSpace src dstSpace dst n fe) :
    (r.copy srcSpace src dstSpace dst n fe).s.Formed := by
  unfold Run.copy
  grind only [Run.formed_read, Run.formed_write]

theorem Run.formed_copyParts {r : Run} (h : r.s.Formed) (srcSpace src dstSpace dst n fe) :
    (r.copyParts srcSpace src dstSpace dst n fe).s.Formed := by
  unfold Run.copyParts
  grind only [State.Formed.foldl, State.Formed.foldlFst, Run.formed_foldl, Run.formed_foldlFst, Run.formed_copy]

theorem Run.formed_copyRow {r : Run} (h : r.s.Formed) (a i d j) : (r.copyRow a i d j).s.Formed := by
  unfold Run.copyRow
  grind only [Run.formed_copyParts]

theorem movSparse_formed {r : Run} (h : r.s.Formed) (a d) : (movSparse a d r).s.Formed := by
  unfold movSparse
  grind only [State.Formed, State.Formed.foldl, State.Formed.foldlFst, Run.formed_foldl, Run.formed_foldlFst, Run.formed_read,
    Run.formed_write, Run.formed_row, Run.formed_rowsOf, Run.formed_clearSrcs, Run.formed_putRows]

theorem movRun_formed {r : Run} (h : r.s.Formed) (f) : (movRun f r).s.Formed := by
  unfold movRun
  grind only [State.Formed.foldl, State.Formed.foldlFst, Run.formed_foldl, Run.formed_foldlFst, Run.formed_clearSrcs, Run.formed_copyRow,
    movSparse_formed]

theorem fillRun_formed {r : Run} (h : r.s.Formed) (f) : (fillRun f r).s.Formed := by
  unfold fillRun
  grind only [Run.formed_putRows]

theorem Run.formed_indexes {r : Run} (h : r.s.Formed) (b) : (r.indexes b).1.s.Formed := by
  unfold Run.indexes
  grind only [Run.formed_codes]

theorem gatherRun_formed {r : Run} (h : r.s.Formed) (f) : (gatherRun f r).s.Formed := by
  unfold gatherRun
  grind only [State.Formed.foldl, State.Formed.foldlFst, Run.formed_foldl, Run.formed_foldlFst, Run.formed_flag, Run.formed_putRow,
    Run.formed_clearSrcs, Run.formed_copyRow, Run.formed_indexes]

theorem scatterRun_formed {r : Run} (h : r.s.Formed) (f) : (scatterRun f r).s.Formed := by
  unfold scatterRun
  grind only [State.Formed.foldl, State.Formed.foldlFst, Run.formed_foldl, Run.formed_foldlFst, Run.formed_flag, Run.formed_clearSrcs,
    Run.formed_copyRow, Run.formed_indexes]

theorem scatterAddRun_formed {r : Run} (h : r.s.Formed) (f) : (scatterAddRun f r).s.Formed := by
  unfold scatterAddRun
  grind only [State.Formed, State.Formed.foldl, State.Formed.foldlFst, Run.formed_foldl, Run.formed_foldlFst, Run.formed_flag,
    Run.formed_codes, Run.formed_rowsOf, Run.formed_clearSrcs, Run.formed_putRows, Run.formed_indexes]

theorem compactRun_formed {r : Run} (h : r.s.Formed) (f) : (compactRun f r).s.Formed := by
  unfold compactRun
  grind only [State.Formed.foldl, State.Formed.foldlFst, Run.formed_foldl, Run.formed_foldlFst, Run.formed_ctx, Run.formed_clearSrcs,
    Run.formed_copyRow, Run.formed_indexes]

/-! `Machine/Matrix.lean` -/

theorem Run.formed_segment {r : Run} (h : r.s.Formed) (d at_ n) : (r.segment d at_ n).1.s.Formed := by
  unfold Run.segment
  grind only [Run.formed_bytes]

theorem Run.formed_blockRow {r : Run} (h : r.s.Formed) (d present i) : (r.blockRow d present i).1.s.Formed := by
  unfold Run.blockRow
  grind only [State.Formed.foldl, State.Formed.foldlFst, Run.formed_foldl, Run.formed_foldlFst, Run.formed_segment]

theorem Run.formed_matRow {r : Run} (h : r.s.Formed) (d present i) : (r.matRow d present i).1.s.Formed := by
  unfold Run.matRow
  grind only [Run.formed_flag, Run.formed_row, Run.formed_codes, Run.formed_blockRow]

theorem Run.formed_presence {r : Run} (h : r.s.Formed) (d) : (r.presence d).1.s.Formed := by
  unfold Run.presence
  grind only [State.Formed, Run.formed_row, Run.formed_rowsOf]

theorem Run.formed_mat {r : Run} (h : r.s.Formed) (d) : (r.mat d).1.s.Formed := by
  unfold Run.mat
  grind only [State.Formed, Run.formed_scales, Run.formed_rowsOf, Run.formed_matRow, Run.formed_presence]

theorem Run.formed_scrimCount {r : Run} (h : r.s.Formed) (tiles) : (r.scrimCount tiles).s.Formed := by
  unfold Run.scrimCount
  grind only [State.Formed, State.Formed.foldl, State.Formed.foldlFst, Run.formed_foldl, Run.formed_foldlFst, State.Formed.inc,
    Run.formed_upd]

theorem mmaRun_formed {r : Run} (h : r.s.Formed) (f sc) : (mmaRun f sc r).s.Formed := by
  unfold mmaRun
  grind only [State.Formed, Run.formed_flag, State.Formed.scrim, Run.formed_unlessPending, Run.formed_ctx, Run.formed_clearSrcs,
    Run.formed_mat, Run.formed_scrimCount]

theorem Run.formed_putBlocks {r : Run} (h : r.s.Formed) (d rows present) : (r.putBlocks d rows present).s.Formed := by
  unfold Run.putBlocks
  grind only [State.Formed.foldl, State.Formed.foldlFst, Run.formed_foldl, Run.formed_foldlFst, Run.formed_write, Run.formed_putCodes,
    Run.formed_putRows]

theorem Run.formed_putMat {r : Run} (h : r.s.Formed) (d rows) : (r.putMat d rows).s.Formed := by
  unfold Run.putMat
  grind only [Run.formed_putBlocks]

theorem Run.formed_oldRows {r : Run} (h : r.s.Formed) (d) : (r.oldRows d).1.s.Formed := by
  unfold Run.oldRows
  grind only [State.Formed.foldl, State.Formed.foldlFst, Run.formed_foldl, Run.formed_foldlFst, Run.formed_flag, Run.formed_mat]

theorem Run.formed_poisonTile {r : Run} (h : r.s.Formed) (d t) : (r.poisonTile d t).s.Formed := by
  unfold Run.poisonTile
  grind only [State.Formed, State.Formed.foldl, State.Formed.foldlFst, Run.formed_foldl, Run.formed_foldlFst, Run.formed_upd]

theorem Run.formed_putProduct {r : Run} (h : r.s.Formed) (d p sc) : (r.putProduct d p sc).s.Formed := by
  unfold Run.putProduct
  grind only [Run.formed_flag, Run.formed_rounded, Run.formed_putScales, State.Formed.scrim, Run.formed_scrimCount, Run.formed_putMat,
    Run.formed_poisonTile]

theorem mmatRun_formed {r : Run} (h : r.s.Formed) (f sc) : (mmatRun f sc r).s.Formed := by
  unfold mmatRun
  grind only [State.Formed, Run.formed_unlessPending, Run.formed_ctx, Run.formed_clearSrcs, Run.formed_mat, Run.formed_oldRows,
    Run.formed_putProduct]

theorem accZeroRun_formed {r : Run} (h : r.s.Formed) (f) : (accZeroRun f r).s.Formed := by
  unfold accZeroRun
  grind only [Run.formed_ctx]

theorem accStRun_formed {r : Run} (h : r.s.Formed) (f) : (accStRun f r).s.Formed := by
  unfold accStRun
  grind only [Run.formed_putVals]

theorem accLdRun_formed {r : Run} (h : r.s.Formed) (f) : (accLdRun f r).s.Formed := by
  unfold accLdRun
  grind only [State.Formed, Run.formed_codes, Run.formed_rowsOf, Run.formed_ctx, Run.formed_clearSrcs]

/-! `Machine/Group.lean` -/

theorem State.Formed.updGrp {s : State} (h : s.Formed) (n g) : (s.updGrp n g).Formed := h

theorem State.Formed.markWord {s : State} (h : s.Formed) (g r off full) : (s.markWord g r off full).Formed := by
  unfold State.markWord
  grind only [State.Formed.tsMark]

theorem State.Formed.putWin {s : State} (h : s.Formed) (g r off d fe poison) : (s.putWin g r off d fe poison).Formed := by
  unfold State.putWin
  grind only [State.Formed.mirrorIn, State.Formed.tsWrite]

theorem State.Formed.readTable {s : State} (h : s.Formed) (size k off pkey) : (s.readTable size k off pkey).1.Formed := by
  unfold State.readTable
  grind only [State.Formed.memRead]

theorem State.Formed.groupCommit {s : State} (h : s.Formed) (n o) : (s.groupCommit n o).Formed := by
  unfold State.groupCommit
  grind only [State.Formed.foldl, State.Formed.foldlFst, State.Formed.setReg, State.Formed.event, State.Formed.audit, State.Formed.updGrp,
    State.Formed.markWord, State.Formed.readTable]

theorem State.Formed.updColl {s : State} (h : s.Formed) (k h') : (s.updColl k h').Formed := by
  unfold State.updColl
  grind only [State.Formed.updCtx]

theorem State.Formed.progress {s : State} (h : s.Formed) (n r) : (s.progress n r).Formed := by
  unfold State.progress
  grind only [State.Formed.updColl]

theorem State.Formed.signalled {s : State} (h : s.Formed) (a n) : (s.signalled a n).Formed := by
  unfold State.signalled
  grind only [State.Formed.foldl, State.Formed.foldlFst, State.Formed.updColl]

theorem State.Formed.edge {s : State} (h : s.Formed) (k g dest fl ws bad) : (s.edge k g dest fl ws bad).1.Formed := by
  unfold State.edge
  grind only [State.Formed, State.Formed.foldl, State.Formed.foldlFst, State.Formed.updCtx, State.Formed.updMirror, State.Formed.holdErr,
    State.Formed.postMsg, State.Formed.updColl]

theorem State.Formed.giveCredit {s : State} (h : s.Formed) (k g n child b) : (s.giveCredit k g n child b).Formed := by
  unfold State.giveCredit
  grind only [State.Formed, State.Formed.free, State.Formed.markWord, State.Formed.progress, State.Formed.edge]

theorem State.Formed.schEvent {s : State} (h : s.Formed) (n num p0 p1 p2 p3) : (s.schEvent n num p0 p1 p2 p3).Formed := by
  unfold State.schEvent
  grind only [State.Formed.eventTo]

theorem State.Formed.abandon {s : State} (h : s.Formed) (k n rank root seq code from_) :
    (s.abandon k n rank root seq code from_).Formed := by
  unfold State.abandon
  grind only [State.Formed.foldl, State.Formed.foldlFst, State.Formed.edge]

theorem State.Formed.dropChunks {s : State} (h : s.Formed) (k n rank root seq) : (s.dropChunks k n rank root seq).Formed := by
  unfold State.dropChunks
  grind only [State.Formed.foldl, State.Formed.foldlFst, State.Formed.markWord, State.Formed.giveCredit]

theorem State.Formed.collAbort {s : State} (h : s.Formed) (k code cancelled from_) : (s.collAbort k code cancelled from_).Formed := by
  unfold State.collAbort
  grind only [State.Formed.updCtx, State.Formed.failCtx, State.Formed.updGrp, State.Formed.schEvent, State.Formed.abandon,
    State.Formed.dropChunks]

theorem State.Formed.collFailIssue {s : State} (h : s.Formed) (k f code) : (s.collFailIssue k f code).Formed := by
  unfold State.collFailIssue
  grind only [State.Formed.updGrp, State.Formed.schEvent, State.Formed.abandon, State.Formed.dropChunks]

theorem State.Formed.cancelGroup {s : State} (h : s.Formed) (n) : (s.cancelGroup n).Formed := by
  unfold State.cancelGroup
  grind only [State.Formed.foldl, State.Formed.foldlFst, State.Formed.collAbort]

theorem State.Formed.maskInstances {s : State} (h : s.Formed) (fn) : (s.maskInstances fn).Formed := by
  unfold State.maskInstances
  grind only [State.Formed.foldl, State.Formed.foldlFst, State.Formed.collAbort]

/-! `Machine/Vector.lean` -/

theorem Run.formed_allCodes {r : Run} (h : r.s.Formed) (d) : (r.allCodes d).1.s.Formed := by
  unfold Run.allCodes
  grind only [State.Formed, Run.formed_codes, Run.formed_rowsOf]

theorem Run.formed_putFlagged {r : Run} (h : r.s.Formed) (d rows) : (r.putFlagged d rows).s.Formed := by
  unfold Run.putFlagged
  grind only [State.Formed.foldl, State.Formed.foldlFst, Run.formed_foldl, Run.formed_foldlFst, Run.formed_flag, Run.formed_putCodes]

theorem twoRun_formed {r : Run} (h : r.s.Formed) (op code f) : (twoRun op code f r).s.Formed := by
  unfold twoRun
  grind only [Run.formed_flag, Run.formed_clearSrcs, Run.formed_allCodes, Run.formed_putFlagged]

theorem fmaRun_formed {r : Run} (h : r.s.Formed) (f) : (fmaRun f r).s.Formed := by
  unfold fmaRun
  grind only [Run.formed_clearSrcs, Run.formed_allCodes, Run.formed_putFlagged]

theorem cmpRun_formed {r : Run} (h : r.s.Formed) (f) : (cmpRun f r).s.Formed := by
  unfold cmpRun
  grind only [Run.formed_putCodes, Run.formed_clearSrcs, Run.formed_allCodes]

theorem selRun_formed {r : Run} (h : r.s.Formed) (f) : (selRun f r).s.Formed := by
  unfold selRun
  grind only [Run.formed_putCodes, Run.formed_clearSrcs, Run.formed_allCodes]

theorem fnRun_formed {r : Run} (h : r.s.Formed) (f) : (fnRun f r).s.Formed := by
  unfold fnRun
  grind only [Run.formed_clearSrcs, Run.formed_allCodes, Run.formed_putFlagged]

theorem cvtRun_formed {r : Run} (h : r.s.Formed) (i f) : (cvtRun i f r).s.Formed := by
  unfold cvtRun
  grind only [State.Formed, Run.formed_deq, Run.formed_rowsOf, Run.formed_putCodes, Run.formed_rounded, Run.formed_putScales,
    Run.formed_clearSrcs]

theorem redRun_formed {r : Run} (h : r.s.Formed) (f) : (redRun f r).s.Formed := by
  unfold redRun
  grind only [Run.formed_clearSrcs, Run.formed_allCodes, Run.formed_putFlagged]

theorem topkRun_formed {r : Run} (h : r.s.Formed) (f) : (topkRun f r).s.Formed := by
  unfold topkRun
  grind only [Run.formed_putCodes, Run.formed_clearSrcs, Run.formed_allCodes]

/-! `Machine/Collective.lean` -/

theorem State.Formed.poisonLines {s : State} (h : s.Formed) (a n) : (s.poisonLines a n).Formed := by
  unfold State.poisonLines
  grind only [State.Formed, State.Formed.foldl, State.Formed.foldlFst]

theorem State.Formed.streamWrite {s : State} (h : s.Formed) (k d o data bad) : (s.streamWrite k d o data bad).Formed := by
  unfold State.streamWrite
  grind only [State.Formed.foldl, State.Formed.foldlFst, State.Formed.tsWrite, State.Formed.poisonLines]

theorem State.Formed.collCheck {s : State} (h : s.Formed) (k) : (s.collCheck k).Formed := by
  unfold State.collCheck
  grind only [State.Formed.collAbort]

theorem Run.formed_collBegin {r : Run} (h : r.s.Formed) (op total atRoot) : (r.collBegin op total atRoot).s.Formed := by
  unfold Run.collBegin
  grind only [State.Formed.updCtx, State.Formed.updGrp, State.Formed.markWord, State.Formed.edge, State.Formed.collCheck]

theorem reduceRun_formed {r : Run} (h : r.s.Formed) (f) : (reduceRun f r).s.Formed := by
  unfold reduceRun
  grind only [Run.formed_clearSrcs, Run.formed_allCodes, Run.formed_putFlagged, Run.formed_collBegin]

theorem mmaReduceRun_formed {r : Run} (h : r.s.Formed) (f sc) : (mmaReduceRun f sc r).s.Formed := by
  unfold mmaReduceRun
  grind only [State.Formed, Run.formed_unlessPending, Run.formed_ctx, Run.formed_clearSrcs, Run.formed_mat, Run.formed_putProduct,
    Run.formed_collBegin]

theorem lseRun_formed {r : Run} (h : r.s.Formed) (f) : (lseRun f r).s.Formed := by
  unfold lseRun
  grind only [Run.formed_putCodes, Run.formed_clearSrcs, Run.formed_allCodes, Run.formed_collBegin]

theorem Run.formed_rootCopy {r : Run} (h : r.s.Formed) (a d) : (r.rootCopy a d).s.Formed := by
  unfold Run.rootCopy
  grind only [State.Formed.streamWrite]

theorem bcastRun_formed {r : Run} (h : r.s.Formed) (root f) : (bcastRun root f r).s.Formed := by
  unfold bcastRun
  grind only [Run.formed_feClear, Run.formed_collBegin, Run.formed_rootCopy]

theorem bcastMmaRun_formed {r : Run} (h : r.s.Formed) (root f) : (bcastMmaRun root f r).s.Formed := by
  unfold bcastMmaRun
  grind only [Run.formed_feClear, Run.formed_collBegin, Run.formed_rootCopy]

theorem State.Formed.takeFlight {s : State} (h : s.Formed) (want) {t : State} : s.takeFlight want = some t → t.Formed := by
  unfold State.takeFlight
  grind only [State.Formed]

theorem State.Formed.arrive {s : State} (h : s.Formed) (n r src want) {t : State} : s.arrive n r src want = some t → t.Formed := by
  unfold State.arrive
  grind only [State.Formed.takeFlight]

theorem State.Formed.arrived {s : State} (h : s.Formed) (n r size : Nat) (i : Instr) {go : State → State} (hgo : (go s).Formed) :
    (s.arrived n r size i go).Formed := by
  unfold State.arrived
  grind only [State.Formed.holdInbound]

theorem State.Formed.placeChunk {s : State} (h : s.Formed) (n r j h' data bad) : (s.placeChunk n r j h' data bad).Formed := by
  unfold State.placeChunk
  grind only [State.Formed.foldl, State.Formed.foldlFst, State.Formed.putWin, State.Formed.updColl, State.Formed.giveCredit,
    State.Formed.collAbort, State.Formed.poisonLines]

theorem State.Formed.placeBcast {s : State} (h : s.Formed) (n r h' data bad) : (s.placeBcast n r h' data bad).Formed := by
  unfold State.placeBcast
  grind only [State.Formed.updMirror, State.Formed.putWin, State.Formed.updColl, State.Formed.collAbort, State.Formed.streamWrite]

theorem State.Formed.chunkIn {s : State} (h : s.Formed) (g r j h' data bad) : (s.chunkIn g r j h' data bad).Formed := by
  unfold State.chunkIn
  grind only [State.Formed.progress, State.Formed.placeChunk, State.Formed.placeBcast]

theorem State.Formed.readyIn {s : State} (h : s.Formed) (g r j seq) : (s.readyIn g r j seq).Formed := by
  unfold State.readyIn
  grind only [State.Formed.putWin, State.Formed.progress]

theorem State.Formed.abandonIn {s : State} (h : s.Formed) (g r src seq code) : (s.abandonIn g r src seq code).Formed := by
  unfold State.abandonIn
  grind only [State.Formed.putWin, State.Formed.collAbort]

theorem State.Formed.collFlags {s : State} (h : s.Formed) (k st poison) : (s.collFlags k st poison).Formed := by
  unfold State.collFlags
  grind only [State.Formed.updColl]

theorem State.Formed.combineDense {s : State} (h : s.Formed) (k c j) : (s.combineDense k c j).Formed := by
  unfold State.combineDense
  grind only [State.Formed.foldl, State.Formed.foldlFst, State.Formed.streamWrite, State.Formed.collFlags]

theorem State.Formed.keepChunk {s : State} (h : s.Formed) (k c j) : (s.keepChunk k c j).Formed := by
  unfold State.keepChunk
  grind only [State.Formed.updColl]

theorem State.Formed.streamPoison {s : State} (h : s.Formed) (k d ls) : (s.streamPoison k d ls).Formed := by
  unfold State.streamPoison
  grind only [State.Formed.foldl, State.Formed.foldlFst, State.Formed.poisonLines]

theorem State.Formed.combineRow {s : State} (h : s.Formed) (k c kids i) : (s.combineRow k c kids i).Formed := by
  unfold State.combineRow
  grind only [State.Formed.foldl, State.Formed.foldlFst, State.Formed.streamWrite, State.Formed.collFlags, State.Formed.streamPoison]

theorem State.Formed.combineBlocks {s : State} (h : s.Formed) (k c kids) : (s.combineBlocks k c kids).Formed := by
  unfold State.combineBlocks
  grind only [State.Formed.foldl, State.Formed.foldlFst, State.Formed.updColl, State.Formed.streamWrite, State.Formed.collFlags,
    State.Formed.streamPoison]

theorem State.Formed.keepOwn {s : State} (h : s.Formed) (k c) : (s.keepOwn k c).Formed := by
  unfold State.keepOwn
  grind only [State.Formed.updColl]

theorem State.Formed.restBlocks {s : State} (h : s.Formed) (k kids) : (s.restBlocks k kids).Formed := by
  unfold State.restBlocks
  grind only [State.Formed.foldl, State.Formed.foldlFst, State.Formed.updColl, State.Formed.combineBlocks]

theorem State.Formed.combineChunk {s : State} (h : s.Formed) (k c) : (s.combineChunk k c).Formed := by
  unfold State.combineChunk
  grind only [State.Formed.foldl, State.Formed.foldlFst, State.Formed.markWord, State.Formed.updColl, State.Formed.giveCredit,
    State.Formed.combineDense, State.Formed.keepChunk, State.Formed.combineRow, State.Formed.combineBlocks, State.Formed.keepOwn,
    State.Formed.restBlocks]

theorem State.Formed.forward {s : State} (h : s.Formed) (k c x) : (s.forward k c x).Formed := by
  unfold State.forward
  grind only [State.Formed.markWord, State.Formed.updColl, State.Formed.edge]

theorem State.Formed.broadcastLaunch {s : State} (h : s.Formed) (n d) : (s.broadcastLaunch n d).Formed := by
  unfold State.broadcastLaunch
  grind only [State.Formed.launchDone, State.Formed.submit]

theorem Run.formed_collFinal {r : Run} (h : r.s.Formed) (c sc) : (r.collFinal c sc).s.Formed := by
  unfold Run.collFinal
  grind only [State.Formed, Run.formed_upd, Run.formed_putCodes, Run.formed_rounded, Run.formed_putScales, Run.formed_putVals,
    State.Formed.feRanges, State.Formed.feMark, Run.formed_feClear, Run.formed_ctx, Run.formed_mat, Run.formed_putBlocks,
    Run.formed_oldRows, Run.formed_putProduct, Run.formed_allCodes, State.Formed.broadcastLaunch]

/-! `Machine/Expert.lean` -/

theorem State.Formed.updMoe {s : State} (h : s.Formed) (k h') : (s.updMoe k h').Formed := by
  unfold State.updMoe
  grind only [State.Formed.updCtx]

theorem State.Formed.updHub {s : State} (h : s.Formed) (h') : (s.updHub h').Formed := h

theorem State.Formed.segPlace {s : State} (h : s.Formed) (x : Seg) : (s.segPlace x).Formed := by
  have written (r : Run) (g : Nat → Nat) (d : Td) (b : Nat → List (Option Byte)) (hr : r.s.Formed) :
      ((List.range x.n).foldl (fun (r : Run) j => r.write d.space (g j) (b j) false) r).s.Formed :=
    Run.formed_foldl (fun r _ hr => Run.formed_write hr ..) _ hr
  unfold State.segPlace
  extract_lets k m size
  split
  · grind only [State.Formed.event, State.Formed.updMoe]
  · split
    · exact h
    · split
      · exact h
      · exact State.Formed.updMoe (written _ _ _ _ h) _ _

theorem State.Formed.segArrive {s : State} (h : s.Formed) (x) : (s.segArrive x).1.Formed := by
  unfold State.segArrive
  grind only [State.Formed.foldl, State.Formed.foldlFst, State.Formed.event, State.Formed.updHub, State.Formed.segPlace]

theorem State.Formed.segFresh {s : State} (h : s.Formed) (g dst inst combine) : (s.segFresh g dst inst combine).Formed := by
  unfold State.segFresh
  grind only [State.Formed.updHub]

theorem State.Formed.segRelease {s : State} (h : s.Formed) (k g dst inst combine) : (s.segRelease k g dst inst combine).Formed := by
  unfold State.segRelease
  grind only [State.Formed.foldl, State.Formed.foldlFst, State.Formed.updHub, State.Formed.segPlace]

theorem State.Formed.segSend {s : State} (h : s.Formed) (k g dst rowBytes fmt parts) :
    (s.segSend k g dst rowBytes fmt parts).1.Formed := by
  unfold State.segSend
  grind only [State.Formed.foldl, State.Formed.foldlFst, State.Formed.updCtx, State.Formed.holdErr, State.Formed.postMsg,
    State.Formed.updMoe, State.Formed.segArrive]

theorem Run.formed_rowsBad {r : Run} (h : r.s.Formed) (d) : (r.rowsBad d).1.s.Formed := by
  unfold Run.rowsBad
  grind only [State.Formed, Run.formed_row, Run.formed_rowsOf]

theorem dispatchRun_formed {r : Run} (h : r.s.Formed) (f) : (dispatchRun f r).s.Formed := by
  unfold dispatchRun
  grind only [State.Formed, State.Formed.foldl, State.Formed.foldlFst, Run.formed_foldl, Run.formed_foldlFst, State.Formed.updCtx,
    Run.formed_write, Run.formed_row, Run.formed_rowsOf, Run.formed_clearSrcs, Run.formed_allCodes, State.Formed.updMoe,
    State.Formed.updHub, State.Formed.segFresh, State.Formed.segRelease, State.Formed.segSend, Run.formed_rowsBad]

theorem State.Formed.moeEnd {s : State} (h : s.Formed) (k combine) : (s.moeEnd k combine).Formed := by
  unfold State.moeEnd
  grind only [State.Formed.updMoe, State.Formed.updHub]

theorem combineRun_formed {r : Run} (h : r.s.Formed) (f) : (combineRun f r).s.Formed := by
  unfold combineRun
  grind only [State.Formed, State.Formed.foldl, State.Formed.foldlFst, Run.formed_foldl, Run.formed_foldlFst, Run.formed_read,
    Run.formed_row, Run.formed_rowsOf, Run.formed_feClear, State.Formed.updMoe, State.Formed.segFresh, State.Formed.segRelease,
    State.Formed.segSend]

/-! `Machine/Deliver.lean` -/

theorem State.Formed.region {s : State} (h : s.Formed) (i) : (s.region i).1.Formed := by
  unfold State.region
  grind only [State.Formed.memRead, State.Formed.updPsl]

theorem State.Formed.takeIn {s : State} (h : s.Formed) (op p) : (s.takeIn op p).1.Formed := by
  unfold State.takeIn
  grind only [State.Formed.region]

theorem State.Formed.check8 {s : State} (h : s.Formed) (c op p) : (s.check8 c op p).1.Formed := by
  unfold State.check8
  grind only [State.Formed.takeIn]

theorem State.Formed.placeWrite {s : State} (h : s.Formed) (p owner) : (s.placeWrite p owner).1.Formed := by
  unfold State.placeWrite
  grind only [State.Formed.putMem, State.Formed.tsPut, State.Formed.signalled]

theorem State.Formed.placeRead {s : State} (h : s.Formed) (c p owner) : (s.placeRead c p owner).1.Formed := by
  unfold State.placeRead
  grind only [State.Formed.useNoc, State.Formed.postMsg, State.Formed.memPBytes]

theorem State.Formed.placeResp {s : State} (h : s.Formed) (c p) : (s.placeResp c p).Formed := by
  unfold State.placeResp
  grind only [State.Formed.updConn, State.Formed.opEnd, State.Formed.dmaPlaces, State.Formed.dmaWrite]

theorem State.Formed.placeDispatch {s : State} (h : s.Formed) (p) : (s.placeDispatch p).1.Formed := by
  unfold State.placeDispatch
  grind only [State.Formed.foldl, State.Formed.foldlFst, State.Formed.segArrive]

theorem State.Formed.domSend {s : State} (h : s.Formed) (g seq) : (s.domSend g seq).Formed := by
  unfold State.domSend
  grind only [State.Formed, State.Formed.foldl, State.Formed.foldlFst, State.Formed.event, State.Formed.postMsg]

theorem State.Formed.domCheck {s : State} (h : s.Formed) : s.domCheck.Formed := by
  unfold State.domCheck
  grind only [State.Formed.beginReset]

theorem State.Formed.placeDom {s : State} (h : s.Formed) (c p) : (s.placeDom c p).Formed := by
  unfold State.placeDom
  grind only [State.Formed.sendCtl, State.Formed.domSend, State.Formed.domCheck]

theorem State.Formed.placePkt {s : State} (h : s.Formed) (c op p entry) : (s.placePkt c op p entry).1.Formed := by
  unfold State.placePkt
  grind only [State.Formed.placeWrite, State.Formed.placeRead, State.Formed.placeResp, State.Formed.placeDispatch, State.Formed.placeDom]

theorem State.Formed.countCe {s : State} (h : s.Formed) (c p) : (s.countCe c p).Formed := by
  unfold State.countCe
  grind only [State.Formed.inc, State.Formed.updConn]

theorem State.Formed.pktPlaced {s : State} (h : s.Formed) (c op p code) : (s.pktPlaced c op p code).Formed := by
  unfold State.pktPlaced
  grind only [State.Formed.updConn, State.Formed.sendAck, State.Formed.sendNak, State.Formed.countCe]

theorem State.Formed.recordPkt {s : State} (h : s.Formed) (c op p) : (s.recordPkt c op p).Formed := by
  unfold State.recordPkt
  grind only [State.Formed.record]

theorem State.Formed.process {s : State} (h : s.Formed) (c op p entry) : (s.process c op p entry).Formed := by
  unfold State.process
  grind only [State.Formed.nvmPlaced, State.Formed.sendNak, State.Formed.progressConn, State.Formed.placePkt, State.Formed.pktPlaced,
    State.Formed.recordPkt]

theorem State.Formed.releaseHeld {s : State} (h : s.Formed) (c n : Nat) : (State.releaseHeld c n s).Formed := by
  induction n generalizing s with
  | zero => exact h
  | succ n ih =>
    unfold State.releaseHeld
    grind only [State.Formed.updConn, State.Formed.process]

theorem State.Formed.duplicate {s : State} (h : s.Formed) (c p) : (s.duplicate c p).Formed := by
  unfold State.duplicate
  grind only [State.Formed.inc, State.Formed.updConn, State.Formed.sendAck, State.Formed.countCe]

theorem State.Formed.holdFence {s : State} (h : s.Formed) (c i p entry) : (s.holdFence c i p entry).Formed := by
  unfold State.holdFence
  grind only [State.Formed.inc, State.Formed.updConn, State.Formed.sendNak]

theorem State.Formed.sequencedArrival {s : State} (h : s.Formed) (c : Nat) (i : Instr) (op : Nat) (p : Pkt) :
    (s.sequencedArrival c i op p).Formed := by
  have checked := h.check8 c op p
  unfold State.sequencedArrival
  generalize s.check8 c op p = q at checked ⊢
  obtain ⟨u, chk⟩ := q
  split
  · exact h.holdInbound ..
  · extract_lets x inWin here dup
    dsimp only
    generalize u.rpFn x.owner 2 = y, [0x01, 0x03, 0x05].contains op = z
    clear_value inWin dup
    have placed (code : Nat) : (State.releaseHeld c 4 (u.pktPlaced c op p code)).Formed := (checked.pktPlaced ..).releaseHeld ..
    have processed (entry : List Byte) : (State.releaseHeld c 4 (u.process c op p entry)).Formed := (checked.process ..).releaseHeld ..
    split
    · grind only [State.Formed.duplicate, State.Formed.inc, State.Formed.sendNak]
    · cases y <;> cases z <;> first | exact checked.updRep .. | grind only [State.Formed.holdFence]

theorem State.Formed.ackArrival {s : State} (h : s.Formed) (c : Nat) (p : Pkt) : (s.ackArrival c p).Formed := by
  have ended (l : List Msg) {u : State} (hu : u.Formed) :
      (l.foldl (fun s m => if m.kind = 1 then s else s.msgEnd c m 0 0) u).Formed :=
    State.Formed.foldl (fun s m hs => by
      split
      · exact hs
      · exact hs.msgEnd ..) l hu
  unfold State.ackArrival
  extract_lets x t moves n left gone
  clear_value moves n left gone
  refine State.Formed.progressConn (State.Formed.updConn ?_ _ _) _
  change (if _ then _ else _ : State).Formed
  split
  · exact h.updConn ..
  · exact State.Formed.updConn (ended _ (h.updConn ..)) _ _

theorem State.Formed.nakArrival {s : State} (h : s.Formed) (c p) : (s.nakArrival c p).Formed := by
  unfold State.nakArrival
  grind only [State.Formed.inc, State.Formed.nvmEnded, State.Formed.updConn, State.Formed.opEnd, State.Formed.msgEnd,
    State.Formed.progressConn]

theorem State.Formed.learn {s : State} (h : s.Formed) (c p) : (s.learn c p).Formed := by
  unfold State.learn
  grind only [State.Formed.updConn]

theorem State.Formed.reject {s : State} (h : s.Formed) (c p reason) : (s.reject c p reason).Formed := by
  unfold State.reject
  grind only [State.Formed.queuePkt]

theorem State.Formed.ctlArrival {s : State} (h : s.Formed) (c op p) : (s.ctlArrival c op p).Formed := by
  unfold State.ctlArrival
  grind only [State.Formed, State.Formed.updConn, State.Formed.updPsl, State.Formed.sendCtl, State.Formed.connOutcome,
    State.Formed.openConn, State.Formed.freeConn, State.Formed.progressConn, State.Formed.startClose, State.Formed.domCheck,
    State.Formed.ackArrival, State.Formed.nakArrival, State.Formed.learn]

theorem State.Formed.meetConn {s : State} (h : s.Formed) (c i op p) : (s.meetConn c i op p).Formed := by
  unfold State.meetConn
  grind only [State.Formed.drop, State.Formed.sendNak, State.Formed.openConn, State.Formed.check8, State.Formed.sequencedArrival,
    State.Formed.reject, State.Formed.ctlArrival]

theorem State.Formed.arriveConn {s : State} (h : s.Formed) (i op p) : (s.arriveConn i op p).Formed := by
  unfold State.arriveConn
  grind only [State.Formed.updStack, State.Formed.cacheHit, State.Formed.cacheMiss, State.Formed.meetConn]

theorem State.Formed.phisalArrive {s : State} (h : s.Formed) (i op p) : (s.phisalArrive i op p).Formed := by
  unfold State.phisalArrive
  grind only [State.Formed.arrival, State.Formed.coreDeliver, State.Formed.arriveConn]

/-! `Machine/Fabric.lean` -/

theorem State.Formed.updNoc {s : State} (h : s.Formed) (g) : (s.updNoc g).Formed := h

theorem State.Formed.planeSt {s : State} (h : s.Formed) (p v) : (s.planeSt p v).Formed := by
  unfold State.planeSt
  grind only [State.Formed.auditDev, State.Formed.updNoc]

theorem State.Formed.routerPlace {s : State} (h : s.Formed) (e x off fn d fence poison) :
    (s.routerPlace e x off fn d fence poison).Formed := by
  unfold State.routerPlace
  grind only [State.Formed.emit, State.Formed.tsPlace]

theorem State.Formed.releaseCmd {s : State} (h : s.Formed) (i) : (s.releaseCmd i).Formed := by
  unfold State.releaseCmd
  grind only [State.Formed.holdInbound, State.Formed.chunkIn, State.Formed.readyIn, State.Formed.abandonIn, State.Formed.arriveConn,
    State.Formed.routerPlace]

theorem State.Formed.releaseFenced {s : State} (h : s.Formed) : s.releaseFenced.Formed := by
  unfold State.releaseFenced
  grind only [State.Formed.foldl, State.Formed.foldlFst, State.Formed.updNoc, State.Formed.releaseCmd]

theorem State.Formed.fencedArrival {s : State} (h : s.Formed) (src dst p i) : (s.fencedArrival src dst p i).Formed := by
  unfold State.fencedArrival
  grind only [State.Formed.updNoc, State.Formed.releaseFenced]

theorem State.Formed.bounce {s : State} (h : s.Formed) (i) : (s.bounce i).Formed := by
  unfold State.bounce
  grind only [State.Formed.emit]

/-! `Machine/Shaper.lean` -/

theorem State.Formed.shpSet {s : State} (h : s.Formed) (j v) : (s.shpSet j v).Formed := by
  unfold State.shpSet
  grind only [State.Formed.setReg]

theorem State.Formed.shpCharge {s : State} (h : s.Formed) (j n k) : (s.shpCharge j n k).Formed := by
  unfold State.shpCharge
  grind only [State.Formed.shpSet]

theorem State.Formed.shpRefill {s : State} (h : s.Formed) (j) : (s.shpRefill j).Formed := by
  unfold State.shpRefill
  grind only [State.Formed.shpSet]

/-! `Machine/Send.lean` -/

theorem State.Formed.sendOne {s : State} (h : s.Formed) (c n m k retry) : (s.sendOne c n m k retry).1.Formed := by
  unfold State.sendOne
  grind only [State.Formed.updConn, State.Formed.connPkt]

theorem State.Formed.startMessage {s : State} (h : s.Formed) (c m seq) : (s.startMessage c m seq).Formed := by
  unfold State.startMessage
  grind only [State.Formed.nvmStarted, State.Formed.updConn]

theorem State.Formed.sendNext {s : State} (h : s.Formed) (c) {t : State} : s.sendNext c = some t → t.Formed := by
  unfold State.sendNext
  grind only [State.Formed.updConn, State.Formed.sendOne, State.Formed.startMessage]

theorem State.Formed.goBackN {s : State} (h : s.Formed) (c) : (s.goBackN c).Formed := by
  unfold State.goBackN
  grind only [State.Formed.inc, State.Formed.updConn, State.Formed.failConn]

theorem State.Formed.reorderAck {s : State} (h : s.Formed) (c) : (s.reorderAck c).Formed := by
  unfold State.reorderAck
  grind only [State.Formed.inc, State.Formed.updConn, State.Formed.sendAck]

theorem State.Formed.fillServe {s : State} (h : s.Formed) (c cmds) : (s.fillServe c cmds).Formed := by
  unfold State.fillServe
  grind only [State.Formed.foldl, State.Formed.foldlFst, State.Formed.meetConn]

theorem State.Formed.fillBad {s : State} (h : s.Formed) (c) : (s.fillBad c).Formed := by
  unfold State.fillBad
  grind only [State.Formed.inc, State.Formed.event, State.Formed.failConn]

theorem State.Formed.pacerRefill {s : State} (h : s.Formed) (c) : (s.pacerRefill c).Formed := by
  unfold State.pacerRefill
  grind only [State.Formed.updConn]

theorem State.Formed.connBoundary {s : State} (h : s.Formed) (c) : (s.connBoundary c).Formed := by
  unfold State.connBoundary
  grind only [State.Formed.updConn, State.Formed.rateUpdate, State.Formed.sendAck, State.Formed.pacerRefill]

theorem State.Formed.mrInvStart {s : State} (h : s.Formed) (i) : (s.mrInvStart i).Formed := by
  unfold State.mrInvStart
  grind only [State.Formed.updPsl]

theorem State.Formed.frameEnd {s : State} (h : s.Formed) (q) : (s.frameEnd q).Formed := by
  unfold State.frameEnd
  grind only [State.Formed.inc, State.Formed.emit, State.Formed.updPort, State.Formed.coreSend, State.Formed.msgEnd, State.Formed.domCheck]

theorem State.Formed.portsEnd {s : State} (h : s.Formed) : s.portsEnd.Formed := by
  unfold State.portsEnd
  grind only [State.Formed.foldl, State.Formed.foldlFst, State.Formed.frameEnd]

theorem State.Formed.sealPkt {s : State} (h : s.Formed) (q op p) : (s.sealPkt q op p).1.Formed := by
  unfold State.sealPkt
  grind only [State.Formed.updPsl]

theorem State.Formed.stamp {s : State} (h : s.Formed) (q t f) : (s.stamp q t f).1.Formed := by
  unfold State.stamp
  grind only [State.Formed, State.Formed.sealPkt]

theorem State.Formed.startFrame {s : State} (h : s.Formed) (q f) : (s.startFrame q f).Formed := by
  unfold State.startFrame
  grind only [State.Formed.updPort, State.Formed.frameEnd, State.Formed.stamp]

theorem State.Formed.chargeTx {s : State} (h : s.Formed) (q f n) : (s.chargeTx q f n).Formed := by
  unfold State.chargeTx
  grind only [State.Formed.updPort, State.Formed.updPrio, State.Formed.shpCharge]

theorem State.Formed.enterPrios {s : State} (h : s.Formed) (q heldOnly) : (s.enterPrios q heldOnly).Formed := by
  unfold State.enterPrios
  grind only [State.Formed.foldl, State.Formed.foldlFst, State.Formed.updPrio]

theorem State.Formed.nextFrame {s : State} (h : s.Formed) (q : Nat) {t : State} : s.nextFrame q = some t → t.Formed := by
  unfold State.nextFrame
  extract_lets x heldOnly u
  have entered : u.Formed := h.enterPrios ..
  split
  · rintro ⟨⟩; exact h.startFrame ..
  · split
    · rintro ⟨⟩; exact h.startFrame ..
    · split
      · rintro ⟨⟩
      · intro picked
        obtain ⟨f, -, rfl⟩ := Option.map_eq_some_iff.mp picked
        exact ((entered.chargeTx ..).startFrame ..).updPrio ..

/-! `Machine/Align.lean` -/

theorem State.Formed.updPlumb {s : State} (h : s.Formed) (g) : (s.updPlumb g).Formed := h

theorem State.Formed.updUp {s : State} (h : s.Formed) (i g) : (s.updUp i g).Formed := by
  unfold State.updUp
  grind only [State.Formed.updPlumb]

theorem State.Formed.alignTo {s : State} (h : s.Formed) (new) : (s.alignTo new).Formed := by
  unfold State.alignTo
  grind only [State.Formed.event, State.Formed.updPlumb]

theorem State.Formed.useUp {s : State} (h : s.Formed) (i) : (s.useUp i).Formed := by
  unfold State.useUp
  grind only [State.Formed.updPlumb]

theorem State.Formed.reselect {s : State} (h : s.Formed) (silent) : (s.reselect silent).Formed := by
  unfold State.reselect
  grind only [State.Formed.alignTo, State.Formed.useUp]

theorem State.Formed.stepTo {s : State} (h : s.Formed) (v) : (s.stepTo v).Formed := by
  unfold State.stepTo
  grind only [State.Formed.updPlumb]

theorem State.Formed.slew {s : State} (h : s.Formed) (off) : (s.slew off).Formed := by
  unfold State.slew
  grind only [State.Formed.updPlumb]

theorem State.Formed.align {s : State} (h : s.Formed) (off) : (s.align off).Formed := by
  unfold State.align
  grind only [State.Formed.updPlumb, State.Formed.alignTo, State.Formed.stepTo, State.Formed.slew]

theorem State.Formed.sendMark {s : State} (h : s.Formed) (q dev i seq) : (s.sendMark q dev i seq).Formed := by
  unfold State.sendMark
  grind only [State.Formed, State.Formed.free, State.Formed.neighbour, State.Formed.queuePkt]

theorem State.Formed.dropMark {s : State} (h : s.Formed) (q dev) : (s.dropMark q dev).Formed := by
  unfold State.dropMark
  grind only [State.Formed.inc, State.Formed.updPlumb]

theorem State.Formed.answerMark {s : State} (h : s.Formed) (p dev) : (s.answerMark p dev).Formed := by
  unfold State.answerMark
  grind only [State.Formed.queuePkt]

theorem State.Formed.takeAnswer {s : State} (h : s.Formed) (p i) : (s.takeAnswer p i).Formed := by
  unfold State.takeAnswer
  grind only [State.Formed.updPlumb, State.Formed.updUp, State.Formed.useUp, State.Formed.reselect, State.Formed.align]

/-! `Machine/Attn.lean` -/

theorem Run.formed_gather {r : Run} (h : r.s.Formed) (g all last) : (r.gather g all last).s.Formed := by
  unfold Run.gather
  grind only [State.Formed.foldl, State.Formed.foldlFst, Run.formed_foldl, Run.formed_foldlFst, Run.formed_write]

theorem attnHead_formed {r : Run} (h : r.s.Formed) (f qs sums badQ h') : (attnHead f qs sums badQ r h').s.Formed := by
  unfold attnHead
  grind only [State.Formed, State.Formed.foldl, State.Formed.foldlFst, Run.formed_foldl, Run.formed_foldlFst, Run.formed_flag,
    Run.formed_read, Run.formed_rowsOf, Run.formed_putRow, Run.formed_gather]

theorem attnRun_formed {r : Run} (h : r.s.Formed) (f) : (attnRun f r).s.Formed := by
  unfold attnRun
  grind only [State.Formed, State.Formed.foldl, State.Formed.foldlFst, Run.formed_foldl, Run.formed_foldlFst, Run.formed_codes,
    Run.formed_rowsOf, Run.formed_clearSrcs, attnHead_formed]

/-! `Machine/Blackbox.lean` -/

theorem State.Formed.updRecs {s : State} (h : s.Formed) (g) : (s.updRecs g).Formed := h

theorem State.Formed.freeze {s : State} (h : s.Formed) : s.freeze.Formed := by
  unfold State.freeze
  grind only [State.Formed.updRecs]

theorem State.Formed.unfreeze {s : State} (h : s.Formed) : s.unfreeze.Formed := by
  unfold State.unfreeze
  grind only [State.Formed.updRecs]

theorem State.Formed.audDrain {s : State} (h : s.Formed) (n) : (s.audDrain n).Formed := by
  unfold State.audDrain
  grind only [State.Formed.inc, State.Formed.useKey, State.Formed.updRecs]

theorem State.Formed.fillFirst {s : State} (h : s.Formed) (left) : (s.fillFirst left).1.Formed := by
  unfold State.fillFirst
  grind only [State.Formed.updRecs]

theorem State.Formed.flushDone {s : State} (h : s.Formed) : s.flushDone.Formed := by
  unfold State.flushDone
  grind only [State.Formed.inc, State.Formed.event, State.Formed.useKey, State.Formed.updRecs, State.Formed.audDrain,
    State.Formed.fillFirst]

/-! `Machine/Cluster.lean` -/

theorem State.Formed.updCores {s : State} (h : s.Formed) (g) : (s.updCores g).Formed := h

theorem State.Formed.ownLine {s : State} (h : s.Formed) (line ord) : (s.ownLine line ord).Formed := by
  unfold State.ownLine
  grind only [State.Formed.inc, State.Formed.updCores]

theorem State.Formed.dropLine {s : State} (h : s.Formed) (line) : (s.dropLine line).Formed := by
  unfold State.dropLine
  grind only [State.Formed.updCores]

theorem State.Formed.cacheUe {s : State} (h : s.Formed) : s.cacheUe.Formed := by
  unfold State.cacheUe
  grind only [State.Formed.inc, State.Formed.event]

theorem State.Formed.cacheErr {s : State} (h : s.Formed) (line err) : (s.cacheErr line err).1.Formed := by
  unfold State.cacheErr
  grind only [State.Formed.inc, State.Formed.memRead, State.Formed.writePiece, State.Formed.dropLine, State.Formed.cacheUe]

theorem State.Formed.coresOnline {s : State} (h : s.Formed) : s.coresOnline.Formed := by
  unfold State.coresOnline
  grind only [State.Formed.foldl, State.Formed.foldlFst, State.Formed.event, State.Formed.updCores]

theorem State.Formed.nbDrop {s : State} (h : s.Formed) (dev) : (s.nbDrop dev).Formed := by
  unfold State.nbDrop
  grind only [State.Formed.updCores]

/-! `Machine/Queue.lean` -/

theorem State.Formed.updWq {s : State} (h : s.Formed) (q g) : (s.updWq q g).Formed := h

theorem State.Formed.updFn {s : State} (h : s.Formed) (f g) : (s.updFn f g).Formed := h

theorem State.Formed.updEvq {s : State} (h : s.Formed) (q g) : (s.updEvq q g).Formed := h

theorem State.Formed.setFn {s : State} (h : s.Formed) (f st reason flushed) : (s.setFn f st reason flushed).Formed := by
  unfold State.setFn
  grind only [State.Formed.event, State.Formed.notify, State.Formed.auditDev, State.Formed.updFn]

theorem State.Formed.maskChecks {s : State} (h : s.Formed) (k) : (s.maskChecks k).Formed := by
  unfold State.maskChecks
  grind only [State.Formed.abandonCheck, State.Formed.dropRerun]

theorem State.Formed.quiesce {s : State} (h : s.Formed) (f) : (s.quiesce f).Formed := by
  unfold State.quiesce
  grind only [State.Formed.foldl, State.Formed.foldlFst, State.Formed.updRep, State.Formed.holdCtx, State.Formed.maskInstances,
    State.Formed.maskChecks]

theorem State.Formed.maskFn {s : State} (h : s.Formed) (f reason) : (s.maskFn f reason).Formed := by
  unfold State.maskFn
  grind only [State.Formed.setFn, State.Formed.quiesce]

theorem State.Formed.updArb {s : State} (h : s.Formed) (g) : (s.updArb g).Formed := h

theorem State.Formed.arbEnter {s : State} (h : s.Formed) : s.arbEnter.Formed := by
  unfold State.arbEnter
  grind only [State.Formed.foldl, State.Formed.foldlFst, State.Formed.updArb]

theorem State.Formed.issueNext {s : State} (h : s.Formed) (q) : (s.issueNext q).Formed := by
  unfold State.issueNext
  grind only [State.Formed.shpCharge, State.Formed.updWq]

theorem State.Formed.burst {s : State} (h : s.Formed) (q n : Nat) : (State.burst q n s).1.Formed := by
  induction n generalizing s with
  | zero => exact h
  | succ n ih =>
    unfold State.burst
    grind only [State.Formed.issueNext]

theorem State.Formed.grantIssue {s : State} (h : s.Formed) {t : State} : s.grantIssue = some t → t.Formed := by
  unfold State.grantIssue
  grind only [State.Formed, State.Formed.foldl, State.Formed.foldlFst, State.Formed.updArb, State.Formed.arbEnter, State.Formed.burst]

theorem State.Formed.ringWrite {s : State} (h : s.Formed) (w a d) : (s.ringWrite w a d).Formed := by
  unfold State.ringWrite
  grind only [State.Formed.emit, State.Formed.memWrite]

theorem State.Formed.complete {s : State} (h : s.Formed) (q j) : (s.complete q j).Formed := by
  unfold State.complete
  grind only [State.Formed.evqSend, State.Formed.updWq, State.Formed.ringWrite]

theorem State.Formed.drainStep {s : State} (h : s.Formed) (q) : (s.drainStep q).Formed := by
  unfold State.drainStep
  grind only [State.Formed.foldl, State.Formed.foldlFst, State.Formed.jobDone, State.Formed.updWq]

theorem State.Formed.closeAll {s : State} (h : s.Formed) (f) : (s.closeAll f).1.Formed := by
  unfold State.closeAll
  grind only [State.Formed.foldl, State.Formed.foldlFst, State.Formed.forceClose]

theorem State.Formed.xltDrop {s : State} (h : s.Formed) (f p) : (s.xltDrop f p).Formed := h

theorem State.Formed.disableQueues {s : State} (h : s.Formed) (f) : (s.disableQueues f).Formed := by
  unfold State.disableQueues
  grind only [State.Formed, State.Formed.foldl, State.Formed.foldlFst, State.Formed.updWq]

theorem State.Formed.removeStep {s : State} (h : s.Formed) (f) : (s.removeStep f).Formed := by
  unfold State.removeStep
  grind only [State.Formed.foldl, State.Formed.foldlFst, State.Formed.jobDone, State.Formed.flushCtx, State.Formed.updFn,
    State.Formed.setFn, State.Formed.xltDrop, State.Formed.disableQueues]

theorem State.Formed.disableVf {s : State} (h : s.Formed) (f) : (s.disableVf f).Formed := by
  unfold State.disableVf
  grind only [State.Formed.foldl, State.Formed.foldlFst, State.Formed.flushCtx, State.Formed.updFn, State.Formed.setFn,
    State.Formed.quiesce, State.Formed.closeAll, State.Formed.xltDrop, State.Formed.disableQueues]

theorem State.Formed.flrEnd {s : State} (h : s.Formed) (f bound) : (s.flrEnd f bound).Formed := by
  unfold State.flrEnd
  grind only [State.Formed, State.Formed.foldl, State.Formed.foldlFst, State.Formed.event, State.Formed.releaseCtx, State.Formed.updFn,
    State.Formed.setFn, State.Formed.xltDrop, State.Formed.disableQueues, State.Formed.disableVf]

theorem State.Formed.flrStep {s : State} (h : s.Formed) : s.flrStep.Formed := by
  unfold State.flrStep
  grind only [State.Formed.foldl, State.Formed.foldlFst, State.Formed.flrEnd]

theorem State.Formed.clearBoxes {s : State} (h : s.Formed) (f) : (s.clearBoxes f).Formed := by
  unfold State.clearBoxes
  grind only [State.Formed.foldl, State.Formed.foldlFst, State.Formed.updBox, mbxRec_formed]

theorem State.Formed.flrStart {s : State} (h : s.Formed) (f) : (s.flrStart f).Formed := by
  unfold State.flrStart
  grind only [State.Formed.foldl, State.Formed.foldlFst, State.Formed.inc, State.Formed.updWq, State.Formed.updFn, State.Formed.setFn,
    State.Formed.quiesce, State.Formed.closeAll, State.Formed.clearBoxes]

theorem State.Formed.flrBoundary {s : State} (h : s.Formed) (f) : (s.flrBoundary f).Formed := by
  unfold State.flrBoundary
  grind only [State.Formed.foldl, State.Formed.foldlFst, State.Formed.flushCtx, State.Formed.updFn]

theorem State.Formed.flr {s : State} (h : s.Formed) (fn) : (s.flr fn).Formed := by
  unfold State.flr
  grind only [State.Formed.foldl, State.Formed.foldlFst, State.Formed.arbEnter, State.Formed.flrStart]

theorem State.Formed.unmaskFn {s : State} (h : s.Formed) (f) : (s.unmaskFn f).Formed := by
  unfold State.unmaskFn
  grind only [State.Formed.foldl, State.Formed.foldlFst, State.Formed.releaseCtx, State.Formed.setFn, State.Formed.arbEnter]

theorem State.Formed.fnCommand {s : State} (h : s.Formed) (f v) {t : State} : s.fnCommand f v = some t → t.Formed := by
  unfold State.fnCommand
  grind only [State.Formed.maskFn, State.Formed.arbEnter, State.Formed.unmaskFn]

theorem State.Formed.halt {s : State} (h : s.Formed) (cause q entry) : (s.halt cause q entry).Formed := by
  unfold State.halt
  grind only [State.Formed, State.Formed.foldl, State.Formed.foldlFst, State.Formed.event, State.Formed.pldm, State.Formed.silencePorts,
    State.Formed.holdCtx, State.Formed.maskFn]

theorem State.Formed.malformed {s : State} (h : s.Formed) (q entry : Nat) (d : Desc) (doorbell : Bool) :
    (s.malformed q entry d doorbell).Formed := by
  unfold State.malformed
  extract_lets w t u v
  have marked : u.Formed := ((h.inc ..).updWq ..).event ..
  have told : v.Formed := by
    change (if _ then _ else _ : State).Formed
    split
    · exact marked.complete ..
    · exact marked
  split
  · exact (h.inc ..).halt ..
  · split
    · exact (told.maskFn ..).arbEnter
    · exact told

theorem State.Formed.fetch {s : State} (h : s.Formed) (q host) : (s.fetch q host).Formed := by
  unfold State.fetch
  grind only [State.Formed.memRead, State.Formed.updWq, State.Formed.arbEnter, State.Formed.ringWrite, State.Formed.malformed]

/-! `Machine/Rings.lean` -/

theorem State.Formed.updXlt {s : State} (h : s.Formed) (g) : (s.updXlt g).Formed := h

theorem State.Formed.askPage {s : State} (h : s.Formed) (w) : (s.askPage w).Formed := by
  unfold State.askPage
  grind only [State.Formed.updXlt]

theorem State.Formed.askPages {s : State} (h : s.Formed) : s.askPages.Formed := by
  unfold State.askPages
  grind only [State.Formed.foldl, State.Formed.foldlFst, State.Formed.askPage]

theorem State.Formed.orWait {s : State} (h : s.Formed) (i : Instr) (need : List Need) {run : List Given → State → State}
    (hrun : ∀ gs u, u.Formed → (run gs u).Formed) : (s.orWait i need run).Formed := by
  unfold State.orWait
  have looked := State.Formed.foldlFst (f := fun (acc : State × List Given × List Want) w =>
    match acc.1.lookup w with
    | (t, some got) => (t, acc.2.1 ++ [{ want := w, got }], acc.2.2)
    | (t, none) => (t, acc.2.1, acc.2.2 ++ [w])) (fun a w ha => by grind only [State.Formed.lookup])
    (need.flatMap s.wants).eraseDups (a := (s, [], [])) h
  grind only [State.Formed.updXlt, State.Formed.askPages]

theorem State.Formed.updJob {s : State} (h : s.Formed) (q n g) : (s.updJob q n g).Formed := by
  unfold State.updJob
  grind only [State.Formed.updWq]

theorem State.Formed.endWith {s : State} (h : s.Formed) (q n r) : (s.endWith q n r).Formed := by
  unfold State.endWith
  grind only [State.Formed.jobDone]

theorem State.Formed.pcieRead {s : State} (h : s.Formed) (q n c addr len off at_) : (s.pcieRead q n c addr len off at_).Formed := h

theorem State.Formed.srcRead {s : State} (h : s.Formed) (q d given got) : (s.srcRead q d given got).1.Formed := by
  unfold State.srcRead
  grind only [State.Formed.dmaPlaces, State.Formed.dmaRead]

theorem State.Formed.copyRun {s : State} (h : s.Formed) (q n d given got) : (s.copyRun q n d given got).Formed := by
  unfold State.copyRun
  grind only [State.Formed.dmaPlaces, State.Formed.dmaWrite, State.Formed.endWith, State.Formed.srcRead]

theorem State.Formed.remoteRange {s : State} (h : s.Formed) (q c d wr given) : (s.remoteRange q c d wr given).1.Formed := by
  unfold State.remoteRange
  grind only [State.Formed.foldl, State.Formed.foldlFst, State.Formed.translateIn]

theorem State.Formed.postAll {s : State} (h : s.Formed) (q n c r ms) : (s.postAll q n c r ms).Formed := by
  unfold State.postAll
  grind only [State.Formed.foldl, State.Formed.foldlFst, State.Formed.postMsg, State.Formed.jobDone, State.Formed.updJob]

theorem State.Formed.writeRun {s : State} (h : s.Formed) (q n d given got) : (s.writeRun q n d given got).Formed := by
  unfold State.writeRun
  grind only [State.Formed.jobDone, State.Formed.srcRead, State.Formed.remoteRange, State.Formed.postAll]

theorem State.Formed.readRun {s : State} (h : s.Formed) (q n d given) : (s.readRun q n d given).Formed := by
  unfold State.readRun
  grind only [State.Formed.jobDone, State.Formed.remoteRange, State.Formed.postAll]

theorem State.Formed.srcDone {s : State} (h : s.Formed) (q n j) : (s.srcDone q n j).Formed := by
  unfold State.srcDone
  grind only [State.Formed.jobDone, State.Formed.copyRun, State.Formed.writeRun]

theorem State.Formed.hostRead {s : State} (h : s.Formed) (q n j given) : (s.hostRead q n j given).Formed := by
  unfold State.hostRead
  grind only [State.Formed.foldl, State.Formed.foldlFst, State.Formed.dmaPlaces, State.Formed.updJob, State.Formed.pcieRead,
    State.Formed.srcDone]

theorem State.Formed.flushRun {s : State} (h : s.Formed) (q n d) : (s.flushRun q n d).Formed := by
  unfold State.flushRun
  grind only [State.Formed.postMsg, State.Formed.jobDone]

theorem State.Formed.wdGo {s : State} (h : s.Formed) (i given) : (s.wdGo i given).Formed := by
  unfold State.wdGo
  grind only [State.Formed.jobDone, State.Formed.copyRun, State.Formed.writeRun, State.Formed.readRun, State.Formed.hostRead]

theorem State.Formed.wdRun {s : State} (h : s.Formed) (q n i) : (s.wdRun q n i).Formed := by
  unfold State.wdRun
  grind only [State.Formed, State.Formed.orWait, State.Formed.wdGo]

theorem State.Formed.pcieDone {s : State} (h : s.Formed) (r data bad) : (s.pcieDone r data bad).Formed := by
  unfold State.pcieDone
  grind only [State.Formed.updJob, State.Formed.srcDone]

theorem State.Formed.wqPut {s : State} (h : s.Formed) (q self d) {t : State} : s.wqPut q self d = some t → t.Formed := by
  unfold State.wqPut
  grind only [State.Formed.foldl, State.Formed.foldlFst, State.Formed.audit, State.Formed.jobDone, State.Formed.updWq]

theorem State.Formed.evqPut {s : State} (h : s.Formed) (q d) {t : State} : s.evqPut q d = some t → t.Formed := by
  unfold State.evqPut
  grind only [State.Formed.audit, State.Formed.updEvq]

theorem loadAll_formed {put : State → Nat → List Byte → Option State} (hput : ∀ s i d t, put s i d = some t → s.Formed → t.Formed)
    (size base : Nat) (is : List Nat) {u s : State} (hu : u.Formed) (h : s.Formed) :
    (∀ t, loadAll put size base is u s = .inl t → t.Formed)
    ∧ ∀ i t v, loadAll put size base is u s = .inr (i, t, v) → t.Formed ∧ v.Formed := by
  induction is generalizing u s with
  | nil => unfold loadAll; grind only
  | cons i is ih =>
    unfold loadAll
    grind only [State.Formed.memRead]

theorem State.Formed.tableLoad {s : State} (h : s.Formed) (q n : Nat) (d : Desc) (size bytes base : Nat)
    {put : State → Nat → List Byte → Option State} (hput : ∀ s i d t, put s i d = some t → s.Formed → t.Formed)
    (ovr : State → Nat → Bool) : (s.tableLoad q n d size bytes base put ovr).Formed := by
  unfold State.tableLoad
  split
  · exact h.jobDone ..
  · next es _ =>
    obtain ⟨loaded, refused⟩ := loadAll_formed hput bytes base es h h
    grind only [State.Formed.jobDone, State.Formed.arbEnter, State.Formed.inc]

theorem State.Formed.rpRun {s : State} (h : s.Formed) (ctl addr len data given) : (s.rpRun ctl addr len data given).Formed := by
  unfold State.rpRun
  grind only [State.Formed.inc, State.Formed.emit, State.Formed.dmaPlaces, State.Formed.dmaRead, State.Formed.dmaWrite]

theorem State.Formed.ctlDown {s : State} (h : s.Formed) (ctl) : (s.ctlDown ctl).Formed := by
  unfold State.ctlDown
  grind only [State.Formed.setReg, State.Formed.event]

/-! `Machine/Walk.lean` -/

theorem State.Formed.runWait {s : State} (h : s.Formed) (w) : (s.runWait w).Formed := by
  unfold State.runWait
  grind only [State.Formed.wdGo, State.Formed.rpRun]

theorem State.Formed.serve {s : State} (h : s.Formed) (f tag page got) : (s.serve f tag page got).Formed := by
  unfold State.serve
  grind only [State.Formed.foldl, State.Formed.foldlFst, State.Formed.updXlt, State.Formed.askPages, State.Formed.runWait]

theorem State.Formed.freeWalker {s : State} (h : s.Formed) (w) : (s.freeWalker w).Formed := by
  unfold State.freeWalker
  grind only [State.Formed.updXlt]

theorem State.Formed.fillWalk {s : State} (h : s.Formed) (m got) : (s.fillWalk m got).Formed := by
  unfold State.fillWalk
  grind only [State.Formed.xltFill]

theorem State.Formed.ageXlt {s : State} (h : s.Formed) (amax k) : (s.ageXlt amax k).Formed := by
  unfold State.ageXlt
  grind only [State.Formed.xltCount, State.Formed.xltPut]

theorem State.Formed.ageWalk {s : State} (h : s.Formed) (amax k) : (s.ageWalk amax k).Formed := by
  unfold State.ageWalk
  grind only [State.Formed.xltCount, State.Formed.updXlt]

theorem State.Formed.reloadRec {s : State} (h : s.Formed) (o f) : (s.reloadRec o f).1.Formed := by
  unfold State.reloadRec
  grind only [State.Formed.event, State.Formed.audit, State.Formed.memRead, State.Formed.updXlt]

theorem State.Formed.invCommand {s : State} (h : s.Formed) (o w v) {t : State} : s.invCommand o w v = some t → t.Formed := by
  unfold State.invCommand
  grind only [State.Formed.xltDrop, State.Formed.updXlt, State.Formed.askPages, State.Formed.reloadRec]

theorem State.Formed.invRefused {s : State} (h : s.Formed) (w) : (s.invRefused w).Formed := by
  unfold State.invRefused
  grind only [State.Formed.updXlt]

theorem State.Formed.faultAck {s : State} (h : s.Formed) (w) : (s.faultAck w).Formed := by
  unfold State.faultAck
  grind only [State.Formed.updXlt]

theorem State.Formed.atsDone {s : State} (h : s.Formed) (f page) : (s.atsDone f page).Formed := by
  unfold State.atsDone
  grind only [State.Formed.updXlt]

/-! `Machine/Access.lean` -/

theorem State.Formed.clearCounter {s : State} (h : s.Formed) (o h') : (s.clearCounter o h').Formed := by
  unfold State.clearCounter
  grind only [State.Formed.setReg, State.Formed.updXlt]

theorem State.Formed.readWide {s : State} (h : s.Formed) (o h') : (s.readWide o h').1.Formed := by
  unfold State.readWide
  grind only [State.Formed.clearCounter]

theorem State.Formed.keepSnap {s : State} (h : s.Formed) (key v) : (s.keepSnap key v).Formed := h

theorem State.Formed.readNarrow {s : State} (h : s.Formed) (o off) : (s.readNarrow o off).1.Formed := by
  unfold State.readNarrow
  grind only [State.Formed, State.Formed.free, State.Formed.clearCounter, State.Formed.keepSnap]

theorem State.Formed.readReg {s : State} (h : s.Formed) (o off wide) : (s.readReg o off wide).1.Formed := by
  unfold State.readReg
  grind only [State.Formed.readWide, State.Formed.readNarrow]

/-! `Machine/Registers.lean` -/

theorem State.Formed.markRefused {s : State} (h : s.Formed) (w) : (s.markRefused w).Formed := by
  unfold State.markRefused
  grind only [State.Formed, State.Formed.setReg, State.Formed.updRep, State.Formed.invRefused]

theorem State.Formed.refuseReg {s : State} (h : s.Formed) (w) : (s.refuseReg w).Formed := by
  unfold State.refuseReg
  grind only [State.Formed.refuse, State.Formed.markRefused]

theorem State.Formed.refuseNowhere {s : State} (h : s.Formed) (o off v) : (s.refuseNowhere o off v).Formed := by
  unfold State.refuseNowhere
  grind only [State.Formed.event, State.Formed.audit]

theorem State.Formed.kick {s : State} (h : s.Formed) (core tok) : (s.kick core tok).Formed := h

theorem State.Formed.roleChange {s : State} (h : s.Formed) (was st port) : (s.roleChange was st port).Formed := by
  unfold State.roleChange
  grind only [State.Formed.event, State.Formed.updPlumb, State.Formed.alignTo]

theorem State.Formed.domStart {s : State} (h : s.Formed) (g) {t : State} : s.domStart g = some t → t.Formed := by
  unfold State.domStart
  grind only [State.Formed.domSend, State.Formed.domCheck]

theorem State.Formed.ctxCommand {s : State} (h : s.Formed) (v) {t : State} : s.ctxCommand v = some t → t.Formed := by
  unfold State.ctxCommand
  grind only [State.Formed.setReg, State.Formed.updCtx, State.Formed.holdCtx, State.Formed.releaseCtx]

theorem State.Formed.feCommand {s : State} (h : s.Formed) (o cmd) {t : State} : s.feCommand o cmd = some t → t.Formed := by
  unfold State.feCommand
  grind only [State.Formed.setReg, State.Formed.audit, State.Formed.syncFull, State.Formed.setSide, State.Formed.memRead,
    State.Formed.memWrite, State.Formed.tsMark, State.Formed.tsWrite]

theorem State.Formed.wqViewCmd {s : State} (h : s.Formed) (win v) {t : State} : s.wqViewCmd win v = some t → t.Formed := by
  unfold State.wqViewCmd
  grind only [State.Formed]

theorem State.Formed.evqViewCmd {s : State} (h : s.Formed) (win v) {t : State} : s.evqViewCmd win v = some t → t.Formed := by
  unfold State.evqViewCmd
  grind only [State.Formed]

theorem State.Formed.mbxCommand {s : State} (h : s.Formed) (o n v) {t : State} : s.mbxCommand o n v = some t → t.Formed := by
  unfold State.mbxCommand
  grind only [State.Formed.mbxSend, State.Formed.mbxAck, State.Formed.mbxCancel]

theorem State.Formed.retireCmd {s : State} (h : s.Formed) (m v) {t : State} : s.retireCmd m v = some t → t.Formed := by
  unfold State.retireCmd
  grind only [State.Formed.updStack]

theorem State.Formed.effect {s : State} (h : s.Formed) (t : State) (w : RegWrite) (old new : Nat) {u : State} :
    State.effect t s w old new = some u → u.Formed := by
  unfold State.effect
  grind only [State.Formed.kick, State.Formed.roleChange, State.Formed.stepTo, State.Formed.reselect, State.Formed.updPlumb,
    State.Formed.freeze, State.Formed.unfreeze, State.Formed.startFlush, hlthCommand_formed, State.Formed.setReg, State.Formed.domStart,
    State.Formed.cancelGroup, State.Formed.invCommand, State.Formed.faultAck, State.Formed.connCommand, State.Formed.mrInvStart,
    State.Formed.nbDrop, State.Formed.coreSend, State.Formed.ctxCommand, State.Formed.feCommand, State.Formed.evqViewCmd,
    State.Formed.wqViewCmd, State.Formed.fnCommand, diagCommand_formed, State.Formed.retireCmd, State.Formed.requestRepair,
    State.Formed.updCtx, State.Formed.mbxCommand, State.Formed.updBox, State.Formed.wakePort]

theorem State.Formed.irqClear {s : State} (h : s.Formed) (pg v) : (s.irqClear pg v).Formed := by
  unfold State.irqClear
  grind only [State.Formed.updPage]

theorem State.Formed.irqForce {s : State} (h : s.Formed) (b i v) : (s.irqForce b i v).Formed := by
  unfold State.irqForce
  grind only [State.Formed.foldl, State.Formed.foldlFst, State.Formed.updPage, State.Formed.notify]

theorem State.Formed.arm {s : State} (h : s.Formed) (pg v : Nat) {t : State} : s.arm pg v = some t → t.Formed := by
  have armed (x : Option (Option Nat)) : (s.updPage pg fun g => { g with armed := x }).Formed := h.updPage ..
  unfold State.arm
  extract_lets low next tick
  intro h
  split at h
  · split at h
    · cases h; exact armed _
    · cases h
  · split at h
    · cases h
    · cases h; exact armed _

theorem State.Formed.setLock {s : State} (h : s.Formed) (pg v) {t : State} : s.setLock pg v = some t → t.Formed := by
  unfold State.setLock
  grind only [State.Formed.updPage]

theorem State.Formed.headerWrite {s : State} (h : s.Formed) (w) {t : State} : s.headerWrite w = some t → t.Formed := by
  unfold State.headerWrite
  grind only [State.Formed.irqClear, State.Formed.irqForce, State.Formed.arm, State.Formed.setLock]

theorem State.Formed.stageEpoch {s : State} (h : s.Formed) (w) : (s.stageEpoch w).Formed := by
  unfold State.stageEpoch
  grind only [State.Formed.updPsl]

theorem State.Formed.stage {s : State} (h : s.Formed) (w) : (s.stage w).Formed := by
  unfold State.stage
  grind only [State.Formed.updPage, State.Formed.stageEpoch]

theorem State.Formed.applyNow {s : State} (h : s.Formed) (w stagedToo) : (s.applyNow w stagedToo).Formed := by
  unfold State.applyNow
  grind only [State.Formed, State.Formed.setReg, State.Formed.auditWrite, State.Formed.refuseReg, State.Formed.effect,
    State.Formed.headerWrite, State.Formed.stage]

theorem State.Formed.regPut {s : State} (h : s.Formed) (w) : (s.regPut w).Formed := by
  unfold State.regPut
  grind only [State.Formed.refuseReg, State.Formed.stage, State.Formed.applyNow]

theorem State.Formed.dropHalf {s : State} (h : s.Formed) (o h') : (s.dropHalf o h').Formed := by
  unfold State.dropHalf
  grind only [State.Formed, State.Formed.refuseReg]

theorem State.Formed.writeNarrow {s : State} (h : s.Formed) (o off v) : (s.writeNarrow o off v).Formed := by
  unfold State.writeNarrow
  grind only [State.Formed, State.Formed.refuse, State.Formed.refuseNowhere, State.Formed.regPut, State.Formed.dropHalf]

theorem State.Formed.regWrite {s : State} (h : s.Formed) (o off wide v) : (s.regWrite o off wide v).Formed := by
  unfold State.regWrite
  grind only [State.Formed, State.Formed.refuseNowhere, State.Formed.regPut, State.Formed.dropHalf, State.Formed.writeNarrow]

theorem State.Formed.busWrite {s : State} (h : s.Formed) (o off wide v) : (s.busWrite o off wide v).Formed := by
  unfold State.busWrite
  grind only [State.Formed.updRecs, State.Formed.regWrite]

/-! `Machine/Commit.lean` -/

theorem State.Formed.newEpoch {s : State} (h : s.Formed) (n old) : (s.newEpoch n old).Formed := by
  unfold State.newEpoch
  grind only [State.Formed.updPsl]

theorem State.Formed.partGone {s : State} (h : s.Formed) (n old full) : (s.partGone n old full).Formed := by
  unfold State.partGone
  grind only [State.Formed.updPsl]

theorem State.Formed.committed {s : State} (h : s.Formed) (h' old full) : (s.committed h' old full).Formed := by
  unfold State.committed
  grind only [State.Formed.setReg, State.Formed.claimRegion, State.Formed.shpSet, State.Formed.updPlumb, State.Formed.newEpoch,
    State.Formed.partGone]

theorem State.Formed.commitOne {s : State} (h : s.Formed) (all : Bool) (e : Staged) : (s.commitOne all e).1.Formed := by
  have effected {t : State} (w : RegWrite) (old new : Nat) (ht : t.Formed) : ((State.effect s t w old new).getD t).Formed := by
    cases k : State.effect s t w old new with
    | none => exact ht
    | some u => exact ht.effect s w old new k
  unfold State.commitOne
  split
  · extract_lets w old m full t v
    have set : t.Formed := (h.setReg ..).committed ..
    split
    · exact h.refuseReg ..
    · refine State.Formed.auditWrite ?_ ..
      change (if _ then _ else _ : State).Formed
      split
      · exact effected _ _ _ set
      · exact set
  · exact h

theorem State.Formed.readWatch {s : State} (h : s.Formed) : s.readWatch.Formed := by
  unfold State.readWatch
  grind only [State.Formed.memRead, State.Formed.updArb]

theorem State.Formed.afterCommit {s : State} (h : s.Formed) (es) : (s.afterCommit es).Formed := by
  unfold State.afterCommit
  grind only [State.Formed.foldl, State.Formed.foldlFst, State.Formed.groupCommit, State.Formed.readWatch]

theorem State.Formed.commitPage {s : State} (h : s.Formed) (pg all) : (s.commitPage pg all).Formed := by
  unfold State.commitPage
  grind only [State.Formed.foldl, State.Formed.foldlFst, State.Formed.updPage, State.Formed.event, State.Formed.updPsl,
    State.Formed.commitOne, State.Formed.afterCommit]

theorem State.Formed.lateEpochs {s : State} (h : s.Formed) : s.lateEpochs.Formed := by
  unfold State.lateEpochs
  grind only [State.Formed.foldl, State.Formed.foldlFst, State.Formed.updPage, State.Formed.commitOne]

theorem State.Formed.commitAll {s : State} (h : s.Formed) : s.commitAll.Formed := by
  unfold State.commitAll
  grind only [State.Formed.foldl, State.Formed.foldlFst, State.Formed.commitPage, State.Formed.lateEpochs]

theorem State.Formed.commitHeld {s : State} (h : s.Formed) : s.commitHeld.Formed := by
  unfold State.commitHeld
  grind only [State.Formed.foldl, State.Formed.foldlFst, State.Formed.commitPage]

/-! `Machine/Power.lean` -/

theorem State.Formed.updThm {s : State} (h : s.Formed) (g) : (s.updThm g).Formed := h

theorem State.Formed.govern {s : State} (h : s.Formed) : s.govern.Formed := by
  unfold State.govern
  grind only [State.Formed, State.Formed.updPwr, State.Formed.pwrAudited, State.Formed.planChanged]

theorem State.Formed.badReading {s : State} (h : s.Formed) (n) : (s.badReading n).Formed := by
  unfold State.badReading
  grind only [State.Formed.event, State.Formed.updThm]

theorem State.Formed.thermal {s : State} (h : s.Formed) : s.thermal.Formed := by
  unfold State.thermal
  grind only [State.Formed, State.Formed.event, State.Formed.emit, State.Formed.beginReset, State.Formed.pldm, State.Formed.pwrAudited,
    State.Formed.updThm]

theorem State.Formed.silentSensors {s : State} (h : s.Formed) : s.silentSensors.Formed := by
  unfold State.silentSensors
  grind only [State.Formed.foldl, State.Formed.foldlFst, State.Formed.badReading, State.Formed.thermal]

theorem State.Formed.unsilencePort {s : State} (h : s.Formed) (q) : (s.unsilencePort q).Formed := by
  unfold State.unsilencePort
  grind only [State.Formed.updPort]

/-! `Machine/Tick.lean` -/

theorem State.Formed.sampleRec {s : State} (h : s.Formed) (kind index depth delay) : (s.sampleRec kind index depth delay).Formed := by
  unfold State.sampleRec
  grind only [State.Formed.memWrite, State.Formed.updArb]

theorem State.Formed.sampleQueue {s : State} (h : s.Formed) (q : Nat) : (s.sampleQueue q).Formed := h.updWq ..

theorem State.Formed.samplePort {s : State} (h : s.Formed) (write q) : (s.samplePort write q).Formed := by
  unfold State.samplePort
  grind only [State.Formed.foldl, State.Formed.foldlFst, State.Formed.updPrio, State.Formed.sampleRec]

theorem State.Formed.sampleAll {s : State} (h : s.Formed) : s.sampleAll.Formed := by
  unfold State.sampleAll
  grind only [State.Formed.foldl, State.Formed.foldlFst, State.Formed.sampleRec, State.Formed.sampleQueue, State.Formed.samplePort]

theorem State.Formed.markDrops {s : State} (h : s.Formed) : s.markDrops.Formed := by
  unfold State.markDrops
  grind only [State.Formed.event, State.Formed.updPlumb]

theorem State.Formed.snapLatch {s : State} (h : s.Formed) : s.snapLatch.Formed := by
  unfold State.snapLatch
  grind only [State.Formed, State.Formed.setReg]

theorem State.Formed.replayPkt {s : State} (h : s.Formed) (c d) : (s.replayPkt c d).Formed := by
  unfold State.replayPkt
  grind only [State.Formed.region, State.Formed.placeWrite, State.Formed.placeResp, State.Formed.placeDispatch]

theorem State.Formed.replayInputs {s : State} (h : s.Formed) (r n : Nat) : (State.replayInputs r n s).Formed := by
  induction n generalizing s with
  | zero => exact h
  | succ n ih =>
    unfold State.replayInputs
    grind only [State.Formed.updRep, State.Formed.replayPkt]

theorem State.Formed.groupsTick {s : State} (h : s.Formed) : s.groupsTick.Formed := by
  unfold State.groupsTick
  grind only [State.Formed, State.Formed.foldl, State.Formed.foldlFst, State.Formed.rpEnd, State.Formed.replayInputs]

theorem State.Formed.operate {s : State} (h : s.Formed) : s.operate.Formed := h

theorem State.Formed.bankReopen {s : State} (h : s.Formed) (m) : (s.bankReopen m).Formed := by
  unfold State.bankReopen
  grind only [State.Formed.foldl, State.Formed.foldlFst, State.Formed.updStack, serveHeld_formed, State.Formed.releaseCmd]

theorem State.Formed.passTo {s : State} (h : s.Formed) (t) : (s.passTo t).Formed := by
  unfold State.passTo
  grind only [State.Formed.portsEnd, State.Formed.updPlumb]

theorem State.Formed.newLength {s : State} (h : s.Formed) (n) : (s.newLength n).Formed := by
  unfold State.newLength
  grind only [State.Formed.setReg, State.Formed.updPlumb]

theorem State.Formed.boundary {s : State} (h : s.Formed) : s.boundary.Formed := by
  unfold State.boundary
  grind only [State.Formed.foldl, State.Formed.foldlFst, State.Formed.inc, State.Formed.overrunMark, State.Formed.grant,
    State.Formed.startParked, State.Formed.updNoc, State.Formed.shpRefill, State.Formed.connBoundary, State.Formed.updPlumb,
    State.Formed.audDrain, State.Formed.coresOnline, State.Formed.arbEnter, State.Formed.flrBoundary, State.Formed.commitAll,
    State.Formed.govern, State.Formed.silentSensors, State.Formed.sampleAll, State.Formed.markDrops, State.Formed.snapLatch,
    State.Formed.groupsTick, State.Formed.operate, State.Formed.bankReopen, State.Formed.passTo, State.Formed.newLength]

/-! `Machine/Boot.lean` -/

theorem State.Formed.updBoot {s : State} (h : s.Formed) (g) : (s.updBoot g).Formed := h

theorem State.Formed.updNv {s : State} (h : s.Formed) (g) : (s.updNv g).Formed := h

theorem State.Formed.imageRun {s : State} (h : s.Formed) (kind img) : (s.imageRun kind img).Formed := by
  unfold State.imageRun
  grind only [State.Formed.foldl, State.Formed.foldlFst, State.Formed.inc, State.Formed.cmacRun, State.Formed.useKey]

theorem State.Formed.verifyRun {s : State} (h : s.Formed) (bank kind ok) : (s.verifyRun bank kind ok).Formed := by
  unfold State.verifyRun
  grind only [State.Formed.foldl, State.Formed.foldlFst, State.Formed.inc, State.Formed.cmacRun, State.Formed.useKey,
    State.Formed.imageRun]

theorem State.Formed.applyCfg {s : State} (h : s.Formed) : s.applyCfg.Formed := by
  unfold State.applyCfg
  grind only [State.Formed.foldl, State.Formed.foldlFst, State.Formed.setReg, State.Formed.event, State.Formed.auditWrite,
    State.Formed.verified, State.Formed.updBoot]

theorem State.Formed.raiseVersions {s : State} (h : s.Formed) : s.raiseVersions.Formed := by
  unfold State.raiseVersions
  grind only [State.Formed.foldl, State.Formed.foldlFst, State.Formed.event, State.Formed.updNv]

theorem State.Formed.cleared {s : State} : s.cleared.Formed := by
  unfold State.cleared State.Formed
  rfl

theorem State.Formed.powerFail {s : State} (h : s.Formed) : s.powerFail.Formed := by
  unfold State.powerFail
  grind only [State.Formed.event, State.Formed.startFlush, State.Formed.pldm]

theorem State.Formed.supplyReset {s : State} (h : s.Formed) : s.supplyReset.Formed := by
  unfold State.supplyReset
  grind only [State.Formed, State.Formed.powerFail]

theorem State.Formed.startImage {s : State} (h : s.Formed) (kind bank ver) : (s.startImage kind bank ver).Formed := by
  unfold State.startImage
  grind only [State.Formed, State.Formed.updCores, State.Formed.updBoot, State.Formed.applyCfg, State.Formed.raiseVersions]

theorem State.Formed.lockPage {s : State} (h : s.Formed) (pg) : (s.lockPage pg).Formed := by
  unfold State.lockPage
  grind only [State.Formed.updPage, State.Formed.auditWrite]

theorem State.Formed.setMac {s : State} (h : s.Formed) (q v) : (s.setMac q v).Formed := by
  unfold State.setMac
  grind only [State.Formed.setReg, State.Formed.auditDev]

theorem State.Formed.placeEngine {s : State} (h : s.Formed) (failed e) : (s.placeEngine failed e).Formed := by
  unfold State.placeEngine
  grind only [State.Formed, State.Formed.updEng, State.Formed.updTile, State.Formed.audited, State.Formed.hlthEvent]

theorem State.Formed.tileFailed {s : State} (h : s.Formed) (t) : (s.tileFailed t).Formed := by
  unfold State.tileFailed
  grind only [State.Formed, State.Formed.inc, State.Formed.updTile, State.Formed.audited, State.Formed.hlthEvent, State.Formed.book]

theorem State.Formed.bootMode {s : State} (h : s.Formed) (q) : (s.bootMode q).Formed := by
  unfold State.bootMode
  grind only [State.Formed.setMac]

/-! `Machine/Mgmt.lean` -/

theorem State.Formed.updMgmt {s : State} (h : s.Formed) (g) : (s.updMgmt g).Formed := h

theorem State.Formed.reply {s : State} (h : s.Formed) (status d) : (s.reply status d).Formed := by
  unfold State.reply
  grind only [State.Formed.emit]

theorem State.Formed.dropEvent {s : State} (h : s.Formed) : s.dropEvent.Formed := by
  unfold State.dropEvent
  grind only [State.Formed.updMgmt]

theorem State.Formed.sendEvent {s : State} (h : s.Formed) (tries) : (s.sendEvent tries).Formed := by
  unfold State.sendEvent
  grind only [State.Formed.emit, State.Formed.updMgmt]

theorem State.Formed.updUpd {s : State} (h : s.Formed) (g) : (s.updUpd g).Formed := by
  unfold State.updUpd
  grind only [State.Formed.updMgmt]

theorem State.Formed.fuse {s : State} (h : s.Formed) (ok g) : (s.fuse ok g).Formed := by
  unfold State.fuse
  grind only [State.Formed.event, State.Formed.updNv, State.Formed.reply]

theorem State.Formed.updSession {s : State} (h : s.Formed) (id g) : (s.updSession id g).Formed := by
  unfold State.updSession
  grind only [State.Formed.updMgmt]

end Sys2Proof.Machine
end

section
/-! PROOFS. How commands end: each runs and writes its records, or its cause is not there (95_what_each_step_holds.md). -/

namespace Sys2Proof.Machine

/-- What a command does on `s`: it runs, its records are written, and protected memory is in canonical form again where it was; or it
stands for an event whose cause `s` does not hold. -/
def Ends (s : State) (r : Res) : Prop := (∃ t, r = .next (settle t) ∧ (s.Formed → t.Formed)) ∨ r = .fault .notDue

theorem Ends.notDue (s : State) : Ends s (.fault .notDue) := .inr rfl

/-! `Machine/Records.lean` -/

theorem Ends.done {s t : State} (h : s.Formed → t.Formed) : Ends s (done t) := .inl ⟨t, rfl, h⟩

theorem Ends.due {s t : State} (c : Bool) (h : s.Formed → t.Formed) : Ends s (due c t) := by
  unfold Machine.due
  split
  · exact .done h
  · exact .notDue s

theorem Ends.dueMem {s t : State} (u : State) (c : Bool) (h : s.Formed → t.Formed) : Ends s (dueMem u c t) := .due _ h

/-! `Machine/Issue.lean` -/

theorem Ends.issue (i : Ins) (e x : Nat) (f : Fields) (s : State) {run : Run → Run} (hrun : ∀ r, r.s.Formed → (run r).s.Formed) :
    Ends s (issue i e x f s run) :=
  .due _ fun h => h.issued (issueCore_formed (h.slowed ..) _ _ _ hrun) _

/-! `Machine/Port.lean` -/

theorem execFrameReceive_ends (q f) (s : State) : Ends s (execFrameReceive q f s) := by
  unfold execFrameReceive
  grind only [State.Formed.inc, Ends.due, State.Formed.updPrio, State.Formed.pausePartner, State.Formed.fecSeen]

theorem execFrameDeliver_ends (q p) (s : State) : Ends s (execFrameDeliver q p s) := by
  unfold execFrameDeliver
  grind only [Ends.notDue, State.Formed.inc, Ends.due, State.Formed.drop, State.Formed.updPort, State.Formed.updPrio, State.Formed.sendPfc,
    State.Formed.coreDeliver]

theorem execPfcRepeat_ends (q p) (s : State) : Ends s (execPfcRepeat q p s) := by
  unfold execPfcRepeat
  grind only [Ends.due, State.Formed.updPrio, State.Formed.sendPfc]

theorem execPfcReceive_ends (q en quanta) (s : State) : Ends s (execPfcReceive q en quanta s) := by
  unfold execPfcReceive
  grind only [State.Formed.foldl, Ends.due, State.Formed.pauseFor]

theorem execPauseExpiry_ends (q p) (s : State) : Ends s (execPauseExpiry q p s) := by
  unfold execPauseExpiry
  grind only [Ends.notDue, Ends.due, State.Formed.updPrio]

theorem execPauseLimit_ends (q p) (s : State) : Ends s (execPauseLimit q p s) := by
  unfold execPauseLimit
  grind only [State.Formed.event, Ends.due, State.Formed.updPrio, State.Formed.sendPfc]

theorem execPauseWatchdog_ends (q p) (s : State) : Ends s (execPauseWatchdog q p s) := by
  unfold execPauseWatchdog
  grind only [State.Formed.inc, State.Formed.event, Ends.due, State.Formed.updPort, State.Formed.updPrio]

theorem execStallEnd_ends (q p) (s : State) : Ends s (execStallEnd q p s) := by
  unfold execStallEnd
  grind only [State.Formed.event, Ends.due, State.Formed.updPrio]

theorem execLocalFault_ends (q) (s : State) : Ends s (execLocalFault q s) := by
  unfold execLocalFault
  grind only [Ends.notDue, Ends.due, State.Formed.updPort, State.Formed.cutFrame]

theorem execLinkDown_ends (q : Nat) (s : State) : Ends s (execLinkDown q s) := .due _ fun h => h.linkFalls q

theorem execFaultClear_ends (q) (s : State) : Ends s (execFaultClear q s) := by
  unfold execFaultClear
  grind only [Ends.notDue, Ends.due, State.Formed.updPort]

theorem execLinkUp_ends (q : Nat) (s : State) : Ends s (execLinkUp q s) := .due _ fun h => ((h.updPort ..).event _).coreSend

theorem execHoldExpiry_ends (q) (s : State) : Ends s (execHoldExpiry q s) := by
  unfold execHoldExpiry
  grind only [Ends.due, State.Formed.coreSend, State.Formed.discardHeld]

theorem execPortModeChange_ends (q) (s : State) : Ends s (execPortModeChange q s) := by
  unfold execPortModeChange
  grind only [Ends.due, State.Formed.retrain]

theorem execLpiEnter_ends (q) (s : State) : Ends s (execLpiEnter q s) := by
  unfold execLpiEnter
  grind only [State.Formed.inc, Ends.due, State.Formed.updPort]

theorem execLpiWake_ends (q) (s : State) : Ends s (execLpiWake q s) := by
  unfold execLpiWake
  grind only [Ends.notDue, State.Formed.inc, Ends.due, State.Formed.updPort]

theorem execLpiNegotiationComplete_ends (q wakeUs) (s : State) : Ends s (execLpiNegotiationComplete q wakeUs s) := by
  unfold execLpiNegotiationComplete
  grind only [Ends.due, State.Formed.updPort]

theorem execPartnerLpi_ends (q enter) (s : State) : Ends s (execPartnerLpi q enter s) := by
  unfold execPartnerLpi
  grind only [State.Formed.inc, Ends.due, State.Formed.updPort]

/-! `Machine/Conn.lean` -/

theorem execConnReqResend_ends (c) (s : State) : Ends s (execConnReqResend c s) := by
  unfold execConnReqResend
  grind only [Ends.due, State.Formed.sendReq]

theorem execConnOpenTimeout_ends (c) (s : State) : Ends s (execConnOpenTimeout c s) := by
  unfold execConnOpenTimeout
  grind only [Ends.due, State.Formed.connOutcome, State.Formed.freeConn]

theorem execClosingTimeout_ends (c) (s : State) : Ends s (execClosingTimeout c s) := by
  unfold execClosingTimeout
  grind only [Ends.notDue, State.Formed.eventTo, Ends.due, State.Formed.flushConn, State.Formed.freeConn]

/-! `Machine/Memory.lean` -/

theorem execHbmRead_ends (r off noise) (s : State) : Ends s (execHbmRead r off noise s) := by
  unfold execHbmRead
  grind only [Ends.notDue, Ends.due, orHold_formed]

theorem execHbmWrite_ends (r off data poison) (s : State) : Ends s (execHbmWrite r off data poison s) := by
  unfold execHbmWrite
  grind only [Ends.notDue, Ends.due, orHold_formed]

theorem execHbmPartialWrite_ends (r off parts noise) (s : State) : Ends s (execHbmPartialWrite r off parts noise s) := by
  unfold execHbmPartialWrite
  grind only [Ends.notDue, Ends.due, orHold_formed]

theorem execSanderScrub_ends (m lam noise) (s : State) : Ends s (execSanderScrub m lam noise s) := by
  unfold execSanderScrub
  grind only [Ends.due, orHold_formed]

theorem execSanderInit_ends (m) (s : State) : Ends s (execSanderInit m s) := by
  unfold execSanderInit
  grind only [State.Formed.initChunk, Ends.due]

theorem execDieRetire_ends (m lost) (s : State) : Ends s (execDieRetire m lost s) := by
  unfold execDieRetire
  grind only [Ends.notDue, State.Formed.updStack, Ends.due, retireDie_formed]

theorem execSanderRebuildStep_ends (m noise) (s : State) : Ends s (execSanderRebuildStep m noise s) := by
  unfold execSanderRebuildStep
  grind only [Ends.notDue, Ends.due, orHold_formed]

theorem execRowRepairStart_ends (m) (s : State) : Ends s (execRowRepairStart m s) := by
  unfold execRowRepairStart
  grind only [State.Formed.foldl, Ends.notDue, State.Formed.updStack, State.Formed.readAny, Ends.due]

theorem execRowRepairComplete_ends (m) (s : State) : Ends s (execRowRepairComplete m s) := by
  unfold execRowRepairComplete
  grind only [State.Formed, State.Formed.foldl, Ends.notDue, State.Formed.event, State.Formed.updStack, Ends.due, State.Formed.rewriteLine]

theorem execHbmStackLost_ends (m) (s : State) : Ends s (execHbmStackLost m s) := by
  unfold execHbmStackLost
  grind only [State.Formed.event, State.Formed.updStack, Ends.due, State.Formed.auditDev]

/-! `Machine/Health.lean` -/

theorem execObservationEnd_ends (t) (s : State) : Ends s (execObservationEnd t s) := by
  unfold execObservationEnd
  grind only [Ends.due, State.Formed.updTile, State.Formed.audited, State.Formed.hlthEvent]

theorem execTestDue_ends (t) (s : State) : Ends s (execTestDue t s) := by
  unfold execTestDue
  grind only [Ends.due, State.Formed.dueNow]

theorem execTestStart_ends (t) (s : State) : Ends s (execTestStart t s) := by
  unfold execTestStart
  grind only [State.Formed.inc, Ends.due, State.Formed.updTile, State.Formed.audited, State.Formed.leaveTile]

theorem execTestDeferTimeout_ends (t : Nat) (s : State) : Ends s (execTestDeferTimeout t s) := by
  unfold execTestDeferTimeout
  split
  · exact .due _ fun h => State.Formed.audited _ _ ((((((h.inc ..).inc ..).hlthEvent ..).switchOut _).updEng ..).updTile ..)
  · exact .notDue s

theorem execTestComplete_ends (kind i pass locus) (s : State) : Ends s (execTestComplete kind i pass locus s) := by
  unfold execTestComplete
  grind only [State.Formed, State.Formed.inc, Ends.due, State.Formed.updEng, State.Formed.updTile, State.Formed.audited,
    State.Formed.hlthEvent, State.Formed.book, State.Formed.leaveTile, State.Formed.cmdDone]

theorem execTileRetire_ends (t) (s : State) : Ends s (execTileRetire t s) := by
  unfold execTileRetire
  grind only [Ends.due, State.Formed.updTile, State.Formed.audited, State.Formed.hlthEvent, State.Formed.leaveTile]

theorem execStippleCompare_ends (e x equal sc) (s : State) : Ends s (execStippleCompare e x equal sc s) := by
  unfold execStippleCompare
  grind only [Ends.notDue, State.Formed.inc, Ends.due, State.Formed.updTile, State.Formed.setCheck, State.Formed.scrimBookings]

theorem execStippleSecondCheck_ends (e x eqPrimary eqFirst sc) (s : State) :
    Ends s (execStippleSecondCheck e x eqPrimary eqFirst sc s) := by
  unfold execStippleSecondCheck
  grind only [Ends.notDue, Ends.done, State.Formed.book, State.Formed.setCheck, State.Formed.scrimBookings, State.Formed.stipEvent,
    State.Formed.stipUndecided]

theorem execStippleUndecidedTimeout_ends (e x) (s : State) : Ends s (execStippleUndecidedTimeout e x s) := by
  unfold execStippleUndecidedTimeout
  grind only [Ends.notDue, Ends.due, State.Formed.stipUndecided]

/-! `Machine/Launch.lean` -/

theorem execContextSwitchComplete_ends (e) (s : State) : Ends s (execContextSwitchComplete e s) := by
  unfold execContextSwitchComplete
  grind only [Ends.notDue, Ends.due, State.Formed.updEng, State.Formed.startSlice]

theorem execLaunchStart_ends (e x) (s : State) : Ends s (execLaunchStart e x s) := by
  unfold execLaunchStart
  grind only [Ends.notDue, Ends.due, State.Formed.startLaunch]

/-! `Machine/Mailbox.lean` -/

theorem execMbxDeliver_ends (vf fromPf) (s : State) : Ends s (execMbxDeliver vf fromPf s) := by
  unfold execMbxDeliver
  grind only [Ends.due, State.Formed.mbxDeliver]

theorem execMbxTimeout_ends (vf fromPf) (s : State) : Ends s (execMbxTimeout vf fromPf s) := by
  unfold execMbxTimeout
  grind only [Ends.due, State.Formed.updBox, mbxRec_formed]

/-! `Machine/Scalar.lean` -/

theorem execNop_ends (e x : Nat) (f : Fields) (s : State) : Ends s (execNop e x f s) := .issue _ _ _ _ _ fun _ h => h

theorem execSliceEnd_ends (e x f) (s : State) : Ends s (execSliceEnd e x f s) := by
  unfold execSliceEnd
  grind only [Ends.issue, Run.formed_ctx]

theorem execHalt_ends (e x f) (s : State) : Ends s (execHalt e x f s) := by
  unfold execHalt
  grind only [Ends.issue, haltRun_formed]

theorem execBr_ends (e x f) (s : State) : Ends s (execBr e x f s) := by
  unfold execBr
  grind only [Ends.issue]

theorem execLoop_ends (e x f) (s : State) : Ends s (execLoop e x f s) := by
  unfold execLoop
  grind only [Ends.issue, Run.formed_ctx]

theorem execPlumbRd_ends (e x f) (s : State) : Ends s (execPlumbRd e x f s) := by
  unfold execPlumbRd
  grind only [Ends.issue, plumbRdRun_formed]

theorem execFlagsRd_ends (e x f) (s : State) : Ends s (execFlagsRd e x f s) := by
  unfold execFlagsRd
  grind only [Ends.issue, Run.formed_ctx]

theorem execFlagsClr_ends (e x f) (s : State) : Ends s (execFlagsClr e x f s) := by
  unfold execFlagsClr
  grind only [Ends.issue, Run.formed_ctx]

theorem execEvent_ends (e x f) (s : State) : Ends s (execEvent e x f s) := by
  unfold execEvent
  grind only [Ends.issue, eventRun_formed]

theorem execRegroup_ends (e x f) (s : State) : Ends s (execRegroup e x f s) := by
  unfold execRegroup
  grind only [Ends.issue, Run.formed_ctx]

theorem execMbxRd_ends (e x f) (s : State) : Ends s (execMbxRd e x f s) := by
  unfold execMbxRd
  grind only [Ends.issue, mbxRdRun_formed]

theorem execSLi_ends (e x f) (s : State) : Ends s (execSLi e x f s) := by
  unfold execSLi
  grind only [Ends.issue, Run.formed_ctx]

theorem alu_ends (op g e x f) (s : State) : Ends s (alu op g e x f s) := by
  unfold alu
  grind only [Ends.issue, Run.formed_ctx]

theorem execSAdd_ends (e x f) (s : State) : Ends s (execSAdd e x f s) := by
  unfold execSAdd
  grind only [alu_ends]

theorem execSSub_ends (e x f) (s : State) : Ends s (execSSub e x f s) := by
  unfold execSSub
  grind only [alu_ends]

theorem execSMul_ends (e x f) (s : State) : Ends s (execSMul e x f s) := by
  unfold execSMul
  grind only [alu_ends]

theorem execSAnd_ends (e x f) (s : State) : Ends s (execSAnd e x f s) := by
  unfold execSAnd
  grind only [alu_ends]

theorem execSOr_ends (e x f) (s : State) : Ends s (execSOr e x f s) := by
  unfold execSOr
  grind only [alu_ends]

theorem execSXor_ends (e x f) (s : State) : Ends s (execSXor e x f s) := by
  unfold execSXor
  grind only [alu_ends]

theorem execSShl_ends (e x f) (s : State) : Ends s (execSShl e x f s) := by
  unfold execSShl
  grind only [alu_ends]

theorem execSShr_ends (e x f) (s : State) : Ends s (execSShr e x f s) := by
  unfold execSShr
  grind only [alu_ends]

theorem execSSar_ends (e x f) (s : State) : Ends s (execSSar e x f s) := by
  unfold execSSar
  grind only [alu_ends]

theorem execSCmp_ends (e x f) (s : State) : Ends s (execSCmp e x f s) := by
  unfold execSCmp
  grind only [Ends.issue, Run.formed_ctx]

theorem execSLd_ends (e x f) (s : State) : Ends s (execSLd e x f s) := by
  unfold execSLd
  grind only [Run.formed_bytes, Ends.issue, Run.formed_ctx]

theorem execSSt_ends (e x f) (s : State) : Ends s (execSSt e x f s) := by
  unfold execSSt
  grind only [Ends.issue, Run.formed_put]

theorem execPOp_ends (e x f) (s : State) : Ends s (execPOp e x f s) := by
  unfold execPOp
  grind only [Ends.issue, Run.formed_ctx]

theorem execTdLd_ends (e x f) (s : State) : Ends s (execTdLd e x f s) := by
  unfold execTdLd
  grind only [Run.formed_bytes, Ends.issue, Run.formed_ctx]

theorem execTdSt_ends (e x f) (s : State) : Ends s (execTdSt e x f s) := by
  unfold execTdSt
  grind only [Ends.issue, Run.formed_put]

theorem execTdSetf_ends (e x f) (s : State) : Ends s (execTdSetf e x f s) := by
  unfold execTdSetf
  grind only [Ends.issue, Run.formed_ctx]

theorem execTdGetf_ends (e x f) (s : State) : Ends s (execTdGetf e x f s) := by
  unfold execTdGetf
  grind only [Ends.issue, Run.formed_ctx]

theorem execTdAddb_ends (e x f) (s : State) : Ends s (execTdAddb e x f s) := by
  unfold execTdAddb
  grind only [Ends.issue, Run.formed_ctx]

theorem execTdCopy_ends (e x f) (s : State) : Ends s (execTdCopy e x f s) := by
  unfold execTdCopy
  grind only [Ends.issue, Run.formed_ctx]

theorem execFeWait_ends (e x f) (s : State) : Ends s (execFeWait e x f s) := by
  unfold execFeWait
  grind only [Ends.issue, feWaitRun_formed]

theorem execFeWaite_ends (e x f) (s : State) : Ends s (execFeWaite e x f s) := by
  unfold execFeWaite
  grind only [Ends.issue, feWaitRun_formed]

theorem execFeSet_ends (e x f) (s : State) : Ends s (execFeSet e x f s) := by
  unfold execFeSet
  grind only [Ends.issue, feSetRun_formed]

theorem execFeClr_ends (e x f) (s : State) : Ends s (execFeClr e x f s) := by
  unfold execFeClr
  grind only [Ends.issue, feSetRun_formed]

theorem execFeTest_ends (e x f) (s : State) : Ends s (execFeTest e x f s) := by
  unfold execFeTest
  grind only [Ends.issue, feTestRun_formed]

theorem execFence_ends (e x f) (s : State) : Ends s (execFence e x f s) := by
  unfold execFence
  grind only [Ends.issue, fenceRun_formed]

theorem execFeWaitComplete_ends (e x) (s : State) : Ends s (execFeWaitComplete e x s) := by
  unfold execFeWaitComplete
  grind only [Ends.notDue, Ends.due, State.Formed.updCtx, State.Formed.updMirror, State.Formed.feRanges, State.Formed.feBlock,
    State.Formed.endWait]

theorem execSyncWaitRetry_ends (e x) (s : State) : Ends s (execSyncWaitRetry e x s) := by
  unfold execSyncWaitRetry
  grind only [Ends.notDue, Ends.due, State.Formed.updCtx, State.Formed.feRanges, State.Formed.startWait]

theorem execFeWaitStall_ends (e x) (s : State) : Ends s (execFeWaitStall e x s) := by
  unfold execFeWaitStall
  grind only [Ends.notDue, Ends.due, State.Formed.updCtx, State.Formed.engEvent]

theorem execFenceComplete_ends (e x) (s : State) : Ends s (execFenceComplete e x s) := by
  unfold execFenceComplete
  grind only [Ends.notDue, Ends.due, State.Formed.updCtx, State.Formed.failCtx, State.Formed.takeHeld]

theorem execLaunchComplete_ends (e x) (s : State) : Ends s (execLaunchComplete e x s) := by
  unfold execLaunchComplete
  grind only [Ends.due, State.Formed.updCtx, State.Formed.failCtx, State.Formed.emptyCtx, State.Formed.takeHeld]

theorem execContextFaultHalt_ends (e x) (s : State) : Ends s (execContextFaultHalt e x s) := by
  unfold execContextFaultHalt
  grind only [Ends.notDue, Ends.due, State.Formed.emptyCtx]

/-! `Machine/Move.lean` -/

theorem execMov_ends (e x f) (s : State) : Ends s (execMov e x f s) := by
  unfold execMov
  grind only [Ends.issue, movRun_formed]

theorem execFill_ends (e x f) (s : State) : Ends s (execFill e x f s) := by
  unfold execFill
  grind only [Ends.issue, fillRun_formed]

theorem execGather_ends (e x f) (s : State) : Ends s (execGather e x f s) := by
  unfold execGather
  grind only [Ends.issue, gatherRun_formed]

theorem execScatter_ends (e x f) (s : State) : Ends s (execScatter e x f s) := by
  unfold execScatter
  grind only [Ends.issue, scatterRun_formed]

theorem execScatterAdd_ends (e x f) (s : State) : Ends s (execScatterAdd e x f s) := by
  unfold execScatterAdd
  grind only [Ends.issue, scatterAddRun_formed]

theorem execCompact_ends (e x f) (s : State) : Ends s (execCompact e x f s) := by
  unfold execCompact
  grind only [Ends.issue, compactRun_formed]

/-! `Machine/Matrix.lean` -/

theorem execMma_ends (e x f sc) (s : State) : Ends s (execMma e x f sc s) := by
  unfold execMma
  grind only [Ends.issue, mmaRun_formed]

theorem execMmaT_ends (e x f sc) (s : State) : Ends s (execMmaT e x f sc s) := by
  unfold execMmaT
  grind only [Ends.issue, mmatRun_formed]

theorem execAccZero_ends (e x f) (s : State) : Ends s (execAccZero e x f s) := by
  unfold execAccZero
  grind only [Ends.issue, accZeroRun_formed]

theorem execAccSt_ends (e x f) (s : State) : Ends s (execAccSt e x f s) := by
  unfold execAccSt
  grind only [Ends.issue, accStRun_formed]

theorem execAccLd_ends (e x f) (s : State) : Ends s (execAccLd e x f s) := by
  unfold execAccLd
  grind only [Ends.issue, accLdRun_formed]

/-! `Machine/Vector.lean` -/

theorem vecTwo_ends (op code e x f) (s : State) : Ends s (vecTwo op code e x f s) := by
  unfold vecTwo
  grind only [Ends.issue, twoRun_formed]

theorem execVAdd_ends (e x f) (s : State) : Ends s (execVAdd e x f s) := by
  unfold execVAdd
  grind only [vecTwo_ends]

theorem execVSub_ends (e x f) (s : State) : Ends s (execVSub e x f s) := by
  unfold execVSub
  grind only [vecTwo_ends]

theorem execVMul_ends (e x f) (s : State) : Ends s (execVMul e x f s) := by
  unfold execVMul
  grind only [vecTwo_ends]

theorem execVMin_ends (e x f) (s : State) : Ends s (execVMin e x f s) := by
  unfold execVMin
  grind only [vecTwo_ends]

theorem execVMax_ends (e x f) (s : State) : Ends s (execVMax e x f s) := by
  unfold execVMax
  grind only [vecTwo_ends]

theorem execVFma_ends (e x f) (s : State) : Ends s (execVFma e x f s) := by
  unfold execVFma
  grind only [Ends.issue, fmaRun_formed]

theorem execVCmp_ends (e x f) (s : State) : Ends s (execVCmp e x f s) := by
  unfold execVCmp
  grind only [Ends.issue, cmpRun_formed]

theorem execVSel_ends (e x f) (s : State) : Ends s (execVSel e x f s) := by
  unfold execVSel
  grind only [Ends.issue, selRun_formed]

theorem execVFn_ends (e x f) (s : State) : Ends s (execVFn e x f s) := by
  unfold execVFn
  grind only [Ends.issue, fnRun_formed]

theorem execVCvt_ends (e x f) (s : State) : Ends s (execVCvt e x f s) := by
  unfold execVCvt
  grind only [Ends.issue, cvtRun_formed]

theorem execVRed_ends (e x f) (s : State) : Ends s (execVRed e x f s) := by
  unfold execVRed
  grind only [Ends.issue, redRun_formed]

theorem execTopk_ends (e x f) (s : State) : Ends s (execTopk e x f s) := by
  unfold execTopk
  grind only [Ends.issue, topkRun_formed]

/-! `Machine/Collective.lean` -/

theorem Ends.collIssue (i : Ins) (e x : Nat) (f : Fields) (s : State) {run : Run → Run} (hrun : ∀ r, r.s.Formed → (run r).s.Formed) :
    Ends s (collIssue i e x f s run) := by
  refine .due _ fun h => h.issued ?_ _
  have core := issueCore_formed (h.slowed (4 * e + x) f.met.slow) i (4 * e + x) f hrun
  grind only [State.Formed.collFailIssue]

theorem execReduce_ends (e x f) (s : State) : Ends s (execReduce e x f s) := by
  unfold execReduce
  grind only [Ends.collIssue, reduceRun_formed]

theorem execMmaReduce_ends (e x f sc) (s : State) : Ends s (execMmaReduce e x f sc s) := by
  unfold execMmaReduce
  grind only [Ends.collIssue, mmaReduceRun_formed]

theorem execLseReduce_ends (e x f) (s : State) : Ends s (execLseReduce e x f s) := by
  unfold execLseReduce
  grind only [Ends.collIssue, lseRun_formed]

theorem execBcast_ends (e x f) (s : State) : Ends s (execBcast e x f s) := by
  unfold execBcast
  grind only [Ends.collIssue, bcastRun_formed]

theorem execBcastMma_ends (e x f) (s : State) : Ends s (execBcastMma e x f s) := by
  unfold execBcastMma
  grind only [Ends.collIssue, bcastMmaRun_formed]

theorem execChunkPlaced_ends (g r j h data bad) (s : State) : Ends s (execChunkPlaced g r j h data bad s) := by
  unfold execChunkPlaced
  grind only [Ends.notDue, Ends.due, State.Formed.arrive, State.Formed.arrived, State.Formed.chunkIn]

theorem execReadyWordPlaced_ends (g r j seq) (s : State) : Ends s (execReadyWordPlaced g r j seq s) := by
  unfold execReadyWordPlaced
  grind only [Ends.notDue, Ends.due, State.Formed.arrive, State.Formed.arrived, State.Formed.readyIn]

theorem execAbandonWordPlaced_ends (g r src seq code) (s : State) : Ends s (execAbandonWordPlaced g r src seq code s) := by
  unfold execAbandonWordPlaced
  grind only [Ends.notDue, Ends.done, State.Formed.arrive, State.Formed.arrived, State.Formed.abandonIn]

theorem execChunkCombine_ends (g r) (s : State) : Ends s (execChunkCombine g r s) := by
  unfold execChunkCombine
  grind only [Ends.notDue, Ends.due, State.Formed.combineChunk]

theorem execChunkSend_ends (g r) (s : State) : Ends s (execChunkSend g r s) := by
  unfold execChunkSend
  grind only [Ends.notDue, Ends.due, State.Formed.markWord, State.Formed.updColl, State.Formed.edge]

theorem execBcastChunkForward_ends (g r) (s : State) : Ends s (execBcastChunkForward g r s) := by
  unfold execBcastChunkForward
  grind only [State.Formed.foldl, Ends.notDue, Ends.due, State.Formed.forward]

theorem execInstanceComplete_ends (g r sc) (s : State) : Ends s (execInstanceComplete g r sc s) := by
  unfold execInstanceComplete
  grind only [Ends.notDue, Ends.due, State.Formed.updCtx, Run.formed_upd, Run.formed_finish, State.Formed.updGrp, State.Formed.schEvent,
    State.Formed.abandon, Run.formed_collFinal]

theorem execCollectiveStall_ends (g r) (s : State) : Ends s (execCollectiveStall g r s) := by
  unfold execCollectiveStall
  grind only [State.Formed.foldl, Ends.notDue, State.Formed.inc, Ends.due, State.Formed.updGrp, State.Formed.updColl,
    State.Formed.schEvent]

/-! `Machine/Expert.lean` -/

theorem execDispatch_ends (e x f) (s : State) : Ends s (execDispatch e x f s) := by
  unfold execDispatch
  grind only [Ends.issue, dispatchRun_formed]

theorem execDispatchComplete_ends (e x) (s : State) : Ends s (execDispatchComplete e x s) := by
  unfold execDispatchComplete
  grind only [State.Formed.foldl, Ends.due, Run.formed_write, State.Formed.failCtx, Run.formed_finish, State.Formed.moeEnd]

theorem execCombine_ends (e x f) (s : State) : Ends s (execCombine e x f s) := by
  unfold execCombine
  grind only [Ends.issue, combineRun_formed]

theorem execCombineCompute_ends (e x : Nat) (s : State) : Ends s (execCombineCompute e x s) := by
  unfold execCombineCompute
  refine .due _ fun h => ?_
  split
  · exact (h.moeEnd ..).failCtx ..
  · dsimp only
    apply Run.formed_finish
    apply State.Formed.moeEnd
    apply Run.formed_putVals
    apply Run.formed_feClear
    refine Run.formed_foldl (fun r row hr => Run.formed_foldl (fun r y hr => Run.formed_flag hr _) row hr) _ ?_
    apply Run.formed_rowsOf (Run.formed_read h ..)
    intro r t hr
    dsimp only
    apply Run.formed_foldlFst
    · exact fun acc c hacc => Run.formed_codes hacc ..
    · exact hr

/-! `Machine/Deliver.lean` -/

theorem arriving_ends (i op p) (s : State) : Ends s (arriving i op p s) := by
  unfold arriving
  grind only [Ends.due, State.Formed.phisalArrive]

theorem execWrite_ends (p) (s : State) : Ends s (execWrite p s) := by
  unfold execWrite
  grind only [arriving_ends]

theorem execReadReq_ends (p) (s : State) : Ends s (execReadReq p s) := by
  unfold execReadReq
  grind only [arriving_ends]

theorem execReadResp_ends (p) (s : State) : Ends s (execReadResp p s) := by
  unfold execReadResp
  grind only [arriving_ends]

theorem execFlush_ends (p) (s : State) : Ends s (execFlush p s) := by
  unfold execFlush
  grind only [arriving_ends]

theorem execDispatchPacket_ends (p) (s : State) : Ends s (execDispatchPacket p s) := by
  unfold execDispatchPacket
  grind only [arriving_ends]

theorem execAck_ends (p) (s : State) : Ends s (execAck p s) := by
  unfold execAck
  grind only [arriving_ends]

theorem execNak_ends (p) (s : State) : Ends s (execNak p s) := by
  unfold execNak
  grind only [arriving_ends]

theorem execConnReq_ends (p) (s : State) : Ends s (execConnReq p s) := by
  unfold execConnReq
  grind only [arriving_ends]

theorem execConnAccept_ends (p) (s : State) : Ends s (execConnAccept p s) := by
  unfold execConnAccept
  grind only [arriving_ends]

theorem execConnReject_ends (p) (s : State) : Ends s (execConnReject p s) := by
  unfold execConnReject
  grind only [arriving_ends]

theorem execConnClose_ends (p) (s : State) : Ends s (execConnClose p s) := by
  unfold execConnClose
  grind only [arriving_ends]

theorem execConnClosed_ends (p) (s : State) : Ends s (execConnClosed p s) := by
  unfold execConnClosed
  grind only [arriving_ends]

theorem execDomrst_ends (p) (s : State) : Ends s (execDomrst p s) := by
  unfold execDomrst
  grind only [arriving_ends]

theorem execDomrstAck_ends (p) (s : State) : Ends s (execDomrstAck p s) := by
  unfold execDomrstAck
  grind only [arriving_ends]

theorem execDomrstAckTimeout_ends (s : State) : Ends s (execDomrstAckTimeout s) := by
  unfold execDomrstAckTimeout
  split
  · exact .due _ fun h => h.beginReset ..
  · exact .notDue s

/-! `Machine/Fabric.lean` -/

theorem execRouterInboundTransfer_ends (src p e x off fn data fence poison parityErr) (s : State) :
    Ends s (execRouterInboundTransfer src p e x off fn data fence poison parityErr s) := by
  unfold execRouterInboundTransfer
  grind only [State.Formed.useNoc, Ends.due, State.Formed.routerParity, State.Formed.releaseCmd, State.Formed.fencedArrival]

theorem execNocFenceMarker_ends (src dst p) (s : State) : Ends s (execNocFenceMarker src dst p s) := by
  unfold execNocFenceMarker
  grind only [Ends.due, State.Formed.updNoc, State.Formed.releaseFenced]

theorem execPlaneRetire_ends (p) (s : State) : Ends s (execPlaneRetire p s) := by
  unfold execPlaneRetire
  grind only [Ends.due, State.Formed.updNoc, State.Formed.planeSt, State.Formed.releaseFenced]

theorem execPlaneFinalMarker_ends (src dst) (s : State) : Ends s (execPlaneFinalMarker src dst s) := by
  unfold execPlaneFinalMarker
  grind only [Ends.notDue, Ends.due, State.Formed.updNoc, State.Formed.planeSt, State.Formed.releaseFenced]

theorem execPlaneFailTimeout_ends (s : State) : Ends s (execPlaneFailTimeout s) := by
  unfold execPlaneFailTimeout
  grind only [State.Formed.foldl, Ends.notDue, State.Formed.event, Ends.due, State.Formed.updNoc, State.Formed.planeSt,
    State.Formed.bounce]

theorem execPlaneReturn_ends (p) (s : State) : Ends s (execPlaneReturn p s) := by
  unfold execPlaneReturn
  grind only [Ends.due, State.Formed.planeSt]

theorem execTileScrub_ends (t w err) (s : State) : Ends s (execTileScrub t w err s) := by
  unfold execTileScrub
  grind only [Ends.due, State.Formed.scrubWord]

theorem execForcedScrubCycle_ends (t w err) (s : State) : Ends s (execForcedScrubCycle t w err s) := by
  unfold execForcedScrubCycle
  grind only [Ends.due, State.Formed.scrubWord]

theorem execMigrationCopyComplete_ends (e) (s : State) : Ends s (execMigrationCopyComplete e s) := by
  unfold execMigrationCopyComplete
  grind only [State.Formed.foldl, Ends.notDue, Ends.due, State.Formed.updEng, State.Formed.mirrorIn, State.Formed.tsWrite,
    State.Formed.migrated, State.Formed.releaseCmd]

/-! `Machine/Send.lean` -/

theorem execPacketSend_ends (c : Nat) (s : State) : Ends s (execPacketSend c s) := by
  unfold execPacketSend
  split
  · exact .notDue s
  · next t sent =>
    split
    · refine .done fun h => ?_
      cases again : (s.cacheHit c).sendNext c with
      | none => exact h.sendNext c sent
      | some u => exact (h.cacheHit c).sendNext c again
    · exact .due _ fun h => h.cacheMiss ..

theorem execGapTimerExpiry_ends (c) (s : State) : Ends s (execGapTimerExpiry c s) := by
  unfold execGapTimerExpiry
  grind only [Ends.due, State.Formed.goBackN]

theorem execRetransmitTimeout_ends (c) (s : State) : Ends s (execRetransmitTimeout c s) := by
  unfold execRetransmitTimeout
  grind only [Ends.due, State.Formed.goBackN]

theorem execReorderDeadline_ends (c) (s : State) : Ends s (execReorderDeadline c s) := by
  unfold execReorderDeadline
  grind only [Ends.due, State.Formed.reorderAck]

theorem execBusyResend_ends (c) (s : State) : Ends s (execBusyResend c s) := by
  unfold execBusyResend
  grind only [Ends.notDue, Ends.due, State.Formed.updConn, State.Formed.sendOne]

theorem execCtxFillComplete_ends (c bad) (s : State) : Ends s (execCtxFillComplete c bad s) := by
  unfold execCtxFillComplete
  grind only [Ends.notDue, State.Formed.inc, State.Formed.memRead, Ends.done, Ends.due, State.Formed.updPsl, State.Formed.cacheFill,
    State.Formed.fillServe, State.Formed.fillBad]

theorem execCtxSweepVisit_ends (slice set way) (s : State) : Ends s (execCtxSweepVisit slice set way s) := by
  unfold execCtxSweepVisit
  grind only [State.Formed.inc, Ends.done, State.Formed.updPsl, State.Formed.cachePut, State.Formed.writeBack, State.Formed.goBackN,
    State.Formed.reorderAck]

theorem execMrInvComplete_ends (s : State) : Ends s (execMrInvComplete s) := by
  unfold execMrInvComplete
  grind only [Ends.notDue, Ends.due, State.Formed.updPsl]

theorem execKeyDerivationComplete_ends (n) (s : State) : Ends s (execKeyDerivationComplete n s) := by
  unfold execKeyDerivationComplete
  grind only [Ends.notDue, Ends.done, State.Formed.deriveKey, State.Formed.updPsl]

theorem execFrameTransmit_ends (q) (s : State) : Ends s (execFrameTransmit q s) := by
  unfold execFrameTransmit
  grind only [Ends.notDue, Ends.done, State.Formed.nextFrame]

/-! `Machine/Align.lean` -/

theorem execPlumbMarkSend_ends (i) (s : State) : Ends s (execPlumbMarkSend i s) := by
  unfold execPlumbMarkSend
  grind only [Ends.notDue, Ends.due, State.Formed.updUp, State.Formed.sendMark]

theorem execPlumbEntrySilent_ends (i) (s : State) : Ends s (execPlumbEntrySilent i s) := by
  unfold execPlumbEntrySilent
  grind only [Ends.due, State.Formed.updUp, State.Formed.reselect]

theorem execPlumbMark_ends (p) (s : State) : Ends s (execPlumbMark p s) := by
  unfold execPlumbMark
  grind only [Ends.due, State.Formed.arrival, State.Formed.coreDeliver, State.Formed.updPlumb, State.Formed.dropMark,
    State.Formed.answerMark]

theorem execPlumbPartnerExpire_ends (port dev) (s : State) : Ends s (execPlumbPartnerExpire port dev s) := by
  unfold execPlumbPartnerExpire
  grind only [Ends.due, State.Formed.updPlumb]

theorem execPlumbAnswer_ends (p) (s : State) : Ends s (execPlumbAnswer p s) := by
  unfold execPlumbAnswer
  grind only [State.Formed.inc, Ends.due, State.Formed.arrival, State.Formed.coreDeliver, State.Formed.takeAnswer]

theorem execHoldoverEvent_ends (s : State) : Ends s (execHoldoverEvent s) := by
  unfold execHoldoverEvent
  split
  · exact .due _ fun h => (h.updPlumb _).event _
  · exact .notDue s

/-! `Machine/Attn.lean` -/

theorem execAttnBlock_ends (e x f) (s : State) : Ends s (execAttnBlock e x f s) := by
  unfold execAttnBlock
  grind only [Ends.issue, attnRun_formed]

/-! `Machine/Blackbox.lean` -/

theorem execFreezeLimit_ends (s : State) : Ends s (execFreezeLimit s) := by
  unfold execFreezeLimit
  grind only [State.Formed.setReg, State.Formed.event, State.Formed.audit, Ends.due, State.Formed.unfreeze]

theorem execFlushComplete_ends (s : State) : Ends s (execFlushComplete s) := by
  unfold execFlushComplete
  grind only [Ends.due, State.Formed.flushDone]

/-! `Machine/Cluster.lean` -/

theorem execOwnershipRequest_ends (line reqs err) (s : State) : Ends s (execOwnershipRequest line reqs err s) := by
  unfold execOwnershipRequest
  grind only [Ends.dueMem, State.Formed.ownLine, State.Formed.cacheErr]

theorem execCoreOffline_ends (n) (s : State) : Ends s (execCoreOffline n s) := by
  unfold execCoreOffline
  grind only [State.Formed.event, Ends.due, State.Formed.updCores]

theorem execNbSweepVisit_ends (set) (s : State) : Ends s (execNbSweepVisit set s) := by
  unfold execNbSweepVisit
  grind only [State.Formed.foldl, Ends.due, State.Formed.updCores]

/-! `Machine/Queue.lean` -/

theorem execDescriptorIssue_ends (s : State) : Ends s (execDescriptorIssue s) := by
  unfold execDescriptorIssue
  grind only [Ends.notDue, Ends.done, State.Formed.grantIssue]

theorem execFlr_ends (fn) (s : State) : Ends s (execFlr fn s) := by
  unfold execFlr
  grind only [Ends.done, State.Formed.flr]

theorem execFlrBound_ends (fn : Nat) (s : State) : Ends s (execFlrBound fn s) := by
  unfold execFlrBound
  split
  · exact .due _ fun h => (((h.flrBoundary fn).updFn ..).flrEnd ..).flrStep
  · exact .notDue s

theorem execVfEnable_ends (num en) (s : State) : Ends s (execVfEnable num en s) := by
  unfold execVfEnable
  grind only [State.Formed.foldl, Ends.done, State.Formed.setFn, State.Formed.disableVf]

theorem execDescriptorComplete_ends (q n) (s : State) : Ends s (execDescriptorComplete q n s) := by
  unfold execDescriptorComplete
  grind only [Ends.notDue, Ends.due, State.Formed.updWq, State.Formed.arbEnter, State.Formed.complete, State.Formed.drainStep,
    State.Formed.removeStep, State.Formed.flrStep]

theorem execWqDoorbell_ends (fn slot : Nat) (v : W32) (s : State) : Ends s (execWqDoorbell fn slot v s) := by
  unfold execWqDoorbell
  split
  · exact .done id
  · extract_lets w
    split
    · exact .done id
    · split
      · exact .done fun h => h.updRep ..
      · split
        · exact .done fun h => h.malformed ..
        · exact .done fun h => (h.updWq ..).arbEnter

theorem execCqConsumerWrite_ends (fn slot v) (s : State) : Ends s (execCqConsumerWrite fn slot v s) := by
  unfold execCqConsumerWrite
  grind only [Ends.done, State.Formed.updWq, State.Formed.arbEnter]

theorem execEvqDoorbell_ends (fn slot count arm) (s : State) : Ends s (execEvqDoorbell fn slot count arm s) := by
  unfold execEvqDoorbell
  grind only [Ends.done, State.Formed.updEvq]

theorem execDescriptorFetch_ends (q host) (s : State) : Ends s (execDescriptorFetch q host s) := by
  unfold execDescriptorFetch
  grind only [Ends.dueMem, State.Formed.record, State.Formed.replay, State.Formed.updWq, State.Formed.fetch]

theorem execMsixSend_ends (v) (s : State) : Ends s (execMsixSend v s) := by
  unfold execMsixSend
  grind only [State.Formed.emit, Ends.due, State.Formed.updFn, State.Formed.updEvq]

theorem execMsixVectorUnmask_ends (fn v) (s : State) : Ends s (execMsixVectorUnmask fn v s) := by
  unfold execMsixVectorUnmask
  grind only [State.Formed.emit, Ends.due, State.Formed.updFn]

/-! `Machine/Rings.lean` -/

theorem Ends.wdExec (op q n : Nat) (s : State) {run : State → Job → State} (hrun : ∀ u j, u.Formed → (run u j).Formed) :
    Ends s (wdExec op q n s run) := by
  unfold Machine.wdExec
  split
  · exact .notDue s
  · refine .dueMem _ _ fun h => ?_
    grind only [State.Formed.updJob, State.Formed.jobDone]

theorem execWdNop_ends (q n) (s : State) : Ends s (execWdNop q n s) := by
  unfold execWdNop
  grind only [State.Formed.jobDone, Ends.wdExec]

theorem execWdCopy_ends (q n src bad) (s : State) : Ends s (execWdCopy q n src bad s) := by
  unfold execWdCopy
  grind only [State.Formed.wdRun, Ends.wdExec]

theorem execWdWrite_ends (q n src) (s : State) : Ends s (execWdWrite q n src s) := by
  unfold execWdWrite
  grind only [State.Formed.wdRun, Ends.wdExec]

theorem execWdRead_ends (q n) (s : State) : Ends s (execWdRead q n s) := by
  unfold execWdRead
  grind only [State.Formed.wdRun, Ends.wdExec]

theorem execWdFlush_ends (q n) (s : State) : Ends s (execWdFlush q n s) := by
  unfold execWdFlush
  grind only [State.Formed.flushRun, Ends.wdExec]

theorem execLaunch_ends (q n) (s : State) : Ends s (execLaunch q n s) := by
  unfold execLaunch
  grind only [State.Formed.submit, Ends.wdExec]

theorem execPcieCompletion_ends (ctl tag data bad) (s : State) : Ends s (execPcieCompletion ctl tag data bad s) := by
  unfold execPcieCompletion
  grind only [State.Formed, State.Formed.inc, State.Formed.event, Ends.due, Ends.dueMem, State.Formed.flrStep, State.Formed.pcieDone]

theorem execCompletionTimeout_ends (ctl tag) (s : State) : Ends s (execCompletionTimeout ctl tag s) := by
  unfold execCompletionTimeout
  grind only [State.Formed, Ends.notDue, State.Formed.inc, Ends.due, State.Formed.flrStep, State.Formed.pcieDone]

theorem execWqLoad_ends (q n) (s : State) : Ends s (execWqLoad q n s) := by
  unfold execWqLoad
  grind only [Ends.wdExec, State.Formed.wqPut, State.Formed.tableLoad]

theorem execWqDisable_ends (q n) (s : State) : Ends s (execWqDisable q n s) := by
  unfold execWqDisable
  grind only [State.Formed.jobDone, State.Formed.updWq, State.Formed.arbEnter, State.Formed.drainStep, Ends.wdExec]

theorem execEvqLoad_ends (q n) (s : State) : Ends s (execEvqLoad q n s) := by
  unfold execEvqLoad
  grind only [State.Formed.memRead, Ends.wdExec, State.Formed.evqPut, State.Formed.tableLoad]

theorem execFnRemove_ends (q n) (s : State) : Ends s (execFnRemove q n s) := by
  unfold execFnRemove
  grind only [State.Formed.jobDone, State.Formed.updFn, State.Formed.arbEnter, State.Formed.closeAll, State.Formed.removeStep, Ends.wdExec]

theorem execRootPortInbound_ends (ctl addr len data xl) (s : State) : Ends s (execRootPortInbound ctl addr len data xl s) := by
  unfold execRootPortInbound
  grind only [State.Formed.inc, State.Formed.emit, Ends.dueMem, State.Formed.orWait, State.Formed.rpRun]

theorem execControllerReset_ends (ctl) (s : State) : Ends s (execControllerReset ctl s) := by
  unfold execControllerReset
  grind only [Ends.due, State.Formed.flr, State.Formed.ctlDown]

/-! `Machine/Walk.lean` -/

theorem execWalkStart_ends (w) (s : State) : Ends s (execWalkStart w s) := by
  unfold execWalkStart
  grind only [Ends.notDue, Ends.due, State.Formed.updXlt, State.Formed.askPages]

theorem execWalkComplete_ends (w) (s : State) : Ends s (execWalkComplete w s) := by
  unfold execWalkComplete
  grind only [Ends.notDue, Ends.dueMem, State.Formed.xltCount, State.Formed.walkPage, State.Formed.serve, State.Formed.freeWalker,
    State.Formed.fillWalk]

theorem execWalkTimeout_ends (w) (s : State) : Ends s (execWalkTimeout w s) := by
  unfold execWalkTimeout
  grind only [Ends.notDue, Ends.dueMem, State.Formed.serve, State.Formed.freeWalker]

theorem execXltSweepVisit_ends (set) (s : State) : Ends s (execXltSweepVisit set s) := by
  unfold execXltSweepVisit
  grind only [State.Formed.foldl, Ends.due, State.Formed.updXlt, State.Formed.ageXlt, State.Formed.ageWalk]

theorem execInvComplete_ends (win) (s : State) : Ends s (execInvComplete win s) := by
  unfold execInvComplete
  grind only [State.Formed.notify, Ends.due, State.Formed.updXlt]

theorem execAtsCompletion_ends (fn va xlated log2 ok rd wr) (s : State) : Ends s (execAtsCompletion fn va xlated log2 ok rd wr s) := by
  unfold execAtsCompletion
  grind only [Ends.notDue, Ends.dueMem, State.Formed.xltFill, State.Formed.serve, State.Formed.atsDone]

theorem execAtsTimeout_ends (fn va) (s : State) : Ends s (execAtsTimeout fn va s) := by
  unfold execAtsTimeout
  grind only [Ends.notDue, Ends.dueMem, State.Formed.serve, State.Formed.atsDone]

theorem execAtsInvalidate_ends (fn) (s : State) : Ends s (execAtsInvalidate fn s) := by
  unfold execAtsInvalidate
  grind only [Ends.done, State.Formed.xltCount, State.Formed.xltDrop, State.Formed.updXlt, State.Formed.askPages]

theorem execAtsInvComplete_ends (fn) (s : State) : Ends s (execAtsInvComplete fn s) := by
  unfold execAtsInvComplete
  grind only [Ends.notDue, State.Formed.emit, Ends.due, State.Formed.updXlt]

/-! `Machine/Registers.lean` -/

theorem execRegisterWrite_ends (o off wide v) (s : State) : Ends s (execRegisterWrite o off wide v s) := by
  unfold execRegisterWrite
  grind only [Ends.done, State.Formed.busWrite]

theorem execCounterRead_ends (o off wide) (s : State) : Ends s (execCounterRead o off wide s) := by
  unfold execCounterRead
  grind only [State.Formed.emit, Ends.done, State.Formed.readReg]

theorem execAuditHoldEnd_ends (us) (s : State) : Ends s (execAuditHoldEnd us s) := by
  unfold execAuditHoldEnd
  grind only [State.Formed.foldl, State.Formed.inc, State.Formed.event, Ends.due, State.Formed.updRecs, State.Formed.regWrite]

theorem cmdWrite_ends (o pfOff vfOff v) (s : State) : Ends s (cmdWrite o pfOff vfOff v s) := by
  unfold cmdWrite
  grind only [Ends.done, State.Formed.busWrite]

theorem execBlkCommit_ends (o pg v) (s : State) : Ends s (execBlkCommit o pg v s) := by
  unfold execBlkCommit
  grind only [cmdWrite_ends]

theorem execBlkLock_ends (o pg) (s : State) : Ends s (execBlkLock o pg s) := by
  unfold execBlkLock
  grind only [cmdWrite_ends]

theorem execBlkIrqStatClear_ends (o pg v) (s : State) : Ends s (execBlkIrqStatClear o pg v s) := by
  unfold execBlkIrqStatClear
  grind only [cmdWrite_ends]

theorem execBlkIrqForce_ends (o pg v) (s : State) : Ends s (execBlkIrqForce o pg v s) := by
  unfold execBlkIrqForce
  grind only [cmdWrite_ends]

theorem execPlumbLoad_ends (o v) (s : State) : Ends s (execPlumbLoad o v s) := by
  unfold execPlumbLoad
  grind only [Ends.done, State.Formed.busWrite]

theorem execCgCancel_ends (o g) (s : State) : Ends s (execCgCancel o g s) := by
  unfold execCgCancel
  grind only [cmdWrite_ends]

theorem execSnapshotArm_ends (o tick) (s : State) : Ends s (execSnapshotArm o tick s) := by
  unfold execSnapshotArm
  grind only [Ends.done, State.Formed.busWrite]

theorem execDomainResetStart_ends (o g) (s : State) : Ends s (execDomainResetStart o g s) := by
  unfold execDomainResetStart
  grind only [cmdWrite_ends]

theorem execContextHold_ends (o e x) (s : State) : Ends s (execContextHold o e x s) := by
  unfold execContextHold
  grind only [cmdWrite_ends]

theorem execContextRelease_ends (o e x) (s : State) : Ends s (execContextRelease o e x s) := by
  unfold execContextRelease
  grind only [cmdWrite_ends]

theorem feWrite_ends (o cmd) (s : State) : Ends s (feWrite o cmd s) := by
  unfold feWrite
  grind only [cmdWrite_ends]

theorem execDbgFeRead_ends (o) (s : State) : Ends s (execDbgFeRead o s) := by
  unfold execDbgFeRead
  grind only [feWrite_ends]

theorem execDbgFeWriteKeep_ends (o) (s : State) : Ends s (execDbgFeWriteKeep o s) := by
  unfold execDbgFeWriteKeep
  grind only [feWrite_ends]

theorem execDbgFeWriteFull_ends (o) (s : State) : Ends s (execDbgFeWriteFull o s) := by
  unfold execDbgFeWriteFull
  grind only [feWrite_ends]

theorem execDbgFeWriteEmpty_ends (o) (s : State) : Ends s (execDbgFeWriteEmpty o s) := by
  unfold execDbgFeWriteEmpty
  grind only [feWrite_ends]

theorem execDbgFeSetFull_ends (o) (s : State) : Ends s (execDbgFeSetFull o s) := by
  unfold execDbgFeSetFull
  grind only [feWrite_ends]

theorem execDbgFeSetEmpty_ends (o) (s : State) : Ends s (execDbgFeSetEmpty o s) := by
  unfold execDbgFeSetEmpty
  grind only [feWrite_ends]

theorem execHbmDieRetire_ends (o m die) (s : State) : Ends s (execHbmDieRetire o m die s) := by
  unfold execHbmDieRetire
  grind only [cmdWrite_ends]

theorem execHbmRepairCmd_ends (o m pc bank row) (s : State) : Ends s (execHbmRepairCmd o m pc bank row s) := by
  unfold execHbmRepairCmd
  grind only [cmdWrite_ends]

theorem diagWriteCmd_ends (o cmd) (s : State) : Ends s (diagWriteCmd o cmd s) := by
  unfold diagWriteCmd
  grind only [cmdWrite_ends]

theorem execDiagRawRead_ends (o) (s : State) : Ends s (execDiagRawRead o s) := by
  unfold execDiagRawRead
  grind only [diagWriteCmd_ends]

theorem execDiagRawWrite_ends (o) (s : State) : Ends s (execDiagRawWrite o s) := by
  unfold execDiagRawWrite
  grind only [diagWriteCmd_ends]

theorem execDiagArmFlip_ends (o) (s : State) : Ends s (execDiagArmFlip o s) := by
  unfold execDiagArmFlip
  grind only [diagWriteCmd_ends]

theorem execDiagDisarm_ends (o) (s : State) : Ends s (execDiagDisarm o s) := by
  unfold execDiagDisarm
  grind only [diagWriteCmd_ends]

theorem invWrite_ends (o fn tag scope notify) (s : State) : Ends s (invWrite o fn tag scope notify s) := by
  unfold invWrite
  grind only [cmdWrite_ends]

theorem execInvTag_ends (o fn tag notify) (s : State) : Ends s (execInvTag o fn tag notify s) := by
  unfold execInvTag
  grind only [invWrite_ends]

theorem execInvFunction_ends (o fn notify) (s : State) : Ends s (execInvFunction o fn notify s) := by
  unfold execInvFunction
  grind only [invWrite_ends]

theorem execInvFunctionReload_ends (o fn notify) (s : State) : Ends s (execInvFunctionReload o fn notify s) := by
  unfold execInvFunctionReload
  grind only [invWrite_ends]

theorem execXltFaultAck_ends (o) (s : State) : Ends s (execXltFaultAck o s) := by
  unfold execXltFaultAck
  grind only [cmdWrite_ends]

theorem connWrite_ends (o c op) (s : State) : Ends s (connWrite o c op s) := by
  unfold connWrite
  grind only [cmdWrite_ends]

theorem execConnCmdOpen_ends (o c) (s : State) : Ends s (execConnCmdOpen o c s) := by
  unfold execConnCmdOpen
  grind only [connWrite_ends]

theorem execConnCmdClose_ends (o c) (s : State) : Ends s (execConnCmdClose o c s) := by
  unfold execConnCmdClose
  grind only [connWrite_ends]

theorem execConnCmdForceClose_ends (o c) (s : State) : Ends s (execConnCmdForceClose o c s) := by
  unfold execConnCmdForceClose
  grind only [connWrite_ends]

theorem execConnCmdView_ends (o c) (s : State) : Ends s (execConnCmdView o c s) := by
  unfold execConnCmdView
  grind only [connWrite_ends]

theorem execMrInvalidate_ends (o i) (s : State) : Ends s (execMrInvalidate o i s) := by
  unfold execMrInvalidate
  grind only [cmdWrite_ends]

theorem execSealEpochStage_ends (o n epoch) (s : State) : Ends s (execSealEpochStage o n epoch s) := by
  unfold execSealEpochStage
  grind only [cmdWrite_ends]

theorem mbxWrite_ends (o vf v) (s : State) : Ends s (mbxWrite o vf v s) := by
  unfold mbxWrite
  grind only [cmdWrite_ends]

theorem execMbxSend_ends (o vf control) (s : State) : Ends s (execMbxSend o vf control s) := by
  unfold execMbxSend
  grind only [mbxWrite_ends]

theorem execMbxAck_ends (o vf) (s : State) : Ends s (execMbxAck o vf s) := by
  unfold execMbxAck
  grind only [mbxWrite_ends]

theorem execMbxCancel_ends (o vf) (s : State) : Ends s (execMbxCancel o vf s) := by
  unfold execMbxCancel
  grind only [mbxWrite_ends]

theorem fnWrite_ends (o fn v) (s : State) : Ends s (fnWrite o fn v s) := by
  unfold fnWrite
  grind only [cmdWrite_ends]

theorem execFnMask_ends (o fn) (s : State) : Ends s (execFnMask o fn s) := by
  unfold execFnMask
  grind only [fnWrite_ends]

theorem execFnUnmask_ends (o fn) (s : State) : Ends s (execFnUnmask o fn s) := by
  unfold execFnUnmask
  grind only [fnWrite_ends]

theorem execWqView_ends (o q) (s : State) : Ends s (execWqView o q s) := by
  unfold execWqView
  grind only [cmdWrite_ends]

theorem execEvqView_ends (o q) (s : State) : Ends s (execEvqView o q s) := by
  unfold execEvqView
  grind only [cmdWrite_ends]

theorem execCoreRxPost_ends (o h v) (s : State) : Ends s (execCoreRxPost o h v s) := by
  unfold execCoreRxPost
  grind only [cmdWrite_ends]

theorem execCoreTxPost_ends (o h v) (s : State) : Ends s (execCoreTxPost o h v s) := by
  unfold execCoreTxPost
  grind only [cmdWrite_ends]

theorem execNbInvalidate_ends (o dev) (s : State) : Ends s (execNbInvalidate o dev s) := by
  unfold execNbInvalidate
  grind only [cmdWrite_ends]

theorem hlthWrite_ends (o kind i op) (s : State) : Ends s (hlthWrite o kind i op s) := by
  unfold hlthWrite
  grind only [cmdWrite_ends]

theorem execHlthTestNow_ends (o kind i) (s : State) : Ends s (execHlthTestNow o kind i s) := by
  unfold execHlthTestNow
  grind only [hlthWrite_ends]

theorem execHlthRetire_ends (o i) (s : State) : Ends s (execHlthRetire o i s) := by
  unfold execHlthRetire
  grind only [hlthWrite_ends]

theorem freezeWrite_ends (o on) (s : State) : Ends s (freezeWrite o on s) := by
  unfold freezeWrite
  grind only [cmdWrite_ends]

theorem execEvrFreeze_ends (o) (s : State) : Ends s (execEvrFreeze o s) := by
  unfold execEvrFreeze
  grind only [freezeWrite_ends]

theorem execEvrUnfreeze_ends (o) (s : State) : Ends s (execEvrUnfreeze o s) := by
  unfold execEvrUnfreeze
  grind only [freezeWrite_ends]

theorem execEvrFlush_ends (o) (s : State) : Ends s (execEvrFlush o s) := by
  unfold execEvrFlush
  grind only [cmdWrite_ends]

theorem execHbKickLink_ends (o tok) (s : State) : Ends s (execHbKickLink o tok s) := by
  unfold execHbKickLink
  grind only [cmdWrite_ends]

theorem execHbKickCore_ends (o tok) (s : State) : Ends s (execHbKickCore o tok s) := by
  unfold execHbKickCore
  grind only [cmdWrite_ends]

/-! `Machine/Power.lean` -/

theorem execPowerSample_ends (eng rest) (s : State) : Ends s (execPowerSample eng rest s) := by
  unfold execPowerSample
  grind only [State.Formed.inc, State.Formed.event, Ends.due, State.Formed.updPwr, State.Formed.pwrAudited]

theorem execThermalReading_ends (n q) (s : State) : Ends s (execThermalReading n q s) := by
  unfold execThermalReading
  grind only [Ends.due, State.Formed.updThm, State.Formed.badReading, State.Formed.thermal]

theorem execThermalCapStep_ends (s : State) : Ends s (execThermalCapStep s) := by
  unfold execThermalCapStep
  grind only [Ends.notDue, Ends.due, State.Formed.pwrAudited, State.Formed.updThm]

theorem execThermalTripRecover_ends (s : State) : Ends s (execThermalTripRecover s) := by
  unfold execThermalTripRecover
  grind only [Ends.notDue, Ends.due, State.Formed.updThm]

theorem execHbmTemperatureReadout_ends (m temp) (s : State) : Ends s (execHbmTemperatureReadout m temp s) := by
  unfold execHbmTemperatureReadout
  grind only [State.Formed.updStack, Ends.due]

theorem execHeartbeatMiss_ends (core) (s : State) : Ends s (execHeartbeatMiss core s) := by
  unfold execHeartbeatMiss
  grind only [State.Formed, State.Formed.inc, State.Formed.event, Ends.due, State.Formed.pldm, State.Formed.silencePorts]

theorem execSilenceEnd_ends (s : State) : Ends s (execSilenceEnd s) := by
  unfold execSilenceEnd
  grind only [State.Formed, State.Formed.foldl, State.Formed.event, Ends.due, State.Formed.pldm, State.Formed.coreSend,
    State.Formed.unsilencePort]

/-! `Machine/Tick.lean` -/

theorem execSnapshotCapture_ends (s : State) : Ends s (execSnapshotCapture s) := by
  unfold execSnapshotCapture
  grind only [State.Formed, Ends.notDue, State.Formed.setReg, State.Formed.event, State.Formed.memWrite, Ends.done]

theorem execRecordStart_ends (r) (s : State) : Ends s (execRecordStart r s) := by
  unfold execRecordStart
  grind only [Ends.due, State.Formed.updRep]

theorem execReplayStart_ends (r) (s : State) : Ends s (execReplayStart r s) := by
  unfold execReplayStart
  grind only [Ends.due, State.Formed.updRep]

theorem execReplayStop_ends (r) (s : State) : Ends s (execReplayStop r s) := by
  unfold execReplayStop
  grind only [Ends.due, State.Formed.updRep, State.Formed.rpEnd]

theorem execReplayInputTimeout_ends (r) (s : State) : Ends s (execReplayInputTimeout r s) := by
  unfold execReplayInputTimeout
  grind only [Ends.notDue, Ends.done, State.Formed.diverge]

theorem execTickBoundary_ends (s : State) : Ends s (execTickBoundary s) := by
  unfold execTickBoundary
  grind only [Ends.due, State.Formed.passTo, State.Formed.boundary]

theorem execTickLengthApply_ends (s : State) : Ends s (execTickLengthApply s) := by
  unfold execTickLengthApply
  grind only [Ends.notDue, Ends.due, State.Formed.passTo, State.Formed.newLength]

/-! `Machine/Boot.lean` -/

theorem execResetRelease_ends (s0 s1 s2) (s : State) : Ends s (execResetRelease s0 s1 s2 s) := by
  unfold execResetRelease
  grind only [State.Formed.inc, State.Formed.event, Ends.due, State.Formed.updBoot, State.Formed.cleared]

theorem execDevrstNAssert_ends (cause) (s : State) : Ends s (execDevrstNAssert cause s) := by
  unfold execDevrstNAssert
  grind only [Ends.due, State.Formed.beginReset]

theorem execPowerOn_ends (s : State) : Ends s (execPowerOn s) := by
  unfold execPowerOn
  grind only [State.Formed, Ends.done]

theorem execSupplyFault_ends (s : State) : Ends s (execSupplyFault s) := by
  unfold execSupplyFault
  grind only [Ends.due, State.Formed.supplyReset]

theorem execSysrefLoss_ends (s : State) : Ends s (execSysrefLoss s) := by
  unfold execSysrefLoss
  grind only [Ends.due, State.Formed.updBoot, State.Formed.supplyReset]

theorem execPwrfailWarning_ends (s : State) : Ends s (execPwrfailWarning s) := by
  unfold execPwrfailWarning
  grind only [Ends.due, State.Formed.updBoot, State.Formed.powerFail]

theorem execPwrfailClear_ends (s : State) : Ends s (execPwrfailClear s) := by
  unfold execPwrfailClear
  grind only [State.Formed.event, Ends.due, State.Formed.updBoot]

theorem execImageVerifyComplete_ends (kind ver okFirst okOther) (s : State) :
    Ends s (execImageVerifyComplete kind ver okFirst okOther s) := by
  unfold execImageVerifyComplete
  grind only [State.Formed, State.Formed.event, Ends.due, State.Formed.pldm, State.Formed.updBoot, State.Formed.verifyRun,
    State.Formed.startImage]

theorem execPrimerServiceStart_ends (bad) (s : State) : Ends s (execPrimerServiceStart bad s) := by
  unfold execPrimerServiceStart
  grind only [State.Formed, State.Formed.foldl, State.Formed.event, State.Formed.updStack, Ends.due, State.Formed.pldm,
    State.Formed.updBoot, State.Formed.lockPage, State.Formed.setMac]

theorem execEngineSelfTestComplete_ends (failed) (s : State) : Ends s (execEngineSelfTestComplete failed s) := by
  unfold execEngineSelfTestComplete
  grind only [State.Formed.foldl, Ends.due, State.Formed.updBoot, State.Formed.placeEngine, State.Formed.tileFailed]

theorem execPortCalibrationComplete_ends (q ok) (s : State) : Ends s (execPortCalibrationComplete q ok s) := by
  unfold execPortCalibrationComplete
  grind only [State.Formed.event, Ends.due, State.Formed.updPort, State.Formed.updBoot]

theorem execStackRetrainComplete_ends (m ok) (s : State) : Ends s (execStackRetrainComplete m ok s) := by
  unfold execStackRetrainComplete
  grind only [State.Formed.event, State.Formed.updStack, Ends.due, State.Formed.auditDev, State.Formed.updBoot]

theorem execFinishServiceStart_ends (s : State) : Ends s (execFinishServiceStart s) := by
  unfold execFinishServiceStart
  grind only [State.Formed, State.Formed.foldl, State.Formed.event, Ends.due, State.Formed.pldm, State.Formed.commitHeld,
    State.Formed.updBoot, State.Formed.bootMode]

theorem execTrialConfirm_ends (s : State) : Ends s (execTrialConfirm s) :=
  .due _ fun h => by
    have confirmed : State.Formed { s.updNv fun n => { n with
      active := 1 - n.active, trial := false, raise := s.boot.running.map fun x => (x.1, x.2.2) } with
      glb := { s.glb with trial := false } } := h
    exact ((confirmed.updBoot _).event _).pldm _

theorem execTrialFail_ends (s : State) : Ends s (execTrialFail s) :=
  .due _ fun h => (((h.updNv _).event _).pldm _).beginReset ..

theorem execPcieLinkDown_ends (c) (s : State) : Ends s (execPcieLinkDown c s) := by
  unfold execPcieLinkDown
  grind only [Ends.due, State.Formed.ctlDown]

theorem execPcieLinkUp_ends (c speed width flit) (s : State) : Ends s (execPcieLinkUp c speed width flit s) := by
  unfold execPcieLinkUp
  grind only [State.Formed.setReg, Ends.due]

theorem execDebugPortAttached_ends (s : State) : Ends s (execDebugPortAttached s) := by
  unfold execDebugPortAttached
  grind only [State.Formed, State.Formed.event, Ends.due]

theorem execDebugPortDetached_ends (s : State) : Ends s (execDebugPortDetached s) := by
  unfold execDebugPortDetached
  grind only [State.Formed, Ends.due]

/-! `Machine/Mgmt.lean` -/

theorem Ends.request (rom : Bool) {g : State → State} (s : State) (hg : s.Formed → (g s).Formed) : Ends s (request rom g s) := by
  unfold Machine.request
  grind only [Ends.done, State.Formed.reply]

theorem execSetEndpointId_ends (eid) (s : State) : Ends s (execSetEndpointId eid s) := by
  unfold execSetEndpointId
  grind only [State.Formed.updMgmt, State.Formed.reply, Ends.request]

theorem execGetEndpointId_ends (s : State) : Ends s (execGetEndpointId s) := by
  unfold execGetEndpointId
  grind only [State.Formed.reply, Ends.request]

theorem execGetMctpVersionSupport_ends (ty) (s : State) : Ends s (execGetMctpVersionSupport ty s) := by
  unfold execGetMctpVersionSupport
  grind only [State.Formed.reply, Ends.request]

theorem execGetMessageTypeSupport_ends (s : State) : Ends s (execGetMessageTypeSupport s) := by
  unfold execGetMessageTypeSupport
  grind only [State.Formed.reply, Ends.request]

theorem execMctpAssemblyTimeout_ends (s : State) : Ends s (execMctpAssemblyTimeout s) := by
  unfold execMctpAssemblyTimeout
  grind only [Ends.done]

theorem execSetTid_ends (tid) (s : State) : Ends s (execSetTid tid s) := by
  unfold execSetTid
  grind only [State.Formed.updMgmt, State.Formed.reply, Ends.request]

theorem execGetTid_ends (s : State) : Ends s (execGetTid s) := by
  unfold execGetTid
  grind only [State.Formed.reply, Ends.request]

theorem execGetPldmVersion_ends (ty) (s : State) : Ends s (execGetPldmVersion ty s) := by
  unfold execGetPldmVersion
  grind only [State.Formed.reply, Ends.request]

theorem execGetPldmTypes_ends (s : State) : Ends s (execGetPldmTypes s) := by
  unfold execGetPldmTypes
  grind only [State.Formed.reply, Ends.request]

theorem execGetPldmCommands_ends (ty) (s : State) : Ends s (execGetPldmCommands ty s) := by
  unfold execGetPldmCommands
  grind only [State.Formed.reply, Ends.request]

theorem execSetEventReceiver_ends (en addr) (s : State) : Ends s (execSetEventReceiver en addr s) := by
  unfold execSetEventReceiver
  grind only [State.Formed.updMgmt, State.Formed.reply, Ends.request]

theorem execGetSensorReading_ends (id) (s : State) : Ends s (execGetSensorReading id s) := by
  unfold execGetSensorReading
  grind only [State.Formed.reply, Ends.request]

theorem execGetStateSensorReadings_ends (id) (s : State) : Ends s (execGetStateSensorReadings id s) := by
  unfold execGetStateSensorReadings
  grind only [State.Formed.reply, Ends.request]

theorem execGetPdr_ends (handle) (s : State) : Ends s (execGetPdr handle s) := by
  unfold execGetPdr
  grind only [State.Formed.reply, Ends.request]

theorem execPollForPlatformEventMessage_ends (s : State) : Ends s (execPollForPlatformEventMessage s) := by
  unfold execPollForPlatformEventMessage
  grind only [State.Formed.reply, Ends.request, State.Formed.dropEvent]

theorem execPldmEventSend_ends (s : State) : Ends s (execPldmEventSend s) := by
  unfold execPldmEventSend
  grind only [Ends.due, State.Formed.dropEvent, State.Formed.sendEvent]

theorem execPldmEventRetry_ends (s : State) : Ends s (execPldmEventRetry s) := by
  unfold execPldmEventRetry
  grind only [Ends.due, State.Formed.dropEvent, State.Formed.sendEvent]

theorem execGetFruRecordTableMetadata_ends (s : State) : Ends s (execGetFruRecordTableMetadata s) := by
  unfold execGetFruRecordTableMetadata
  grind only [State.Formed.reply, Ends.request]

theorem execGetFruRecordTable_ends (s : State) : Ends s (execGetFruRecordTable s) := by
  unfold execGetFruRecordTable
  grind only [State.Formed.reply, Ends.request]

theorem execQueryDeviceIdentifiers_ends (s : State) : Ends s (execQueryDeviceIdentifiers s) := by
  unfold execQueryDeviceIdentifiers
  grind only [State.Formed.reply, Ends.request]

theorem execGetFirmwareParameters_ends (s : State) : Ends s (execGetFirmwareParameters s) := by
  unfold execGetFirmwareParameters
  grind only [State.Formed.reply, Ends.request]

theorem execRequestUpdate_ends (s : State) : Ends s (execRequestUpdate s) := by
  unfold execRequestUpdate
  grind only [State.Formed.reply, Ends.request, State.Formed.updUpd]

theorem execPassComponentTable_ends (kind ver) (s : State) : Ends s (execPassComponentTable kind ver s) := by
  unfold execPassComponentTable
  grind only [State.Formed.reply, Ends.request, State.Formed.updUpd]

theorem execUpdateComponent_ends (kind ver image) (s : State) : Ends s (execUpdateComponent kind ver image s) := by
  unfold execUpdateComponent
  grind only [State.Formed.updNv, State.Formed.reply, Ends.request, State.Formed.updUpd]

theorem execTransferComplete_ends (ok) (s : State) : Ends s (execTransferComplete ok s) := by
  unfold execTransferComplete
  grind only [State.Formed.reply, Ends.request, State.Formed.updUpd]

theorem execVerifyComplete_ends (s : State) : Ends s (execVerifyComplete s) := by
  unfold execVerifyComplete
  grind only [State.Formed.event, State.Formed.imageRun, State.Formed.reply, Ends.request, State.Formed.updUpd]

theorem execApplyComplete_ends (s : State) : Ends s (execApplyComplete s) := by
  unfold execApplyComplete
  grind only [State.Formed.reply, Ends.request, State.Formed.updUpd]

theorem execActivateFirmware_ends (selfContained) (s : State) : Ends s (execActivateFirmware selfContained s) := by
  unfold execActivateFirmware
  grind only [State.Formed.updNv, State.Formed.reply, Ends.request, State.Formed.updUpd]

theorem execGetStatus_ends (s : State) : Ends s (execGetStatus s) := by
  unfold execGetStatus
  grind only [State.Formed.reply, Ends.request]

theorem execCancelUpdateComponent_ends (s : State) : Ends s (execCancelUpdateComponent s) := by
  unfold execCancelUpdateComponent
  grind only [State.Formed.reply, Ends.request, State.Formed.updUpd]

theorem execCancelUpdate_ends (s : State) : Ends s (execCancelUpdate s) := by
  unfold execCancelUpdate
  grind only [State.Formed.reply, Ends.request, State.Formed.updUpd]

theorem Ends.guarded (session : Option Nat) {g : State → State} (s : State) (hg : s.Formed → (g s).Formed) :
    Ends s (guarded session g s) := by
  refine .request _ _ fun h => ?_
  grind only [State.Formed.reply]

theorem execRegRead_ends (off wide) (s : State) : Ends s (execRegRead off wide s) := by
  unfold execRegRead
  grind only [State.Formed.readReg, State.Formed.reply, Ends.request]

theorem execRegWrite_ends (off wide v) (s : State) : Ends s (execRegWrite off wide v s) := by
  unfold execRegWrite
  grind only [State.Formed.busWrite, State.Formed.reply, Ends.request]

theorem execBboxRead_ends (area cyclesBack i count) (s : State) : Ends s (execBboxRead area cyclesBack i count s) := by
  unfold execBboxRead
  grind only [State.Formed.reply, Ends.request]

theorem execBootcfgWrite_ends (rec' session) (s : State) : Ends s (execBootcfgWrite rec' session s) := by
  unfold execBootcfgWrite
  grind only [State.Formed.tagged, State.Formed.updNv, State.Formed.reply, Ends.guarded]

theorem execOwnerKeyWrite_ends (slot key session) (s : State) : Ends s (execOwnerKeyWrite slot key session s) := by
  unfold execOwnerKeyWrite
  grind only [State.Formed.reply, Ends.guarded, State.Formed.fuse]

theorem execOwnerKeyRevoke_ends (slot session) (s : State) : Ends s (execOwnerKeyRevoke slot session s) := by
  unfold execOwnerKeyRevoke
  grind only [Ends.guarded, State.Formed.fuse]

theorem execDeviceReset_ends (s : State) : Ends s (execDeviceReset s) := by
  unfold execDeviceReset
  grind only [State.Formed.beginReset, State.Formed.reply, Ends.request]

theorem execGetState_ends (s : State) : Ends s (execGetState s) := by
  unfold execGetState
  grind only [State.Formed.reply, Ends.request]

theorem Ends.attest {g : State → State} (s : State) (hg : s.Formed → (g s).Formed) : Ends s (attest g s) := by
  unfold Machine.attest
  grind only [Ends.done]

theorem execGetVersion_ends (s : State) : Ends s (execGetVersion s) := by
  unfold execGetVersion
  grind only [State.Formed.updMgmt, State.Formed.reply, Ends.attest]

theorem execGetCapabilities_ends (ver) (s : State) : Ends s (execGetCapabilities ver s) := by
  unfold execGetCapabilities
  grind only [State.Formed.updMgmt, State.Formed.reply, Ends.attest]

theorem execNegotiateAlgorithms_ends (s : State) : Ends s (execNegotiateAlgorithms s) := by
  unfold execNegotiateAlgorithms
  grind only [State.Formed.updMgmt, State.Formed.reply, Ends.attest]

theorem execPskExchange_ends (reqSession req) (s : State) : Ends s (execPskExchange reqSession req s) := by
  unfold execPskExchange
  grind only [State.Formed.useKey, State.Formed.updMgmt, State.Formed.reply, Ends.attest]

theorem execPskFinish_ends (session mac) (s : State) : Ends s (execPskFinish session mac s) := by
  unfold execPskFinish
  grind only [State.Formed.updMgmt, State.Formed.reply, Ends.attest, State.Formed.updSession]

theorem execGetMeasurements_ends (session i) (s : State) : Ends s (execGetMeasurements session i s) := by
  unfold execGetMeasurements
  grind only [State.Formed.reply, Ends.attest]

theorem execKeyUpdate_ends (session op tag) (s : State) : Ends s (execKeyUpdate session op tag s) := by
  unfold execKeyUpdate
  grind only [State.Formed.reply, Ends.attest, State.Formed.updSession]

theorem execHeartbeat_ends (session) (s : State) : Ends s (execHeartbeat session s) := by
  unfold execHeartbeat
  grind only [State.Formed.reply, Ends.attest]

theorem execEndSession_ends (session) (s : State) : Ends s (execEndSession session s) := by
  unfold execEndSession
  grind only [State.Formed.updMgmt, State.Formed.reply, Ends.attest]

/-- Every command on `s` ends so. -/
theorem exec_ends (c : Instr) (s : State) : Ends s (exec c s) := by
  cases c with
  | tickBoundary => exact execTickBoundary_ends s
  | tickLengthApply => exact execTickLengthApply_ends s
  | launchStart e x => exact execLaunchStart_ends e x s
  | contextSwitchComplete e => exact execContextSwitchComplete_ends e s
  | migrationCopyComplete e => exact execMigrationCopyComplete_ends e s
  | plumbMarkSend idx => exact execPlumbMarkSend_ends idx s
  | plumbEntrySilent idx => exact execPlumbEntrySilent_ends idx s
  | plumbMark p => exact execPlumbMark_ends p s
  | plumbAnswer p => exact execPlumbAnswer_ends p s
  | plumbPartnerExpire port dev => exact execPlumbPartnerExpire_ends port dev s
  | holdoverEvent => exact execHoldoverEvent_ends s
  | plumbLoad o v => exact execPlumbLoad_ends o v s
  | planeRetire p => exact execPlaneRetire_ends p s
  | planeReturn p => exact execPlaneReturn_ends p s
  | planeFinalMarker src dst => exact execPlaneFinalMarker_ends src dst s
  | planeFailTimeout => exact execPlaneFailTimeout_ends s
  | nocFenceMarker src dst p => exact execNocFenceMarker_ends src dst p s
  | routerInboundTransfer src p e x off fn data fence poison parityErr => exact execRouterInboundTransfer_ends src p e x off fn data fence poison parityErr s
  | tileScrub t w err => exact execTileScrub_ends t w err s
  | forcedScrubCycle t w err => exact execForcedScrubCycle_ends t w err s
  | nop e x f => exact execNop_ends e x f s
  | sliceEnd e x f => exact execSliceEnd_ends e x f s
  | halt e x f => exact execHalt_ends e x f s
  | launchComplete e x => exact execLaunchComplete_ends e x s
  | br e x f => exact execBr_ends e x f s
  | loop e x f => exact execLoop_ends e x f s
  | plumbRd e x f => exact execPlumbRd_ends e x f s
  | flagsRd e x f => exact execFlagsRd_ends e x f s
  | flagsClr e x f => exact execFlagsClr_ends e x f s
  | event e x f => exact execEvent_ends e x f s
  | regroup e x f => exact execRegroup_ends e x f s
  | mbxRd e x f => exact execMbxRd_ends e x f s
  | sLi e x f => exact execSLi_ends e x f s
  | sAdd e x f => exact execSAdd_ends e x f s
  | sSub e x f => exact execSSub_ends e x f s
  | sMul e x f => exact execSMul_ends e x f s
  | sAnd e x f => exact execSAnd_ends e x f s
  | sOr e x f => exact execSOr_ends e x f s
  | sXor e x f => exact execSXor_ends e x f s
  | sShl e x f => exact execSShl_ends e x f s
  | sShr e x f => exact execSShr_ends e x f s
  | sSar e x f => exact execSSar_ends e x f s
  | sCmp e x f => exact execSCmp_ends e x f s
  | sLd e x f => exact execSLd_ends e x f s
  | sSt e x f => exact execSSt_ends e x f s
  | pOp e x f => exact execPOp_ends e x f s
  | tdLd e x f => exact execTdLd_ends e x f s
  | tdSt e x f => exact execTdSt_ends e x f s
  | tdSetf e x f => exact execTdSetf_ends e x f s
  | tdGetf e x f => exact execTdGetf_ends e x f s
  | tdAddb e x f => exact execTdAddb_ends e x f s
  | tdCopy e x f => exact execTdCopy_ends e x f s
  | mov e x f => exact execMov_ends e x f s
  | fill e x f => exact execFill_ends e x f s
  | mma e x f sc => exact execMma_ends e x f sc s
  | mmaT e x f sc => exact execMmaT_ends e x f sc s
  | accZero e x f => exact execAccZero_ends e x f s
  | accSt e x f => exact execAccSt_ends e x f s
  | accLd e x f => exact execAccLd_ends e x f s
  | vAdd e x f => exact execVAdd_ends e x f s
  | vSub e x f => exact execVSub_ends e x f s
  | vMul e x f => exact execVMul_ends e x f s
  | vFma e x f => exact execVFma_ends e x f s
  | vMin e x f => exact execVMin_ends e x f s
  | vMax e x f => exact execVMax_ends e x f s
  | vCmp e x f => exact execVCmp_ends e x f s
  | vFn e x f => exact execVFn_ends e x f s
  | vCvt e x f => exact execVCvt_ends e x f s
  | vRed e x f => exact execVRed_ends e x f s
  | vSel e x f => exact execVSel_ends e x f s
  | topk e x f => exact execTopk_ends e x f s
  | gather e x f => exact execGather_ends e x f s
  | scatter e x f => exact execScatter_ends e x f s
  | scatterAdd e x f => exact execScatterAdd_ends e x f s
  | compact e x f => exact execCompact_ends e x f s
  | feWait e x f => exact execFeWait_ends e x f s
  | feWaite e x f => exact execFeWaite_ends e x f s
  | feWaitComplete e x => exact execFeWaitComplete_ends e x s
  | syncWaitRetry e x => exact execSyncWaitRetry_ends e x s
  | feWaitStall e x => exact execFeWaitStall_ends e x s
  | feSet e x f => exact execFeSet_ends e x f s
  | feClr e x f => exact execFeClr_ends e x f s
  | feTest e x f => exact execFeTest_ends e x f s
  | fence e x f => exact execFence_ends e x f s
  | fenceComplete e x => exact execFenceComplete_ends e x s
  | contextFaultHalt e x => exact execContextFaultHalt_ends e x s
  | mmaReduce e x f sc => exact execMmaReduce_ends e x f sc s
  | bcastMma e x f => exact execBcastMma_ends e x f s
  | reduce e x f => exact execReduce_ends e x f s
  | bcast e x f => exact execBcast_ends e x f s
  | lseReduce e x f => exact execLseReduce_ends e x f s
  | attnBlock e x f => exact execAttnBlock_ends e x f s
  | dispatch e x f => exact execDispatch_ends e x f s
  | dispatchComplete e x => exact execDispatchComplete_ends e x s
  | combine e x f => exact execCombine_ends e x f s
  | combineCompute e x => exact execCombineCompute_ends e x s
  | chunkPlaced g r j h data bad => exact execChunkPlaced_ends g r j h data bad s
  | chunkCombine g r => exact execChunkCombine_ends g r s
  | chunkSend g r => exact execChunkSend_ends g r s
  | readyWordPlaced g r j seq => exact execReadyWordPlaced_ends g r j seq s
  | bcastChunkForward g r => exact execBcastChunkForward_ends g r s
  | abandonWordPlaced g r src seq code => exact execAbandonWordPlaced_ends g r src seq code s
  | instanceComplete g r sc => exact execInstanceComplete_ends g r sc s
  | collectiveStall g r => exact execCollectiveStall_ends g r s
  | cgCancel o g => exact execCgCancel_ends o g s
  | snapshotArm o tick => exact execSnapshotArm_ends o tick s
  | snapshotCapture => exact execSnapshotCapture_ends s
  | domainResetStart o g => exact execDomainResetStart_ends o g s
  | domrst p => exact execDomrst_ends p s
  | domrstAck p => exact execDomrstAck_ends p s
  | domrstAckTimeout => exact execDomrstAckTimeout_ends s
  | recordStart r => exact execRecordStart_ends r s
  | replayStart r => exact execReplayStart_ends r s
  | replayStop r => exact execReplayStop_ends r s
  | replayInputTimeout r => exact execReplayInputTimeout_ends r s
  | contextHold o e x => exact execContextHold_ends o e x s
  | contextRelease o e x => exact execContextRelease_ends o e x s
  | dbgFeRead o => exact execDbgFeRead_ends o s
  | dbgFeWriteKeep o => exact execDbgFeWriteKeep_ends o s
  | dbgFeWriteFull o => exact execDbgFeWriteFull_ends o s
  | dbgFeWriteEmpty o => exact execDbgFeWriteEmpty_ends o s
  | dbgFeSetFull o => exact execDbgFeSetFull_ends o s
  | dbgFeSetEmpty o => exact execDbgFeSetEmpty_ends o s
  | hbmRead r off noise => exact execHbmRead_ends r off noise s
  | hbmWrite r off data poison => exact execHbmWrite_ends r off data poison s
  | hbmPartialWrite r off parts noise => exact execHbmPartialWrite_ends r off parts noise s
  | sanderScrub m lam noise => exact execSanderScrub_ends m lam noise s
  | sanderInit m => exact execSanderInit_ends m s
  | dieRetire m lost => exact execDieRetire_ends m lost s
  | hbmDieRetire o m die => exact execHbmDieRetire_ends o m die s
  | sanderRebuildStep m noise => exact execSanderRebuildStep_ends m noise s
  | hbmRepairCmd o m pc bank row => exact execHbmRepairCmd_ends o m pc bank row s
  | rowRepairStart m => exact execRowRepairStart_ends m s
  | rowRepairComplete m => exact execRowRepairComplete_ends m s
  | diagRawRead o => exact execDiagRawRead_ends o s
  | diagRawWrite o => exact execDiagRawWrite_ends o s
  | diagArmFlip o => exact execDiagArmFlip_ends o s
  | diagDisarm o => exact execDiagDisarm_ends o s
  | walkStart w => exact execWalkStart_ends w s
  | walkComplete w => exact execWalkComplete_ends w s
  | walkTimeout w => exact execWalkTimeout_ends w s
  | xltSweepVisit set => exact execXltSweepVisit_ends set s
  | invTag o fn tag notify => exact execInvTag_ends o fn tag notify s
  | invFunction o fn notify => exact execInvFunction_ends o fn notify s
  | invFunctionReload o fn notify => exact execInvFunctionReload_ends o fn notify s
  | invComplete win => exact execInvComplete_ends win s
  | xltFaultAck o => exact execXltFaultAck_ends o s
  | atsCompletion fn va xlated log2 ok rd wr => exact execAtsCompletion_ends fn va xlated log2 ok rd wr s
  | atsTimeout fn va => exact execAtsTimeout_ends fn va s
  | atsInvalidate fn => exact execAtsInvalidate_ends fn s
  | atsInvComplete fn => exact execAtsInvComplete_ends fn s
  | write p => exact execWrite_ends p s
  | readReq p => exact execReadReq_ends p s
  | readResp p => exact execReadResp_ends p s
  | flush p => exact execFlush_ends p s
  | dispatchPacket p => exact execDispatchPacket_ends p s
  | ack p => exact execAck_ends p s
  | nak p => exact execNak_ends p s
  | connReq p => exact execConnReq_ends p s
  | connAccept p => exact execConnAccept_ends p s
  | connReject p => exact execConnReject_ends p s
  | connClose p => exact execConnClose_ends p s
  | connClosed p => exact execConnClosed_ends p s
  | packetSend c => exact execPacketSend_ends c s
  | gapTimerExpiry c => exact execGapTimerExpiry_ends c s
  | retransmitTimeout c => exact execRetransmitTimeout_ends c s
  | reorderDeadline c => exact execReorderDeadline_ends c s
  | busyResend c => exact execBusyResend_ends c s
  | connReqResend c => exact execConnReqResend_ends c s
  | connOpenTimeout c => exact execConnOpenTimeout_ends c s
  | closingTimeout c => exact execClosingTimeout_ends c s
  | connCmdOpen o c => exact execConnCmdOpen_ends o c s
  | connCmdClose o c => exact execConnCmdClose_ends o c s
  | connCmdForceClose o c => exact execConnCmdForceClose_ends o c s
  | connCmdView o c => exact execConnCmdView_ends o c s
  | mrInvalidate o idx => exact execMrInvalidate_ends o idx s
  | mrInvComplete => exact execMrInvComplete_ends s
  | sealEpochStage o n epoch => exact execSealEpochStage_ends o n epoch s
  | keyDerivationComplete n => exact execKeyDerivationComplete_ends n s
  | ctxFillComplete c bad => exact execCtxFillComplete_ends c bad s
  | ctxSweepVisit slice set way => exact execCtxSweepVisit_ends slice set way s
  | frameReceive q f => exact execFrameReceive_ends q f s
  | frameDeliver q p => exact execFrameDeliver_ends q p s
  | pfcRepeat q p => exact execPfcRepeat_ends q p s
  | pfcReceive q en quanta => exact execPfcReceive_ends q en quanta s
  | pauseExpiry q p => exact execPauseExpiry_ends q p s
  | pauseLimit q p => exact execPauseLimit_ends q p s
  | pauseWatchdog q p => exact execPauseWatchdog_ends q p s
  | stallEnd q p => exact execStallEnd_ends q p s
  | frameTransmit q => exact execFrameTransmit_ends q s
  | lpiEnter q => exact execLpiEnter_ends q s
  | lpiWake q => exact execLpiWake_ends q s
  | lpiNegotiationComplete q wakeUs => exact execLpiNegotiationComplete_ends q wakeUs s
  | localFault q => exact execLocalFault_ends q s
  | linkDown q => exact execLinkDown_ends q s
  | faultClear q => exact execFaultClear_ends q s
  | linkUp q => exact execLinkUp_ends q s
  | holdExpiry q => exact execHoldExpiry_ends q s
  | portModeChange q => exact execPortModeChange_ends q s
  | descriptorIssue => exact execDescriptorIssue_ends s
  | wqDoorbell fn slot v => exact execWqDoorbell_ends fn slot v s
  | cqConsumerWrite fn slot v => exact execCqConsumerWrite_ends fn slot v s
  | evqDoorbell fn slot count arm => exact execEvqDoorbell_ends fn slot count arm s
  | descriptorFetch q host => exact execDescriptorFetch_ends q host s
  | wdNop q n => exact execWdNop_ends q n s
  | wdCopy q n src bad => exact execWdCopy_ends q n src bad s
  | wdWrite q n src => exact execWdWrite_ends q n src s
  | wdRead q n => exact execWdRead_ends q n s
  | wdFlush q n => exact execWdFlush_ends q n s
  | launch q n => exact execLaunch_ends q n s
  | wqLoad q n => exact execWqLoad_ends q n s
  | wqDisable q n => exact execWqDisable_ends q n s
  | evqLoad q n => exact execEvqLoad_ends q n s
  | fnRemove q n => exact execFnRemove_ends q n s
  | descriptorComplete q n => exact execDescriptorComplete_ends q n s
  | msixSend v => exact execMsixSend_ends v s
  | msixVectorUnmask fn v => exact execMsixVectorUnmask_ends fn v s
  | pcieCompletion ctl tag data bad => exact execPcieCompletion_ends ctl tag data bad s
  | completionTimeout ctl tag => exact execCompletionTimeout_ends ctl tag s
  | flr fn => exact execFlr_ends fn s
  | flrBound fn => exact execFlrBound_ends fn s
  | vfEnable num en => exact execVfEnable_ends num en s
  | controllerReset ctl => exact execControllerReset_ends ctl s
  | rootPortInbound ctl addr len data xl => exact execRootPortInbound_ends ctl addr len data xl s
  | mbxSend o vf control => exact execMbxSend_ends o vf control s
  | mbxDeliver vf fromPf => exact execMbxDeliver_ends vf fromPf s
  | mbxAck o vf => exact execMbxAck_ends o vf s
  | mbxCancel o vf => exact execMbxCancel_ends o vf s
  | mbxTimeout vf fromPf => exact execMbxTimeout_ends vf fromPf s
  | fnMask o fn => exact execFnMask_ends o fn s
  | fnUnmask o fn => exact execFnUnmask_ends o fn s
  | wqView o q => exact execWqView_ends o q s
  | evqView o q => exact execEvqView_ends o q s
  | ownershipRequest line reqs err => exact execOwnershipRequest_ends line reqs err s
  | coreOffline n => exact execCoreOffline_ends n s
  | coreRxPost o h v => exact execCoreRxPost_ends o h v s
  | coreTxPost o h v => exact execCoreTxPost_ends o h v s
  | nbInvalidate o dev => exact execNbInvalidate_ends o dev s
  | nbSweepVisit set => exact execNbSweepVisit_ends set s
  | stippleCompare e x equal sc => exact execStippleCompare_ends e x equal sc s
  | stippleSecondCheck e x eqPrimary eqFirst sc => exact execStippleSecondCheck_ends e x eqPrimary eqFirst sc s
  | stippleUndecidedTimeout e x => exact execStippleUndecidedTimeout_ends e x s
  | observationEnd t => exact execObservationEnd_ends t s
  | testDue t => exact execTestDue_ends t s
  | testStart t => exact execTestStart_ends t s
  | testComplete kind idx pass locus => exact execTestComplete_ends kind idx pass locus s
  | testDeferTimeout t => exact execTestDeferTimeout_ends t s
  | tileRetire t => exact execTileRetire_ends t s
  | hlthTestNow o kind idx => exact execHlthTestNow_ends o kind idx s
  | hlthRetire o idx => exact execHlthRetire_ends o idx s
  | evrFreeze o => exact execEvrFreeze_ends o s
  | evrUnfreeze o => exact execEvrUnfreeze_ends o s
  | freezeLimit => exact execFreezeLimit_ends s
  | evrFlush o => exact execEvrFlush_ends o s
  | flushComplete => exact execFlushComplete_ends s
  | auditHoldEnd us => exact execAuditHoldEnd_ends us s
  | powerSample eng rest => exact execPowerSample_ends eng rest s
  | thermalReading n q => exact execThermalReading_ends n q s
  | thermalCapStep => exact execThermalCapStep_ends s
  | thermalTripRecover => exact execThermalTripRecover_ends s
  | hbKickLink o tok => exact execHbKickLink_ends o tok s
  | hbKickCore o tok => exact execHbKickCore_ends o tok s
  | heartbeatMiss core => exact execHeartbeatMiss_ends core s
  | silenceEnd => exact execSilenceEnd_ends s
  | powerOn => exact execPowerOn_ends s
  | devrstNAssert cause => exact execDevrstNAssert_ends cause s
  | resetRelease s0 s1 s2 => exact execResetRelease_ends s0 s1 s2 s
  | primerServiceStart bad => exact execPrimerServiceStart_ends bad s
  | imageVerifyComplete kind ver okFirst okOther => exact execImageVerifyComplete_ends kind ver okFirst okOther s
  | engineSelfTestComplete failed => exact execEngineSelfTestComplete_ends failed s
  | portCalibrationComplete q ok => exact execPortCalibrationComplete_ends q ok s
  | stackRetrainComplete m ok => exact execStackRetrainComplete_ends m ok s
  | finishServiceStart => exact execFinishServiceStart_ends s
  | trialConfirm => exact execTrialConfirm_ends s
  | trialFail => exact execTrialFail_ends s
  | supplyFault => exact execSupplyFault_ends s
  | sysrefLoss => exact execSysrefLoss_ends s
  | pwrfailWarning => exact execPwrfailWarning_ends s
  | pwrfailClear => exact execPwrfailClear_ends s
  | pldmEventSend => exact execPldmEventSend_ends s
  | pldmEventRetry => exact execPldmEventRetry_ends s
  | setEndpointId eid => exact execSetEndpointId_ends eid s
  | getEndpointId => exact execGetEndpointId_ends s
  | getMctpVersionSupport ty => exact execGetMctpVersionSupport_ends ty s
  | getMessageTypeSupport => exact execGetMessageTypeSupport_ends s
  | setTid tid => exact execSetTid_ends tid s
  | getTid => exact execGetTid_ends s
  | getPldmVersion ty => exact execGetPldmVersion_ends ty s
  | getPldmTypes => exact execGetPldmTypes_ends s
  | getPldmCommands ty => exact execGetPldmCommands_ends ty s
  | setEventReceiver en addr => exact execSetEventReceiver_ends en addr s
  | getSensorReading id => exact execGetSensorReading_ends id s
  | getStateSensorReadings id => exact execGetStateSensorReadings_ends id s
  | getPdr handle => exact execGetPdr_ends handle s
  | pollForPlatformEventMessage => exact execPollForPlatformEventMessage_ends s
  | getFruRecordTableMetadata => exact execGetFruRecordTableMetadata_ends s
  | getFruRecordTable => exact execGetFruRecordTable_ends s
  | queryDeviceIdentifiers => exact execQueryDeviceIdentifiers_ends s
  | getFirmwareParameters => exact execGetFirmwareParameters_ends s
  | requestUpdate => exact execRequestUpdate_ends s
  | passComponentTable kind ver => exact execPassComponentTable_ends kind ver s
  | updateComponent kind ver image => exact execUpdateComponent_ends kind ver image s
  | transferComplete ok => exact execTransferComplete_ends ok s
  | verifyComplete => exact execVerifyComplete_ends s
  | applyComplete => exact execApplyComplete_ends s
  | activateFirmware selfContained => exact execActivateFirmware_ends selfContained s
  | getStatus => exact execGetStatus_ends s
  | cancelUpdateComponent => exact execCancelUpdateComponent_ends s
  | cancelUpdate => exact execCancelUpdate_ends s
  | regRead off wide => exact execRegRead_ends off wide s
  | regWrite off wide v => exact execRegWrite_ends off wide v s
  | bboxRead area cyclesBack idx count => exact execBboxRead_ends area cyclesBack idx count s
  | bootcfgWrite rec session => exact execBootcfgWrite_ends rec session s
  | ownerKeyWrite slot key session => exact execOwnerKeyWrite_ends slot key session s
  | ownerKeyRevoke slot session => exact execOwnerKeyRevoke_ends slot session s
  | deviceReset => exact execDeviceReset_ends s
  | getState => exact execGetState_ends s
  | getVersion => exact execGetVersion_ends s
  | getCapabilities ver => exact execGetCapabilities_ends ver s
  | negotiateAlgorithms => exact execNegotiateAlgorithms_ends s
  | pskExchange reqSession req => exact execPskExchange_ends reqSession req s
  | pskFinish session mac => exact execPskFinish_ends session mac s
  | getMeasurements session idx => exact execGetMeasurements_ends session idx s
  | keyUpdate session op tag => exact execKeyUpdate_ends session op tag s
  | heartbeat session => exact execHeartbeat_ends session s
  | endSession session => exact execEndSession_ends session s
  | blkCommit o pg v => exact execBlkCommit_ends o pg v s
  | blkLock o pg => exact execBlkLock_ends o pg s
  | blkIrqStatClear o pg v => exact execBlkIrqStatClear_ends o pg v s
  | blkIrqForce o pg v => exact execBlkIrqForce_ends o pg v s
  | counterRead o off wide => exact execCounterRead_ends o off wide s
  | registerWrite o off wide v => exact execRegisterWrite_ends o off wide v s
  | pcieLinkDown c => exact execPcieLinkDown_ends c s
  | pcieLinkUp c speed width flit => exact execPcieLinkUp_ends c speed width flit s
  | debugPortAttached => exact execDebugPortAttached_ends s
  | debugPortDetached => exact execDebugPortDetached_ends s
  | mctpAssemblyTimeout => exact execMctpAssemblyTimeout_ends s
  | partnerLpi q enter => exact execPartnerLpi_ends q enter s
  | hbmTemperatureReadout m temp => exact execHbmTemperatureReadout_ends m temp s
  | hbmStackLost m => exact execHbmStackLost_ends m s

end Sys2Proof.Machine
end

section
/-! PROOFS. What every step keeps: no record waits, and protected memory stays in canonical form (07 R200; 15 R402). -/

namespace Sys2Proof.Machine

theorem State.Formed.settle {s : State} (h : s.Formed) : (settle s).Formed := settle_memory_wf s h

theorem settle_quiet (s : State) : (settle s).quiet := ⟨settle_todo s, settle_stalled s⟩

/-- A state that a command answers is quiet, and its protected memory is in canonical form where that of `s` was. -/
theorem Ends.of_next {s t : State} {r : Res} (h : Ends s r) (answers : r = .next t) : t.quiet ∧ (s.Formed → t.Formed) := by
  obtain ⟨u, hr, formed⟩ | hr := h
  · obtain rfl : Machine.settle u = t := by
      rw [hr] at answers
      injection answers
    exact ⟨settle_quiet u, fun hs => (formed hs).settle⟩
  · rw [hr] at answers
    cases answers

/-- A device that runs lets one count pass and writes the records of that count. -/
theorem State.advance_of_running {s : State} (h : 2 ≤ s.boot.stage) : ∃ t, s.advance = settle t ∧ (s.Formed → t.Formed) := by
  unfold advance
  rw [if_neg (Nat.not_lt.mpr h)]
  refine ⟨_, rfl, fun hs => ?_⟩
  have counted := (hs.updPlumb fun p => { p with
    now := p.now + unsigned 64 (((s.plumb.frac : Int) + 2 ^ 32 + s.plumb.c) / 2 ^ 32)
    frac := unsigned 32 ((s.plumb.frac : Int) + 2 ^ 32 + s.plumb.c) }).portsEnd
  split
  · exact counted.boundary
  · exact counted

theorem State.advance_of_reset {s : State} (h : s.boot.stage < 2) : s.advance = s := if_pos h

/-- Every step from a quiet state leaves a quiet state, and keeps the canonical form of protected memory. -/
theorem step_keeps {s t : State} (h : step s = .next t) : (s.quiet → t.quiet) ∧ (s.Formed → t.Formed) := by
  unfold step at h
  split at h
  · injection h with h
    subst h
    rcases Nat.lt_or_ge s.boot.stage 2 with reset | running
    · rw [State.advance_of_reset reset]
      exact ⟨id, id⟩
    · obtain ⟨u, hu, formed⟩ := State.advance_of_running running
      rw [hu]
      exact ⟨fun _ => settle_quiet u, fun hs => (formed hs).settle⟩
  · next c rest _ =>
    obtain ⟨quiet, formed⟩ := (exec_ends c { s with pending := rest }).of_next h
    exact ⟨fun _ => quiet, formed⟩

/-- Settles O1: the front command is taken off the queue before it runs. -/
theorem stepRunsFrontCommand : Obligations.StepRunsFrontCommand := by
  unfold Obligations.StepRunsFrontCommand
  intro c s
  rfl

/-- Settles O2: an empty queue lets one count pass, which a device in reset does not do. -/
theorem emptyQueuePassesTime : Obligations.EmptyQueuePassesTime := by
  unfold Obligations.EmptyQueuePassesTime
  intro s empty
  have passes : step s = .next s.advance := by simp only [step, empty]
  refine ⟨fun reset => ?_, fun running => ⟨passes, ?_⟩⟩
  · rw [passes, State.advance_of_reset reset]
  · obtain ⟨u, hu, -⟩ := State.advance_of_running running
    rw [hu]
    exact settle_quiet u

/-- Settles O3: a command ends by writing its records, or its cause is not there. -/
theorem commandsRunOrAreNotDue : Obligations.CommandsRunOrAreNotDue := by
  unfold Obligations.CommandsRunOrAreNotDue
  intro c s
  obtain ⟨u, hu, -⟩ | notDue := exec_ends c s
  · exact .inl ⟨_, hu, settle_quiet u⟩
  · exact .inr notDue

/-- Settles O4: records are written at the end of every command, and of every count that passes. -/
theorem noRecordWaits : Obligations.NoRecordWaits := by
  unfold Obligations.NoRecordWaits
  exact fun _ _ quiet h => (step_keeps h).1 quiet

/-- Settles O5: protected memory changes only by writes of bytes to their places, and a reset empties it; both give the canonical
form. -/
theorem protectedMemoryKeepsItsForm : Obligations.ProtectedMemoryKeepsItsForm := by
  unfold Obligations.ProtectedMemoryKeepsItsForm
  exact fun _ _ formed h => (step_keeps h).2 formed

end Sys2Proof.Machine
end

section
/-! PROOFS. Boundaries (02_plumb_time_and_determinism.md R42, R43): they fall on multiples of the tick length and rise. -/

namespace Sys2Proof.Machine

theorem State.foldl_plumb {β : Type} {f : State → β → State} (hf : ∀ s x, (f s x).plumb = s.plumb) (l : List β) (s : State) :
    (l.foldl f s).plumb = s.plumb := foldl_eq_of_step_eq State.plumb f hf l s

@[simp] theorem State.inc_plumb (s : State) (a n) : (s.inc a n).plumb = s.plumb := by
  rw [(State.inc_memStep ..).1]

@[simp] theorem State.memRead_plumb (s : State) (rq off n) : (s.memRead rq off n).1.plumb = s.plumb := by
  rw [(State.memRead_memStep ..).1]

@[simp] theorem State.memWrite_plumb (s : State) (rq off d fe) : (s.memWrite rq off d fe).1.plumb = s.plumb := by
  rw [(State.memWrite_memStep ..).1]

@[simp] theorem State.startFlush_plumb (s : State) (faultAt power) : (s.startFlush faultAt power).plumb = s.plumb := by
  rw [(State.startFlush_recStep ..).1]

@[simp] theorem State.beginReset_plumb (s : State) (cause missing) : (s.beginReset cause missing).plumb = s.plumb := by
  unfold State.beginReset
  grind only [State.event_plumb, State.startFlush_plumb]

@[simp] theorem State.holdErr_plumb (s : State) (k c localMem) : (s.holdErr k c localMem).plumb = s.plumb := by
  unfold State.holdErr
  grind only [State.updCtx_plumb]

@[simp] theorem State.jobDone_plumb (s : State) (q n status detail bytes late extra) : (s.jobDone q n status detail bytes late extra).plumb = s.plumb := rfl

@[simp] theorem State.updPrio_plumb (s : State) (q p g) : (s.updPrio q p g).plumb = s.plumb := by
  unfold State.updPrio
  grind only [State.updPort_plumb]

@[simp] theorem State.wakePort_plumb (s : State) (q) : (s.wakePort q).plumb = s.plumb := by
  unfold State.wakePort
  grind only [State.updPort_plumb]

@[simp] theorem State.enterStream_plumb (s : State) (q p fn) : (s.enterStream q p fn).plumb = s.plumb := by
  unfold State.enterStream
  grind only [State.updPrio_plumb]

@[simp] theorem State.offer_plumb (s : State) (q f) : (s.offer q f).1.plumb = s.plumb := by
  unfold State.offer
  grind only [State.inc_plumb, State.updPort_plumb, State.wakePort_plumb, State.enterStream_plumb]

@[simp] theorem State.corePump_plumb (q n : Nat) (s : State) : (State.corePump q n s).plumb = s.plumb := by
  induction n generalizing s with
  | zero => rfl
  | succ n ih =>
    unfold State.corePump
    grind only [State.memRead_plumb, State.memWrite_plumb, State.setReg_plumb, State.offer_plumb]

@[simp] theorem State.coreSend_plumb (s : State) : s.coreSend.plumb = s.plumb := by
  unfold State.coreSend
  induction List.range 16 generalizing s with
  | nil => rfl
  | cons h l ih => rw [List.foldl_cons, ih, State.corePump_plumb]

@[simp] theorem State.updPair_plumb (s : State) (c g) : (s.updPair c g).plumb = s.plumb := rfl

@[simp] theorem State.nvmEnded_plumb (s : State) (c m status) : (s.nvmEnded c m status).plumb = s.plumb := by
  unfold State.nvmEnded
  grind only [State.updPair_plumb]

@[simp] theorem State.jobEnd_plumb (s : State) (q n status detail bytes) : (s.jobEnd q n status detail bytes).plumb = s.plumb := by
  unfold State.jobEnd
  grind only [State.jobDone_plumb]

@[simp] theorem State.opEnd_plumb (s : State) (src c id status detail bytes) : (s.opEnd src c id status detail bytes).plumb = s.plumb := by
  unfold State.opEnd
  grind only [State.updCtx_plumb, State.holdErr_plumb, State.jobEnd_plumb]

@[simp] theorem State.msgEnd_plumb (s : State) (c m status detail) : (s.msgEnd c m status detail).plumb = s.plumb := by
  unfold State.msgEnd
  grind only [State.nvmEnded_plumb, State.updConn_plumb, State.opEnd_plumb]

@[simp] theorem State.domCheck_plumb (s : State) : s.domCheck.plumb = s.plumb := by
  unfold State.domCheck
  grind only [State.beginReset_plumb]

@[simp] theorem State.frameEnd_plumb (s : State) (q) : (s.frameEnd q).plumb = s.plumb := by
  unfold State.frameEnd
  grind only [State.inc_plumb, State.emit_plumb, State.updPort_plumb, State.coreSend_plumb, State.msgEnd_plumb, State.domCheck_plumb]

/-- Transmissions end as time passes; the Plumb state is not theirs. -/
@[simp] theorem State.portsEnd_plumb (s : State) : s.portsEnd.plumb = s.plumb := by
  refine State.foldl_plumb (fun s q => ?_) _ s
  split
  · split
    · exact s.frameEnd_plumb q
    · rfl
  · rfl

/-- Time passes to a count that is not before the present one. -/
theorem State.passTo_now {s : State} {t : Nat} (h : s.plumb.now ≤ t) : (s.passTo t).plumb.now = t := by
  unfold passTo
  split
  · rw [portsEnd_plumb]; rfl
  · omega

/-! ### The next boundary -/

/-- The least multiple of `m` that is not below `v`. -/
theorem roundUp_bounds (v : Nat) {m : Nat} (hm : 0 < m) : m ∣ roundUp v m ∧ v ≤ roundUp v m ∧ roundUp v m < v + m := by
  have digit := Nat.div_add_mod (v + m - 1) m
  have small := Nat.mod_lt (v + m - 1) hm
  rw [Nat.mul_comm] at digit
  exact ⟨Nat.dvd_mul_left .., by unfold roundUp; omega, by unfold roundUp; omega⟩

/-- The first multiple of `m` above `v`. -/
theorem next_multiple_bounds (v : Nat) {m : Nat} (hm : 0 < m) :
    m ∣ v / m * m + m ∧ v < v / m * m + m ∧ v / m * m + m ≤ v + m := by
  have digit := Nat.div_add_mod v m
  have small := Nat.mod_lt v hm
  rw [Nat.mul_comm] at digit
  exact ⟨Nat.dvd_add (Nat.dvd_mul_left ..) (Nat.dvd_refl m), by omega, by omega⟩

/-- R42, R43: the next boundary is a multiple of the tick length, not before the present count, after the boundaries produced, and less
than a tick away from both. -/
theorem State.nextBoundary_bounds (s : State) :
    2 ^ s.tickLog ∣ s.nextBoundary ∧ s.plumb.now ≤ s.nextBoundary ∧ s.plumb.highest < s.nextBoundary
    ∧ s.nextBoundary < max s.plumb.now (s.plumb.highest + 1) + 2 ^ s.tickLog := by
  have positive : 0 < 2 ^ s.tickLog := Nat.two_pow_pos _
  obtain ⟨onNow, atNow, nearNow⟩ := roundUp_bounds s.plumb.now positive
  obtain ⟨onNext, afterHighest, nearHighest⟩ := next_multiple_bounds s.plumb.highest positive
  unfold nextBoundary
  dsimp only
  refine ⟨?_, by omega, by omega, by omega⟩
  rcases Nat.le_total (roundUp s.plumb.now (2 ^ s.tickLog)) (s.plumb.highest / 2 ^ s.tickLog * 2 ^ s.tickLog + 2 ^ s.tickLog) with h | h
  · rwa [Nat.max_eq_right h]
  · rwa [Nat.max_eq_left h]

/-- Settles O7: the next boundary is the larger of two multiples of the tick length, and the command takes the counter there. -/
theorem boundariesRise : Obligations.BoundariesRise := by
  unfold Obligations.BoundariesRise
  intro s
  obtain ⟨onTick, atNow, afterHighest, near⟩ := s.nextBoundary_bounds
  refine ⟨onTick, atNow, afterHighest, near, fun running => ⟨?_, State.passTo_now atNow⟩⟩
  exact if_pos (decide_eq_true running)

end Sys2Proof.Machine
end

section
/-! PROOFS. Events (15_reliability_and_records.md R401, R402; 17_register_reference.md R440, R442): what raising one leaves. -/

namespace Sys2Proof.Machine

/-! ### Events (15 R401, R402; 17 R440, R442) -/

/-- The header of a page in which event `ev` is raised: its status bit, and its address where none is captured. -/
def Page.raise (g : Page) (ev : Ev) : Page :=
  let g := { g with irqStat := g.irqStat ||| (1#32 <<< ev.num) }
  match ev.addr with
  | some a => if g.captValid then g else { g with captValid := true, captEvent := ev.num, captAddr := a % 2 ^ 48 }
  | none => g

theorem Page.raise_irqStat (g : Page) (ev : Ev) : (g.raise ev).irqStat = g.irqStat ||| (1#32 <<< ev.num) := by
  unfold raise
  cases ev.addr with
  | none => rfl
  | some a => cases g.captValid <;> simp

theorem Page.raise_of_capture {g : Page} {ev : Ev} {a : Nat} (addr : ev.addr = some a) (free : g.captValid = false) :
    (g.raise ev).captValid = true ∧ (g.raise ev).captEvent = ev.num ∧ (g.raise ev).captAddr = a % 2 ^ 48 := by
  simp [raise, addr, free]

theorem Page.raise_captAddr_of_no_capture {g : Page} {ev : Ev} (h : ev.addr = none ∨ g.captValid = true) :
    (g.raise ev).captAddr = g.captAddr := by
  unfold raise
  rcases h with h | h
  · simp only [h]
  · split
    · simp only [h, if_true]
    · rfl

/-- A read after a write of a value that is not the default one, of a table in any form. -/
theorem Tab.get_set_of_ne {α : Type} [DecidableEq α] (t : Tab α) {d v : α} (k j : Nat) (h : v ≠ d) :
    (t.set d k v).get d j = if j = k then v else t.get d j := by
  rw [Tab.set, if_neg h, Tab.get, Tab.find_insert]
  split <;> rfl

/-- A page in which an event was raised is not in its initial state. -/
theorem Page.raise_ne_default (g : Page) {ev : Ev} (small : ev.num < 32) : g.raise ev ≠ {} := by
  intro h
  have bit : ((g.raise ev).irqStat).getLsbD ev.num = true := by
    rw [raise_irqStat, BitVec.getLsbD_or, BitVec.getLsbD_shiftLeft]
    simp [small]
  rw [h] at bit
  simp at bit

theorem State.page_raise (s : State) (pg j : Nat) {ev : Ev} (small : ev.num < 32) :
    (s.updPage pg fun _ => (s.page pg).raise ev).page j = if j = pg then (s.page pg).raise ev else s.page j :=
  Tab.get_set_of_ne s.pages pg j ((s.page pg).raise_ne_default small)

/-- A counter changes registers only. -/
theorem State.inc_eq (s : State) (a n : Nat) : s.inc a n = { s with regs := (s.inc a n).regs } := by
  unfold inc
  split <;> rfl

/-- Where its bit is not enabled, a raised event changes the header of its page and enters the ring. -/
theorem settleEvent_of_disabled {s : State} {ev : Ev}
    (off : bitAt (s.reg (0x1000 * (ev.blk.page + ev.inst) + 0x14)) ev.num = false) :
    settleEvent s ev = storeEvent (s.updPage (ev.blk.page + ev.inst) fun _ => (s.page (ev.blk.page + ev.inst)).raise ev) ev := by
  unfold settleEvent Page.raise
  simp only [off, Bool.and_false]
  rfl

/-- A record that enters the ring in its place; nothing but counters and the ring changes. -/
theorem storeEvent_stored {s : State} (ev : Ev) (running : s.recs.frozen = false) :
    let lost := decide (65536 ≤ s.recs.prod - s.recs.flushIdx)
    let t := storeEvent s ev
    t.recs.prod = s.recs.prod + 1
    ∧ t.recs.ring = s.recs.ring.set none (s.recs.prod % 65536) (some {
        ev, fault := ev.isFault, lostBefore := lost, seconds := s.glb.opSec, cycles := s.glb.cycles % 65536
        plumb10 := s.plumb.now / 1024 % 65536 })
    ∧ t.recs.lost = s.recs.lost + b2n lost
    ∧ t = { s with regs := t.regs, recs := t.recs } := by
  unfold storeEvent
  dsimp only
  rw [if_neg (by simp [running])]
  rw [State.inc_eq s 0x6068]
  generalize (s.inc 0x6068 1).regs = counted
  cases decide (65536 ≤ s.recs.prod - s.recs.flushIdx)
  · cases ev.isFault <;> exact ⟨rfl, rfl, rfl, rfl⟩
  · simp only [if_true]
    rw [State.inc_eq _ 0x6070]
    cases ev.isFault <;> exact ⟨rfl, rfl, rfl, rfl⟩

/-- Between commands, writing the one record of an event that raises no other ends with that record. -/
theorem settle_event {s : State} {ev : Ev} (q : s.quiet) (todo : (settleEvent s ev).todo = [])
    (stalled : (settleEvent s ev).mem.stalled = none) : settle (s.event ev) = settleEvent s ev := by
  obtain ⟨noRecord, -⟩ := q
  have raised : (s.event ev).todo = [.event ev] := by rw [State.event, State.push, noRecord]; rfl
  have round : settleRound (s.event ev) = settleEvent s ev := by
    rw [settleRound, raised]
    have : { s.event ev with todo := [] } = s := by rw [← noRecord]; rfl
    rw [this]
    rfl
  have rounds : settleRounds 64 (s.event ev) = settleEvent s ev := by
    rw [settleRounds, if_neg (by simp [raised]), round, settleRounds, if_pos todo]
  unfold settle
  rw [rounds]
  dsimp only
  rw [← todo, ← stalled]

/-- Settles O59: an event whose bit is not enabled is written in one round, which changes the header of its page, counters and the
ring. -/
theorem eventsAreRecorded : Obligations.EventsAreRecorded := by
  unfold Obligations.EventsAreRecorded
  intro s ev q small running pg lost off t
  have disabled := settleEvent_of_disabled off
  have stored := storeEvent_stored (s := s.updPage pg fun _ => (s.page pg).raise ev) ev running
  obtain ⟨prod, ring, count, frame⟩ := stored
  rw [← disabled] at prod ring count frame
  have written : t = settleEvent s ev := by
    refine settle_event q ?_ ?_
    · rw [frame]; exact q.1
    · rw [frame]; exact q.2
  rw [← written] at prod ring count frame
  have page (j : Nat) : t.page j = if j = pg then (s.page pg).raise ev else s.page j := by
    rw [← s.page_raise pg j small, frame]
    rfl
  have own : t.page pg = (s.page pg).raise ev := by rw [page, if_pos rfl]
  refine ⟨prod, ?_, count, ?_, ?_, ?_, ?_, ?_⟩
  · rw [ring]
    exact Tab.get_set_self_ne _ _ _ _ (Option.some_ne_none _)
  · rw [own, Page.raise_irqStat]
  · intro a addr free
    rw [own]
    exact Page.raise_of_capture addr free
  · intro h
    rw [own, Page.raise_captAddr_of_no_capture h]
  · intro j other
    rw [page, if_neg other]
  · have : t.pages = (s.updPage pg fun _ => (s.page pg).raise ev).pages := by rw [frame]
    rw [this]
    exact frame

end Sys2Proof.Machine
end

section
/-! PROOFS. Tensors and words past the end of a tile store (04_engine_instruction_set.md R96): a state in which instructions use the router. -/

namespace Sys2Proof.Machine

/-! ### A region that reaches past the end of its tile store

Nothing in a state keeps the region register of a context (03 Table 3.11) from naming a region whose base and size together exceed the
8 MiB of a tile store. What the context places past the end is then a transfer over the router to the next tile, which is more than a
write of the own store. -/

/-- A tensor of rank 1 at `base`: 16 elements of format `fcode`, in the own tile store. -/
def denseWord (base fcode : Nat) : TdWord := BitVec.ofNat 256 (base + 2 ^ 64 * 15 + 2 ^ 124 * fcode + 2 ^ 183)

/-- Context 0 of engine 0 runs; its region are the last 64 KiB of its tile store and 64 KiB past its end. Tensors 0 and 1 are bytes, 2
and 3 INT32; 0 and 2 lie past the end, and S[1] names the first byte there. -/
def pastEnd : State :=
  { State.reset with
    boot := { State.reset.boot with stage := 4 }
    glb := { service := 2 }
    ctxs := [(0, { st := 2, sr := [(1, 65536)], td := [
      (0, denseWord 65536 9), (1, denseWord 0 9), (2, denseWord 65536 8), (3, denseWord 0 8)] })]
    engs := [(0, { interval := some 0 })] }.setReg (ctxReg 0 0x054) 0x27F

/-- The pairs of agents that have used the network on chip after a command. -/
def pairsAfter (c : Instr) (s : State) : List (Nat × Nat) := match exec c s with
  | .next t => t.noc.used
  | _ => []

theorem pairsAfter_of_next {c : Instr} {s t : State} (answer : exec c s = .next t) : pairsAfter c s = t.noc.used := by
  rw [pairsAfter, answer]

/-- A command that changes only its context and its tile store, but for what a checker is sent, uses no plane of the network on chip
where no slice is checked. -/
theorem pairsAfter_of_mirrorStep {c : Instr} {s : State} {k : Nat} {P : State → Prop}
    (h : Answers c s fun t => MirrorStep k { s with ctxs := t.ctxs, tileMem := t.tileMem, tilePoison := t.tilePoison } t ∧ P t)
    (plain : s.hlth.checks = []) : pairsAfter c s = s.noc.used := by
  obtain ⟨t, answer, ⟨-, same⟩, -⟩ := h
  rw [pairsAfter_of_next answer, same (by rw [State.sampled]; exact plain ▸ rfl)]

/-- Every instruction word that `pastEnd` issues under P0 passes its guard. -/
theorem pastEnd_issues (f : Fields) (pg : f.pg = 0) (pn : f.pn = false) : Issues pastEnd 0 0 f := by
  refine ⟨⟨rfl, rfl⟩, by decide, by decide, by decide, ?_⟩
  rw [pg, pn]
  decide

theorem pastEnd_dense : ∀ i < 4, OwnDense ((pastEnd.ctx 0).tdAt i) := by
  unfold OwnDense
  decide

theorem pastEnd_unpoisoned (d : Td) : Unpoisoned pastEnd 0 d := by
  intro i _
  rw [State.tsBad, List.any_eq_false]
  intro w _
  exact Bool.false_ne_true

/-- Refutes O18: FILL of bytes past the end of the tile store goes over the router. -/
theorem not_fillWritesEveryByte : ¬ Obligations.FillWritesEveryByte := by
  unfold Obligations.FillWritesEveryByte
  intro h
  have writes := h pastEnd 0 0 0 0 false 0 (pastEnd_issues _ rfl rfl) (by unfold Ins.ready; decide) (pastEnd_dense 0 (by decide)) rfl
  exact absurd (pairsAfter_of_mirrorStep writes rfl) (by decide)

/-- Refutes O19: MOV to bytes past the end of the tile store goes over the router. -/
theorem not_movCopiesRows : ¬ Obligations.MovCopiesRows := by
  unfold Obligations.MovCopiesRows
  intro h
  have writes := (h pastEnd 0 0 0 0 1 false (pastEnd_issues _ rfl rfl) (by unfold Ins.ready; decide) (pastEnd_dense 0 (by decide))
    (pastEnd_dense 1 (by decide)) (pastEnd_unpoisoned _) rfl).2 (by decide)
  exact absurd (pairsAfter_of_mirrorStep writes rfl) (by decide)

/-- Refutes O20: V.ADD to a tensor past the end of the tile store goes over the router. -/
theorem not_integerVectors : ¬ Obligations.IntegerVectors := by
  unfold Obligations.IntegerVectors
  intro h
  have writes := (h pastEnd 0 0 0 2 3 3 false (pastEnd_issues _ rfl rfl) (pastEnd_dense 2 (by decide)) (pastEnd_dense 3 (by decide))
    (pastEnd_dense 3 (by decide)) (pastEnd_unpoisoned _) (pastEnd_unpoisoned _) (by decide) (by decide) rfl).1
    (by unfold Ins.ready; decide)
  exact absurd (pairsAfter_of_mirrorStep writes rfl) (by decide)

/-- Refutes O16: S.LD past the end of the tile store goes over the router. -/
theorem not_scalarMemory : ¬ Obligations.ScalarMemory := by
  unfold Obligations.ScalarMemory
  intro h
  obtain ⟨t, answer, ⟨-, same⟩, -⟩ := (h pastEnd 0 0 0 0 1 0 false 0 (by decide) (by decide) (by decide) (pastEnd_issues _ rfl rfl)).1
    (by decide) (by decide) (by decide) (by decide)
  have pairs : t.noc = pastEnd.noc := by rw [same rfl]
  exact absurd ((pairsAfter_of_next answer).trans (congrArg Noc.used pairs)) (by decide)

end Sys2Proof.Machine
end

section
/-! PROOFS. Instructions that change their context alone (04_engine_instruction_set.md R98 to R103), EVENT and ACC.ZERO. -/

namespace Sys2Proof.Machine

/-! ### Instructions that change their context alone -/

/-- A field within an instruction's low `n` bits of an immediate or of `sub` leaves the bits above them zero. -/
theorem and_eq_zero_of_lt {v m n : Nat} (low : v < 2 ^ n) (high : 2 ^ n ∣ m) : v &&& m = 0 := by
  obtain ⟨q, rfl⟩ := high
  apply Nat.eq_of_testBit_eq
  intro i
  rw [Nat.testBit_and, Nat.testBit_two_pow_mul, Nat.zero_testBit]
  by_cases h : n ≤ i
  · rw [Nat.testBit_lt_two_pow (Nat.lt_of_lt_of_le low (Nat.pow_le_pow_right (by decide) h)), Bool.false_and]
  · simp [h]

/-- An instruction without operands in memory, whose own rules refuse nothing, passes checks 2 to 6 of R89. -/
theorem Ins.check_of_plain {i : Ins} {s : State} {k : Nat} {f : Fields} (uses : i.uses (s.ctx k) f = []) (shape : i.shape s k f = 0)
    (cost : i.cost s k f = 1) : i.check s k f = 0 := by
  simp [check, uses, shape, cost]

/-- An instruction of the control, scalar and descriptor groups whose word is encoded as R89 says is ready. -/
theorem Ins.ready_of_plain {i : Ins} {s : State} {k : Nat} {f : Fields} (enc : i.encOk (s.ctx k) f = true)
    (uses : i.uses (s.ctx k) f = []) (shape : i.shape s k f = 0) (cost : i.cost s k f = 1) (wait : f.feWait = false) : i.ready s k f :=
  ⟨enc, check_of_plain uses shape cost, wait⟩

/-- A command that issues an instruction whose effect is a change `g` of its context; what it leaves there is stated as `u`. -/
theorem changesCtx_of_issue {c : Instr} {i : Ins} {e x : Nat} {f : Fields} {s : State} (g : Ctx → Ctx) {u : Ctx → Ctx}
    (is : exec c s = issue i e x f s (·.ctx g)) (ready : i.ready s (4 * e + x) f) (h : Issues s e x f) (met : f.met = {}) (op : i.op ≠ 1)
    (runs : ∀ c : Ctx, c.st = 2 → (g c).st ≠ 0) (value : (g (s.ctx (4 * e + x))).next = u (s.ctx (4 * e + x))) :
    ChangesCtx c s (4 * e + x) u := by
  obtain ⟨t, answer, mirror, ctxs⟩ := issue_ctx i e x f s g met op h ready runs
  exact ⟨t, is.trans answer, mirror, fun j => value ▸ ctxs j⟩

theorem Ctx.setS_runs (d : Nat) (v : Ctx → W64) (c : Ctx) (h : c.st = 2) : (c.setS d (v c)).st ≠ 0 := by
  rw [setS_st, h]
  decide

/-- The two forms of an instruction of the shape `alu`. -/
theorem twoOperand_of_alu {mk : Nat → Nat → Fields → Instr} {op : Nat} {g : W64 → W64 → W64}
    (is : ∀ e x f s, exec (mk e x f) s = alu op g e x f s) (other : op ≠ 1) : TwoOperand mk g := by
  intro s e x pg d a b pn v hpg hd ha hb h
  constructor
  · refine changesCtx_of_issue _ (is ..) (Ins.ready_of_plain ?_ rfl rfl rfl rfl) h rfl other (Ctx.setS_runs d _) (by simp [Ctx.src2, bitAt])
    simp [Ins.encOk, kindOk, flagOk, hpg, hd, ha, hb, bitAt]
  · refine changesCtx_of_issue _ (is ..) (Ins.ready_of_plain ?_ rfl rfl rfl rfl) h rfl other (Ctx.setS_runs d _) (by simp [Ctx.src2, bitAt])
    simp [Ins.encOk, kindOk, flagOk, hpg, hd, ha, bitAt, immAll]

/-- Settles O11: the scalar instructions are of one shape, but for S.LI. -/
theorem scalarArithmetic : Obligations.ScalarArithmetic := by
  unfold Obligations.ScalarArithmetic
  refine ⟨twoOperand_of_alu (fun _ _ _ _ => rfl) (by decide), twoOperand_of_alu (fun _ _ _ _ => rfl) (by decide),
    twoOperand_of_alu (fun _ _ _ _ => rfl) (by decide), twoOperand_of_alu (fun _ _ _ _ => rfl) (by decide),
    twoOperand_of_alu (fun _ _ _ _ => rfl) (by decide), twoOperand_of_alu (fun _ _ _ _ => rfl) (by decide),
    twoOperand_of_alu (fun _ _ _ _ => rfl) (by decide), twoOperand_of_alu (fun _ _ _ _ => rfl) (by decide),
    twoOperand_of_alu (fun _ _ _ _ => rfl) (by decide), ?_⟩
  intro s e x pg d pn v hpg hd h
  refine changesCtx_of_issue _ rfl (Ins.ready_of_plain ?_ rfl rfl rfl rfl) h rfl (by decide) (Ctx.setS_runs d _) rfl
  simp [Ins.encOk, kindOk, flagOk, hpg, hd, bitAt, immAll]

theorem Ctx.setP_runs (d : Nat) (v : Ctx → Bool) (c : Ctx) (h : c.st = 2) : (c.setP d (v c)).st ≠ 0 := by
  rw [setP_st, h]
  decide

theorem eq_of_le_four {n : Nat} (small : n ≤ 4) : n = 0 ∨ n = 1 ∨ n = 2 ∨ n = 3 ∨ n = 4 := by omega

theorem eq_of_le_five {n : Nat} (small : n ≤ 5) : n = 0 ∨ n = 1 ∨ n = 2 ∨ n = 3 ∨ n = 4 ∨ n = 5 := by omega

/-- Settles O12: the condition codes of S.CMP and the operations of P.OP, code by code. -/
theorem predicateInstructions : Obligations.PredicateInstructions := by
  unfold Obligations.PredicateInstructions
  intro s e x pg d a b pn v hpg hd h
  refine ⟨fun ha hb n hn => ⟨?_, ?_⟩, fun ha hb n hn => ?_⟩
  · refine changesCtx_of_issue _ rfl (Ins.ready_of_plain ?_ rfl rfl rfl rfl) h rfl (by decide) (Ctx.setP_runs d _) ?_
    · rcases eq_of_le_five hn with rfl | rfl | rfl | rfl | rfl | rfl <;> simp [Ins.encOk, kindOk, flagOk, hpg, hd, ha, hb, bitAt]
    · rcases eq_of_le_five hn with rfl | rfl | rfl | rfl | rfl | rfl <;> simp [Ctx.src2, bitAt, sCond, BitVec.slt, BitVec.sle, BitVec.ult, BitVec.ule]
  · refine changesCtx_of_issue _ rfl (Ins.ready_of_plain ?_ rfl rfl rfl rfl) h rfl (by decide) (Ctx.setP_runs d _) ?_
    · rcases eq_of_le_five hn with rfl | rfl | rfl | rfl | rfl | rfl <;> simp [Ins.encOk, kindOk, flagOk, hpg, hd, ha, bitAt, immAll]
    · rcases eq_of_le_five hn with rfl | rfl | rfl | rfl | rfl | rfl <;> simp [Ctx.src2, bitAt, sCond, BitVec.slt, BitVec.sle, BitVec.ult, BitVec.ule]
  · refine changesCtx_of_issue _ rfl (Ins.ready_of_plain ?_ rfl rfl rfl rfl) h rfl (by decide) (Ctx.setP_runs d _) ?_
    · rcases eq_of_le_four hn with rfl | rfl | rfl | rfl | rfl <;> simp [Ins.encOk, kindOk, flagOk, hpg, hd, ha, hb]
    · rcases eq_of_le_four hn with rfl | rfl | rfl | rfl | rfl <;> simp [pCond]

/-! ### What follows an effect -/

theorem CheckStep.trans {k : Nat} {s t u : State} (h : CheckStep k s t) (g : CheckStep k t u) : CheckStep k s u := by
  refine ⟨?_, fun plain => ?_⟩
  · rw [g.1, h.1]
  · have same := h.2 plain
    rw [g.2 (same ▸ plain), same]

/-- A context after an effect that left it as `c`: at the next instruction, or at the one that the effect named. -/
def Run.nextCtx (r : Run) : Ctx := { r.s.ctx r.k with pc := r.npc.getD ((r.s.ctx r.k).pc + 16) }

/-- After an effect that set no flags, the context moves on, and a checker is sent what it asks for. -/
theorem Run.moveOn_step (r : Run) (fl : r.fl = {}) (st : (r.s.ctx r.k).st ≠ 0) :
    CheckStep r.k { r.s with ctxs := r.moveOn.ctxs } r.moveOn
    ∧ ∀ j, r.moveOn.ctx j = if j = r.k then r.nextCtx else r.s.ctx j := by
  have sent : CheckStep r.k r.s (r.mirror r.s) := by unfold mirror; exact State.updMirror_step _ _ _
  unfold moveOn
  rw [fl]
  generalize r.mirror r.s = u at sent ⊢
  refine ⟨sent.withCtxs _, fun j => ?_⟩
  have used : (u.ctx r.k).st ≠ 0 := by rwa [sent.ctx]
  have stuck (j : Nat) : (u.updCtx r.k (·.stick {} false)).ctx j = u.ctx j := by
    have same := u.ctx_updCtx r.k j (·.stick {} false) (by rw [Ctx.stick_nil]; exact Ctx.ne_of_st used)
    rw [same, Ctx.stick_nil]
    exact ite_eq_right_iff.mpr (· ▸ rfl)
  have moved := State.ctx_updCtx (u.updCtx r.k (·.stick {} false)) r.k j (fun c => { c with pc := r.npc.getD (c.pc + 16) })
    (by rw [stuck]; exact Ctx.ne_of_st used)
  rw [moved, stuck, stuck, sent.ctx, sent.ctx]
  rfl

/-- The end of an instruction that met neither an error nor poison; SLICE.END also ends what its checker is sent. -/
theorem Run.finish_step (r : Run) (op : Nat) (err : r.err = none) (poison : r.poison = false) (fl : r.fl = {})
    (st : (r.s.ctx r.k).st ≠ 0) :
    CheckStep r.k { r.s with ctxs := (r.finish op).ctxs } (r.finish op)
    ∧ ∀ j, (r.finish op).ctx j = if j = r.k then r.nextCtx else r.s.ctx j := by
  obtain ⟨moved, ctxs⟩ := r.moveOn_step fl st
  by_cases sliceEnd : op = 1
  · have finish : r.finish op = r.moveOn.mirrorEnd r.k := by simp [Run.finish, Run.moveOn, err, poison, sliceEnd]
    have sent : CheckStep r.k r.moveOn (r.moveOn.mirrorEnd r.k) := by
      unfold State.mirrorEnd; exact State.updMirror_step _ _ _
    rw [finish]
    exact ⟨sent.ctxs.symm ▸ moved.trans sent, fun j => (sent.ctx j).trans (ctxs j)⟩
  · rw [r.finish_clean op err poison sliceEnd]
    exact ⟨moved, ctxs⟩

/-- An instruction whose effect meets neither an error nor poison leaves what the effect left, its context moved on, and what its
checker is sent. -/
theorem issue_clean {i : Ins} {e x : Nat} {f : Fields} {s : State} {run : Run → Run} (met : f.met = {}) (h : Issues s e x f)
    (ready : i.ready s (4 * e + x) f) {r : Run} (effect : run (.start s s (4 * e + x) f) = r) (own : r.k = 4 * e + x) (err : r.err = none)
    (poison : r.poison = false) (fl : r.fl = {}) (st : (r.s.ctx r.k).st ≠ 0) (mem : r.s.mem = s.mem) :
    ∃ u, issue i e x f s run = .next (settle u) ∧ CheckStep (4 * e + x) { r.s with ctxs := u.ctxs } u
      ∧ ∀ j, u.ctx j = if j = 4 * e + x then r.nextCtx else r.s.ctx j := by
  obtain ⟨sent, ctxs⟩ := r.finish_step i.op err poison fl st
  rw [own] at sent ctxs
  refine ⟨_, ?_, sent, ctxs⟩
  rw [issue_ready i e x f s run met h ready, effect, State.issued, if_pos (by rw [sent.mem]; exact congrArg _ mem)]
  rfl

theorem Run.start_s {s : State} {k : Nat} {f : Fields} (met : f.met = {}) : (Run.start s s k f).s = s := by
  rw [Run.start, met]
  rfl

theorem Run.start_c {s : State} {k : Nat} {f : Fields} (met : f.met = {}) : (Run.start s s k f).c = s.ctx k := by
  rw [Run.c, Run.start_s met]
  rfl

/-! ### LOOP and a table of registers in no canonical form

LOOP reads its count back from the scalar registers after it has written it. Where their table lists one register twice, clearing the
first entry uncovers the second, so that the count read is not the one written. -/

/-- Context 0 of engine 0 runs; its table lists S[1] twice, as 1 and as 5. -/
def twiceListed : State :=
  { State.reset with
    boot := { State.reset.boot with stage := 4 }
    glb := { service := 2 }
    ctxs := [(0, { st := 2, sr := [(1, 1), (1, 5)] })]
    engs := [(0, { interval := some 0 })] }

/-- The program counter of context 0 after a command. -/
def pcAfter (c : Instr) (s : State) : Nat := match exec c s with
  | .next t => (t.ctx 0).pc
  | _ => 0

/-- Refutes O14: a LOOP with a count of 1 branches where the entry that it clears hides another. -/
theorem not_controlInstructions : ¬ Obligations.ControlInstructions := by
  unfold Obligations.ControlInstructions
  intro h
  have issues : Issues twiceListed 0 0 {} := ⟨⟨rfl, rfl⟩, by decide, by decide, by decide, by decide⟩
  obtain ⟨t, answer, -, ctxs⟩ := ((h twiceListed 0 0 0 false (by decide) issues).2.2.2.1 0 (by decide)).2 1 (by decide)
  have pc : pcAfter (.loop 0 0 { a := 1 }) twiceListed = 0 := by decide
  have next : (t.ctx 0).pc = 16 := by
    rw [ctxs 0]
    decide
  have same : pcAfter (.loop 0 0 { a := 1 }) twiceListed = (t.ctx 0).pc := by
    rw [pcAfter]
    exact answer ▸ rfl
  exact absurd (next.symm.trans (same.symm.trans pc)) (by decide)

/-! ### EVENT and the descriptor instructions -/

/-- An event and its record in an event queue leave items to be written, and nothing else. -/
theorem State.event_notify_frame (s : State) (ev : Ev) (fn : Nat) (r : EvqRec) :
    (s.event ev).notify fn r = { s with todo := ((s.event ev).notify fn r).todo } := by
  unfold notify
  split
  · rfl
  · split <;> rfl

theorem State.engine_of_canIssue {s : State} {e x : Nat} (h : s.canIssue e x = true) : x < 4 := by
  unfold canIssue at h
  simp only [Bool.and_eq_true, decide_eq_true_eq] at h
  exact h.1.1.1.1.1.1.1.1.1.1.1.1.2

/-- The event of an EVENT instruction of context `k` (17 Table 17.20). -/
def State.eventOf (s : State) (k : Nat) (f : Fields) : Ev :=
  { blk := .eng, inst := k / 4, num := 3, fn := s.owner k, p0 := f.imm.toNat % 65536 + 65536 * (k % 4)
    p1 := ((s.ctx k).s f.a).toNat % 2 ^ 32, p2 := ((s.ctx k).s f.a).toNat / 2 ^ 32, p3 := sat 32 (s.ctx k).evDrop }

/-- What EVENT changes in its context when it delivers one. -/
def Ctx.delivered (tick : Nat) (c : Ctx) : Ctx := { c with evTick := some tick, evDrop := 0 }

/-- EVENT, where none was delivered in this tick. -/
theorem eventRun_start {s : State} {k : Nat} {f : Fields} (met : f.met = {}) (fresh : (s.ctx k).evTick ≠ some s.ticks) :
    eventRun f (.start s s k f) = { Run.start s s k f with
      s := ((s.event (s.eventOf k f)).notify (s.owner k) (s.eventOf k f).toEvq).updCtx k (.delivered s.ticks) } := by
  have start : (Run.start s s k f).s = s := Run.start_s met
  have own : (Run.start s s k f).c = s.ctx k := Run.start_c met
  unfold eventRun
  dsimp only
  rw [start, own, if_neg fresh]
  unfold Run.ctx Run.upd
  rw [start]
  rfl

/-- Settles O15: the effect of EVENT is an event with its record in the owner's queue, and a change of its context. -/
theorem eventInstruction : Obligations.EventInstruction := by
  unfold Obligations.EventInstruction
  intro s e x pg a pn v hpg ha hv h k fresh ev
  have small : x < 4 := State.engine_of_canIssue h.2.1
  let f : Fields := { pg, pn, a, imm := v }
  have event : s.eventOf k f = ev := by
    have unit : k / 4 = e := by omega
    have member : k % 4 = x := by omega
    have low : v.toNat % 65536 = v.toNat := Nat.mod_eq_of_lt hv
    rw [State.eventOf, unit, member, low]
    rfl
  have effect := eventRun_start (f := f) rfl fresh
  rw [event] at effect
  have frame := s.event_notify_frame ev (s.owner k) ev.toEvq
  generalize (s.event ev).notify (s.owner k) ev.toEvq = raised at effect frame
  have own : raised.ctx k = s.ctx k := by rw [frame]; rfl
  have mem : raised.mem = s.mem := by rw [frame]
  have st : ((raised.ctx k).delivered s.ticks).st ≠ 0 := by
    show (raised.ctx k).st ≠ 0
    rw [own, State.st_of_canIssue h.2.1]
    decide
  have ctx (j : Nat) := raised.ctx_updCtx k j (.delivered s.ticks) (Ctx.ne_of_st st)
  have ready : Ins.ready { op := 0x08, a := .s, imm := 0xFFFF } s k f := by
    refine Ins.ready_of_plain ?_ rfl rfl rfl rfl
    have low := and_eq_zero_of_lt hv (show 2 ^ 16 ∣ 2 ^ 64 - 1 - 65535 by decide)
    simp [Ins.encOk, kindOk, flagOk, hpg, ha, f] at low ⊢
    exact low
  obtain ⟨t, answer, sent, ctxs⟩ := issue_clean (f := f) rfl h ready effect rfl rfl rfl rfl
    ((ctx k).trans (if_pos rfl) ▸ st) mem
  have same : { raised.updCtx k (.delivered s.ticks) with ctxs := t.ctxs } = { s with ctxs := t.ctxs, todo := raised.todo } := by
    rw [frame]
    rfl
  rw [same] at sent
  refine ⟨t, answer, ⟨?_, sent.2⟩, fun j => ?_⟩
  · rw [sent.1]
  · rw [ctxs]
    split
    · have value := (ctx k).trans (if_pos rfl)
      rw [own] at value
      exact congrArg Ctx.next value
    · next other =>
      refine (ctx j).trans ((if_neg other).trans ?_)
      rw [frame]
      rfl

theorem tdSet_of_field {n hi lo : Nat} (h : tdField n = some (hi, lo)) (w : TdWord) (v : Nat) :
    tdSet w n v = BitVec.ofNat 256 (setBits w.toNat hi lo v) := by
  rw [tdSet, h]

theorem tdGet_of_field {n hi lo : Nat} (h : tdField n = some (hi, lo)) (w : TdWord) : tdGet w n = bits w.toNat hi lo := by
  rw [tdGet, h]

/-- The base address of a descriptor moves modulo 2^64. -/
theorem tdSet_base_add (w : TdWord) (v : W64) :
    tdSet w 0 (BitVec.ofNat 64 (tdGet w 0) + v).toNat = BitVec.ofNat 256 (setBits w.toNat 63 0 (w.toNat % 2 ^ 64 + v.toNat)) := by
  have wraps : (BitVec.ofNat 64 (tdGet w 0) + v).toNat % 2 ^ (63 - 0 + 1) = (w.toNat % 2 ^ 64 + v.toNat) % 2 ^ (63 - 0 + 1) := by
    rw [BitVec.toNat_add, BitVec.toNat_ofNat, tdGet_of_field (hi := 63) (lo := 0) rfl, bits, Nat.shiftRight_zero]
    omega
  rw [tdSet_of_field (hi := 63) (lo := 0) rfl, setBits, wraps]
  rfl

/-- A descriptor instruction leaves its context running. -/
theorem Ctx.withTd_runs (t : Ctx → Tab TdWord) (c : Ctx) (h : c.st = 2) : { c with td := t c }.st ≠ 0 := by
  show c.st ≠ 0
  rw [h]
  decide

/-- Settles O17: field by field, by the places of Table 4.3. -/
theorem descriptorInstructions : Obligations.DescriptorInstructions := by
  unfold Obligations.DescriptorInstructions
  intro s e x pg d a b pn v hpg hd h k c put
  have runs (t : Ctx → Tab TdWord) := Ctx.withTd_runs t
  refine ⟨fun n hn hi lo field => ⟨fun ha => ?_, fun hd ha => ?_⟩, fun hb => ?_, ?_, fun ha => ?_⟩
  · refine changesCtx_of_issue _ rfl (Ins.ready_of_plain ?_ rfl rfl rfl rfl) h rfl (by decide) (runs _) ?_
    · simp [Ins.encOk, kindOk, flagOk, hpg, hd, ha, hn]
      omega
    · simp only [tdSet_of_field field]
      rfl
  · refine changesCtx_of_issue _ rfl (Ins.ready_of_plain ?_ rfl rfl rfl rfl) h rfl (by decide) (Ctx.setS_runs d _) ?_
    · simp [Ins.encOk, kindOk, flagOk, hpg, hd, ha, hn]
      omega
    · simp only [tdGet_of_field field]
      rfl
  · refine changesCtx_of_issue _ rfl (Ins.ready_of_plain ?_ rfl rfl rfl rfl) h rfl (by decide) (runs _) ?_
    · simp [Ins.encOk, kindOk, flagOk, hpg, hd, hb, bitAt]
    · simp only [tdSet_base_add, Ctx.src2, bitAt, Nat.zero_testBit, Bool.false_eq_true, if_false]
      rfl
  · refine changesCtx_of_issue _ rfl (Ins.ready_of_plain ?_ rfl rfl rfl rfl) h rfl (by decide) (runs _) ?_
    · simp [Ins.encOk, kindOk, flagOk, hpg, hd, bitAt, immAll]
    · simp only [tdSet_base_add, Ctx.src2, bitAt, Nat.testBit_one_zero, if_true]
      rfl
  · refine changesCtx_of_issue _ rfl (Ins.ready_of_plain ?_ rfl rfl rfl rfl) h rfl (by decide) (runs _) rfl
    simp [Ins.encOk, kindOk, flagOk, hpg, hd, ha]

/-! ### ACC.ZERO -/

/-- Writing zero at consecutive places of a table in canonical form. -/
theorem Tab.get_foldl_clear {α : Type} [DecidableEq α] (d : α) (b n : Nat) (t : Tab α) (w : t.wf d = true) (i : Nat) :
    ((List.range n).foldl (fun m j => m.set d (b + j) d) t).get d i = if b ≤ i ∧ i < b + n then d else t.get d i := by
  have kept : ((List.range n).foldl (fun m j => m.set d (b + j) d) t).wf d = true
      ∧ ((List.range n).foldl (fun m j => m.set d (b + j) d) t).get d i = if b ≤ i ∧ i < b + n then d else t.get d i := by
    induction n with
    | zero => exact ⟨w, (if_neg (by omega)).symm⟩
    | succ n ih =>
      obtain ⟨form, value⟩ := ih
      rw [List.range_succ, List.foldl_append]
      refine ⟨Tab.set_wf _ d _ _ form, (Tab.get_set _ d _ i _ form).trans ?_⟩
      rw [value]
      by_cases last : i = b + n
      · rw [if_pos last, if_pos (by omega)]
      · rw [if_neg last]
        exact ite_congr (propext (by omega)) (fun _ => rfl) fun _ => rfl
  exact kept.2

/-- Clearing an accumulator. -/
theorem Ctx.setAcc_nil (c : Ctx) (q : Nat) :
    c.setAcc q [] = { c with acc := (List.range 4096).foldl (fun m j => m.set 0 (4096 * q + j) 0) c.acc } := by
  unfold setAcc
  generalize List.range 4096 = l
  rfl

/-- Settles O21: ACC.ZERO writes the 4,096 elements of its accumulator. -/
theorem accumulatorZero : Obligations.AccumulatorZero := by
  unfold Obligations.AccumulatorZero
  intro s e x pg q pn hpg hq h k form
  have ready : accZeroIns.ready s k { pg, pn, d := q } := by
    refine Ins.ready_of_plain ?_ rfl rfl rfl rfl
    simp [accZeroIns, Ins.encOk, kindOk, flagOk, hpg, hq]
  have cleared := Tab.get_foldl_clear (0 : W32) (4096 * q) 4096 (s.ctx k).acc form
  have after := (s.ctx k).setAcc_nil q
  have runs (c : Ctx) (h : c.st = 2) : (c.setAcc q []).st ≠ 0 := by
    rw [Ctx.setAcc_nil]
    generalize List.range 4096 = l
    show c.st ≠ 0
    rw [h]
    decide
  obtain ⟨t, answer, mirror, ctxs⟩ := issue_ctx accZeroIns e x { pg, pn, d := q } s (fun c => c.setAcc q []) rfl (by decide) h ready runs
  have own : t.ctx k = ((s.ctx k).setAcc q []).next := (ctxs k).trans (if_pos rfl)
  rw [after] at own
  generalize (List.range 4096).foldl (fun m j => m.set (0 : W32) (4096 * q + j) 0) (s.ctx k).acc = acc at cleared own
  refine ⟨t, answer, mirror, fun j other => (ctxs j).trans (if_neg other), ?_, fun i => ?_⟩
  · rw [own]
    rfl
  · have places : 4096 * q ≤ i ∧ i < 4096 * q + 4096 ↔ i / 4096 = q := by omega
    rw [own]
    exact (cleared i).trans (ite_congr (propext places) (fun _ => rfl) fun _ => rfl)

end Sys2Proof.Machine
end

section
/-! PROOFS. Full/empty marks (04_engine_instruction_set.md R116, R117). -/

namespace Sys2Proof.Machine

/-! ### Full/empty marks -/

/-- An instruction whose effect leaves no record to be written. -/
theorem answers_of_clean {c : Instr} {i : Ins} {e x : Nat} {f : Fields} {s : State} {run : Run → Run} (is : exec c s = issue i e x f s run)
    (met : f.met = {}) (h : Issues s e x f) (ready : i.ready s (4 * e + x) f) {r : Run} (effect : run (.start s s (4 * e + x) f) = r)
    (own : r.k = 4 * e + x) (err : r.err = none) (poison : r.poison = false) (fl : r.fl = {}) (st : (r.s.ctx r.k).st ≠ 0)
    (mem : r.s.mem = s.mem) (todo : r.s.todo = s.todo) :
    Answers c s fun t => MirrorStep (4 * e + x) { r.s with ctxs := t.ctxs } t
      ∧ ∀ j, t.ctx j = if j = 4 * e + x then r.nextCtx else r.s.ctx j := by
  obtain ⟨u, answer, sent, ctxs⟩ := issue_clean met h ready effect own err poison fl st mem
  have quiet : State.quiet { r.s with ctxs := u.ctxs } := ⟨todo.trans h.1.1, by rw [mem]; exact h.1.2⟩
  refine ⟨settle u, is.trans answer, ?_, fun j => ?_⟩
  · rw [settle_ctxs]
    exact sent.settled quiet
  · rw [← ctxs, State.ctx, settle_ctxs]
    rfl

/-- The words of a range of the own tile store that lies within the region. -/
theorem State.feWords_tile {s : State} {k a n : Nat} (own : Bool) (inside : a + n ≤ s.regionSize k) :
    s.feWords k own (.tile (s.tsAddr k a), n) = (wordsOf (s.tsAddr k a) n).map .tile := by
  have base : s.tsAddr k a = s.tsAddr k 0 + a := by unfold tsAddr; omega
  have low : s.tsAddr k 0 ≤ s.tsAddr k a := by omega
  have high : s.tsAddr k a + n ≤ s.tsAddr k 0 + s.regionSize k := by omega
  simp [feWords, low, high]

/-- The words of ranges of the own tile store that lie within the region. -/
theorem State.feRanges_tile {s : State} {k : Nat} (own : Bool) (rs : List (Nat × Nat)) (inside : ∀ x ∈ rs, x.1 + x.2 ≤ s.regionSize k) :
    s.feRanges k own (rs.map fun x => (0, x.1, x.2)) = (s, (rs.flatMap fun x => wordsOf (s.tsAddr k x.1) x.2).map .tile) := by
  have step (ws : List FeWord) (x : Nat × Nat) (h : x.1 + x.2 ≤ s.regionSize k) :
      (let (t, ps) := s.places k 0 x.1 x.2 true
       (t, ws ++ ps.flatMap (t.feWords k own))) = (s, ws ++ (wordsOf (s.tsAddr k x.1) x.2).map .tile) := by
    by_cases empty : x.2 = 0
    · simp [places, empty, wordsOf]
    · simp [places, empty, feWords_tile own h]
  have all (ws : List FeWord) : (rs.map fun x => ((0 : Nat), x.1, x.2)).foldl (fun (acc : State × List FeWord) x =>
      let (t, ps) := acc.1.places k x.1 x.2.1 x.2.2 true
      (t, acc.2 ++ ps.flatMap (t.feWords k own))) (s, ws)
      = (s, ws ++ (rs.flatMap fun x => wordsOf (s.tsAddr k x.1) x.2).map .tile) := by
    induction rs generalizing ws with
    | nil => simp
    | cons x rs ih =>
      rw [List.map_cons, List.foldl_cons, step ws x (inside x (by simp)), ih (fun y hy => inside y (by simp [hy]))]
      simp
  exact all []

theorem feErr_tile (ws : List Nat) : feErr (ws.map .tile) = none := by
  induction ws with
  | nil => rfl
  | cons w ws ih => exact ih

/-- Marking words of tile stores. -/
theorem State.feMark_tile (s : State) (v : Bool) (ws : List Nat) :
    s.feMark v (ws.map .tile) = { s with tileFull := ws.foldl (fun t w => t.set false w v) s.tileFull } := by
  induction ws generalizing s with
  | nil => rfl
  | cons w ws ih => exact ih (s.tsMark [w] v)

/-- Writing one value at places of a table in canonical form. -/
theorem Tab.get_foldl_set {α : Type} [DecidableEq α] (d v : α) (ks : List Nat) (t : Tab α) (w : t.wf d = true) (i : Nat) :
    (ks.foldl (fun t k => t.set d k v) t).get d i = if i ∈ ks then v else t.get d i := by
  induction ks generalizing t with
  | nil => simp
  | cons k ks ih =>
    rw [List.foldl_cons, ih _ (Tab.set_wf t d k v w), Tab.get_set t d k i v w]
    by_cases later : i ∈ ks
    · simp [later]
    · by_cases here : i = k <;> simp [later, here]

/-- Every row of a tensor lies between its base and its base plus its span (04 R115). -/
theorem Td.rowAt_le (d : Td) {i : Nat} (h : i < d.rows) : d.rowAt i + d.rowBytes ≤ d.base + d.span := by
  have positive : 0 < d.ext 1 * d.ext 2 * d.ext 3 := Nat.lt_of_le_of_lt (Nat.zero_le i) h
  have p12 : 0 < d.ext 1 * d.ext 2 := Nat.pos_of_mul_pos_right positive
  have p1 : 0 < d.ext 1 := Nat.pos_of_mul_pos_right p12
  have p2 : 0 < d.ext 2 := Nat.pos_of_mul_pos_left p12
  have i1 : i % d.ext 1 ≤ d.ext 1 - 1 := Nat.le_sub_one_of_lt (Nat.mod_lt _ p1)
  have i2 : i / d.ext 1 % d.ext 2 ≤ d.ext 2 - 1 := Nat.le_sub_one_of_lt (Nat.mod_lt _ p2)
  have i3 : i / d.ext 1 / d.ext 2 ≤ d.ext 3 - 1 := by
    rw [Nat.div_div_eq_div_mul]
    exact Nat.le_sub_one_of_lt (Nat.div_lt_of_lt_mul h)
  have m1 := Nat.mul_le_mul_right d.s1 i1
  have m2 := Nat.mul_le_mul_right d.s2 i2
  have m3 := Nat.mul_le_mul_right d.s3 i3
  have span : d.span = d.rowBytes + ((if 1 < d.rank then (d.ext 1 - 1) * d.s1 else 0) + (if 2 < d.rank then (d.ext 2 - 1) * d.s2 else 0)
      + (if 3 < d.rank then (d.ext 3 - 1) * d.s3 else 0)) := by
    simp [Td.span, Td.stride, List.range_succ]
  have part (used : Prop) [Decidable used] {a b : Nat} (le : a ≤ b) : (if used then a else 0) ≤ if used then b else 0 := by
    by_cases h : used <;> simp [h, le]
  have p1 := part (1 < d.rank) m1
  have p2 := part (2 < d.rank) m2
  have p3 := part (3 < d.rank) m3
  rw [span, Td.rowAt]
  omega

theorem Ins.inRange_of_check {i : Ins} {s : State} {k : Nat} {f : Fields} (h : i.check s k f = 0) :
    (i.uses (s.ctx k) f).all (s.useInRange k) = true := by
  unfold check at h
  dsimp only at h
  split at h
  · cases h
  · split at h
    · cases h
    · next inside => simpa using inside

/-- Every row of a dense operand in the own tile store that passes check 3 lies in the region (04 R89). -/
theorem State.row_within {s : State} {k : Nat} {u : Use} (dense : OwnDense ((s.ctx k).tdAt u.i)) (h : s.useInRange k u = true) {i : Nat}
    (row : i < ((s.ctx k).tdAt u.i).rows) : ((s.ctx k).tdAt u.i).rowAt i + ((s.ctx k).tdAt u.i).rowBytes ≤ s.regionSize k := by
  obtain ⟨space, sparse, scaled⟩ := dense
  have inside : ((s.ctx k).tdAt u.i).base + ((s.ctx k).tdAt u.i).span ≤ s.regionSize k := by
    simpa [useInRange, useRanges, space, sparse, scaled] using h
  exact Nat.le_trans (Td.rowAt_le _ row) inside

/-- The ranges of an FE instruction on a dense tensor of the own tile store. -/
theorem feRange_dense {s : State} {k : Nat} {f : Fields} (dense : OwnDense ((s.ctx k).tdAt f.a)) :
    feRange s k f = ((List.range ((s.ctx k).tdAt f.a).rows).map fun r =>
      (((s.ctx k).tdAt f.a).rowAt r, ((s.ctx k).tdAt f.a).rowBytes)).map fun x => (0, x.1, x.2) := by
  obtain ⟨space, sparse, scaled⟩ := dense
  simp [feRange, State.useWords, space, sparse, scaled]

/-- The words of the rows of a tensor in the own tile store. -/
def State.rowWords (s : State) (k : Nat) (d : Td) : List Nat :=
  (List.range d.rows).flatMap fun r => wordsOf (s.tsAddr k (d.rowAt r)) d.rowBytes

/-- FE.SET and FE.CLR of words none of which is refused. -/
theorem feSetRun_of_words {v : Bool} {f : Fields} {r : Run} {t : State} {ws : List FeWord}
    (words : r.s.feRanges r.k (!v) (feRange r.s r.k f) = (t, ws)) (clean : feErr ws = none) :
    feSetRun v f r = { r with s := t.feMark v ws } := by
  unfold feSetRun
  rw [words]
  dsimp only
  rw [clean]

/-- FE.SET and FE.CLR of a dense tensor in the own tile store. -/
theorem feSetRun_start {s : State} {k : Nat} {f : Fields} (v : Bool) (met : f.met = {}) (dense : OwnDense ((s.ctx k).tdAt f.a))
    (h : s.useInRange k { i := f.a, any := true } = true) :
    feSetRun v f (.start s s k f) = { Run.start s s k f with
      s := { s with tileFull := (s.rowWords k ((s.ctx k).tdAt f.a)).foldl (fun t w => t.set false w v) s.tileFull } } := by
  have words : s.feRanges k (!v) (feRange s k f) = (s, (s.rowWords k ((s.ctx k).tdAt f.a)).map .tile) := by
    rw [feRange_dense dense, State.feRanges_tile]
    · rw [State.rowWords, List.flatMap_map]
    · intro x member
      obtain ⟨r, row, rfl⟩ := List.mem_map.mp member
      exact State.row_within (u := { i := f.a, any := true }) dense h (List.mem_range.mp row)
  have start : (Run.start s s k f).s = s := Run.start_s met
  have words : (Run.start s s k f).s.feRanges k (!v) (feRange (Run.start s s k f).s k f)
      = (s, (s.rowWords k ((s.ctx k).tdAt f.a)).map .tile) := by
    rw [start, words]
  rw [feSetRun_of_words words (feErr_tile _), State.feMark_tile]

/-- Settles O22: the two instructions mark the words of every row. -/
theorem fullEmptyMarks : Obligations.FullEmptyMarks := by
  unfold Obligations.FullEmptyMarks
  intro s e x pg a pn v f k A h ready dense form
  have inRange : s.useInRange k { i := a, any := true } = true := by
    have all := Ins.inRange_of_check ready.2.1
    simpa [feIns] using all
  have effect := feSetRun_start (f := f) v rfl dense inRange
  have is : exec (if v then .feSet e x f else .feClr e x f) s = issue (feIns (if v then 0x72 else 0x73) .none) e x f s (feSetRun v f) := by
    cases v <;> rfl
  have st : (s.ctx k).st ≠ 0 := by
    rw [State.st_of_canIssue h.2.1]
    decide
  obtain ⟨t, answer, mirror, ctxs⟩ := answers_of_clean is rfl h ready effect rfl rfl rfl rfl st rfl rfl
  have full : t.tileFull = (s.rowWords k A).foldl (fun t w => t.set false w v) s.tileFull := by rw [mirror.1]
  refine ⟨t, answer, ?_, ctxs, fun w => ?_⟩
  · rw [full]
    exact mirror
  · rw [full, Tab.get_foldl_set _ _ _ _ form]
    refine ite_congr (propext ?_) (fun _ => rfl) fun _ => rfl
    simp [State.rowWords]

end Sys2Proof.Machine
end

section
/-! PROOFS. Scrubs of tile stores (03_engines_and_formats.md R65, R66). -/

namespace Sys2Proof.Machine

/-! ### What a booking changes (15 R393, R395) -/

/-- Only the health of tiles, the records and what is to be written differ. -/
def HealthStep (s t : State) : Prop := t = { s with recs := t.recs, todo := t.todo, tiles := t.tiles }

theorem HealthStep.refl (s : State) : HealthStep s s := rfl

theorem HealthStep.trans {s t u : State} (h : HealthStep s t) (g : HealthStep t u) : HealthStep s u := by
  unfold HealthStep at *
  rw [g, h]

theorem State.auditDev_healthStep (s : State) (a o n : Nat) : HealthStep s (s.auditDev a o n) := by
  unfold auditDev
  split <;> rfl

theorem State.hlthEvent_healthStep (s : State) (num p0 p1 p2 : Nat) : HealthStep s (s.hlthEvent num p0 p1 p2) := rfl

theorem State.dueNow_healthStep (s : State) (t cause : Nat) : HealthStep s (s.dueNow t cause) := by
  unfold dueNow
  split
  · rfl
  · rfl

theorem State.audited_healthStep {s : State} {g : State → State} (t : Nat) (h : HealthStep s (g s)) : HealthStep s (s.audited t none g) := by
  unfold audited
  exact h.trans (State.auditDev_healthStep ..)

theorem State.book_healthStep (s : State) (t k kind locus : Nat) : HealthStep s (s.book t k kind locus) := by
  unfold book
  extract_lets now ev s1 transient observe x n entered x2 n2 x3 perm x4 s2 s3 again s4
  have h1 : HealthStep s s1 := rfl
  have h2 : HealthStep s s2 := h1.trans (State.audited_healthStep t rfl)
  have h3 : HealthStep s s3 := by
    dsimp only [s3]
    split
    · exact h2.trans (State.hlthEvent_healthStep ..)
    · exact h2
  have h4 : HealthStep s s4 := by
    dsimp only [s4]
    split
    · exact h3.trans rfl
    · exact h3
  split
  · exact h4.trans (State.dueNow_healthStep ..)
  · exact h4

/-! ### Scrubs (03 R65, R66) -/

/-- The contexts and the tile stores are the same. -/
structure SameStores (s t : State) : Prop where
  ctxs : t.ctxs = s.ctxs
  tileMem : t.tileMem = s.tileMem
  tileFull : t.tileFull = s.tileFull
  tilePoison : t.tilePoison = s.tilePoison

theorem SameStores.refl (s : State) : SameStores s s := ⟨rfl, rfl, rfl, rfl⟩

theorem SameStores.trans {s t u : State} (h : SameStores s t) (g : SameStores t u) : SameStores s u :=
  ⟨g.1.trans h.1, g.2.trans h.2, g.3.trans h.3, g.4.trans h.4⟩

theorem HealthStep.sameStores {s t : State} (h : HealthStep s t) : SameStores s t := by
  constructor <;> rw [h]

theorem State.inc_sameStores (s : State) (a n : Nat) : SameStores s (s.inc a n) := by
  constructor <;> rw [s.inc_eq]

theorem settle_sameStores (s : State) : SameStores s (settle s) := by
  constructor <;> simp

/-- What a read of a word with this syndrome leaves in the tile stores, unless the word was poisoned before. -/
def State.scrubbed (s : State) (i : Nat) : TileErr → State
  | .miss x => s.flipWord i x
  | .other x => { s.flipWord i x with tilePoison := s.tilePoison.set false i true }
  | _ => s

theorem State.scrubWord_of_poisoned {s : State} {t w : Nat} (err : TileErr) (h : s.tilePoison.get false (0x100000 * t + w) = true) :
    s.scrubWord t w err = s := if_pos h

theorem State.scrubWord_sameStores {s : State} {t w : Nat} (err : TileErr) (h : s.tilePoison.get false (0x100000 * t + w) = false) :
    SameStores (s.scrubbed (0x100000 * t + w) err) (s.scrubWord t w err) := by
  unfold scrubWord
  dsimp only
  rw [if_neg (by simp [h])]
  have counted (s : State) : SameStores s (match s.engineOn t with | some e => s.inc (Blk.eng.at e 0x090) | none => s) := by
    split
    · exact s.inc_sameStores ..
    · exact .refl s
  cases err with
  | none => exact .refl s
  | single bit => exact counted s
  | miss x => exact counted _
  | other x =>
    refine SameStores.trans ?_ (State.book_healthStep ..).sameStores
    split
    · exact (State.inc_sameStores ..).trans ⟨rfl, rfl, rfl, rfl⟩
    · exact .refl _

/-- Changing the bits of a word leaves every other byte. -/
theorem State.flipWord_tileMem_of_ne (s : State) {i a : Nat} (x : BitVec 65) (form : Memory.wf s.tileMem = true) (other : a / 8 ≠ i) :
    Tab.get (s.flipWord i x).tileMem 0 a = Tab.get s.tileMem 0 a := by
  refine Tab.get_putList_out 0 _ _ _ _ form ?_
  rw [length_leBytes]
  omega

theorem State.flipWord_tileFull_of_ne (s : State) {i j : Nat} (x : BitVec 65) (form : Tab.wf false s.tileFull = true) (other : j ≠ i) :
    Tab.get (s.flipWord i x).tileFull false j = Tab.get s.tileFull false j := by
  show (s.tileFull.upd false i fun v => v ^^ x.getLsbD 64).get false j = _
  rw [Tab.get_upd _ _ _ _ _ form, if_neg other]

/-- Settles O30: both commands are the same read, whose syndrome says what becomes of the word. -/
theorem scrubsPoisonOnlyWhatIsLost : Obligations.ScrubsPoisonOnlyWhatIsLost := by
  unfold Obligations.ScrubsPoisonOnlyWhatIsLost
  intro s t w err c ht hw hc mem full i lost
  have answer : exec c s = .next (settle (s.scrubWord t w err)) := by
    have due : (decide (t < 52) && decide (w < 0x100000)) = true := by simp [ht, hw]
    simp only [List.mem_cons, List.not_mem_nil, or_false] at hc
    rcases hc with rfl | rfl
    · exact if_pos due
    · exact if_pos due
  refine ⟨_, answer, ?_⟩
  cases poisoned : s.tilePoison.get false i with
  | true =>
    rw [State.scrubWord_of_poisoned err poisoned]
    obtain ⟨ctxs, tileMem, tileFull, tilePoison⟩ := settle_sameStores s
    rw [ctxs, tileMem, tileFull, tilePoison]
    refine ⟨rfl, fun _ _ => rfl, fun _ _ => rfl, fun j => ?_, fun _ _ => ⟨rfl, rfl⟩⟩
    by_cases here : j = i
    · rw [here, poisoned]
      rfl
    · simp [here]
  | false =>
    obtain ⟨ctxs, tileMem, tileFull, tilePoison⟩ := (State.scrubWord_sameStores err poisoned).trans (settle_sameStores _)
    change _ = (s.scrubbed i err).tileMem at tileMem
    change _ = (s.scrubbed i err).tileFull at tileFull
    change _ = (s.scrubbed i err).tilePoison at tilePoison
    rw [ctxs, tileMem, tileFull, tilePoison]
    cases err with
    | none => exact ⟨rfl, fun _ _ => rfl, fun _ _ => rfl, fun j => by simp [lost, State.scrubbed], fun _ _ => ⟨rfl, rfl⟩⟩
    | single bit => exact ⟨rfl, fun _ _ => rfl, fun _ _ => rfl, fun j => by simp [lost, State.scrubbed], fun _ _ => ⟨rfl, rfl⟩⟩
    | miss x =>
      have bytes (a : Nat) (other : a / 8 ≠ i) := s.flipWord_tileMem_of_ne x mem other
      have marks (j : Nat) (other : j ≠ i) := s.flipWord_tileFull_of_ne x full other
      refine ⟨rfl, bytes, marks, fun j => ?_, ?_⟩
      · simp [lost, State.scrubbed, State.flipWord]
      · rintro b (h | h) <;> cases h
    | other x =>
      have bytes (a : Nat) (other : a / 8 ≠ i) := s.flipWord_tileMem_of_ne x mem other
      have marks (j : Nat) (other : j ≠ i) := s.flipWord_tileFull_of_ne x full other
      refine ⟨rfl, bytes, marks, fun j => ?_, ?_⟩
      · refine (Tab.get_set_of_ne s.tilePoison i j Bool.false_ne_true.symm).trans ?_
        by_cases here : j = i <;> simp [here, lost]
      · rintro b (h | h) <;> cases h

end Sys2Proof.Machine
end

section
/-! PROOFS. What memory stacks do (07_hbm_memory.md R194 to R206). -/

namespace Sys2Proof.Machine

/-! ### What the operations of a memory stack change (07 R194 to R206) -/

theorem State.healthRec_recStep (s : State) (r : EvRec) : RecStep s (s.healthRec r) := ⟨rfl, id⟩

theorem State.auditDev_recStep (s : State) (a o n : Nat) (sec : Bool) : RecStep s (s.auditDev a o n sec) := by
  unfold auditDev
  split
  · exact .refl s
  · exact ⟨rfl, id⟩

theorem State.disturbed_memStep (s : State) (m lam : Nat) (ns : List Noise) : MemStep s (s.disturbed m lam ns) := by
  unfold disturbed
  split
  · exact State.disturb_memStep ..
  · exact .refl s

theorem State.readAny_memStep (s : State) (m lam rq : Nat) : MemStep s (s.readAny m lam rq).1 := by
  unfold readAny
  split
  · exact State.readSideAt_memStep ..
  · exact State.readLine_memStep ..

theorem State.rewriteLine_memStep (s : State) (m lam : Nat) : MemStep s (s.rewriteLine m lam) := by
  unfold rewriteLine
  split
  · have read := s.readSideAt_memStep (s.offsetOf m lam) 6
    generalize s.readSideAt (s.offsetOf m lam) 6 = p at read
    obtain ⟨t, r⟩ := p
    dsimp only
    split
    · exact read.trans (State.storeData_memStep ..)
    · exact read
  · exact State.storeData_memStep ..

theorem serveRead_recStep (s : State) (r : Requester) (off m lam : Nat) (ns : List Noise) : RecStep s (serveRead s r off m lam ns) :=
  ((s.disturbed_memStep m lam ns).trans (State.readPiece_memStep ..)).rec.trans (State.emit_recStep ..)

theorem serveScrub_recStep (s : State) (m lam : Nat) (ns : List Noise) : RecStep s (serveScrub s m lam ns) := by
  have read := ((s.disturbed_memStep m lam ns).trans (State.readAny_memStep _ m lam 6)).rec
  unfold serveScrub
  dsimp only
  split
  · exact read.trans (State.updStack_memStep ..).rec
  · exact read.trans ((State.updStack_memStep ..).trans (State.inc_memStep ..)).rec

theorem rebuildAdvance_recStep (s : State) (m : Nat) : RecStep s (rebuildAdvance s m) := by
  unfold rebuildAdvance
  dsimp only
  split
  · exact (State.updStack_memStep ..).rec
  · split
    · exact (State.updStack_memStep ..).rec
    · exact ((State.updStack_memStep ..).rec.trans (State.event_recStep ..)).trans (State.auditDev_recStep ..)

theorem serveRebuild_recStep (s : State) (m lam : Nat) (ns : List Noise) : RecStep s (serveRebuild s m lam ns) := by
  unfold serveRebuild
  refine RecStep.trans (MemStep.rec ?_) (rebuildAdvance_recStep ..)
  have read := (s.disturb_memStep m lam ns).trans (State.readAny_memStep _ m lam 6)
  generalize (s.disturb m lam ns).readAny m lam 6 = p at read
  obtain ⟨t, r⟩ := p
  split
  · dsimp only
    split
    · exact read.trans (State.storeData_memStep ..)
    · exact read
  · exact .refl s

theorem retireDie_recStep (s : State) (m die cause : Nat) : RecStep s (retireDie s m die cause) := by
  unfold retireDie
  extract_lets k spare k' lost ev s1 s2 s3
  have h3 : RecStep s s3 :=
    ((((State.updStack_memStep ..).rec.trans (State.event_recStep ..)).trans (State.healthRec_recStep ..)).trans
      (State.auditDev_recStep ..)).trans (State.auditDev_recStep ..)
  split
  · exact h3.trans (State.event_recStep ..)
  · exact h3

/-- What an operation of a memory stack can change: what records and memory accesses do, and the context whose write it is. -/
def StackStep (writer : Option Nat) (s t : State) : Prop :=
  (Memory.wf s.hbm = true → Memory.wf t.hbm = true)
  ∧ t = { s with
      regs := t.regs, pages := t.pages, recs := t.recs, todo := t.todo, hbm := t.hbm, stackTab := t.stackTab, mem := t.mem, noc := t.noc
      evqs := t.evqs, out := t.out, ctxs := t.ctxs }
  ∧ ∀ j, writer ≠ some j → t.ctx j = s.ctx j

theorem RecStep.stack {s t : State} (h : RecStep s t) (writer : Option Nat) : StackStep writer s t := by
  obtain ⟨frame, form⟩ := h
  refine ⟨form, ?_, fun j _ => ?_⟩
  · rw [frame]
  · rw [frame]
    rfl

theorem StackStep.trans {writer : Option Nat} {s t u : State} (h : StackStep writer s t) (g : StackStep writer t u) :
    StackStep writer s u := by
  obtain ⟨form, frame, ctxs⟩ := h
  obtain ⟨form', frame', ctxs'⟩ := g
  refine ⟨form' ∘ form, ?_, fun j other => (ctxs' j other).trans (ctxs j other)⟩
  rw [frame', frame]

theorem State.holdErr_stackStep (s : State) (k c : Nat) (near : Bool) : StackStep (some k) s (s.holdErr k c near) := by
  refine ⟨id, rfl, fun j other => ?_⟩
  unfold holdErr
  rw [State.ctx_updCtx, if_neg fun h => other (congrArg some h.symm)]
  intro empty
  split at empty
  · simp [Ctx.mk.injEq] at empty
  · split at empty <;> simp [Ctx.mk.injEq] at empty

/-- The context of a requester that is an engine. -/
def writerCtx : Requester → Option Nat
  | .engine e x => some (4 * e + x)
  | _ => none

theorem reportWrite_stackStep (s : State) (r : Requester) (off m lam kind : Nat) :
    StackStep (writerCtx r) s (reportWrite s r off m lam kind) := by
  unfold reportWrite
  refine StackStep.trans ?_ ((State.emit_recStep ..).stack _)
  split
  · split
    · exact (State.event_recStep ..).stack _
    · exact (RecStep.refl s).stack _
  · split
    · exact State.holdErr_stackStep ..
    · exact (RecStep.refl s).stack _
  · exact (RecStep.refl s).stack _

theorem serveWrite_stackStep (s : State) (r : Requester) (off m lam : Nat) (d : List Byte) (poison : Bool) :
    StackStep (writerCtx r) s (serveWrite s r off m lam d poison) :=
  ((State.writePiece_memStep ..).rec.stack _).trans (reportWrite_stackStep ..)

theorem serveParts_stackStep (s : State) (r : Requester) (off m lam : Nat) (parts : List (Nat × List Byte)) (ns : List Noise) :
    StackStep (writerCtx r) s (serveParts s r off m lam parts ns) := by
  unfold serveParts
  extract_lets line u
  have disturbed : MemStep s u := s.disturbed_memStep m lam ns
  generalize result : (if u.inSync line then _ else _ : State × Nat) = p
  have written : MemStep s p.1 := by
    rw [← result]
    split
    · dsimp only
      split
      · exact disturbed
      · exact disturbed.trans (State.putWords_memStep ..)
    · exact disturbed.trans (State.writeParts_memStep ..)
  exact (written.rec.stack _).trans (reportWrite_stackStep ..)

theorem writerOf_hbmWrite (r : Requester) (off : Nat) (d : List Byte) (poison : Bool) :
    writerOf (.hbmWrite r off d poison) = writerCtx r := by cases r <;> rfl

theorem writerOf_hbmPartialWrite (r : Requester) (off : Nat) (parts : List (Nat × List Byte)) (ns : List Noise) :
    writerOf (.hbmPartialWrite r off parts ns) = writerCtx r := by cases r <;> rfl

/-- Serving a request changes what its writer's context and memory hold. -/
theorem serveHeld_stackStep (s : State) (c : Instr) : StackStep (writerOf c) s (serveHeld s c) := by
  unfold serveHeld
  split
  · split
    · exact (serveRead_recStep ..).stack _
    · exact (RecStep.refl s).stack _
  · next r off d poison =>
    split
    · exact writerOf_hbmWrite .. ▸ serveWrite_stackStep ..
    · exact (RecStep.refl s).stack _
  · split
    · exact writerOf_hbmPartialWrite .. ▸ serveParts_stackStep ..
    · exact (RecStep.refl s).stack _
  · exact (serveScrub_recStep ..).stack _
  · split
    · exact (serveRebuild_recStep ..).stack _
    · exact (RecStep.refl s).stack _
  · exact (RecStep.refl s).stack _

theorem orHold_stackStep (s : State) (m lam : Nat) (c : Instr) : StackStep (writerOf c) s (orHold s m lam c) := by
  unfold orHold
  split
  · exact (State.updStack_memStep ..).rec.stack _
  · exact serveHeld_stackStep ..

/-- A command that runs where its cause is held leaves what it changed, with its records written. -/
theorem StackStep.of_due {writer : Option Nat} {cause : Bool} {s u t : State} (h : StackStep writer s u) (answer : due cause u = .next t) :
    StackStep writer s t := by
  unfold due at answer
  split at answer
  · cases answer
    exact h.trans ((settle_recStep u).stack _)
  · cases answer

theorem repair_recStep {f : State → Nat → State} (h : ∀ s c, MemStep s (f s c)) (l : List Nat) (s : State) : RecStep s (l.foldl f s) :=
  RecStep.foldl f (fun s c => (h s c).rec) l s

/-- What each command of a memory stack changes. -/
theorem stackCommand_step {c : Instr} {s t : State} (stack : stackCommand c = true) (answer : exec c s = .next t) :
    StackStep (writerOf c) s t := by
  cases c with
  | hbmRead r off ns =>
    change execHbmRead r off ns s = _ at answer
    unfold execHbmRead at answer
    split at answer
    · cases answer
    · exact (orHold_stackStep ..).of_due answer
  | hbmWrite r off d poison =>
    change execHbmWrite r off d poison s = _ at answer
    unfold execHbmWrite at answer
    split at answer
    · cases answer
    · exact (orHold_stackStep ..).of_due answer
  | hbmPartialWrite r off parts ns =>
    change execHbmPartialWrite r off parts ns s = _ at answer
    unfold execHbmPartialWrite at answer
    split at answer
    · cases answer
    · exact (orHold_stackStep ..).of_due answer
  | sanderScrub m lam ns => exact (orHold_stackStep ..).of_due answer
  | sanderInit m => exact ((State.initChunk_memStep ..).rec.stack _).of_due answer
  | dieRetire m lost =>
    change execDieRetire m lost s = _ at answer
    unfold execDieRetire at answer
    dsimp only at answer
    split at answer
    · exact ((State.updStack_memStep ..).rec.stack _).of_due answer
    · split at answer
      · cases answer
      · exact ((retireDie_recStep ..).stack _).of_due answer
  | sanderRebuildStep m ns =>
    change execSanderRebuildStep m ns s = _ at answer
    unfold execSanderRebuildStep at answer
    dsimp only at answer
    split at answer
    · cases answer
    · exact (orHold_stackStep ..).of_due answer
  | rowRepairStart m =>
    change execRowRepairStart m s = _ at answer
    unfold execRowRepairStart at answer
    split at answer
    · cases answer
    · refine (RecStep.stack ?_ _).of_due answer
      exact (State.updStack_memStep ..).rec.trans (repair_recStep (fun _ _ => State.readAny_memStep ..) _ _)
  | rowRepairComplete m =>
    change execRowRepairComplete m s = _ at answer
    unfold execRowRepairComplete at answer
    generalize List.range 64 = columns at answer
    split at answer
    · cases answer
    · refine (RecStep.stack ?_ _).of_due answer
      refine RecStep.trans (repair_recStep (fun u c => ?_) columns s) ⟨rfl, id⟩
      dsimp only
      split
      · exact State.rewriteLine_memStep ..
      · exact .refl u
  | hbmStackLost m =>
    refine (RecStep.stack ?_ _).of_due answer
    exact ((State.updStack_memStep ..).rec.trans (State.event_recStep ..)).trans (State.auditDev_recStep ..)
  | _ => cases stack

/-- Settles O46: command by command, through the operations of the stacks. -/
theorem stacksChangeOnlyTheirOwn : Obligations.StacksChangeOnlyTheirOwn := by
  unfold Obligations.StacksChangeOnlyTheirOwn
  intro c s t stack answer form
  obtain ⟨kept, frame, ctxs⟩ := stackCommand_step stack answer
  exact ⟨kept form, frame, ctxs⟩

end Sys2Proof.Machine
end

section
/-! PROOFS. The state after reset, the timers of alignment, marks and answers (02_plumb_time_and_determinism.md R36, R37, R42). -/

namespace Sys2Proof.Machine

/-- A command whose cause the state holds runs, and its records are written. -/
theorem due_of {cause : Bool} (h : cause = true) (t : State) : due cause t = .next (settle t) := if_pos h

theorem State.regionSize_reset : ∀ k < 192, State.reset.regionSize k = 0x200000 := by decide_cbv

/-- Settles O6: the lists of the state after reset are empty, and its registers hold their reset values. -/
theorem resetState : Obligations.ResetState := by
  unfold Obligations.ResetState
  refine ⟨⟨rfl, rfl⟩, rfl, rfl, rfl, rfl, rfl, rfl, rfl, rfl, rfl, rfl, fun f other => ?_, fun _ => rfl, fun _ => rfl, fun _ => rfl, ?_,
    State.regionSize_reset⟩
  · have absent : (State.reset.fns.find f : Option Fn) = none := by
      show (if 0 = f then some _ else if f < 0 then none else none) = none
      rw [if_neg (Ne.symm other)]
      split <;> rfl
    rw [State.fn, Tab.get, absent]
    rfl
  · decide

/-- Settles O9: each timer runs where its count has come. -/
theorem plumbTimers : Obligations.PlumbTimers := by
  unfold Obligations.PlumbTimers
  intro s
  refine ⟨fun i q dev upstream follower => ⟨fun sent => ?_, fun heard unanswered => ?_⟩, fun y member unheard => ?_,
    fun t held state since => ?_, fun n t waiting running reached => ?_⟩
  · show execPlumbMarkSend i s = _
    unfold execPlumbMarkSend
    rw [upstream]
    refine due_of ?_ _
    rw [follower]
    cases last : (s.up i).sentAt with
    | none => rfl
    | some t => simpa using sent t last
  · refine due_of ?_ _
    simp only [upstream, follower, heard, Option.isSome_some, Bool.not_false, Bool.and_self, Bool.true_and, decide_eq_true_eq]
    omega
  · have known : (s.plumb.partners.any fun z => z.port == y.port && z.dev == y.dev && decide (z.last + 8 * 65536 ≤ s.plumb.now)) = true :=
      List.any_eq_true.mpr ⟨y, member, by simp [unheard]⟩
    exact ⟨_, due_of known _, settle_plumb _⟩
  · have due : (s.alignSt == 3 && decide (t + 1000000000 ≤ s.plumb.now)) = true := by simp [state, since]
    have answer : exec .holdoverEvent s = .next (settle ((s.updPlumb ({ · with holdAt := none })).event { blk := .plumb, num := 2 })) := by
      show execHoldoverEvent s = _
      unfold execHoldoverEvent
      rw [held]
      exact due_of due _
    refine ⟨_, answer, settle_plumb _, ?_⟩
    have ended : (settle ((s.updPlumb ({ · with holdAt := none })).event { blk := .plumb, num := 2 })).plumb.holdAt = none := by
      rw [settle_plumb]
      rfl
    show execHoldoverEvent _ = _
    unfold execHoldoverEvent
    rw [ended]
  · show execTickLengthApply s = _
    unfold execTickLengthApply
    rw [waiting]
    exact due_of (by simp [running, reached]) _

/-- A mark or an answer that is well-formed and whole arrives as it was sent: neither carries a partition (09 Table 9.8). -/
theorem State.arrival_of_plumb {s : State} {op : Nat} {p : Pkt} (kind : op = 0x20 ∨ op = 0x21) (formed : p.malformed op = false)
    (size : s.wrongSize op p = false) (whole : p.icrc.toNat = p.check op) : s.arrival op p = (s, some p) := by
  simp [arrival, formed, size, whole, kind]

/-- Settles O10: a mark or an answer that passes its checks arrives as it is. -/
theorem marksAndAnswers : Obligations.MarksAndAnswers := by
  unfold Obligations.MarksAndAnswers
  intro s p running phisal
  have due : (s.glb.service != 0) = true := by simpa using running
  refine ⟨fun formed whole => ?_, fun formed whole => ?_⟩
  · have arrives := State.arrival_of_plumb (s := s) (Or.inl rfl) formed rfl whole
    intro dev mine
    have answer : exec (.plumbMark p) s = .next (settle (
        if !(s.plumb.partners.any mine) && decide (1024 ≤ s.plumb.partners.length) then s.dropMark p.port dev
        else (s.updPlumb fun x => { x with
          partners := x.partners.filter (fun y => !mine y) ++ [{ port := p.port, dev, last := x.now }] }).answerMark p dev)) := by
      refine (due_of due _).trans ?_
      rw [phisal, arrives]
      rfl
    split
    · next room =>
      rw [answer, if_neg]
      simp only [Bool.or_eq_true, decide_eq_true_eq] at room
      simp only [Bool.and_eq_true, Bool.not_eq_true', decide_eq_true_eq, not_and, Nat.not_le]
      intro unknown
      simpa [unknown] using room
    · next full =>
      rw [answer, if_pos]
      simp only [Bool.or_eq_true, decide_eq_true_eq, not_or, Bool.not_eq_true, Nat.not_lt] at full
      simp [full]
  · have arrives := State.arrival_of_plumb (s := s) (Or.inr rfl) formed rfl whole
    refine (due_of due _).trans ?_
    rw [phisal, arrives]
    rfl

end Sys2Proof.Machine
end

section
/-! PROOFS. An instruction whose reads meet a bit error (03_engines_and_formats.md R65): a state whose registers are out of order. -/

namespace Sys2Proof.Machine

/-! ### Registers listed out of order

The effect of an instruction starts once the bit errors that its reads find have been acted on, and what its checker is told to have been
read is the instruction word, at the region base that is in force then. Counting a corrected bit error writes a register; where the
register file is not in canonical form, a counter that returns to its reset value uncovers a region register listed after it, so that
the base is not the one from before. -/

/-- Context 0 of engine 0 runs a sampled slice at its instruction 8. Its register file lists a full ECC counter and, after it and out of
order, a region that begins 64 KiB further up. -/
def outOfOrder : State :=
  { State.reset with
    boot := { State.reset.boot with stage := 4 }
    glb := { service := 2 }
    regs := [(Blk.eng.at 0 0x090, BitVec.ofNat 64 (2 ^ 64 - 1)), (ctxReg 0 0x054, 0x2001)]
    ctxs := [(0, { st := 2, pc := 128 })]
    engs := [(0, { interval := some 0 })]
    hlth := { checks := [{ k := 0, slice := 0, checker := 12 }] } }

/-- A FENCE of scope 0 whose reads find one bit in error, which is corrected. -/
def correctedFence : Fields := { met := { upsets := [(0, .single 0)] } }

/-- The lines that the checkers of sampled slices have been told of. -/
def State.linesSeen (s : State) : List (List Nat) := s.hlth.checks.map (·.mirror.touched)

/-- The lines that checkers have been told of after a command. -/
def linesSeenAfter (c : Instr) (s : State) : List (List Nat) := match exec c s with
  | .next t => t.linesSeen
  | _ => []

theorem linesSeenAfter_of_next {c : Instr} {s t : State} (answer : exec c s = .next t) : linesSeenAfter c s = t.linesSeen := by
  rw [linesSeenAfter, answer]

/-- Refutes O23: the checker is told of line 1, which holds the instruction; counted from the old base it would be line 0. -/
theorem not_operandInstructionsRun : ¬ Obligations.OperandInstructionsRun := by
  unfold Obligations.OperandInstructionsRun
  intro h
  obtain ⟨-, -, -, synchronising⟩ := h
  obtain ⟨-, -, -, -, -, fence, -⟩ := synchronising outOfOrder 0 0 correctedFence
  have issues : Issues outOfOrder 0 0 correctedFence := ⟨⟨rfl, rfl⟩, by decide, by decide, by decide, by decide⟩
  have passes : Ins.passes { op := 0x75, sub := 3, enc := fun _ f => f.sub % 4 != 3 } (outOfOrder.slowed 0 []) 0 correctedFence := by
    unfold Ins.passes
    decide
  obtain ⟨answer, -⟩ := (fence issues passes).1 outOfOrder rfl
  exact absurd (linesSeenAfter_of_next answer) (by decide)

end Sys2Proof.Machine
end

section
/-! PROOFS. What replay and Stipple samples leave unchanged: contexts, tile stores and the launch schedule, operation by operation. -/

namespace Sys2Proof.Machine

theorem State.foldl_ctxs {β : Type} {f : State → β → State} (hf : ∀ s x, (f s x).ctxs = s.ctxs) (l : List β) (s : State) :
    (l.foldl f s).ctxs = s.ctxs := foldl_eq_of_step_eq State.ctxs f hf l s

@[simp] theorem State.inc_ctxs (s : State) (a n) : (s.inc a n).ctxs = s.ctxs := by
  rw [(State.inc_memStep ..).1]

@[simp] theorem State.notify_ctxs (s : State) (fn r) : (s.notify fn r).ctxs = s.ctxs := by
  rw [(State.notify_recStep ..).1]

@[simp] theorem State.eventTo_ctxs (s : State) (e fn) : (s.eventTo e fn).ctxs = s.ctxs := by
  unfold State.eventTo
  grind only [State.event_ctxs, State.notify_ctxs]

@[simp] theorem State.memRead_ctxs (s : State) (rq off n) : (s.memRead rq off n).1.ctxs = s.ctxs := by
  rw [(State.memRead_memStep ..).1]

@[simp] theorem State.memWrite_ctxs (s : State) (rq off d fe) : (s.memWrite rq off d fe).1.ctxs = s.ctxs := by
  rw [(State.memWrite_memStep ..).1]

@[simp] theorem State.auditDev_ctxs (s : State) (a old new sec) : (s.auditDev a old new sec).ctxs = s.ctxs := by
  unfold State.auditDev
  grind only [State.audit_ctxs]

@[simp] theorem State.nextOrdinal_ctxs (s : State) (r consumer) : (s.nextOrdinal r consumer).1.ctxs = s.ctxs := by
  unfold State.nextOrdinal
  grind only [State.updRep_ctxs]

@[simp] theorem State.traceWrite_ctxs (s : State) (r ty consumer src pl) : (s.traceWrite r ty consumer src pl).ctxs = s.ctxs := by
  unfold State.traceWrite
  grind only [State.memWrite_ctxs, State.updRep_ctxs, State.nextOrdinal_ctxs]

@[simp] theorem State.rpEnd_ctxs (s : State) (r reason) : (s.rpEnd r reason).ctxs = s.ctxs := by
  unfold State.rpEnd
  grind only [State.eventTo_ctxs, State.updRep_ctxs, State.traceWrite_ctxs]

@[simp] theorem State.record_ctxs (s : State) (r ty consumer src pl) : (s.record r ty consumer src pl).ctxs = s.ctxs := by
  unfold State.record
  grind only [State.traceWrite_ctxs, State.rpEnd_ctxs]

theorem State.pwrAudited_ctxs (s : State) {g : State → State} (h : (g s).ctxs = s.ctxs) : (s.pwrAudited g).ctxs = s.ctxs := by
  unfold State.pwrAudited
  grind only [State.auditDev_ctxs]

@[simp] theorem State.planChanged_ctxs (s : State) (was) : (s.planChanged was).ctxs = s.ctxs := by
  unfold State.planChanged
  grind only [State.foldl_ctxs, State.inc_ctxs, State.event_ctxs, State.record_ctxs]

@[simp] theorem State.startPlan_ctxs (s : State) (r) : (s.startPlan r).ctxs = s.ctxs := by
  unfold State.startPlan
  grind only [State.updRep_ctxs, State.updPwr_ctxs, State.pwrAudited_ctxs, State.planChanged_ctxs]

@[simp] theorem State.rpLaunch_ctxs (s : State) (k) : (s.rpLaunch k).ctxs = s.ctxs := by
  unfold State.rpLaunch
  grind only [State.updRep_ctxs, State.record_ctxs, State.startPlan_ctxs]

@[simp] theorem State.stippleSample_ctxs (s : State) (k) : (s.stippleSample k).ctxs = s.ctxs := by
  unfold State.stippleSample
  grind only [State.inc_ctxs, State.updTile_ctxs]

theorem State.foldl_tileMem {β : Type} {f : State → β → State} (hf : ∀ s x, (f s x).tileMem = s.tileMem) (l : List β) (s : State) :
    (l.foldl f s).tileMem = s.tileMem := foldl_eq_of_step_eq State.tileMem f hf l s

@[simp] theorem State.inc_tileMem (s : State) (a n) : (s.inc a n).tileMem = s.tileMem := by
  rw [(State.inc_memStep ..).1]

@[simp] theorem State.notify_tileMem (s : State) (fn r) : (s.notify fn r).tileMem = s.tileMem := by
  rw [(State.notify_recStep ..).1]

@[simp] theorem State.eventTo_tileMem (s : State) (e fn) : (s.eventTo e fn).tileMem = s.tileMem := by
  unfold State.eventTo
  grind only [State.event_tileMem, State.notify_tileMem]

@[simp] theorem State.memRead_tileMem (s : State) (rq off n) : (s.memRead rq off n).1.tileMem = s.tileMem := by
  rw [(State.memRead_memStep ..).1]

@[simp] theorem State.memWrite_tileMem (s : State) (rq off d fe) : (s.memWrite rq off d fe).1.tileMem = s.tileMem := by
  rw [(State.memWrite_memStep ..).1]

@[simp] theorem State.auditDev_tileMem (s : State) (a old new sec) : (s.auditDev a old new sec).tileMem = s.tileMem := by
  unfold State.auditDev
  grind only [State.audit_tileMem]

@[simp] theorem State.nextOrdinal_tileMem (s : State) (r consumer) : (s.nextOrdinal r consumer).1.tileMem = s.tileMem := by
  unfold State.nextOrdinal
  grind only [State.updRep_tileMem]

@[simp] theorem State.traceWrite_tileMem (s : State) (r ty consumer src pl) : (s.traceWrite r ty consumer src pl).tileMem = s.tileMem := by
  unfold State.traceWrite
  grind only [State.memWrite_tileMem, State.updRep_tileMem, State.nextOrdinal_tileMem]

@[simp] theorem State.rpEnd_tileMem (s : State) (r reason) : (s.rpEnd r reason).tileMem = s.tileMem := by
  unfold State.rpEnd
  grind only [State.eventTo_tileMem, State.updRep_tileMem, State.traceWrite_tileMem]

@[simp] theorem State.record_tileMem (s : State) (r ty consumer src pl) : (s.record r ty consumer src pl).tileMem = s.tileMem := by
  unfold State.record
  grind only [State.traceWrite_tileMem, State.rpEnd_tileMem]

theorem State.pwrAudited_tileMem (s : State) {g : State → State} (h : (g s).tileMem = s.tileMem) :
    (s.pwrAudited g).tileMem = s.tileMem := by
  unfold State.pwrAudited
  grind only [State.auditDev_tileMem]

@[simp] theorem State.planChanged_tileMem (s : State) (was) : (s.planChanged was).tileMem = s.tileMem := by
  unfold State.planChanged
  grind only [State.foldl_tileMem, State.inc_tileMem, State.event_tileMem, State.record_tileMem]

@[simp] theorem State.startPlan_tileMem (s : State) (r) : (s.startPlan r).tileMem = s.tileMem := by
  unfold State.startPlan
  grind only [State.updRep_tileMem, State.updPwr_tileMem, State.pwrAudited_tileMem, State.planChanged_tileMem]

@[simp] theorem State.rpLaunch_tileMem (s : State) (k) : (s.rpLaunch k).tileMem = s.tileMem := by
  unfold State.rpLaunch
  grind only [State.updRep_tileMem, State.record_tileMem, State.startPlan_tileMem]

@[simp] theorem State.stippleSample_tileMem (s : State) (k) : (s.stippleSample k).tileMem = s.tileMem := by
  unfold State.stippleSample
  grind only [State.inc_tileMem, State.updTile_tileMem]

theorem State.foldl_sched {β : Type} {f : State → β → State} (hf : ∀ s x, (f s x).sched = s.sched) (l : List β) (s : State) :
    (l.foldl f s).sched = s.sched := foldl_eq_of_step_eq State.sched f hf l s

@[simp] theorem State.inc_sched (s : State) (a n) : (s.inc a n).sched = s.sched := by
  rw [(State.inc_memStep ..).1]

@[simp] theorem State.notify_sched (s : State) (fn r) : (s.notify fn r).sched = s.sched := by
  rw [(State.notify_recStep ..).1]

@[simp] theorem State.eventTo_sched (s : State) (e fn) : (s.eventTo e fn).sched = s.sched := by
  unfold State.eventTo
  grind only [State.event_sched, State.notify_sched]

@[simp] theorem State.memRead_sched (s : State) (rq off n) : (s.memRead rq off n).1.sched = s.sched := by
  rw [(State.memRead_memStep ..).1]

@[simp] theorem State.memWrite_sched (s : State) (rq off d fe) : (s.memWrite rq off d fe).1.sched = s.sched := by
  rw [(State.memWrite_memStep ..).1]

@[simp] theorem State.auditDev_sched (s : State) (a old new sec) : (s.auditDev a old new sec).sched = s.sched := by
  unfold State.auditDev
  grind only [State.audit_sched]

@[simp] theorem State.nextOrdinal_sched (s : State) (r consumer) : (s.nextOrdinal r consumer).1.sched = s.sched := by
  unfold State.nextOrdinal
  grind only [State.updRep_sched]

@[simp] theorem State.traceWrite_sched (s : State) (r ty consumer src pl) : (s.traceWrite r ty consumer src pl).sched = s.sched := by
  unfold State.traceWrite
  grind only [State.memWrite_sched, State.updRep_sched, State.nextOrdinal_sched]

@[simp] theorem State.rpEnd_sched (s : State) (r reason) : (s.rpEnd r reason).sched = s.sched := by
  unfold State.rpEnd
  grind only [State.eventTo_sched, State.updRep_sched, State.traceWrite_sched]

@[simp] theorem State.record_sched (s : State) (r ty consumer src pl) : (s.record r ty consumer src pl).sched = s.sched := by
  unfold State.record
  grind only [State.traceWrite_sched, State.rpEnd_sched]

theorem State.pwrAudited_sched (s : State) {g : State → State} (h : (g s).sched = s.sched) : (s.pwrAudited g).sched = s.sched := by
  unfold State.pwrAudited
  grind only [State.auditDev_sched]

@[simp] theorem State.planChanged_sched (s : State) (was) : (s.planChanged was).sched = s.sched := by
  unfold State.planChanged
  grind only [State.foldl_sched, State.inc_sched, State.event_sched, State.record_sched]

@[simp] theorem State.startPlan_sched (s : State) (r) : (s.startPlan r).sched = s.sched := by
  unfold State.startPlan
  grind only [State.updRep_sched, State.updPwr_sched, State.pwrAudited_sched, State.planChanged_sched]

@[simp] theorem State.rpLaunch_sched (s : State) (k) : (s.rpLaunch k).sched = s.sched := by
  unfold State.rpLaunch
  grind only [State.updRep_sched, State.record_sched, State.startPlan_sched]

@[simp] theorem State.stippleSample_sched (s : State) (k) : (s.stippleSample k).sched = s.sched := by
  unfold State.stippleSample
  grind only [State.inc_sched, State.updTile_sched]

end Sys2Proof.Machine
end

section
/-! PROOFS. Waits (04_engine_instruction_set.md R118, R119; 07_hbm_memory.md R212). -/

namespace Sys2Proof.Machine

/-! ### Waits -/

@[simp] theorem settle_ctx (s : State) (k : Nat) : (settle s).ctx k = s.ctx k := by
  unfold State.ctx
  rw [settle_ctxs]

@[simp] theorem State.engEvent_ctxs (s : State) (k num p0 p1 p2 p3 : Nat) : (s.engEvent k num p0 p1 p2 p3).ctxs = s.ctxs := by
  unfold engEvent
  rw [eventTo_ctxs]

@[simp] theorem State.engEvent_engs (s : State) (k num p0 p1 p2 p3 : Nat) : (s.engEvent k num p0 p1 p2 p3).engs = s.engs := by
  unfold engEvent eventTo
  dsimp only
  split
  · rfl
  · rw [(State.notify_recStep ..).1]
    rfl

/-- A wait that has stalled stalls no more. -/
theorem feWaitStall_of_stalled {s : State} {e x : Nat} {w : Wait} (waits : (s.ctx (4 * e + x)).wait = some w) (stalled : w.stalled = true) :
    exec (.feWaitStall e x) s = .fault .notDue := by
  show execFeWaitStall e x s = _
  unfold execFeWaitStall
  dsimp only
  rw [waits]
  exact if_neg (by simp [stalled])

/-- Settles O24: the three ends of a wait. -/
theorem waitsEnd : Obligations.WaitsEnd := by
  unfold Obligations.WaitsEnd
  intro s e x w k waits
  refine ⟨?_, ?_, fun late fresh => ?_⟩
  · intro runs taken p words t full u
    show execFeWaitComplete e x s = _
    unfold execFeWaitComplete
    dsimp only
    rw [waits]
    dsimp only
    rw [full]
    have clean : (feErr p.2).isNone = true := by
      rw [words]
      rfl
    exact due_of (by rw [runs, taken]; exact clean) _
  · intro runs refused late p
    show execSyncWaitRetry e x s = _
    unfold execSyncWaitRetry
    dsimp only
    rw [waits]
    exact due_of (by simp [runs, refused, late]) _
  · have answer : exec (.feWaitStall e x) s
        = .next (settle ((s.engEvent k 4 0 0 0 0).updCtx k ({ · with wait := some { w with stalled := true } }))) := by
      show execFeWaitStall e x s = _
      unfold execFeWaitStall
      dsimp only
      rw [waits]
      exact due_of (by simp [late, fresh]) _
    have same : (s.engEvent k 4 0 0 0 0).ctx k = s.ctx k := by rw [State.ctx, State.engEvent_ctxs]; rfl
    have own : (settle ((s.engEvent k 4 0 0 0 0).updCtx k ({ · with wait := some { w with stalled := true } }))).ctx k
        = { s.ctx k with wait := some { w with stalled := true } } := by
      rw [settle_ctx, State.ctx_updCtx_self, same]
      intro empty
      simp [Ctx.mk.injEq] at empty
    refine ⟨_, answer, own, ?_, feWaitStall_of_stalled (congrArg Ctx.wait own) rfl⟩
    rw [settle_engs, State.updCtx_engs, State.engEvent_engs]

end Sys2Proof.Machine
end

section
/-! PROOFS. What the end of a launch leaves unchanged. -/

namespace Sys2Proof.Machine

@[simp] theorem State.jobDone_ctxs (s : State) (q n status detail bytes late extra) : (s.jobDone q n status detail bytes late extra).ctxs = s.ctxs := rfl

@[simp] theorem State.launchDone_ctxs (s : State) (l status detail) : (s.launchDone l status detail).ctxs = s.ctxs := by
  unfold State.launchDone
  grind only [State.notify_ctxs, State.jobDone_ctxs]

@[simp] theorem State.jobDone_tileMem (s : State) (q n status detail bytes late extra) : (s.jobDone q n status detail bytes late extra).tileMem = s.tileMem := rfl

@[simp] theorem State.launchDone_tileMem (s : State) (l status detail) : (s.launchDone l status detail).tileMem = s.tileMem := by
  unfold State.launchDone
  grind only [State.notify_tileMem, State.jobDone_tileMem]

theorem State.foldl_engs {β : Type} {f : State → β → State} (hf : ∀ s x, (f s x).engs = s.engs) (l : List β) (s : State) :
    (l.foldl f s).engs = s.engs := foldl_eq_of_step_eq State.engs f hf l s

@[simp] theorem State.inc_engs (s : State) (a n) : (s.inc a n).engs = s.engs := by
  rw [(State.inc_memStep ..).1]

@[simp] theorem State.notify_engs (s : State) (fn r) : (s.notify fn r).engs = s.engs := by
  rw [(State.notify_recStep ..).1]

@[simp] theorem State.jobDone_engs (s : State) (q n status detail bytes late extra) : (s.jobDone q n status detail bytes late extra).engs = s.engs := rfl

@[simp] theorem State.launchDone_engs (s : State) (l status detail) : (s.launchDone l status detail).engs = s.engs := by
  unfold State.launchDone
  grind only [State.notify_engs, State.jobDone_engs]

@[simp] theorem State.stippleSample_engs (s : State) (k) : (s.stippleSample k).engs = s.engs := by
  unfold State.stippleSample
  grind only [State.inc_engs, State.updTile_engs]

end Sys2Proof.Machine
end

section
/-! PROOFS. The ends of fences, programs and failed contexts (04_engine_instruction_set.md R122 to R124, R129). -/

namespace Sys2Proof.Machine

/-! ### The ends of programs (04 R122 to R124, R129) -/

theorem State.ctx_of_ctxs {s t : State} (h : t.ctxs = s.ctxs) (k : Nat) : t.ctx k = s.ctx k := by
  rw [ctx, h]
  rfl

theorem State.eng_of_engs {s t : State} (h : t.engs = s.engs) (e : Nat) : t.eng e = s.eng e := by
  rw [eng, h]
  rfl

/-- No write of the context has failed, so that its fence reports none. -/
theorem State.takeHeld_of_none {s : State} {k : Nat} (scope : Nat) (remote : (s.ctx k).heldErr = none) (near : (s.ctx k).heldLocal = none) :
    s.takeHeld k scope = (s, none) := by
  simp [takeHeld, remote, near]

theorem State.runs_st {s : State} {e x : Nat} (h : s.runs e x = true) : (s.ctx (4 * e + x)).st = 2 := by
  unfold runs at h
  simp only [Bool.and_eq_true, beq_iff_eq] at h
  exact h.1

/-- A context whose program has ended. -/
def Ctx.emptied (c : Ctx) (code : Option Nat) : Ctx :=
  { c with
    st := if c.st = 3 then 3 else 0, heldFrom := 0, faulted := code.isSome, err := code.getD c.err, launch := none, halting := false
    fence := none, failing := none, heldErr := none, heldLocal := none, heldMore := 0, overrun := false, mid := false
    slices := c.slices + 1 }

/-- What the end of a program leaves of contexts, tile memory and engines. -/
theorem State.emptyCtx_after (s : State) (k : Nat) (code : Option Nat) :
    (∀ j, (s.emptyCtx k code).ctx j = if j = k then (s.ctx k).emptied code else s.ctx j)
    ∧ (s.emptyCtx k code).tileMem = s.tileMem ∧ (s.emptyCtx k code).engs = s.engs := by
  let u := match (s.ctx k).launch with
    | some l => s.launchDone l (if code.isSome then 0x0F else 0) (code.getD 0)
    | none => s
  have done : u.ctxs = s.ctxs ∧ u.tileMem = s.tileMem ∧ u.engs = s.engs := by
    dsimp only [u]
    split
    · exact ⟨State.launchDone_ctxs .., State.launchDone_tileMem .., State.launchDone_engs ..⟩
    · exact ⟨rfl, rfl, rfl⟩
  obtain ⟨ctxs, tileMem, engs⟩ := done
  have sent : CheckStep k u (u.mirrorEnd k) := by
    unfold State.mirrorEnd
    exact State.updMirror_step _ _ _
  have own (j : Nat) : (u.mirrorEnd k).ctx j = s.ctx j := (sent.ctx j).trans (State.ctx_of_ctxs ctxs j)
  have empties : s.emptyCtx k code = (u.mirrorEnd k).updCtx k (·.emptied code) := rfl
  have used : ((u.mirrorEnd k).ctx k).emptied code ≠ {} := by
    intro h
    exact absurd (congrArg Ctx.slices h) (Nat.succ_ne_zero _)
  rw [empties]
  refine ⟨fun j => ?_, ?_, ?_⟩
  · rw [State.ctx_updCtx _ _ _ _ used, own, own]
  · rw [State.updCtx_tileMem, sent.1, tileMem]
  · rw [State.updCtx_engs, sent.1, engs]

/-- A fence ends where nothing is outstanding and no write failed. -/
theorem fenceComplete_changesCtx {s : State} {e x n : Nat} (runs : s.runs e x = true) (idle : (s.ctx (4 * e + x)).pendingOps.isEmpty = true)
    (remote : (s.ctx (4 * e + x)).heldErr = none) (near : (s.ctx (4 * e + x)).heldLocal = none)
    (fenced : (s.ctx (4 * e + x)).fence = some n) (quiet : s.quiet) :
    ChangesCtx (.fenceComplete e x) s (4 * e + x) fun y => { y with fence := none, pc := y.pc + 16 } := by
  generalize unit : 4 * e + x = k at *
  have st : (s.ctx k).st = 2 := unit ▸ State.runs_st runs
  let u := s.updCtx k ({ · with fence := none })
  have ctx (j : Nat) : u.ctx j = if j = k then { s.ctx k with fence := none } else s.ctx j :=
    s.ctx_updCtx k j _ (Ctx.ne_of_st (by show (s.ctx k).st ≠ 0; rw [st]; decide))
  have here : u.ctx k = { s.ctx k with fence := none } := (ctx k).trans (if_pos rfl)
  have clean : u.takeHeld k n = (u, none) :=
    State.takeHeld_of_none n (here ▸ remote) (here ▸ near)
  have answer : exec (.fenceComplete e x) s = .next (settle (u.updCtx k fun c => { c with pc := c.pc + 16 })) := by
    show execFenceComplete e x s = _
    unfold execFenceComplete
    dsimp only
    rw [unit, fenced]
    dsimp only
    rw [clean]
    exact due_of (by rw [runs, idle]; rfl) _
  have written : settle (u.updCtx k fun c => { c with pc := c.pc + 16 }) = u.updCtx k fun c => { c with pc := c.pc + 16 } :=
    settle_of_todo_nil quiet.1 quiet.2
  rw [written] at answer
  refine ⟨_, answer, ⟨rfl, fun _ => rfl⟩, fun j => ?_⟩
  have moved := u.ctx_updCtx k j (fun c => { c with pc := c.pc + 16 })
    (Ctx.ne_of_st (by rw [here]; show (s.ctx k).st ≠ 0; rw [st]; decide))
  rw [moved, here, ctx]
  split <;> rfl

/-- Settles O25: a fence, a program and a failed context end where nothing is outstanding and no write failed. -/
theorem programsEnd : Obligations.ProgramsEnd := by
  unfold Obligations.ProgramsEnd
  intro s e x k c done ended
  have idle : (s.ctx k).pendingOps.isEmpty = true := List.isEmpty_iff.mpr done
  have empty (code : Option Nat) (st : (s.ctx k).st = 2) : ended (settle (s.emptyCtx k code)) := by
    obtain ⟨ctxs, tileMem, engs⟩ := s.emptyCtx_after k code
    have own := (ctxs k).trans (if_pos rfl)
    refine ⟨?_, ?_, ?_, ?_, ?_, fun j other => ?_, (settle_tileMem _).trans tileMem, (settle_engs _).trans engs⟩
    · rw [settle_ctx, own, Ctx.emptied, st]
      rfl
    · rw [settle_ctx, own]
      rfl
    · rw [settle_ctx, own]
      rfl
    · rw [settle_ctx, own]
      rfl
    · rw [settle_ctx, own]
      rfl
    · rw [settle_ctx, ctxs, if_neg other]
  have own (code : Option Nat) : (settle (s.emptyCtx k code)).ctx k = (s.ctx k).emptied code := by
    rw [settle_ctx, (s.emptyCtx_after k code).1, if_pos rfl]
  refine ⟨fun runs remote near => ⟨fun n fenced quiet => ?_, fun halting => ?_⟩, fun code failing st => ?_⟩
  · exact fenceComplete_changesCtx runs idle remote near fenced quiet
  · have clean : s.takeHeld k 2 = (s, none) := State.takeHeld_of_none 2 remote near
    have answer : exec (.launchComplete e x) s = .next (settle (s.emptyCtx k none)) := by
      show execLaunchComplete e x s = _
      unfold execLaunchComplete
      dsimp only
      rw [clean]
      exact due_of (by rw [runs, halting, idle]; rfl) _
    exact ⟨_, answer, empty none (State.runs_st runs), by rw [own]; rfl⟩
  · have answer : exec (.contextFaultHalt e x) s = .next (settle (s.emptyCtx k (some code))) := by
      show execContextFaultHalt e x s = _
      unfold execContextFaultHalt
      dsimp only
      rw [failing]
      exact due_of idle _
    exact ⟨_, answer, empty (some code) st, by rw [own]; rfl, by rw [own]; rfl⟩

end Sys2Proof.Machine
end

section
/-! PROOFS. Launches, switches and migrations (02_plumb_time_and_determinism.md R46; 03_engines_and_formats.md R84, R86). -/

namespace Sys2Proof.Machine

/-! ### Launches and switches (02 R46; 03 R84, R86) -/

/-- The context of a launch at its start: registers of a new context but for S1, which holds the argument. -/
def Ctx.launched (c : Ctx) (l : Launch) (late : Nat) : Ctx :=
  { slices := c.slices, nv := c.nv, of := c.of, uf := c.uf, pz := c.pz, evTick := c.evTick, evDrop := c.evDrop, err := c.err
    pc := l.entry, tag := l.tag, sr := Tab.set [] 0 1 (BitVec.ofNat 64 l.arg)
    launch := some { l with late := decide (0 < late), ticksLate := late }, st := 1 }

theorem Ctx.launched_s (c : Ctx) (l : Launch) (late i : Nat) :
    (c.launched l late).s i = if i = 1 then BitVec.ofNat 64 l.arg else 0 := by
  unfold Ctx.s
  by_cases zero : i = 0
  · rw [if_pos zero, if_neg (by omega)]
  · rw [if_neg zero]
    exact Tab.get_set [] 0 1 i _ rfl

/-- The start of a slice that was not left inside it. -/
theorem State.startSlice_after {s : State} {k : Nat} (fresh : (s.ctx k).mid = false) :
    (∀ j, (s.startSlice k).ctx j = if j = k then { s.ctx k with st := 2, overrun := false, plan := s.pwr.plan } else s.ctx j)
    ∧ (s.startSlice k).tileMem = s.tileMem ∧ (s.startSlice k).sched = s.sched ∧ (s.startSlice k).engs = s.engs := by
  unfold startSlice
  dsimp only
  rw [if_neg (by simp [fresh])]
  refine ⟨fun j => ?_, ?_, ?_, ?_⟩
  · rw [State.ctx_of_ctxs (State.stippleSample_ctxs ..)]
    exact State.ctx_updCtx _ _ _ _ (Ctx.ne_of_st (show (2 : Nat) ≠ 0 by decide))
  · rw [State.stippleSample_tileMem, State.updCtx_tileMem]
  · rw [State.stippleSample_sched, State.updCtx_sched]
  · rw [State.stippleSample_engs, State.updCtx_engs]

/-- What comes before the context of a launch is set up: it leaves the schedule, its region may be cleared, and it is counted. -/
theorem State.launch_counted_after (s : State) (k late : Nat) (clear : Bool) :
    let t := ((fun s => if 0 < late then s.inc 0x1078 else s) (if clear then (s.unsched k).clearRegion k else s.unsched k)).inc
      (Blk.sch.at 0 0x048)
    t.ctxs = s.ctxs ∧ t.sched = s.sched.filter (fun l => 4 * l.e + l.x != k) ∧ (clear = false → t.tileMem = s.tileMem) := by
  intro t
  have counted (u : State) : ((fun s => if 0 < late then s.inc 0x1078 else s) u).inc (Blk.sch.at 0 0x048)
      = { u with regs := (((fun s => if 0 < late then s.inc 0x1078 else s) u).inc (Blk.sch.at 0 0x048)).regs } := by
    dsimp only
    split
    · rw [State.inc_eq (u.inc 0x1078), State.inc_eq u]
    · exact State.inc_eq ..
  dsimp only [t]
  rw [counted]
  cases clear
  · exact ⟨rfl, rfl, fun _ => rfl⟩
  · exact ⟨rfl, rfl, fun h => by cases h⟩

/-- What a launch leaves. -/
theorem State.startLaunch_after (s : State) (k : Nat) (l : Launch) :
    ∃ plan late, (∀ j, (s.startLaunch k l).ctx j = if j = k then { (s.ctx k).launched l late with st := 2, plan } else s.ctx j)
      ∧ (s.startLaunch k l).sched = s.sched.filter (fun l => 4 * l.e + l.x != k)
      ∧ (l.clear = false → (s.startLaunch k l).tileMem = s.tileMem) := by
  let late := s.tick - l.asked
  obtain ⟨ctxs, sched, tileMem⟩ := s.launch_counted_after k late l.clear
  let u := ((fun s => if 0 < late then s.inc 0x1078 else s) (if l.clear then (s.unsched k).clearRegion k else s.unsched k)).inc
      (Blk.sch.at 0 0x048)
  change u.ctxs = _ at ctxs
  change u.sched = _ at sched
  change _ → u.tileMem = _ at tileMem
  let v := (u.updCtx k (·.launched l late)).rpLaunch k
  have starts : s.startLaunch k l = v.startSlice k := rfl
  have used : (u.ctx k).launched l late ≠ {} := Ctx.ne_of_st (show (1 : Nat) ≠ 0 by decide)
  have ctx (j : Nat) : v.ctx j = if j = k then (s.ctx k).launched l late else s.ctx j := by
    rw [State.ctx_of_ctxs (State.rpLaunch_ctxs ..), State.ctx_updCtx _ _ _ _ used, State.ctx_of_ctxs ctxs, State.ctx_of_ctxs ctxs]
  have own := (ctx k).trans (if_pos rfl)
  obtain ⟨after, mem, sch, -⟩ := State.startSlice_after (s := v) (k := k) (by rw [own]; rfl)
  refine ⟨v.pwr.plan, late, fun j => ?_, ?_, fun kept => ?_⟩
  · rw [starts, after, own, ctx]
    split <;> rfl
  · rw [starts, sch, State.rpLaunch_sched]
    exact sched
  · rw [starts, mem, State.rpLaunch_tileMem]
    exact tileMem kept

/-- Settles O26: a launch whose tick has come, on an engine that its context holds. -/
theorem launchStartsNewContext : Obligations.LaunchStartsNewContext := by
  unfold Obligations.LaunchStartsNewContext
  intro s e x l k g found he hx tick interval switching noTile copying underTest idle
  have answer : exec (.launchStart e x) s = .next (settle (s.startLaunch k l)) := by
    show execLaunchStart e x s = _
    unfold execLaunchStart
    rw [found]
    refine due_of ?_ _
    simp only [he, hx, tick, decide_true, Bool.true_and, Bool.and_eq_true, beq_iff_eq, Option.isNone_iff_eq_none, Bool.not_eq_true']
    exact ⟨⟨⟨⟨⟨interval, switching⟩, noTile⟩, copying⟩, underTest⟩, idle⟩
  obtain ⟨plan, late, ctx, sched, tileMem⟩ := s.startLaunch_after k l
  have own : (settle (s.startLaunch k l)).ctx k = { (s.ctx k).launched l late with st := 2, plan } := by
    rw [settle_ctx, ctx, if_pos rfl]
  have scalars := (s.ctx k).launched_s l late
  refine ⟨_, answer, ?_⟩
  dsimp only
  rw [own]
  refine ⟨rfl, rfl, rfl, (scalars 1).trans (if_pos rfl), fun i other => (scalars i).trans (if_neg other), fun i other => if_neg other, rfl, rfl,
    rfl, rfl, fun j other => ?_, fun y member => ?_, fun kept => (settle_tileMem _).trans (tileMem kept)⟩
  · rw [settle_ctx, ctx, if_neg other]
  · rw [settle_sched, sched] at member
    simpa using (List.mem_filter.mp member).2

theorem State.eng_updEng (s : State) (e j : Nat) (g : Eng → Eng) (h : g (s.eng e) ≠ {}) :
    (s.updEng e g).eng j = if j = e then g (s.eng e) else s.eng j := Tab.get_set_of_ne _ e j h

/-- A slice starts, or goes on where its context left it. -/
theorem State.startSlice_runs (s : State) (k : Nat) :
    ((s.startSlice k).ctx k).st = 2 ∧ (∀ j, j ≠ k → (s.startSlice k).ctx j = s.ctx j)
    ∧ (s.startSlice k).tileMem = s.tileMem ∧ (s.startSlice k).engs = s.engs := by
  cases mid : (s.ctx k).mid with
  | false =>
    obtain ⟨ctx, tileMem, -, engs⟩ := State.startSlice_after mid
    exact ⟨by rw [ctx, if_pos rfl], fun j other => by rw [ctx, if_neg other], tileMem, engs⟩
  | true =>
    have goesOn : s.startSlice k = s.updCtx k ({ · with st := 2, mid := false }) := if_pos mid
    have ctx (j : Nat) : (s.startSlice k).ctx j = if j = k then { s.ctx k with st := 2, mid := false } else s.ctx j := by
      rw [goesOn]
      exact State.ctx_updCtx _ _ _ _ (Ctx.ne_of_st (show (2 : Nat) ≠ 0 by decide))
    exact ⟨by rw [ctx, if_pos rfl], fun j other => by rw [ctx, if_neg other], by rw [goesOn]; rfl, by rw [goesOn]; rfl⟩

/-- An engine that has moved to tile `t`. -/
def Eng.moveTo (t : Nat) (g : Eng) : Eng := { g with tile := some t, migrTo := none, moved := g.moved + 1, copying := false }

theorem Eng.ne_of_tile {g : Eng} {t : Nat} (h : g.tile = some t) : g ≠ {} := by
  rintro rfl
  cases h

/-- What a migration does to its engine and to the tile that it leaves. -/
theorem State.migrated_engs (s : State) (e t : Nat) :
    (s.migrated e t).engs = s.engs.upd {} e (.moveTo t)
    ∧ (s.migrated e t).ctxs = s.ctxs := by
  have audited (u : State) (old : Nat) (f : State → State) : (u.audited old (some e) f).engs = (f u).engs
      ∧ (u.audited old (some e) f).ctxs = (f u).ctxs := by
    have kept (v : State) (a o n : Nat) (sec : Bool) := (v.auditDev_recStep a o n sec).1
    unfold State.audited
    dsimp only
    constructor
    · rw [kept, kept]
    · rw [kept, kept]
  unfold migrated
  dsimp only
  constructor
  · show (State.audited ..).engs = _
    rw [(audited ..).1]
    rfl
  · show (State.audited ..).ctxs = _
    rw [(audited ..).2]
    rfl

/-- Settles O27: the end of a switch and of a migration's copy. -/
theorem switchesAndMigrationsEnd : Obligations.SwitchesAndMigrationsEnd := by
  unfold Obligations.SwitchesAndMigrationsEnd
  intro s e he
  refine ⟨fun x switching => ?_, fun n migrates copies => ⟨?_, fun noneIn noneWait => ?_⟩⟩
  · let g (y : Eng) : Eng := { y with switching := none, interval := some x }
    let u := s.updEng e g
    have used : g (s.eng e) ≠ {} := fun h => Option.some_ne_none x (congrArg Eng.interval h)
    have answer : exec (.contextSwitchComplete e) s
        = .next (settle (if (u.ctx (4 * e + x)).st = 1 then u.startSlice (4 * e + x) else u)) := by
      show execContextSwitchComplete e s = _
      unfold execContextSwitchComplete
      rw [switching]
      exact due_of (decide_eq_true he) _
    refine ⟨_, answer, ?_⟩
    have own : u.eng e = g (s.eng e) := (s.eng_updEng e e g used).trans (if_pos rfl)
    have eng (v : State) (engs : v.engs = u.engs) : ((settle v).eng e).interval = some x ∧ ((settle v).eng e).switching = none := by
      have same : (settle v).eng e = g (s.eng e) := (State.eng_of_engs ((settle_engs v).trans engs) e).trans own
      rw [same]
      exact ⟨rfl, rfl⟩
    obtain ⟨st, others, tileMem, engs⟩ := u.startSlice_runs (4 * e + x)
    split
    · exact ⟨(eng _ engs).1, (eng _ engs).2, fun _ => (congrArg Ctx.st (settle_ctx ..)).trans st,
        fun j other => (settle_ctx ..).trans (others j other), (settle_tileMem _).trans tileMem⟩
    · next parked =>
      exact ⟨(eng _ rfl).1, (eng _ rfl).2, fun h => absurd h parked, fun j _ => settle_ctx .., settle_tileMem _⟩
  · show execMigrationCopyComplete e s = _
    unfold execMigrationCopyComplete
    rw [migrates]
    exact due_of (by rw [copies, decide_eq_true he]; rfl) _
  · have answer : exec (.migrationCopyComplete e) s = .next (settle ((s.migrated e n).updEng e ({ · with heldIn := [], waitIn := [] }))) := by
      show execMigrationCopyComplete e s = _
      unfold execMigrationCopyComplete
      rw [migrates, noneIn, noneWait]
      exact due_of (by rw [copies, decide_eq_true he]; rfl) _
    obtain ⟨engs, ctxs⟩ := s.migrated_engs e n
    have moved : (s.migrated e n).eng e = (s.eng e).moveTo n := by
      rw [State.eng, engs]
      exact (s.eng_updEng e e (.moveTo n) (Eng.ne_of_tile (t := n) rfl)).trans (if_pos rfl)
    have own : ((s.migrated e n).updEng e ({ · with heldIn := [], waitIn := [] })).eng e = { (s.migrated e n).eng e with heldIn := [], waitIn := [] } :=
      (State.eng_updEng _ e e _ (Eng.ne_of_tile (t := n) (by rw [moved]; rfl))).trans (if_pos rfl)
    have same := (State.eng_of_engs (settle_engs ((s.migrated e n).updEng e ({ · with heldIn := [], waitIn := [] }))) e).trans own
    rw [moved] at same
    refine ⟨_, answer, ?_, by rw [same]; rfl, by rw [same]; rfl, by rw [settle_ctxs]; exact ctxs⟩
    rw [State.tileOf, same]
    rfl

end Sys2Proof.Machine
end

section
/-! PROOFS. The network on chip: planes, markers and inbound transfers (01_architecture.md R23 to R26; 03_engines_and_formats.md R67, R68, R86). -/

namespace Sys2Proof.Machine

/-! ### Planes of the network on chip (01 R24 to R26) -/

theorem planesChange : PlanesChange := by
  intro s p
  refine ⟨fun plane out inService => ?_, fun plane back state => ?_, fun draining => ⟨fun src dst awaited => ?_, fun late missing => ?_⟩⟩
  · exact due_of (by simp [plane, out, inService]) _
  · refine due_of ?_ _
    simp only [plane, back, decide_true, Bool.not_false, Bool.true_and, Bool.or_eq_true, Bool.and_eq_true, beq_iff_eq]
    exact state
  · intro t
    show execPlaneFinalMarker src dst s = _
    unfold execPlaneFinalMarker
    rw [draining]
    exact due_of (List.contains_iff_mem.mpr awaited) _
  · show execPlaneFailTimeout s = _
    unfold execPlaneFailTimeout
    rw [draining]
    exact due_of (by simp [late, missing]) _

/-- The only transfer that waits, once its marker has come and both planes are in service, goes on. -/
theorem State.releaseFenced_of_marked {s : State} {h : Fenced} (fenced : s.noc.fenced = [h]) (marked : h.marked = true) (st0 : s.noc.st0 = 0)
    (st1 : s.noc.st1 = 0) : s.releaseFenced = (s.updNoc ({ · with fenced := [] })).releaseCmd h.cmd := by
  have free : s.noc.holds h = false := by
    unfold Noc.holds Noc.st
    simp [marked, st0, st1]
  unfold releaseFenced
  rw [fenced]
  simp [free, updNoc, fenced]

theorem fenceMarkers : FenceMarkers := by
  intro s src dst p plane from_ to_ carries mine
  have cause : (decide (p < 2) && decide (src ≤ hubAgent) && decide (dst ≤ hubAgent) && s.noc.carries p src dst) = true := by
    simp [plane, from_, to_, carries]
  have marks (i : Nat) (found : s.noc.fenced.findIdx? mine = some i) : exec (.nocFenceMarker src dst p) s = .next (settle
        (s.updNoc fun n => { n with fenced := n.fenced.modify i ({ · with marked := true }) }).releaseFenced) := by
    refine (due_of cause _).trans ?_
    dsimp only
    rw [found]
  refine ⟨fun unmarked => ?_, marks, fun h fenced own st0 st1 => ?_⟩
  · have absent : s.noc.fenced.findIdx? mine = none := by
      rw [List.findIdx?_eq_none_iff]
      intro x member
      simpa using List.any_eq_false.mp unmarked x member
    refine (due_of cause _).trans ?_
    dsimp only
    rw [absent]
  · have found : s.noc.fenced.findIdx? mine = some 0 := by
      rw [fenced]
      simp [List.findIdx?_cons, own]
    let t := s.updNoc fun n => { n with fenced := n.fenced.modify 0 ({ · with marked := true }) }
    have released : t.releaseFenced = (t.updNoc ({ · with fenced := [] })).releaseCmd h.cmd := by
      refine State.releaseFenced_of_marked (h := { h with marked := true }) ?_ rfl st0 st1
      show s.noc.fenced.modify 0 _ = _
      rw [fenced]
      rfl
    rw [marks 0 found, released]
    rfl

/-- Settles O28: the changes of a plane and the markers, each where its cause is held. -/
theorem planesAndMarkers : Obligations.PlanesAndMarkers := ⟨planesChange, fenceMarkers⟩

/-! ### Inbound transfers (01 R23, R24; 03 R67, R68, R86) -/

/-- Writing a value that is not the default one at places of a table in any form. -/
theorem Tab.get_foldl_set_of_ne {α : Type} [DecidableEq α] {d v : α} (ne : v ≠ d) (ks : List Nat) (t : Tab α) (i : Nat) :
    (ks.foldl (fun t k => t.set d k v) t).get d i = if i ∈ ks then v else t.get d i := by
  induction ks generalizing t with
  | nil => simp
  | cons k ks ih =>
    rw [List.foldl_cons, ih, Tab.get_set_of_ne t k i ne]
    by_cases later : i ∈ ks
    · simp [later]
    · by_cases here : i = k <;> simp [later, here]

theorem mem_wordsOf {a n w : Nat} (h : n ≠ 0) : w ∈ wordsOf a n ↔ a / 8 ≤ w ∧ w ≤ (a + n - 1) / 8 := by
  simp only [wordsOf, h, if_false, List.mem_map, List.mem_range]
  constructor
  · rintro ⟨i, hi, rfl⟩
    omega
  · intro hw
    exact ⟨w - a / 8, by omega, by omega⟩

/-- What is written is read back. -/
theorem State.tsBytes_tsWrite {s : State} {a : Nat} (d : List Byte) (fe : Option Bool) (poison : Bool) (form : Memory.wf s.tileMem = true) :
    (s.tsWrite a d fe poison).tsBytes a d.length = d := by
  have mem : (s.tsWrite a d fe poison).tileMem = Tab.putList s.tileMem 0 a d := by
    unfold tsWrite tsMark
    cases fe <;> rfl
  rw [tsBytes, mem, Tab.getList]
  apply List.ext_getElem
  · simp
  · intro i h _
    simp only [List.getElem_map, List.getElem_range]
    exact Tab.get_putList_in 0 d s.tileMem a i (by simpa using h) form

theorem State.tileMem_tsWrite_of_out {s : State} {a q : Nat} (d : List Byte) (fe : Option Bool) (poison : Bool)
    (form : Memory.wf s.tileMem = true) (out : q < a ∨ a + d.length ≤ q) :
    Tab.get (s.tsWrite a d fe poison).tileMem 0 q = Tab.get s.tileMem 0 q := by
  have mem : (s.tsWrite a d fe poison).tileMem = Tab.putList s.tileMem 0 a d := by
    unfold tsWrite tsMark
    cases fe <;> rfl
  rw [mem]
  exact Tab.get_putList_out 0 d s.tileMem a q form out

/-- Poisoned data poisons its first word. -/
theorem State.tsBad_tsWrite (s : State) (a : Nat) {d : List Byte} (some_ : d ≠ []) (fe : Option Bool) :
    (s.tsWrite a d fe true).tsBad a d.length = true := by
  have length : d.length ≠ 0 := by simpa using some_
  let line := wordsOf (128 * (a / 128)) (roundUp (a + d.length) 128 - 128 * (a / 128))
  have poison : ∃ t : Tab Bool, (s.tsWrite a d fe true).tilePoison = line.foldl (fun t w => t.set false w true) t := by
    unfold tsWrite tsMark
    dsimp only
    rw [if_neg length]
    cases fe <;> exact ⟨_, rfl⟩
  obtain ⟨t, poison⟩ := poison
  have inLine : a / 8 ∈ line := by
    have up := (roundUp_bounds (a + d.length) (m := 128) (by decide)).2.1
    refine (mem_wordsOf (by omega)).mpr ⟨by omega, ?_⟩
    omega
  refine List.any_eq_true.mpr ⟨a / 8, (mem_wordsOf length).mpr ⟨Nat.le_refl _, by omega⟩, ?_⟩
  rw [poison, Tab.get_foldl_set_of_ne (by decide), if_pos inLine]

theorem State.mirrorIn_sameStores (s : State) (a : Nat) (d : List Byte) : SameStores s (s.mirrorIn a d) := by
  unfold mirrorIn
  generalize s.hlth.checks.map (·.k) = ks
  induction ks generalizing s with
  | nil => exact .refl s
  | cons k ks ih =>
    refine SameStores.trans ?_ (ih _)
    dsimp only
    split
    · have sent := (s.updMirror_step k fun m => { m with ins := m.ins ++ [(1, a - s.tsAddr k 0, d)] }).1
      constructor <;> rw [sent]
    · exact .refl s

theorem State.useNoc_eq (s : State) (src dst : Nat) : s.useNoc src dst = { s with noc := (s.useNoc src dst).noc } := by
  unfold useNoc
  split <;> rfl

/-- What placing a transfer whole leaves in its tile store. -/
theorem State.tsPlace_after {s : State} {a : Nat} {d : List Byte} (poison : Bool) (free : s.copyingOn (a / 0x800000) = none)
    (form : Memory.wf s.tileMem = true) (some_ : d ≠ []) :
    let t := settle (s.tsPlace a d none poison)
    t.tsBytes a d.length = d ∧ (∀ q, q < a ∨ a + d.length ≤ q → Tab.get t.tileMem 0 q = Tab.get s.tileMem 0 q)
    ∧ t.tileFull = s.tileFull ∧ t.ctxs = s.ctxs ∧ (poison = true → t.tsBad a d.length = true) := by
  have places : s.tsPlace a d none poison = (s.tsWrite a d none poison).mirrorIn a d := by rw [tsPlace, free]
  rw [places]
  intro t
  obtain ⟨ctxs, tileMem, tileFull, tilePoison⟩ := (State.mirrorIn_sameStores (s.tsWrite a d none poison) a d).trans (settle_sameStores _)
  refine ⟨?_, fun q out => ?_, tileFull, ctxs, fun poisoned => ?_⟩
  · rw [tsBytes, tileMem]
    exact State.tsBytes_tsWrite d none poison form
  · rw [tileMem]
    exact State.tileMem_tsWrite_of_out d none poison form out
  · subst poisoned
    rw [tsBad, tilePoison]
    exact s.tsBad_tsWrite a some_ none

/-- Settles O29: the cases of an inbound transfer. -/
theorem inboundTransfers : Obligations.InboundTransfers := by
  unfold Obligations.InboundTransfers
  intro s src p e x off fn d fence poison i t0 he hx hsrc some_ carries planeOk form
  have cause : (decide (e < 48) && decide (x < 4) && decide (src ≤ hubAgent) && !d.isEmpty && s.noc.carries p src (s.tileOf e)
      && s.noc.planeOk p off) = true := by
    simp [he, hx, hsrc, some_, carries, planeOk]
  have same : t0 = { s with noc := t0.noc } := s.useNoc_eq src (s.tileOf e)
  have arrives : exec i s = .next (settle (if fence then t0.fencedArrival src (s.tileOf e) p i else t0.releaseCmd i)) := by
    exact due_of cause _
  have eng : t0.eng e = s.eng e := by rw [same]; rfl
  have window : t0.windowAddr (4 * e + x) off d.length fn = s.windowAddr (4 * e + x) off d.length fn := by rw [same]; rfl
  refine ⟨fun plain still => ⟨fun a inside free => ?_, fun outside => ?_⟩, fun plain copying => ?_, fun fenced => ?_, ?_⟩
  · subst plain
    have answer : exec i s = .next (settle (t0.tsPlace a d none poison)) := by
      refine arrives.trans ?_
      have released : t0.releaseCmd i = t0.tsPlace a d none poison := by
        show (if (t0.eng e).copying then _ else t0.routerPlace e x off fn d false poison) = _
        rw [eng, if_neg (by simp [still]), State.routerPlace, window, inside]
        rfl
      rw [← released]
      rfl
    have noc : t0.copyingOn (a / 0x800000) = none := by rw [same]; exact free
    have after := State.tsPlace_after poison noc (by rw [same]; exact form) some_
    have kept : t0.tileMem = s.tileMem ∧ t0.tileFull = s.tileFull ∧ t0.ctxs = s.ctxs := by rw [same]; exact ⟨rfl, rfl, rfl⟩
    rw [kept.1, kept.2.1, kept.2.2] at after
    exact ⟨_, answer, after⟩
  · subst plain
    refine arrives.trans ?_
    have released : t0.releaseCmd i = t0.emit (.bounced e x off) := by
      show (if (t0.eng e).copying then _ else t0.routerPlace e x off fn d false poison) = _
      rw [eng, if_neg (by simp [still]), State.routerPlace, window, outside]
    rw [← released]
    rfl
  · subst plain
    refine arrives.trans ?_
    have released : t0.releaseCmd i = t0.holdInbound e (.cmd d.length i) := by
      show (if (t0.eng e).copying then t0.holdInbound e (.cmd d.length i) else _) = _
      rw [eng, if_pos copying]
    rw [← released]
    rfl
  · subst fenced
    exact arrives
  · exact due_of cause _

end Sys2Proof.Machine
end

section
/-! PROOFS. What arrives for a member of a collective (06_fused_collectives.md R169 to R172, R179). -/

namespace Sys2Proof.Machine

/-! ### What arrives for a member of a collective (06 R169 to R172, R179) -/

theorem State.arrived_of_still {s : State} {g r size : Nat} {i : Instr} {go : State → State}
    (still : ¬(s.eng ((s.grp g).ent r).eng).copying = true) : s.arrived g r size i go = go s := if_neg still

theorem State.arrived_of_copying {s : State} {g r size : Nat} {i : Instr} {go : State → State}
    (copying : (s.eng ((s.grp g).ent r).eng).copying = true) :
    s.arrived g r size i go = s.holdInbound ((s.grp g).ent r).eng (.cmd size i) := if_pos copying

/-- Settles O32: what a flight carries takes its place, or is held by the hub. -/
theorem collectiveArrivals : Obligations.CollectiveArrivals := by
  unfold Obligations.CollectiveArrivals
  intro s t g r j e copying
  refine ⟨fun h d bad hj low high length arrives => ?_, fun seq x hj flies arrives => ?_, fun seq hj noFlight near engine still idle => ?_,
    fun src seq code arrives => ?_⟩
  · have answer : exec (.chunkPlaced g r j h d bad) s
        = .next (settle (t.arrived g r (d.length + 64) (.chunkPlaced g r j h d bad) (·.chunkIn g r j h d bad))) := by
      show execChunkPlaced g r j h d bad s = _
      unfold execChunkPlaced
      dsimp only
      rw [arrives]
      exact due_of (by simp [hj, low, high, length]) _
    exact ⟨fun still => by rw [answer, State.arrived_of_still still]; rfl, fun copies => by rw [answer, State.arrived_of_copying copies]⟩
  · have answer : exec (.readyWordPlaced g r j seq) s
        = .next (settle (t.arrived g r 8 (.readyWordPlaced g r j seq) (·.readyIn g r j seq))) := by
      show execReadyWordPlaced g r j seq s = _
      unfold execReadyWordPlaced
      dsimp only
      rw [flies]
      dsimp only
      rw [arrives]
      exact due_of (decide_eq_true hj) _
    exact ⟨fun still => by rw [answer, State.arrived_of_still still]; rfl, fun copies => by rw [answer, State.arrived_of_copying copies]⟩
  · show execReadyWordPlaced g r j seq s = _
    unfold execReadyWordPlaced
    dsimp only
    rw [noFlight, idle]
    refine (due_of (by simp [hj, near, engine]) _).trans ?_
    rw [State.arrived_of_still (by simp [still])]
    rfl
  · intro u
    have answer : exec (.abandonWordPlaced g r src seq code) s
        = .next (settle (t.arrived g r 8 (.abandonWordPlaced g r src seq code) (·.abandonIn g r src seq code))) := by
      show execAbandonWordPlaced g r src seq code s = _
      unfold execAbandonWordPlaced
      rw [arrives]
      rfl
    have ends : t.abandonIn g r src seq code = match u.collAt g r with
      | some (k, c) => if c.seq = seq then u.collAbort k 0x0B false (some src) else u
      | none => u := rfl
    refine ⟨fun k c still at_ same => ?_, fun still at_ => ?_, fun copies => by rw [answer, State.arrived_of_copying copies]⟩
    · rw [answer, State.arrived_of_still still, ends, at_]
      exact congrArg _ (congrArg settle (if_pos same))
    · rw [answer, State.arrived_of_still still, ends, at_]

end Sys2Proof.Machine
end

section
/-! PROOFS. What reads, moves and the end of a collective leave of the contexts, operation by operation. -/

namespace Sys2Proof.Machine

theorem State.foldlFst_ctxs {β γ : Type} {f : State × γ → β → State × γ} (hf : ∀ a x, (f a x).1.ctxs = a.1.ctxs) (l : List β)
    (a : State × γ) : (l.foldl f a).1.ctxs = a.1.ctxs := by
  induction l generalizing a with
  | nil => rfl
  | cons x l ih => exact (ih (f a x)).trans (hf a x)

theorem Run.foldl_ctxs {β : Type} {f : Run → β → Run} (hf : ∀ r x, (f r x).s.ctxs = r.s.ctxs) (l : List β) (r : Run) :
    (l.foldl f r).s.ctxs = r.s.ctxs := by
  induction l generalizing r with
  | nil => rfl
  | cons x l ih => exact (ih (f r x)).trans (hf r x)

theorem Run.foldlFst_ctxs {β γ : Type} {f : Run × γ → β → Run × γ} (hf : ∀ a x, (f a x).1.s.ctxs = a.1.s.ctxs) (l : List β)
    (a : Run × γ) : (l.foldl f a).1.s.ctxs = a.1.s.ctxs := by
  induction l generalizing a with
  | nil => rfl
  | cons x l ih => exact (ih (f a x)).trans (hf a x)

@[simp] theorem State.free_ctxs (s : State) : s.free.2.ctxs = s.ctxs := rfl

@[simp] theorem State.useNoc_ctxs (s : State) (src dst) : (s.useNoc src dst).ctxs = s.ctxs := by
  rw [(State.useNoc_memStep ..).1]

@[simp] theorem State.initChunk_ctxs (s : State) (m c) : (s.initChunk m c).ctxs = s.ctxs := by
  rw [(State.initChunk_memStep ..).1]

@[simp] theorem State.storeLine_ctxs (s : State) (m lam pos) : (s.storeLine m lam pos).ctxs = s.ctxs := by
  rw [(State.storeLine_memStep ..).1]

@[simp] theorem State.storeData_ctxs (s : State) (m lam d poison) : (s.storeData m lam d poison).ctxs = s.ctxs := by
  rw [(State.storeData_memStep ..).1]

@[simp] theorem State.rollWindow_ctxs (s : State) (m) : (s.rollWindow m).ctxs = s.ctxs := by
  rw [(State.rollWindow_memStep ..).1]

@[simp] theorem State.requestRepair_ctxs (s : State) (m pc bank row) : (s.requestRepair m pc bank row).ctxs = s.ctxs := by
  rw [(State.requestRepair_memStep ..).1]

@[simp] theorem State.countDie_ctxs (s : State) (m die) : (s.countDie m die).ctxs = s.ctxs := by
  rw [(State.countDie_memStep ..).1]

@[simp] theorem State.countRow_ctxs (s : State) (m q pc) : (s.countRow m q pc).ctxs = s.ctxs := by
  rw [(State.countRow_memStep ..).1]

@[simp] theorem State.countFix_ctxs (s : State) (m lam p pc) : (s.countFix m lam p pc).ctxs = s.ctxs := by
  rw [(State.countFix_memStep ..).1]

@[simp] theorem State.freshUe_ctxs (s : State) (m lam rq) : (s.freshUe m lam rq).ctxs = s.ctxs := by
  rw [(State.freshUe_memStep ..).1]

@[simp] theorem State.noteUnchecked_ctxs (s : State) (m u) : (s.noteUnchecked m u).ctxs = s.ctxs := by
  rw [(State.noteUnchecked_memStep ..).1]

@[simp] theorem State.fixLine_ctxs (s : State) (m lam fixes pos) : (s.fixLine m lam fixes pos).ctxs = s.ctxs := by
  rw [(State.fixLine_memStep ..).1]

@[simp] theorem State.decodeLine_ctxs (s : State) (m lam rq raw) : (s.decodeLine m lam rq raw).1.ctxs = s.ctxs := by
  rw [(State.decodeLine_memStep ..).1]

@[simp] theorem State.readLine_ctxs (s : State) (m lam rq) : (s.readLine m lam rq).1.ctxs = s.ctxs := by
  rw [(State.readLine_memStep ..).1]

@[simp] theorem State.disarm_ctxs (s : State) : s.disarm.ctxs = s.ctxs := by
  rw [(State.disarm_memStep ..).1]

@[simp] theorem State.writeLine_ctxs (s : State) (off m lam rq d poison) : (s.writeLine off m lam rq d poison).1.ctxs = s.ctxs := by
  rw [(State.writeLine_memStep ..).1]

@[simp] theorem State.writeParts_ctxs (s : State) (off m lam rq parts) : (s.writeParts off m lam rq parts).1.ctxs = s.ctxs := by
  rw [(State.writeParts_memStep ..).1]

@[simp] theorem State.meetBank_ctxs (s : State) (m lam) : (s.meetBank m lam).ctxs = s.ctxs := by
  rw [(State.meetBank_memStep ..).1]

@[simp] theorem State.readSideAt_ctxs (s : State) (line rq) : (s.readSideAt line rq).1.ctxs = s.ctxs := by
  rw [(State.readSideAt_memStep ..).1]

@[simp] theorem State.readSide_ctxs (s : State) (line rq) : (s.readSide line rq).1.ctxs = s.ctxs := by
  rw [(State.readSide_memStep ..).1]

@[simp] theorem State.setSide_ctxs (s : State) (w n rq v) : (s.setSide w n rq v).ctxs = s.ctxs := by
  rw [(State.setSide_memStep ..).1]

@[simp] theorem State.clearSide_ctxs (s : State) (w n) : (s.clearSide w n).ctxs = s.ctxs := by
  rw [(State.clearSide_memStep ..).1]

@[simp] theorem State.readPiece_ctxs (s : State) (rq line a n) : (s.readPiece rq line a n).1.ctxs = s.ctxs := by
  rw [(State.readPiece_memStep ..).1]

@[simp] theorem State.readPieces_ctxs (s : State) (rq off n) : (s.readPieces rq off n).1.ctxs = s.ctxs := by
  rw [(State.readPieces_memStep ..).1]

@[simp] theorem State.nocMem_ctxs (s : State) (src off n) : (s.nocMem src off n).ctxs = s.ctxs := by
  rw [(State.nocMem_memStep ..).1]

@[simp] theorem State.putPart_ctxs (s : State) (line m lam rq a d poison) : (s.putPart line m lam rq a d poison).1.ctxs = s.ctxs := by
  rw [(State.putPart_memStep ..).1]

@[simp] theorem State.putWords_ctxs (s : State) (line m lam rq parts poison fe) : (s.putWords line m lam rq parts poison fe).1.ctxs = s.ctxs := by
  rw [(State.putWords_memStep ..).1]

@[simp] theorem State.writePiece_ctxs (s : State) (rq line a d poison fe) : (s.writePiece rq line a d poison fe).1.ctxs = s.ctxs := by
  rw [(State.writePiece_memStep ..).1]

@[simp] theorem State.startFlush_ctxs (s : State) (faultAt power) : (s.startFlush faultAt power).ctxs = s.ctxs := by
  rw [(State.startFlush_recStep ..).1]

@[simp] theorem State.healthRec_ctxs (s : State) (r) : (s.healthRec r).ctxs = s.ctxs := by
  rw [(State.healthRec_recStep ..).1]

@[simp] theorem State.xltCount_ctxs (s : State) (f i) : (s.xltCount f i).ctxs = s.ctxs := by
  unfold State.xltCount
  grind only [State.inc_ctxs]

@[simp] theorem State.tableRead_ctxs (s : State) (off) : (s.tableRead off).1.ctxs = s.ctxs := by
  unfold State.tableRead
  grind only [State.memRead_ctxs]

@[simp] theorem State.readGroup_ctxs (s : State) (off) : (s.readGroup off).1.ctxs = s.ctxs := by
  unfold State.readGroup
  grind only [State.memRead_ctxs]

@[simp] theorem State.pte_ctxs (s : State) (l off notValid) : (s.pte l off notValid).1.ctxs = s.ctxs := by
  unfold State.pte
  grind only [State.tableRead_ctxs, State.readGroup_ctxs]

@[simp] theorem State.walk2_ctxs (s : State) (l tbl ipa : Nat) : (State.walk2 l s tbl ipa).1.ctxs = s.ctxs := by
  induction l generalizing s tbl with
  | zero => unfold State.walk2; grind only [State.pte_ctxs]
  | succ l ih => unfold State.walk2; grind only [State.pte_ctxs]

@[simp] theorem State.stage2_ctxs (s : State) (f ipa) : (s.stage2 f ipa).1.ctxs = s.ctxs := by
  unfold State.stage2
  grind only [State.walk2_ctxs]

@[simp] theorem State.walkFind_ctxs (s : State) (kind f tag key : Nat) : (s.walkFind kind f tag key).1.ctxs = s.ctxs := by
  unfold State.walkFind
  grind only

@[simp] theorem State.walkFill_ctxs (s : State) (kind f tag key val) : (s.walkFill kind f tag key val).ctxs = s.ctxs := rfl

@[simp] theorem State.tableAt_ctxs (s : State) (f tag ipa) : (s.tableAt f tag ipa).1.ctxs = s.ctxs := by
  unfold State.tableAt
  grind only [State.stage2_ctxs, State.walkFind_ctxs, State.walkFill_ctxs]

@[simp] theorem State.walk1_ctxs (s : State) (l f tag tbl va : Nat) : (State.walk1 l s f tag tbl va).1.ctxs = s.ctxs := by
  induction l generalizing s tbl with
  | zero => unfold State.walk1; grind only [State.pte_ctxs, State.tableAt_ctxs]
  | succ l ih => unfold State.walk1; grind only [State.pte_ctxs, State.tableAt_ctxs, State.walkFill_ctxs]

@[simp] theorem State.tagEntry_ctxs (s : State) (f tag) : (s.tagEntry f tag).1.ctxs = s.ctxs := by
  unfold State.tagEntry
  grind only [State.tableRead_ctxs, State.walkFind_ctxs, State.walkFill_ctxs, State.tableAt_ctxs]

@[simp] theorem State.stage1_ctxs (s : State) (f tag va) : (s.stage1 f tag va).1.ctxs = s.ctxs := by
  unfold State.stage1
  grind only [State.walkFind_ctxs, State.walk1_ctxs, State.tagEntry_ctxs]

@[simp] theorem State.walkPage_ctxs (s : State) (f tag va) : (s.walkPage f tag va).1.ctxs = s.ctxs := by
  unfold State.walkPage
  grind only [State.stage2_ctxs, State.stage1_ctxs]

@[simp] theorem State.walkAll_ctxs (s : State) (f tag va wr) : (s.walkAll f tag va wr).1.ctxs = s.ctxs := by
  unfold State.walkAll
  grind only [State.xltCount_ctxs, State.walkPage_ctxs]

@[simp] theorem State.xltPut_ctxs (s : State) (k e) : (s.xltPut k e).ctxs = s.ctxs := rfl

@[simp] theorem State.xltFill_ctxs (s : State) (e) : (s.xltFill e).ctxs = s.ctxs := by
  unfold State.xltFill
  grind only [State.xltCount_ctxs, State.xltPut_ctxs]

@[simp] theorem State.xltFault_ctxs (s : State) (f tag va wr cause stage2) : (s.xltFault f tag va wr cause stage2).ctxs = s.ctxs := by
  unfold State.xltFault
  grind only [State.event_ctxs, State.notify_ctxs, State.xltCount_ctxs]

@[simp] theorem State.walkFor_ctxs (s : State) (f tag va wr) : (s.walkFor f tag va wr).1.ctxs = s.ctxs := by
  unfold State.walkFor
  grind only [State.walkAll_ctxs, State.xltFill_ctxs, State.xltFault_ctxs]

@[simp] theorem State.translate_ctxs (s : State) (f tag va wr) : (s.translate f tag va wr).1.ctxs = s.ctxs := by
  unfold State.translate
  grind only [State.xltCount_ctxs, State.xltPut_ctxs, State.xltFault_ctxs, State.walkFor_ctxs]

theorem State.audited_ctxs (s : State) (t e) {g : State → State} (h : (g s).ctxs = s.ctxs) : (s.audited t e g).ctxs = s.ctxs := by
  unfold State.audited
  grind only [State.auditDev_ctxs]

@[simp] theorem State.hlthEvent_ctxs (s : State) (num p0 p1 p2) : (s.hlthEvent num p0 p1 p2).ctxs = s.ctxs := by
  unfold State.hlthEvent
  grind only [State.event_ctxs]

@[simp] theorem State.dueNow_ctxs (s : State) (t cause) : (s.dueNow t cause).ctxs = s.ctxs := by
  unfold State.dueNow
  grind only [State.updTile_ctxs, State.hlthEvent_ctxs]

@[simp] theorem State.book_ctxs (s : State) (t k kind locus) : (s.book t k kind locus).ctxs = s.ctxs := by
  unfold State.book
  grind only [State.healthRec_ctxs, State.updTile_ctxs, State.audited_ctxs, State.hlthEvent_ctxs, State.dueNow_ctxs]

@[simp] theorem State.routerParity_ctxs (s : State) (e) : (s.routerParity e).ctxs = s.ctxs := by
  unfold State.routerParity
  grind only [State.event_ctxs, State.book_ctxs]

@[simp] theorem State.freeChecker_ctxs (s : State) (t) : (s.freeChecker t).ctxs = s.ctxs := by
  unfold State.freeChecker
  grind only [State.updTile_ctxs]

@[simp] theorem State.setCheck_ctxs (s : State) (k c) : (s.setCheck k c).ctxs = s.ctxs := by
  unfold State.setCheck
  grind only [State.freeChecker_ctxs]

@[simp] theorem State.abandonCheck_ctxs (s : State) (c why) : (s.abandonCheck c why).ctxs = s.ctxs := by
  unfold State.abandonCheck
  grind only [State.inc_ctxs, State.event_ctxs, State.setCheck_ctxs]

@[simp] theorem State.updMirror_ctxs (s : State) (k g) : (s.updMirror k g).ctxs = s.ctxs := by
  unfold State.updMirror
  grind only [State.setCheck_ctxs, State.abandonCheck_ctxs]

@[simp] theorem State.mirrorIn_ctxs (s : State) (a d) : (s.mirrorIn a d).ctxs = s.ctxs := by
  unfold State.mirrorIn
  grind only [State.foldl_ctxs, State.updMirror_ctxs]

@[simp] theorem State.mirrorEnd_ctxs (s : State) (k) : (s.mirrorEnd k).ctxs = s.ctxs := by
  unfold State.mirrorEnd
  grind only [State.updMirror_ctxs]

@[simp] theorem State.tsMark_ctxs (s : State) (ws v) : (s.tsMark ws v).ctxs = s.ctxs := by
  unfold State.tsMark
  grind only [State.foldl_ctxs]

@[simp] theorem State.tsWrite_ctxs (s : State) (a d fe poison) : (s.tsWrite a d fe poison).ctxs = s.ctxs := by
  unfold State.tsWrite
  grind only [State.foldl_ctxs, State.tsMark_ctxs]

@[simp] theorem State.holdInbound_ctxs (s : State) (e h) : (s.holdInbound e h).ctxs = s.ctxs := by
  unfold State.holdInbound
  grind only [State.updEng_ctxs]

@[simp] theorem State.tsPlace_ctxs (s : State) (a d fe poison) : (s.tsPlace a d fe poison).ctxs = s.ctxs := by
  unfold State.tsPlace
  grind only [State.mirrorIn_ctxs, State.tsWrite_ctxs, State.holdInbound_ctxs]

@[simp] theorem State.seen_ctxs (s : State) (t) : (s.seen t).ctxs = s.ctxs := by
  unfold State.seen
  grind only [State.foldl_ctxs, State.tsWrite_ctxs]

@[simp] theorem Run.fail_ctxs (r : Run) (c) : (r.fail c).s.ctxs = r.s.ctxs := rfl

@[simp] theorem Run.flag_ctxs (r : Run) (st) : (r.flag st).s.ctxs = r.s.ctxs := rfl

theorem Run.upd_ctxs (r : Run) {g : State → State} (h : (g r.s).ctxs = r.s.ctxs) : (r.upd g).s.ctxs = r.s.ctxs := h

@[simp] theorem Run.transfer_ctxs (r : Run) : r.transfer.1.s.ctxs = r.s.ctxs := by
  unfold Run.transfer
  grind only [State.routerParity_ctxs, Run.upd_ctxs]

@[simp] theorem State.places_ctxs (s : State) (k space a n wr) : (s.places k space a n wr).1.ctxs = s.ctxs := by
  unfold State.places
  grind only [State.foldl_ctxs, State.foldlFst_ctxs, State.xltFault_ctxs, State.translate_ctxs]

@[simp] theorem Run.lose_ctxs (r : Run) (c o n) : (r.lose c o n).s.ctxs = r.s.ctxs := by
  unfold Run.lose
  grind only [Run.fail_ctxs]

@[simp] theorem Run.readPlace_ctxs (r : Run) (o p) : (r.readPlace o p).1.s.ctxs = r.s.ctxs := by
  unfold Run.readPlace
  grind only [State.useNoc_ctxs, State.readPieces_ctxs, State.nocMem_ctxs, State.seen_ctxs, Run.fail_ctxs, Run.transfer_ctxs,
    Run.lose_ctxs]

@[simp] theorem Run.read_ctxs (r : Run) (space a n wr) : (r.read space a n wr).1.s.ctxs = r.s.ctxs := by
  unfold Run.read
  grind only [State.foldl_ctxs, State.foldlFst_ctxs, Run.foldl_ctxs, Run.foldlFst_ctxs, State.places_ctxs, Run.readPlace_ctxs]

@[simp] theorem Run.bytes_ctxs (r : Run) (a n) : (r.bytes a n).1.s.ctxs = r.s.ctxs := by
  unfold Run.bytes
  grind only [Run.read_ctxs]

@[simp] theorem State.postMsg_ctxs (s : State) (c m) : (s.postMsg c m).1.ctxs = s.ctxs := rfl

@[simp] theorem Run.row_ctxs (r : Run) (d i) : (r.row d i).1.s.ctxs = r.s.ctxs := by
  unfold Run.row
  grind only [Run.read_ctxs]

@[simp] theorem Run.codes_ctxs (r : Run) (d i) : (r.codes d i).1.s.ctxs = r.s.ctxs := by
  unfold Run.codes
  grind only [Run.row_ctxs]

@[simp] theorem Run.scales_ctxs (r : Run) (d i) : (r.scales d i).1.s.ctxs = r.s.ctxs := by
  unfold Run.scales
  grind only [Run.row_ctxs]

theorem Run.rowsOf_ctxs {α : Type} (r : Run) (n : Nat) {g : Run → Nat → Run × α} (hg : ∀ r i, (g r i).1.s.ctxs = r.s.ctxs) :
    (r.rowsOf n g).1.s.ctxs = r.s.ctxs := by
  unfold Run.rowsOf
  generalize List.range n = l
  suffices ∀ acc : Run × List α, (l.foldl (fun acc i => ((g acc.1 i).1, acc.2 ++ [(g acc.1 i).2])) acc).1.s.ctxs = acc.1.s.ctxs from this (r, [])
  induction l with
  | nil => exact fun _ => rfl
  | cons i l ih => intro acc; rw [List.foldl_cons, ih, hg]

@[simp] theorem Run.rounded_ctxs (r : Run) (d rows given) : (r.rounded d rows given).1.s.ctxs = r.s.ctxs := by
  unfold Run.rounded
  grind only [State.foldl_ctxs, State.foldlFst_ctxs, Run.foldl_ctxs, Run.foldlFst_ctxs, Run.flag_ctxs, Run.row_ctxs, Run.rowsOf_ctxs]

@[simp] theorem State.feRanges_ctxs (s : State) (k own rs) : (s.feRanges k own rs).1.ctxs = s.ctxs := by
  unfold State.feRanges
  grind only [State.foldl_ctxs, State.foldlFst_ctxs, State.places_ctxs]

@[simp] theorem State.feMark_ctxs (s : State) (v ws) : (s.feMark v ws).ctxs = s.ctxs := by
  unfold State.feMark
  grind only [State.foldl_ctxs, State.emit_ctxs, State.setSide_ctxs, State.tsMark_ctxs]

@[simp] theorem Run.feClear_ctxs (r : Run) (us) : (r.feClear us).s.ctxs = r.s.ctxs := by
  unfold Run.feClear
  grind only [Run.fail_ctxs, State.feRanges_ctxs, State.feMark_ctxs]

@[simp] theorem State.errEvent_ctxs (s : State) (k code op) : (s.errEvent k code op).ctxs = s.ctxs := by
  unfold State.errEvent
  grind only [State.engEvent_ctxs]

@[simp] theorem Run.mirror_ctxs (r : Run) (s : State) : (r.mirror s).ctxs = s.ctxs := by
  unfold Run.mirror
  grind only [State.updMirror_ctxs]

@[simp] theorem State.scrimBook_ctxs (s : State) (t k kind slice) : (s.scrimBook t k kind slice).ctxs = s.ctxs := by
  unfold State.scrimBook
  grind only [State.inc_ctxs, State.hlthEvent_ctxs, State.book_ctxs]

@[simp] theorem State.scrimBookings_ctxs (s : State) (t k sc) : (s.scrimBookings t k sc).ctxs = s.ctxs := by
  unfold State.scrimBookings
  grind only [State.scrimBook_ctxs]

@[simp] theorem Run.segment_ctxs (r : Run) (d at_ n) : (r.segment d at_ n).1.s.ctxs = r.s.ctxs := by
  unfold Run.segment
  grind only [Run.bytes_ctxs]

@[simp] theorem Run.blockRow_ctxs (r : Run) (d present i) : (r.blockRow d present i).1.s.ctxs = r.s.ctxs := by
  unfold Run.blockRow
  grind only [State.foldl_ctxs, State.foldlFst_ctxs, Run.foldl_ctxs, Run.foldlFst_ctxs, Run.segment_ctxs]

@[simp] theorem Run.matRow_ctxs (r : Run) (d present i) : (r.matRow d present i).1.s.ctxs = r.s.ctxs := by
  unfold Run.matRow
  grind only [Run.flag_ctxs, Run.row_ctxs, Run.codes_ctxs, Run.blockRow_ctxs]

@[simp] theorem Run.presence_ctxs (r : Run) (d) : (r.presence d).1.s.ctxs = r.s.ctxs := by
  unfold Run.presence
  grind only [Run.row_ctxs, Run.rowsOf_ctxs]

@[simp] theorem Run.mat_ctxs (r : Run) (d) : (r.mat d).1.s.ctxs = r.s.ctxs := by
  unfold Run.mat
  grind only [Run.scales_ctxs, Run.rowsOf_ctxs, Run.matRow_ctxs, Run.presence_ctxs]

@[simp] theorem Run.scrimCount_ctxs (r : Run) (tiles) : (r.scrimCount tiles).s.ctxs = r.s.ctxs := by
  unfold Run.scrimCount
  grind only [State.foldl_ctxs, Run.foldl_ctxs, Run.foldlFst_ctxs, State.inc_ctxs, Run.upd_ctxs]

@[simp] theorem Run.oldRows_ctxs (r : Run) (d) : (r.oldRows d).1.s.ctxs = r.s.ctxs := by
  unfold Run.oldRows
  grind only [State.foldl_ctxs, Run.foldl_ctxs, Run.foldlFst_ctxs, Run.flag_ctxs, Run.mat_ctxs]

@[simp] theorem Run.poisonTile_ctxs (r : Run) (d t) : (r.poisonTile d t).s.ctxs = r.s.ctxs := by
  unfold Run.poisonTile
  grind only [State.foldl_ctxs, Run.foldl_ctxs, Run.foldlFst_ctxs, Run.upd_ctxs]

@[simp] theorem State.markWord_ctxs (s : State) (g r off full) : (s.markWord g r off full).ctxs = s.ctxs := by
  unfold State.markWord
  grind only [State.tsMark_ctxs]

@[simp] theorem State.schEvent_ctxs (s : State) (n num p0 p1 p2 p3) : (s.schEvent n num p0 p1 p2 p3).ctxs = s.ctxs := by
  unfold State.schEvent
  grind only [State.eventTo_ctxs]

@[simp] theorem Run.allCodes_ctxs (r : Run) (d) : (r.allCodes d).1.s.ctxs = r.s.ctxs := by
  unfold Run.allCodes
  grind only [Run.codes_ctxs, Run.rowsOf_ctxs]

@[simp] theorem State.poisonLines_ctxs (s : State) (a n) : (s.poisonLines a n).ctxs = s.ctxs := by
  unfold State.poisonLines
  grind only [State.foldl_ctxs]

@[simp] theorem State.streamWrite_ctxs (s : State) (k d o data bad) : (s.streamWrite k d o data bad).ctxs = s.ctxs := by
  unfold State.streamWrite
  grind only [State.foldl_ctxs, State.foldlFst_ctxs, State.tsWrite_ctxs, State.poisonLines_ctxs]

@[simp] theorem State.streamPoison_ctxs (s : State) (k d ls) : (s.streamPoison k d ls).ctxs = s.ctxs := by
  unfold State.streamPoison
  grind only [State.foldl_ctxs, State.foldlFst_ctxs, State.poisonLines_ctxs]

end Sys2Proof.Machine
end

section
/-! PROOFS. A context in a collective (06_fused_collectives.md R169 to R171): what keeps how far its member has come. -/

namespace Sys2Proof.Machine

/-! ### A context in a collective: what keeps how far its member has come (06 R169 to R171) -/

theorem Tab.find_erase_of_some {α : Type} {k j : Nat} {v : α} (other : k ≠ j) :
    ∀ {t : Tab α}, t.find k = some v → (t.erase j).find k = some v
  | [], h => h
  | (i, x) :: t, h => by
    unfold Tab.find at h
    unfold Tab.erase
    by_cases here : i = k
    · rw [if_neg (by omega)]
      split <;> simpa [Tab.find, here] using h
    · rw [if_neg here] at h
      by_cases past : k < i
      · rw [if_pos past] at h; exact absurd h (by simp)
      · rw [if_neg past] at h
        split
        · exact h
        · split
          · simpa [Tab.find, here, past] using h
          · simpa [Tab.find, here, past] using Tab.find_erase_of_some other h

/-- A write elsewhere keeps a value that a table, in any form, holds. -/
theorem Tab.get_set_other {α : Type} [DecidableEq α] {t : Tab α} {d : α} {k j : Nat} (v : α) (held : t.get d k ≠ d) (other : k ≠ j) :
    (t.set d j v).get d k = t.get d k := by
  unfold Tab.set Tab.get at *
  split
  · cases found : t.find k with
    | none => rw [found] at held; exact absurd rfl held
    | some x => rw [Tab.find_erase_of_some other found]
  · rw [Tab.find_insert, if_neg other]

/-- What says how far a member of a collective has come: the chunks combined, ready to send and sent, and its sequence number. -/
def Coll.place (c : Coll) : Nat × Nat × Nat × Nat := (c.comb, c.ready, c.sent, c.seq)

/-- In these contexts `k` is loaded and has come as far as `p` in its collective, or is in none. -/
def InCollOf (ctxs : Tab Ctx) (k : Nat) (p : Option (Nat × Nat × Nat × Nat)) : Prop :=
  (ctxs.get {} k).st ≠ 0 ∧ (ctxs.get {} k).coll.map Coll.place = p

/-- The same of the contexts of a state. -/
def State.InColl (s : State) (k : Nat) (p : Option (Nat × Nat × Nat × Nat)) : Prop := InCollOf s.ctxs k p

section
variable {s : State} {r : Run} {k : Nat} {p : Option (Nat × Nat × Nat × Nat)}

theorem State.InColl.of_ctxs (h : s.InColl k p) {t : State} (same : t.ctxs = s.ctxs) : t.InColl k p := by
  unfold State.InColl
  rw [same]
  exact h

theorem State.InColl.updCtx (h : s.InColl k p) (j : Nat) {g : Ctx → Ctx} (st : ∀ c, (g c).st = c.st)
    (coll : ∀ c, (g c).coll.map Coll.place = c.coll.map Coll.place) : (s.updCtx j g).InColl k p := by
  by_cases same : k = j
  · subst same
    unfold State.InColl InCollOf
    change ((s.updCtx k g).ctx k).st ≠ 0 ∧ ((s.updCtx k g).ctx k).coll.map Coll.place = p
    rw [State.ctx_updCtx_self _ _ _ (Ctx.ne_of_st (by rw [st]; exact h.1)), st, coll]
    exact h
  · have other : (s.updCtx j g).ctx k = s.ctx k := Tab.get_set_other _ (Ctx.ne_of_st h.1) same
    unfold State.InColl InCollOf
    change ((s.updCtx j g).ctx k).st ≠ 0 ∧ ((s.updCtx j g).ctx k).coll.map Coll.place = p
    rw [other]
    exact h

theorem State.InColl.updColl (h : s.InColl k p) (j : Nat) {g : Coll → Coll} (keeps : ∀ c, (g c).place = c.place) : (s.updColl j g).InColl k p :=
  h.updCtx j (fun _ => rfl) fun c => by simp [Function.comp_def, keeps]

theorem State.InColl.foldl {β : Type} {f : State → β → State} (hf : ∀ s x, s.InColl k p → (f s x).InColl k p) (l : List β) {s : State}
    (h : s.InColl k p) : (l.foldl f s).InColl k p := by
  induction l generalizing s with
  | nil => exact h
  | cons x l ih => exact ih (hf s x h)

theorem State.InColl.foldlFst {β γ : Type} {f : State × γ → β → State × γ} (hf : ∀ a x, a.1.InColl k p → (f a x).1.InColl k p) (l : List β)
    {a : State × γ} (h : a.1.InColl k p) : (l.foldl f a).1.InColl k p := by
  induction l generalizing a with
  | nil => exact h
  | cons x l ih => exact ih (hf a x h)

theorem Run.inColl_foldl {β : Type} {f : Run → β → Run} (hf : ∀ r x, r.s.InColl k p → (f r x).s.InColl k p) (l : List β) {r : Run}
    (h : r.s.InColl k p) : (l.foldl f r).s.InColl k p := by
  induction l generalizing r with
  | nil => exact h
  | cons x l ih => exact ih (hf r x h)

theorem Run.inColl_foldlFst {β γ : Type} {f : Run × γ → β → Run × γ} (hf : ∀ a x, a.1.s.InColl k p → (f a x).1.s.InColl k p) (l : List β)
    {a : Run × γ} (h : a.1.s.InColl k p) : (l.foldl f a).1.s.InColl k p := by
  induction l generalizing a with
  | nil => exact h
  | cons x l ih => exact ih (hf a x h)

theorem State.InColl.holdErr (h : s.InColl k p) (j c : Nat) (near : Bool) : (s.holdErr j c near).InColl k p := by
  refine h.updCtx j (fun c => ?_) (fun c => ?_)
  all_goals repeat' split
  all_goals rfl

theorem State.InColl.post (h : s.InColl k p) (j c : Nat) (m : Msg) :
    ((s.postMsg c m).1.updCtx j fun x => { x with pendingOps := x.pendingOps ++ [(c, (s.postMsg c m).2)] }).InColl k p := by
  refine State.InColl.updCtx (h.of_ctxs (State.postMsg_ctxs ..)) j ?_ ?_ <;> exact fun _ => rfl

theorem State.InColl.remoteWrite (h : s.InColl k p) (j dev off : Nat) (d : List Byte) (fence fe poison : Bool) :
    (s.remoteWrite j dev off d fence fe poison).InColl k p := by
  unfold State.remoteWrite
  split
  · exact h.holdErr ..
  · exact h.post ..

theorem State.InColl.edge (h : s.InColl k p) (j : Nat) (g : Grp) (dest : Nat) (fl : Flight) (ws : List (Nat × List Byte × Bool))
    (bad : List Nat) : (s.edge j g dest fl ws bad).1.InColl k p := by
  unfold State.edge
  dsimp only
  generalize mirrored : s.updMirror j _ = t
  have m : t.InColl k p := by rw [← mirrored]; exact h.of_ctxs (State.updMirror_ctxs ..)
  split
  · exact m
  · split
    · refine State.InColl.holdErr (State.InColl.updColl m j ?_) j 9 false
      exact fun _ => rfl
    · refine State.InColl.foldlFst (fun a x ha => ?_) _ m
      exact ha.post ..

theorem State.InColl.progress (h : s.InColl k p) (n r : Nat) : (s.progress n r).InColl k p := by
  unfold State.progress
  split
  · exact h.updColl _ fun _ => rfl
  · exact h

theorem State.InColl.giveCredit (h : s.InColl k p) (j : Nat) (g : Grp) (n child b : Nat) : (s.giveCredit j g n child b).InColl k p := by
  unfold State.giveCredit
  split
  · exact State.InColl.progress (h.of_ctxs (State.markWord_ctxs ..)) ..
  · exact State.InColl.edge (h.of_ctxs (State.free_ctxs s)) ..

theorem State.InColl.collFlags (h : s.InColl k p) (j : Nat) (st : Sticky) (poison : Bool) : (s.collFlags j st poison).InColl k p :=
  h.updColl j fun _ => rfl

theorem State.InColl.combineDense (h : s.InColl k p) (j : Nat) (c : Coll) (x : Nat) : (s.combineDense j c x).InColl k p :=
  State.InColl.collFlags (h.of_ctxs (State.streamWrite_ctxs ..)) ..

theorem State.InColl.abandon (h : s.InColl k p) (j n rank root seq code : Nat) (src : Option Nat) :
    (s.abandon j n rank root seq code src).InColl k p := by
  unfold State.abandon
  refine State.InColl.foldl (fun s x hs => ?_) _ h
  split
  · exact hs
  · exact hs.edge ..
end

section
variable {s : State} {r : Run} {k : Nat} {p : Option (Nat × Nat × Nat × Nat)}

theorem Run.inColl_writeRun (h : r.s.InColl k p) (pl o d fe) : (r.writeRun pl o d fe).s.InColl k p := by
  unfold Run.writeRun
  grind only [State.InColl, State.InColl.foldl, State.InColl.foldlFst, Run.inColl_foldl, Run.inColl_foldlFst, State.useNoc_ctxs,
    State.nocMem_ctxs, State.writePiece_ctxs, State.memWrite_ctxs, State.tsWrite_ctxs, State.tsPlace_ctxs, Run.fail_ctxs,
    Run.upd, Run.transfer_ctxs, State.InColl.holdErr, State.InColl.remoteWrite]

theorem Run.inColl_write (h : r.s.InColl k p) (space a d fe) : (r.write space a d fe).s.InColl k p := by
  unfold Run.write
  grind only [State.InColl, Run.inColl_foldl, Run.inColl_foldlFst, State.places_ctxs, Run.inColl_writeRun]

theorem Run.inColl_putRow (h : r.s.InColl k p) (d i b) : (r.putRow d i b).s.InColl k p := Run.inColl_write h ..

theorem Run.inColl_putRows (h : r.s.InColl k p) (d rows) : (r.putRows d rows).s.InColl k p :=
  Run.inColl_foldl (fun _ _ hr => Run.inColl_putRow hr ..) _ h

theorem Run.inColl_putCodes (h : r.s.InColl k p) (d rows) : (r.putCodes d rows).s.InColl k p :=
  Run.inColl_foldl (fun _ _ hr => Run.inColl_putRow hr ..) _ h

theorem Run.inColl_putScales (h : r.s.InColl k p) (d scs) : (r.putScales d scs).s.InColl k p := by
  unfold Run.putScales
  split
  · exact h
  · exact Run.inColl_putCodes h ..

theorem Run.inColl_putVals (h : r.s.InColl k p) (d rows given) : (r.putVals d rows given).s.InColl k p :=
  Run.inColl_putCodes (Run.inColl_putScales (h.of_ctxs (Run.rounded_ctxs ..)) ..) ..

theorem Run.inColl_putBlocks (h : r.s.InColl k p) (d rows present) : (r.putBlocks d rows present).s.InColl k p := by
  unfold Run.putBlocks
  split
  · exact Run.inColl_putCodes h ..
  · dsimp only
    split
    · exact Run.inColl_putCodes (Run.inColl_putRows h ..) ..
    · exact Run.inColl_putRows (Run.inColl_foldl (fun _ _ hr => Run.inColl_write hr ..) _ h) ..

theorem Run.inColl_putMat (h : r.s.InColl k p) (d rows) : (r.putMat d rows).s.InColl k p := Run.inColl_putBlocks h ..

theorem State.InColl.scrim (h : s.InColl k p) (j sc) : (s.scrim j sc).1.InColl k p := by
  have free : ∀ {u : State} (i : Nat), u.InColl k p → (u.updCtx i ({ · with rerun := none })).InColl k p :=
    fun i hu => State.InColl.updCtx hu i (fun _ => rfl) (fun _ => rfl)
  unfold State.scrim
  grind only [State.InColl, State.setCheck_ctxs, State.scrimBookings_ctxs]

theorem State.InColl.submit (h : s.InColl k p) (l fn) : (s.submit l fn).InColl k p := by
  unfold State.submit
  split
  · refine h.of_ctxs ((State.launchDone_ctxs ..).trans ?_)
    split
    · exact State.inc_ctxs ..
    · rfl
  · have launched : ∀ l', (s.updCtx (4 * l.e + l.x) fun x => { x with launch := some l', faulted := false, err := 0 }).InColl k p := by
      intro l'
      refine State.InColl.updCtx h (4 * l.e + l.x) ?_ ?_ <;> exact fun _ => rfl
    exact launched _

theorem State.InColl.broadcastLaunch (h : s.InColl k p) (n d) : (s.broadcastLaunch n d).InColl k p := by
  unfold State.broadcastLaunch
  dsimp only
  split
  · exact h.submit ..
  · exact h.of_ctxs (State.launchDone_ctxs ..)

theorem Ctx.setAcc_st (c : Ctx) (q t) : (c.setAcc q t).st = c.st := by
  unfold Ctx.setAcc
  generalize List.range 4096 = l
  rfl

theorem Ctx.setAcc_coll (c : Ctx) (q t) : (c.setAcc q t).coll = c.coll := by
  unfold Ctx.setAcc
  generalize List.range 4096 = l
  rfl

theorem Run.inColl_setAcc (h : r.s.InColl k p) (q t) : (r.ctx (·.setAcc q t)).s.InColl k p :=
  State.InColl.updCtx h r.k (fun c => c.setAcc_st q t) (fun c => by rw [Ctx.setAcc_coll])

theorem Run.inColl_putProduct (h : r.s.InColl k p) (d pr sc) : (r.putProduct d pr sc).s.InColl k p := by
  have put : ∀ {u : Run} (scs rows), u.s.InColl k p → ((u.putScales d scs).putMat d rows).s.InColl k p :=
    fun scs rows hu => Run.inColl_putMat (Run.inColl_putScales hu d scs) d rows
  have scrimmed := State.InColl.scrim (h.of_ctxs ((Run.scrimCount_ctxs (r.flag pr.st) pr.tiles).trans (Run.flag_ctxs r pr.st)))
    ((r.flag pr.st).scrimCount pr.tiles).k sc
  unfold Run.putProduct
  dsimp only
  split
  · split
    · refine put _ _ (scrimmed.of_ctxs ?_)
      exact Run.rounded_ctxs ..
    · refine State.InColl.of_ctxs (put _ _ (scrimmed.of_ctxs ?_)) (Run.poisonTile_ctxs ..)
      exact Run.rounded_ctxs ..
  · refine put _ _ (scrimmed.of_ctxs ?_)
    exact Run.rounded_ctxs ..

theorem Run.inColl_collFinal (h : r.s.InColl k p) (c sc) : (r.collFinal c sc).s.InColl k p := by
  unfold Run.collFinal
  dsimp only
  split
  · have launched : (if bitAt c.f.sub 0 then r.upd fun s => s.broadcastLaunch c.g (s.streamRead r.k (r.c.tdAt c.f.d) 0 64) else r).s.InColl k p := by
      split
      · exact State.InColl.broadcastLaunch h ..
      · exact h
    split
    · exact launched.of_ctxs ((State.feMark_ctxs ..).trans (State.feRanges_ctxs ..))
    · exact launched
  · split
    · refine Run.inColl_putProduct (Run.inColl_setAcc (State.InColl.of_ctxs ?_ (Run.feClear_ctxs ..)) ..) ..
      have read : ∀ d e, ((r.mat d).1.mat e).1.s.InColl k p := fun d e => h.of_ctxs ((Run.mat_ctxs ..).trans (Run.mat_ctxs ..))
      split
      · exact (read _ _).of_ctxs (Run.oldRows_ctxs ..)
      · exact read _ _
    · split
      · exact h
      · split
        · exact Run.inColl_putBlocks (Run.inColl_putScales (h.of_ctxs ((Run.rounded_ctxs ..).trans (Run.mat_ctxs ..))) ..) ..
        · split
          · exact Run.inColl_putCodes (h.of_ctxs (Run.allCodes_ctxs ..)) ..
          · exact Run.inColl_putVals (h.of_ctxs (Run.allCodes_ctxs ..)) ..

theorem State.InColl.failCtx (h : s.InColl k p) (j code op) : (s.failCtx j code op).InColl k p :=
  State.InColl.updCtx (h.of_ctxs (State.errEvent_ctxs ..)) j (fun _ => rfl) (fun _ => rfl)

theorem Run.inColl_finish (h : r.s.InColl k p) (op) : (r.finish op).InColl k p := by
  have stuck : ((r.mirror r.s).updCtx r.k (·.stick r.fl r.poison)).InColl k p :=
    State.InColl.updCtx (h.of_ctxs (Run.mirror_ctxs ..)) r.k (fun _ => rfl) (fun _ => rfl)
  have err : ∀ {u : State} (i : Nat), u.InColl k p → (u.updCtx i ({ · with err := 8 })).InColl k p :=
    fun i hu => State.InColl.updCtx hu i (fun _ => rfl) (fun _ => rfl)
  have pc : ∀ {u : State} (i : Nat), u.InColl k p → (u.updCtx i fun c => { c with pc := r.npc.getD (c.pc + 16) }).InColl k p :=
    fun i hu => State.InColl.updCtx hu i (fun _ => rfl) (fun _ => rfl)
  unfold Run.finish
  grind only [State.InColl, State.mirrorEnd_ctxs, State.errEvent_ctxs, State.InColl.failCtx]
end

end Sys2Proof.Machine
end

section
/-! PROOFS. The progress of a collective (06_fused_collectives.md R169 to R171, R174, R180; 15_reliability_and_records.md R389). -/

namespace Sys2Proof.Machine

theorem State.foldlFst_plumb {β γ : Type} {f : State × γ → β → State × γ} (hf : ∀ a x, (f a x).1.plumb = a.1.plumb) (l : List β)
    (a : State × γ) : (l.foldl f a).1.plumb = a.1.plumb := by
  induction l generalizing a with
  | nil => rfl
  | cons x l ih => exact (ih (f a x)).trans (hf a x)

@[simp] theorem State.freeChecker_plumb (s : State) (t) : (s.freeChecker t).plumb = s.plumb := by
  unfold State.freeChecker
  grind only [State.updTile_plumb]

@[simp] theorem State.setCheck_plumb (s : State) (k c) : (s.setCheck k c).plumb = s.plumb := by
  unfold State.setCheck
  grind only [State.freeChecker_plumb]

@[simp] theorem State.abandonCheck_plumb (s : State) (c why) : (s.abandonCheck c why).plumb = s.plumb := by
  unfold State.abandonCheck
  grind only [State.inc_plumb, State.event_plumb, State.setCheck_plumb]

@[simp] theorem State.updMirror_plumb (s : State) (k g) : (s.updMirror k g).plumb = s.plumb := by
  unfold State.updMirror
  grind only [State.setCheck_plumb, State.abandonCheck_plumb]

@[simp] theorem State.tsMark_plumb (s : State) (ws v) : (s.tsMark ws v).plumb = s.plumb := by
  unfold State.tsMark
  grind only [State.foldl_plumb]

@[simp] theorem State.postMsg_plumb (s : State) (c m) : (s.postMsg c m).1.plumb = s.plumb := rfl

@[simp] theorem State.markWord_plumb (s : State) (g r off full) : (s.markWord g r off full).plumb = s.plumb := by
  unfold State.markWord
  grind only [State.tsMark_plumb]

@[simp] theorem State.updColl_plumb (s : State) (k h) : (s.updColl k h).plumb = s.plumb := by
  unfold State.updColl
  grind only [State.updCtx_plumb]

@[simp] theorem State.edge_plumb (s : State) (k g dest fl ws bad) : (s.edge k g dest fl ws bad).1.plumb = s.plumb := by
  unfold State.edge
  grind only [State.foldl_plumb, State.foldlFst_plumb, State.updCtx_plumb, State.updMirror_plumb, State.holdErr_plumb, State.postMsg_plumb,
    State.updColl_plumb]

@[simp] theorem State.updColl_tileMem (s : State) (k h) : (s.updColl k h).tileMem = s.tileMem := by
  unfold State.updColl
  grind only [State.updCtx_tileMem]

@[simp] theorem State.schEvent_tileMem (s : State) (n num p0 p1 p2 p3) : (s.schEvent n num p0 p1 p2 p3).tileMem = s.tileMem := by
  unfold State.schEvent
  grind only [State.eventTo_tileMem]

@[simp] theorem State.inc_grps (s : State) (a n) : (s.inc a n).grps = s.grps := by
  rw [(State.inc_memStep ..).1]

@[simp] theorem State.notify_grps (s : State) (fn r) : (s.notify fn r).grps = s.grps := by
  rw [(State.notify_recStep ..).1]

@[simp] theorem State.eventTo_grps (s : State) (e fn) : (s.eventTo e fn).grps = s.grps := by
  unfold State.eventTo
  grind only [State.event_grps, State.notify_grps]

@[simp] theorem State.updColl_grps (s : State) (k h) : (s.updColl k h).grps = s.grps := by
  unfold State.updColl
  grind only [State.updCtx_grps]

@[simp] theorem State.schEvent_grps (s : State) (n num p0 p1 p2 p3) : (s.schEvent n num p0 p1 p2 p3).grps = s.grps := by
  unfold State.schEvent
  grind only [State.eventTo_grps]

/-! ### The progress of a collective (06 R169 to R171, R174, R180; 15 R389) -/

theorem State.coll_of_collAt {s : State} {g r k : Nat} {c : Coll} (at_ : s.collAt g r = some (k, c)) : (s.ctx k).coll = some c := by
  unfold State.collAt at at_
  dsimp only at at_
  split at at_
  · next d found =>
    split at at_
    · cases at_; exact found
    · cases at_
  · cases at_

theorem State.inColl_of_collAt {s : State} {g r k : Nat} {c : Coll} (at_ : s.collAt g r = some (k, c)) (loaded : (s.ctx k).st ≠ 0) :
    s.InColl k (some c.place) := ⟨loaded, by
  change (s.ctx k).coll.map Coll.place = _
  rw [State.coll_of_collAt at_]; rfl⟩

theorem State.st_of_holds {s : State} {k : Nat} (h : s.holds k = true) : (s.ctx k).st = 2 := by
  unfold State.holds at h
  simp only [Bool.and_eq_true, beq_iff_eq] at h
  exact h.1.1.1.1

theorem State.still_of_holds {s : State} {k : Nat} (h : s.holds k = true) : (s.eng (k / 4)).copying = false := by
  unfold State.holds at h
  simp only [Bool.and_eq_true, Bool.not_eq_true'] at h
  exact h.1.2

theorem State.InColl.coll {s : State} {k : Nat} {q : Nat × Nat × Nat × Nat} (h : s.InColl k (some q)) :
    ∃ c, (s.ctx k).coll = some c ∧ c.place = q := by
  have there : (s.ctx k).coll.map Coll.place = some q := h.2
  rwa [Option.map_eq_some_iff] at there

theorem State.InColl.coll_updColl {s : State} {k : Nat} {p : Option (Nat × Nat × Nat × Nat)} (h : s.InColl k p) (g : Coll → Coll) :
    ((s.updColl k g).ctx k).coll = (s.ctx k).coll.map g := by
  have after : (s.updColl k g).ctx k = _ := State.ctx_updCtx_self s k (fun x => { x with coll := x.coll.map g }) (Ctx.ne_of_st h.1)
  rw [after]

theorem State.InColl.replace {s : State} {k : Nat} {q : Nat × Nat × Nat × Nat} (h : s.InColl k (some q)) {g : Coll → Coll}
    {f : Nat × Nat × Nat × Nat → Nat × Nat × Nat × Nat} (moves : ∀ c, (g c).place = f c.place) : (s.updColl k g).InColl k (some (f q)) := by
  obtain ⟨c, there, is⟩ := h.coll
  have after : (s.updColl k g).ctx k = _ := State.ctx_updCtx_self s k (fun x => { x with coll := x.coll.map g }) (Ctx.ne_of_st h.1)
  refine ⟨?_, ?_⟩
  · change ((s.updColl k g).ctx k).st ≠ 0
    rw [after]; exact h.1
  · change ((s.updColl k g).ctx k).coll.map Coll.place = _
    rw [after, there]
    simp [moves, is]

/-- A dense chunk of every child, folded into the own (06 R169, R171). -/
theorem State.combineChunk_dense {s : State} {k : Nat} {c : Coll} (h : s.InColl k (some c.place)) (lse : c.op ≠ 0x87)
    (dense : (c.recv (s.ctx k)).sparse ≠ 3) : (s.combineChunk k c).InColl k (some (c.comb + 1, c.comb + 1, c.sent, c.seq)) := by
  unfold State.combineChunk
  dsimp only
  rw [if_neg (c := (_ == 3) = true) (by simpa using dense)]
  have isDense : (!(c.recv (s.ctx k)).sparse == 3 && c.op != 0x87) = true := by simp [dense, lse]
  rw [isDense]
  simp only [if_true]
  generalize folded : List.foldl _ s _ = u
  have kept : u.InColl k (some c.place) := by
    rw [← folded]
    refine State.InColl.foldl (fun t x ht => ?_) _ h
    refine State.InColl.giveCredit (State.InColl.of_ctxs ?_ (State.markWord_ctxs ..)) ..
    refine State.InColl.updColl (ht.combineDense ..) k ?_
    exact fun _ => rfl
  have next : (u.updColl k fun c => { c with comb := c.comb + 1, last := u.ticks }).InColl k (some (c.comb + 1, c.ready, c.sent, c.seq)) := by
    refine kept.replace (f := fun q => (q.1 + 1, q.2)) ?_
    exact fun _ => rfl
  obtain ⟨c', there, is⟩ := next.coll
  rw [there]
  dsimp only
  have comb : c'.comb = c.comb + 1 := congrArg Prod.fst is
  rw [comb]
  refine next.replace (f := fun q => (q.1, c.comb + 1, q.2.2)) ?_
  exact fun _ => rfl

theorem settle_inColl {s : State} {k : Nat} {p : Option (Nat × Nat × Nat × Nat)} (h : s.InColl k p) : (settle s).InColl k p :=
  h.of_ctxs (settle_ctxs s)

/-- What forwarding a chunk leaves: the place of the member, the counter, and progress at this tick (06 R170, R180). -/
theorem State.forward_after {s : State} {k : Nat} {p : Option (Nat × Nat × Nat × Nat)} (h : s.InColl k p) (c : Coll) (x : Nat × Nat) :
    (s.forward k c x).InColl k p ∧ (s.forward k c x).plumb = s.plumb
      ∧ ∀ d, ((s.forward k c x).ctx k).coll = some d → d.last = s.ticks := by
  unfold State.forward
  dsimp only
  generalize sent : State.edge _ k _ x.2 _ _ _ = e
  have kept : e.1.InColl k p := by
    rw [← sent]
    refine State.InColl.edge ?_ ..
    split
    · exact h.of_ctxs (State.markWord_ctxs ..)
    · exact h
  have plumb : e.1.plumb = s.plumb := by
    rw [← sent, State.edge_plumb]
    split
    · exact State.markWord_plumb ..
    · rfl
  refine ⟨State.InColl.updColl kept k fun _ => rfl, (State.updColl_plumb ..).trans plumb, fun d hd => ?_⟩
  rw [kept.coll_updColl, Option.map_eq_some_iff] at hd
  obtain ⟨b, -, rfl⟩ := hd
  exact congrArg Plumb.count plumb
/-- One child of those that take a chunk in turn: it gets the chunk while its parent is in the collective. -/
def State.forwardOn (k : Nat) (s : State) (x : Nat × Nat) : State :=
  match (s.ctx k).coll with
  | some c => s.forward k c x
  | none => s

theorem State.forwardOn_after {s : State} {k : Nat} {p : Option (Nat × Nat × Nat × Nat)} (h : s.InColl k p) (x : Nat × Nat) :
    (s.forwardOn k x).InColl k p ∧ (s.forwardOn k x).plumb = s.plumb
      ∧ ∀ d, ((s.forwardOn k x).ctx k).coll = some d → d.last = s.ticks := by
  unfold State.forwardOn
  cases held : (s.ctx k).coll with
  | some c => exact State.forward_after h c x
  | none => exact ⟨h, rfl, fun d hd => absurd (held.symm.trans hd) (by simp)⟩

/-- Forwarding to every child that can take a chunk leaves progress at this tick (06 R170, R180). -/
theorem State.forwards_after {s : State} {k : Nat} {p : Option (Nat × Nat × Nat × Nat)} (h : s.InColl k p) (init : List (Nat × Nat))
    (x : Nat × Nat) : ((init ++ [x]).foldl (State.forwardOn k) s).InColl k p
      ∧ ∀ d, (((init ++ [x]).foldl (State.forwardOn k) s).ctx k).coll = some d → d.last = s.ticks := by
  rw [List.foldl_append]
  have before : (init.foldl (State.forwardOn k) s).InColl k p ∧ (init.foldl (State.forwardOn k) s).plumb = s.plumb := by
    induction init generalizing s with
    | nil => exact ⟨h, rfl⟩
    | cons y l ih =>
      obtain ⟨kept, plumb, -⟩ := State.forwardOn_after h y
      exact ⟨(ih kept).1, (ih kept).2.trans plumb⟩
  obtain ⟨kept, -, last⟩ := State.forwardOn_after before.1 x
  exact ⟨kept, fun d hd => (last d hd).trans (congrArg Plumb.count before.2)⟩

/-- A context whose part has ended is in no collective. -/
theorem State.InColl.left {s : State} {k : Nat} {p : Option (Nat × Nat × Nat × Nat)} (h : s.InColl k p) :
    (s.updCtx k ({ · with coll := none })).InColl k none := by
  have after := State.ctx_updCtx_self s k (fun x => { x with coll := none }) (Ctx.ne_of_st h.1)
  refine ⟨?_, ?_⟩
  · change ((s.updCtx k _).ctx k).st ≠ 0
    rw [after]; exact h.1
  · change ((s.updCtx k _).ctx k).coll.map Coll.place = none
    rw [after]; rfl

/-- Settles O33: chunks combine and travel, a collective ends, and a stall is reported. -/
theorem instancesProgress : Obligations.InstancesProgress := by
  unfold Obligations.InstancesProgress
  intro s g r k c at_ holds acts
  have loaded : (s.ctx k).st ≠ 0 := by rw [State.st_of_holds holds]; decide
  have place := State.inColl_of_collAt at_ loaded
  refine ⟨fun reduces some_ ready lse dense => ?_, fun reduces parent more free => ?_, fun bcast ready => ?_, fun done sc => ⟨fun product => ?_, fun product rerun => ?_⟩, fun late => ?_⟩
  · refine ⟨settle (s.combineChunk k c), ?_, ?_⟩
    · show execChunkCombine g r s = _
      unfold execChunkCombine
      rw [at_]
      exact due_of (by rw [reduces, holds, ready, List.isEmpty_eq_false_iff.mpr some_]; rfl) _
    · obtain ⟨c', there, is⟩ := (settle_inColl (State.combineChunk_dense place lse dense)).coll
      simp only [Coll.place, Prod.mk.injEq] at is
      exact ⟨c', there, is.1, is.2.1, is.2.2.1, is.2.2.2⟩
  · cases up : s.parentOf c with
    | none => exact absurd up parent
    | some p =>
      have cause : (!isBcast c.op && s.holds k && decide (c.sent < c.ready) && s.wordFull (s.grp g) r (0x8C0 + 8 * (c.sent % 2))) = true := by
        rw [reduces, holds, decide_eq_true more, free]; rfl
      have answer : ∃ u, exec (.chunkSend g r) s = .next (settle u) ∧ u.InColl k (some (c.comb, c.ready, c.sent + 1, c.seq)) := by
        show ∃ u, execChunkSend g r s = _ ∧ _
        unfold execChunkSend
        simp only [at_, up]
        refine ⟨_, due_of cause _, ?_⟩
        refine State.InColl.replace (q := c.place) (f := fun q => (q.1, q.2.1, q.2.2.1 + 1, q.2.2.2)) (State.InColl.edge ?_ ..) ?_
        · exact place.of_ctxs (State.markWord_ctxs ..)
        · exact fun _ => rfl
      obtain ⟨u, runs, after⟩ := answer
      obtain ⟨c', there, is⟩ := (settle_inColl after).coll
      simp only [Coll.place, Prod.mk.injEq] at is
      exact ⟨_, runs, c', there, is.2.2.1, is.1, is.2.1, is.2.2.2⟩
  · obtain ⟨init, x, split⟩ := (List.eq_nil_or_concat _).resolve_left ready
    refine ⟨settle (((s.kidsOf c).filter (s.canForward c)).foldl (State.forwardOn k) s), ?_, ?_⟩
    · show execBcastChunkForward g r s = _
      unfold execBcastChunkForward
      rw [at_]
      exact due_of (by rw [bcast, State.still_of_holds holds, List.isEmpty_eq_false_iff.mpr ready]; rfl) _
    · rw [split, List.concat_eq_append]
      obtain ⟨after, last⟩ := State.forwards_after place init x
      obtain ⟨c', there, is⟩ := (settle_inColl after).coll
      simp only [Coll.place, Prod.mk.injEq] at is
      exact ⟨c', there, last c' (by rwa [settle_ctx] at there), is.1, is.2.2.2⟩
  · have answer : ∃ u, exec (.instanceComplete g r sc) s = .next (settle u) ∧ u.InColl k none := by
      show ∃ u, execInstanceComplete g r sc s = _ ∧ _
      unfold execInstanceComplete
      simp only [at_]
      refine ⟨_, due_of done _, ?_⟩
      rw [if_neg (fun both => product.elim (fun h => h both.1) fun h => by simp [h] at both)]
      generalize final : Run.collFinal _ c sc = run
      have started : run.s.InColl k (some c.place) := by rw [← final]; exact Run.inColl_collFinal place ..
      have ended : ((run.s.updGrp g fun x => { x with fin := x.fin.set 0 r c.seq }).updCtx k ({ · with coll := none })).InColl k none :=
        State.InColl.left (started.of_ctxs (State.updGrp_ctxs ..))
      split
      · exact State.InColl.of_ctxs (State.InColl.abandon (Run.inColl_finish ended _) ..) (State.schEvent_ctxs ..)
      · exact Run.inColl_finish ended _
    obtain ⟨u, runs, after⟩ := answer
    exact ⟨_, runs, Option.map_eq_none_iff.mp (settle_inColl after).2⟩
  · show execInstanceComplete g r sc s = _
    unfold execInstanceComplete
    rw [at_]
    dsimp only
    rw [if_pos ⟨product, Option.isSome_iff_ne_none.mpr rerun⟩]
    exact due_of done _
  · have answer : ∃ u, exec (.collectiveStall g r) s = .next (settle u) ∧ (u.grp g).stall = true ∧ u.ctxs = (s.updColl k ({ · with last := s.ticks })).ctxs
        ∧ u.tileMem = s.tileMem := by
      show ∃ u, execCollectiveStall g r s = _ ∧ _
      unfold execCollectiveStall
      simp only [at_]
      refine ⟨_, due_of (decide_eq_true late) _, ?_, ?_, ?_⟩
      · unfold State.grp
        rw [State.schEvent_grps, State.inc_grps, State.updColl_grps]
        have stalled : ∀ x : Grp, ({ x with stall := true } : Grp) ≠ {} := fun x e => absurd (congrArg Grp.stall e) (by simp)
        exact congrArg Grp.stall (Tab.get_set_self_ne _ _ _ _ (stalled _))
      · rw [State.schEvent_ctxs, State.inc_ctxs]
        rfl
      · rw [State.schEvent_tileMem, State.inc_tileMem, State.updColl_tileMem]
        rfl
    obtain ⟨u, runs, stall, ctxs, mem⟩ := answer
    refine ⟨_, runs, by rw [State.grp, settle_grps]; exact stall, ?_, by rw [settle_tileMem, mem]⟩
    rw [settle_ctx, State.ctx_of_ctxs ctxs, place.coll_updColl, State.coll_of_collAt at_]
    rfl

end Sys2Proof.Machine
end

section
/-! PROOFS. A gate whose reads meet a bit error (03_engines_and_formats.md R65; 05_sparsity_and_conditional_compute.md R147). -/

namespace Sys2Proof.Machine

/-! ### A gate whose reads meet a bit error (03 R65; 05 R147) -/

/-- A dense tensor of rank 2 in the own tile store. -/
def tableWord (base n0 n1 fcode : Nat) : TdWord :=
  BitVec.ofNat 256 (base + 2 ^ 64 * (n0 - 1) + 2 ^ 84 * (n1 - 1) + 2 ^ 124 * fcode + 2 ^ 148 * 64 + 2 ^ 178 + 2 ^ 183)

/-- The state `outOfOrder` with a group of one rank: scores in tensor 0, rows in 1, the expert table in 2, what is received in 3, and the
record of the gate in 4. -/
def gateOutOfOrder : State :=
  { outOfOrder with
    ctxs := [(0, { st := 2, pc := 128, td := [(0, tableWord 0x80000 1 1 7), (1, tableWord 0x80040 32 1 6), (2, tableWord 0x80080 4 1 8),
      (3, tableWord 0x800C0 32 1 6), (4, BitVec.ofNat 256 (0x80100 + 2 ^ 64 * 255 + 2 ^ 124 * 9 + 2 ^ 183))] })]
    tileMem := [(0x80084, 1)]
    grps := [(0, { valid := true, cfg := 0x800, stage := 0x800, table := [{ dev := 0, eng := 0, ctx := 0, conn := 0, gen := 0 }] })] }

/-- A DISPATCH to one expert of the table, whose reads find one bit in error, which is corrected. -/
def correctedGate : Fields := { b := 1, c := 2, d := 4, imm := 0x100000301, met := correctedFence.met }

/-- Refutes O34: the checker is told of line 1, which holds the instruction; counted from the old base it would be line 0. -/
theorem not_expertInstructions : ¬ Obligations.ExpertInstructions := by
  unfold Obligations.ExpertInstructions
  intro h
  obtain ⟨dispatch, -⟩ := h gateOutOfOrder 0 0 correctedGate
  have issues : Issues gateOutOfOrder 0 0 correctedGate :=
    ⟨⟨rfl, rfl⟩, by decide, by decide, by decide, by decide⟩
  have passes : dispatchIns.passes (gateOutOfOrder.slowed 0 []) 0 correctedGate := by
    unfold Ins.passes
    decide
  obtain ⟨answer, -⟩ := (dispatch issues passes).1 gateOutOfOrder rfl
  exact absurd (linesSeenAfter_of_next answer) (by decide +kernel)

end Sys2Proof.Machine
end

section
/-! PROOFS. Snapshots, record and replay, domain resets (02_plumb_time_and_determinism.md R54 to R59; 06_fused_collectives.md R184, R185; 17_register_reference.md R453). -/

namespace Sys2Proof.Machine

@[simp] theorem State.notify_reps (s : State) (fn r) : (s.notify fn r).reps = s.reps := by
  rw [(State.notify_recStep ..).1]

@[simp] theorem State.eventTo_reps (s : State) (e fn) : (s.eventTo e fn).reps = s.reps := by
  unfold State.eventTo
  grind only [State.event_reps, State.notify_reps]

@[simp] theorem State.memWrite_reps (s : State) (rq off d fe) : (s.memWrite rq off d fe).1.reps = s.reps := by
  rw [(State.memWrite_memStep ..).1]

@[simp] theorem State.startFlush_boot (s : State) (faultAt power) : (s.startFlush faultAt power).boot = s.boot := by
  rw [(State.startFlush_recStep ..).1]

@[simp] theorem State.startFlush_glb (s : State) (faultAt power) : (s.startFlush faultAt power).glb = s.glb := by
  rw [(State.startFlush_recStep ..).1]

/-! ### Snapshots, record and replay, domain resets (02 R54 to R59; 06 R184, R185; 17 R453) -/

theorem State.rep_of_reps {s t : State} (h : t.reps = s.reps) (r : Nat) : t.rep r = s.rep r := by
  unfold State.rep
  rw [h]

@[simp] theorem settle_rep (s : State) (r : Nat) : (settle s).rep r = s.rep r := State.rep_of_reps (settle_reps s) r

/-- A record of a group that differs from that of an idle one is the group's, and of no other. -/
theorem State.rep_updRep (s : State) {r : Nat} {v : Rep} (used : v ≠ {}) (j : Nat) :
    (s.updRep r fun _ => v).rep j = if j = r then v else s.rep j := Tab.get_set_of_ne _ _ _ used

/-- The groups stay in canonical form. -/
theorem State.updRep_reps_wf {s : State} (w : Tab.wf ({} : Rep) s.reps = true) (r : Nat) (g : Rep → Rep) :
    Tab.wf ({} : Rep) (s.updRep r g).reps = true := Tab.set_wf _ _ _ _ w

theorem State.traceWrite_reps_wf {s : State} (w : Tab.wf ({} : Rep) s.reps = true) (r ty consumer src : Nat) (pl : List Byte) :
    Tab.wf ({} : Rep) (s.traceWrite r ty consumer src pl).reps = true := by
  unfold State.traceWrite
  refine State.updRep_reps_wf ?_ ..
  rw [State.memWrite_reps]
  exact State.updRep_reps_wf w ..

theorem State.rpEnd_reps_wf {s : State} (w : Tab.wf ({} : Rep) s.reps = true) (r reason : Nat) :
    Tab.wf ({} : Rep) (s.rpEnd r reason).reps = true := by
  unfold State.rpEnd
  dsimp only
  rw [State.eventTo_reps]
  refine State.updRep_reps_wf ?_ ..
  generalize begun : ite ((s.rep r).mode = 2) _ s = u
  have started : Tab.wf ({} : Rep) u.reps = true := by
    rw [← begun]
    split
    · exact State.updRep_reps_wf w ..
    · exact w
  split
  · exact State.traceWrite_reps_wf started ..
  · exact started

/-- A group that has ended shows it, and why (02 R59). -/
theorem State.rep_rpEnd (s : State) (r reason : Nat) : ((s.rpEnd r reason).rep r).ended = true ∧ ((s.rpEnd r reason).rep r).reason = reason := by
  unfold State.rpEnd
  dsimp only
  rw [State.rep_of_reps (State.eventTo_reps ..)]
  generalize ite ((Option.isSome _ && _) = true) _ _ = u
  have after : (u.updRep r fun g => { g with ended := true, reason, stopAt := false }).rep r = _ :=
    Tab.get_set_self_ne _ _ _ _ fun e => absurd (congrArg Rep.ended e) (by simp)
  rw [after]
  exact ⟨rfl, rfl⟩

theorem State.diverge_reps (s : State) (r seq : Nat) : (s.diverge r seq).reps = (s.rpEnd r 3).reps := by
  unfold State.diverge
  dsimp only
  rw [foldl_eq_of_step_eq State.reps _ (fun t k => by split <;> rfl), State.eventTo_reps]

/-- Settles O35: snapshots are written once, groups start, stop and end, and a domain reset without its acknowledgements resets. -/
theorem snapshotsReplayAndDomainResets : Obligations.SnapshotsReplayAndDomainResets := by
  unfold Obligations.SnapshotsReplayAndDomainResets
  intro s
  refine ⟨fun x taken => ?_, fun r hr => ⟨fun asks off => ?_, fun asks off => ?_, fun asks on wf => ?_, fun x live replays late => ?_⟩, fun d waits late => ?_⟩
  · have answer : ∃ u, exec .snapshotCapture s = .next (settle u) ∧ u.snap = none ∧ u.ctxs = s.ctxs := by
      show ∃ u, execSnapshotCapture s = _ ∧ _
      unfold execSnapshotCapture
      rw [taken]
      exact ⟨_, rfl, rfl, State.memWrite_ctxs ..⟩
    obtain ⟨u, runs, gone, ctxs⟩ := answer
    have none_ : (settle u).snap = none := by rw [settle_snap, gone]
    refine ⟨_, runs, none_, by rw [settle_ctxs, ctxs], ?_⟩
    show execSnapshotCapture (settle u) = _
    unfold execSnapshotCapture
    rw [none_]
  · have used : ({ mode := 1 } : Rep) ≠ {} := by decide
    refine ⟨_, due_of (by simp [hr, asks, off]) _, ?_, fun j other => ?_⟩
    · rw [settle_rep, State.rep_updRep s used, if_pos rfl]
    · rw [settle_rep, State.rep_updRep s used, if_neg other]
  · have used : ({ mode := 2 } : Rep) ≠ {} := by decide
    refine ⟨_, due_of (by simp [hr, asks, off]) _, ?_, fun j other => ?_⟩
    · rw [settle_rep, State.rep_updRep s used, if_pos rfl]
    · rw [settle_rep, State.rep_updRep s used, if_neg other]
  · refine ⟨_, due_of (by simp [hr, asks, on]) _, ?_⟩
    show (State.rep (settle _) r).mode = 0
    rw [settle_rep]
    have w : Tab.wf ({} : Rep) (if (s.rep r).live then s.rpEnd r 0 else s).reps = true := by
      split
      · exact State.rpEnd_reps_wf wf ..
      · exact wf
    have after := Tab.get_upd _ _ r r (fun g : Rep => { g with mode := 0 }) w
    rw [if_pos rfl] at after
    exact congrArg Rep.mode after
  · have answer : exec (.replayInputTimeout r) s = .next (settle (s.diverge r x.seq)) := by
      show execReplayInputTimeout r s = _
      unfold execReplayInputTimeout
      rw [if_pos (by simp [live, replays]), late]
      rfl
    refine ⟨_, answer, ?_⟩
    show (State.rep (settle _) r).ended = true ∧ (State.rep (settle _) r).reason = 3
    rw [settle_rep, State.rep_of_reps (State.diverge_reps ..)]
    exact State.rep_rpEnd ..
  · have answer : exec .domrstAckTimeout s = .next (settle (s.beginReset 4 d.wait.length)) := by
      show execDomrstAckTimeout s = _
      unfold execDomrstAckTimeout
      rw [waits]
      exact due_of (decide_eq_true late) _
    refine ⟨_, answer, ?_, ?_⟩
    · rw [settle_boot]
      unfold State.beginReset
      simp only [State.startFlush_boot, State.event_boot]
    · rw [settle_glb]
      unfold State.beginReset
      simp only [State.startFlush_glb, State.event_glb]

end Sys2Proof.Machine
end

section
/-! PROOFS. Register writes (00_scope.md R12, R14; 15_reliability_and_records.md R407, R408; 17_register_reference.md R443, R444, R446). -/

namespace Sys2Proof.Machine

/-! ### A write of four bytes to a register (00 R14; 15 R407, R408; 17 R443, R444, R446) -/

/-- A write of 4 bytes that is aligned and reaches a register of 4 bytes meets it whole. -/
theorem State.busWrite_of_reg {s : State} {o : Origin} {off v : Nat} {h : Hit} (ready : s.commandable) (reaches : s.reaches o = true)
    (aligned : off % 4 = 0) (small : v < 2 ^ 32) (target : s.target o off = .reg h) (whole : h.a = h.base) (size : h.r.size = 4) :
    s.busWrite o off false v = s.regPut { o, h, v } := by
  obtain ⟨-, -, -, noneHeld, room⟩ := ready
  have notFull : (decide (1024 ≤ s.recs.audQueue.length) || !s.recs.heldWrites.isEmpty) = false := by
    simp [noneHeld, room]
  unfold State.busWrite
  rw [reaches, notFull]
  simp only [Bool.not_true, Bool.false_and, Bool.false_eq_true, if_false]
  unfold State.regWrite
  simp only [Bool.false_eq_true, if_false, aligned, ne_eq, not_true_eq_false, Bool.not_false, if_true]
  unfold State.writeNarrow
  rw [target]
  simp only [Reg.halves, size, whole, Nat.mod_eq_of_lt small, Nat.sub_self, Nat.mul_zero]
  rfl

/-- Bits chosen by access agree where every field has one access and both choices make the same of it. -/
theorem Reg.mask_congr {r : Reg} {p q : Acc → Bool} (same : ∀ x ∈ r.flds, p x.acc = q x.acc) : r.mask p = r.mask q := by
  unfold Reg.mask
  generalize 0 = a
  revert same
  generalize r.flds = fields
  induction fields generalizing a with
  | nil => exact fun _ => rfl
  | cons x l ih =>
    intro same
    rw [List.foldl_cons, List.foldl_cons, same x List.mem_cons_self]
    exact ih _ fun y hy => same y (List.mem_cons_of_mem _ hy)

theorem Reg.mask_none (r : Reg) : r.mask (fun _ => false) = 0 := by
  unfold Reg.mask
  simp only [Bool.false_eq_true, if_false]
  induction r.flds with
  | nil => rfl
  | cons x l ih => exact ih

/-- In a register of read-write fields only, no bit has another access. -/
theorem Reg.mask_of_rw {r : Reg} (rw_ : (r.flds.all fun x => x.acc == .rw) = true) {p : Acc → Bool} (not_ : p .rw = false) : r.mask p = 0 := by
  rw [List.all_eq_true] at rw_
  rw [Reg.mask_congr (q := fun _ => false) fun x hx => by rw [eq_of_beq (rw_ x hx), not_]]
  exact r.mask_none

/-- In a register of read-write fields only, every choice that takes them takes the same bits. -/
theorem Reg.mask_eq_now {r : Reg} (rw_ : (r.flds.all fun x => x.acc == .rw) = true) {p : Acc → Bool} (takes : p .rw = true) :
    r.mask p = r.now := by
  rw [List.all_eq_true] at rw_
  exact Reg.mask_congr fun x hx => by rw [eq_of_beq (rw_ x hx), takes]; rfl

theorem Reg.readOnly_of_rw {r : Reg} (rw_ : (r.flds.all fun x => x.acc == .rw) = true) (some_ : r.flds ≠ []) : r.readOnly = false := by
  unfold Reg.readOnly
  cases fields : r.flds with
  | nil => exact absurd fields some_
  | cons x l =>
    rw [fields, List.all_cons, Bool.and_eq_true] at rw_
    rw [List.all_cons, eq_of_beq rw_.1]
    rfl

theorem State.deferred_of_finish {s : State} (finish : s.glb.service = 2) (b : Blk) (i : Nat) : s.deferred b i = false := by
  unfold State.deferred
  rw [finish]
  rfl

/-- A write that no rule refuses and that has something to do at once applies (17 R443, R446). -/
theorem State.regPut_of_allowed {s : State} {w : RegWrite} (finish : s.glb.service = 2) (writable : w.h.r.readOnly = false)
    (may : mayWrite w.o w.h.b w.h.i (w.h.base % 0x1000) = true)
    (legal : w.h.r.legal w.bm w.new (merge (s.reg w.h.key) w.new w.bm) = true)
    (unlocked : ((s.page (w.h.b.page + w.h.i)).lock && (w.h.r.mask (· == .rwL) &&& w.bm) != 0) = false)
    (now : (w.h.r.later &&& w.bm) = 0) (some_ : ((w.h.r.mask fun a => a != .ro && a != .rc && a != .rwT) &&& w.bm) ≠ 0) :
    s.regPut w = s.applyNow w false := by
  unfold State.regPut
  dsimp only
  rw [writable, may, finish, legal, unlocked, State.deferred_of_finish finish, now]
  simp only [Bool.false_and, Bool.not_true, Bool.or_self, Bool.false_eq_true, if_false, bne_self_eq_false]
  rw [if_neg (by decide), if_pos (bne_iff_ne.mpr some_)]

theorem RegWrite.addr_of_whole {w : RegWrite} (whole : w.sh = 0) : w.addr = w.h.base := by
  unfold RegWrite.addr
  rw [whole, Nat.zero_div, Nat.add_zero]

/-- A write that applies leaves what its register does, and its record (15 R407). -/
theorem State.applyNow_of_effect {s u : State} {w : RegWrite}
    (ok : s.writeOk w (s.reg w.h.key) (merge (s.reg w.h.key) w.new (w.h.r.now &&& w.bm)) = true)
    (notMessage : ¬(w.h.b = .mbx ∧ 0x100 ≤ w.h.base % 0x1000)) (loud : (w.h.r.flds.all fun x => x.acc == .w1c) = false)
    (effect : let t := if w.h.r.now &&& w.bm = 0 then s else s.setReg w.h.key (merge (s.reg w.h.key) w.new (w.h.r.now &&& w.bm))
      (if w.h.base % 0x1000 < 0x40 then t.headerWrite w else State.effect s t w (s.reg w.h.key) (w.new &&& w.bm)) = some u) :
    ∃ a, a.org = w.o ∧ a.kind = 0 ∧ a.addr = w.addr ∧ s.applyNow w false = u.audit a := by
  have quiet : w.quiet = false := by
    have other : (w.h.b == .mbx && decide (0x100 ≤ w.h.base % 0x1000)) = false := by
      rw [Bool.and_eq_false_iff, beq_eq_false_iff_ne, decide_eq_false_iff_not]
      exact Classical.not_and_iff_not_or_not.mp notMessage
    rw [RegWrite.quiet, loud, other]
    rfl
  have applies : s.applyNow w false = u.auditWrite w.o w.addr (w.cut (s.value w.o w.h))
      (w.cut (merge (s.value w.o w.h) w.new (w.h.r.now ||| w.h.r.mask (fun a => a == .wo || a == .w1s)))) w.wide := by
    unfold State.applyNow
    dsimp only at effect ⊢
    rw [ok, if_neg (c := w.h.b = .mbx ∧ _) notMessage, effect]
    simp only [Bool.not_true, quiet, Bool.false_eq_true, if_false]
  exact ⟨{ org := w.o, kind := 0, sec := _, wide := w.wide, addr := w.addr, old := _, new := _ }, rfl, rfl, rfl, applies⟩

/-- Settles O36: the register holds the value, what the register does is done, and the change is recorded. -/
theorem registerWritesApply : Obligations.RegisterWritesApply := by
  unfold Obligations.RegisterWritesApply
  intro s o off v h u ready reaches aligned small target whole size body notMessage rw_ some_ may full w legal ok takes effect
  have notClear : (h.r.flds.all fun x => x.acc == .w1c) = false := by
    cases fields : h.r.flds with
    | nil => exact absurd fields some_
    | cons x l =>
      rw [fields, List.all_cons, Bool.and_eq_true] at rw_
      rw [List.all_cons, eq_of_beq rw_.1]
      rfl
  have put : s.regPut w = s.applyNow w false := by
    refine State.regPut_of_allowed ready.1 (Reg.readOnly_of_rw rw_ some_) may legal ?_ ?_ ?_
    · show (_ && (h.r.mask _ &&& _) != 0) = false
      rw [Reg.mask_of_rw rw_ rfl, Nat.zero_and]
      exact Bool.and_false _
    · show (h.r.mask _ &&& _) = 0
      rw [Reg.mask_of_rw rw_ rfl, Nat.zero_and]
    · show (h.r.mask _ &&& (2 ^ 32 - 1)) ≠ 0
      rw [Reg.mask_eq_now rw_ rfl]
      exact takes
  obtain ⟨a, org, kind, addr, applies⟩ := State.applyNow_of_effect (w := w) ok notMessage notClear
    (by dsimp only; rw [if_neg (Nat.not_lt.mpr body)]; rw [if_neg (show ¬(w.h.r.now &&& w.bm = 0) from takes)]; exact effect)
  refine ⟨a, org, kind, addr.trans (RegWrite.addr_of_whole rfl), ?_⟩
  show done (s.busWrite o off false v.toNat) = _
  rw [State.busWrite_of_reg ready reaches aligned small target whole size]
  show done (s.regPut w) = _
  rw [put, applies]
  rfl
/-- The register of a mailbox page's control word is written only (13 R358). -/
theorem flds_of_mbxControl {i off : Nat} {r : Reg} {base : Nat} (found : findReg .mbx i off = some (r, base)) (small : off < 0x1000)
    (control : base % 0x1000 = 0x040) : r.flds = [f 0 0 .wo, f 1 1 .wo, f 2 2 .wo, f 3 3 .wo] := by
  unfold findReg at found
  rw [Option.map_eq_some_iff] at found
  obtain ⟨q, at_, same⟩ := found
  have covers := List.find?_some at_
  have listed := List.mem_of_find?_eq_some at_
  obtain ⟨rfl, rfl⟩ := Prod.mk.inj same
  have low : q.off ≤ off := by
    unfold Reg.covers at covers
    simp only [Bool.and_eq_true, decide_eq_true_eq] at covers
    exact covers.1
  by_cases one : q.n ≤ 1
  · rw [if_pos one, Nat.mod_eq_of_lt (by omega)] at control
    have all : ∀ x ∈ headerRegs ++ regsOf .mbx i, x.off = 0x040 → x.flds = [f 0 0 .wo, f 1 1 .wo, f 2 2 .wo, f 3 3 .wo] := by
      show ∀ x ∈ headerRegs ++ mbxRegs, _
      decide
    exact all q listed control
  · rw [if_neg one] at control
    have far : ∀ x ∈ headerRegs ++ regsOf .mbx i, ¬x.n ≤ 1 → 0x100 ≤ x.off := by
      show ∀ x ∈ headerRegs ++ mbxRegs, _
      decide
    have above := far q listed one
    have within : (off - q.off) / q.stride * q.stride ≤ off - q.off := Nat.div_mul_le_self ..
    rw [Nat.mod_eq_of_lt (by omega)] at control
    omega

theorem State.findReg_of_inPage {s : State} {b : Blk} {i x key : Nat} {h : Hit} (hit : s.inPage b i x key = .reg h) :
    h.b = b ∧ ∃ base, findReg h.b h.i x = some (h.r, base) ∧ h.base = h.b.at h.i base := by
  unfold State.inPage at hit
  split at hit
  · cases hit
  · split at hit
    · cases hit
    · split at hit
      · next r base found => cases hit; exact ⟨rfl, base, found, rfl⟩
      · cases hit

/-- Where a write reaches a register, the page's list holds it. -/
theorem State.findReg_of_target {s : State} {o : Origin} {off : Nat} {h : Hit} (target : s.target o off = .reg h) (notFn : h.b ≠ .fn) :
    ∃ x base, x < 0x1000 ∧ findReg h.b h.i x = some (h.r, base) ∧ h.base = h.b.at h.i base := by
  have low : off % 0x1000 < 0x1000 := Nat.mod_lt _ (by decide)
  unfold State.target at target
  split at target
  · split at target
    · cases target
    · split at target
      · cases target
      · dsimp only at target
        split at target
        · split at target
          · exact absurd (State.findReg_of_inPage target).1 notFn
          · exact ⟨_, (State.findReg_of_inPage target).2.imp fun _ found => ⟨low, found⟩⟩
        · cases target
  · split at target
    · cases target
    · split at target
      · cases target
      · exact ⟨_, (State.findReg_of_inPage target).2.imp fun _ found => ⟨low, found⟩⟩

/-- The refusal of a write shows in no status register but those of the pages with such commands, and of a mailbox's control word. -/
theorem State.markRefused_of_plain (s : State) {w : RegWrite} (plain : w.h.b ∉ [.dbg, .hbm, .xlt, .fn, .evq, .hlth])
    (notControl : ¬(w.h.b = .mbx ∧ w.h.base % 0x1000 = 0x040)) : s.markRefused w = s := by
  simp only [List.mem_cons, List.not_mem_nil, or_false, not_or] at plain
  obtain ⟨dbg, hbm, xlt, fn, evq, hlth⟩ := plain
  unfold State.markRefused
  dsimp only
  split
  · next is _ => exact absurd is dbg
  · next is _ => exact absurd is dbg
  · next is _ => exact absurd is hbm
  · next is _ => exact absurd is xlt
  · next is _ => exact absurd is fn
  · next is _ => exact absurd is evq
  · next is _ => exact absurd is hlth
  · next is at_ => exact absurd ⟨is, at_⟩ notControl
  · rfl

/-- Settles O37: a write to a register that is only read, or locked, is recorded as refused. -/
theorem refusedWritesAreRecorded : Obligations.RefusedWritesAreRecorded := by
  unfold Obligations.RefusedWritesAreRecorded
  intro s o off v h ready reaches aligned small target whole size plain forbidden
  let w : RegWrite := { o, h, v := v.toNat }
  have refused : s.regPut w = s.refuseReg w := by
    unfold State.regPut
    dsimp only
    refine if_pos ?_
    rcases forbidden with readOnly | ⟨lock, -, mask⟩
    · rw [show w.h.r.readOnly = true from readOnly]
      rfl
    · have locked : ((s.page (w.h.b.page + w.h.i)).lock && (w.h.r.mask (· == .rwL) &&& w.bm) != 0) = true := by
        rw [show (s.page (w.h.b.page + w.h.i)).lock = true from lock, Bool.true_and]
        exact bne_iff_ne.mpr mask
      rw [locked, Bool.or_true]
  have notControl : ¬(w.h.b = .mbx ∧ w.h.base % 0x1000 = 0x040) := by
    rintro ⟨isMbx, at_⟩
    change h.b = .mbx at isMbx
    obtain ⟨x, base, low, found, is⟩ := State.findReg_of_target target (by rw [isMbx]; decide)
    rw [isMbx] at found
    have control : base % 0x1000 = 0x040 := by
      change h.base % 0x1000 = 0x040 at at_
      rw [is, Blk.at, Nat.mul_add_mod] at at_
      exact at_
    have flds := flds_of_mbxControl found low control
    rcases forbidden with readOnly | ⟨-, lockable, -⟩
    · rw [Reg.readOnly, flds] at readOnly
      exact absurd readOnly (by decide)
    · rw [flds] at lockable
      exact absurd lockable (by decide)
  refine ⟨w.cut (s.value w.o w.h), ?_⟩
  show done (s.busWrite o off false v.toNat) = _
  rw [State.busWrite_of_reg ready reaches aligned small target whole size]
  show done (s.regPut w) = _
  rw [refused, State.refuseReg, State.markRefused_of_plain s plain notControl, RegWrite.addr_of_whole rfl]
  rfl

/-! ### Commands: writes of registers that are written only (00 R12; 17 R446) -/

theorem pageOf_bound {pg i : Nat} {b : Blk} (page : pageOf pg = some (b, i)) : pg < 0x400 ∧ pg = b.page + i := by
  unfold pageOf at page
  rw [Option.map_eq_some_iff] at page
  obtain ⟨c, found, same⟩ := page
  obtain ⟨rfl, rfl⟩ := Prod.mk.inj same
  have within := List.find?_some found
  simp only [Bool.and_eq_true, decide_eq_true_eq] at within
  have bound : ∀ b ∈ Blk.all, b.page + b.count ≤ 0x400 := by decide
  have := bound c (List.mem_of_find?_eq_some found)
  omega

/-- The register at offset `x` of a page, in PF0's window. -/
def hitAt (b : Blk) (i x : Nat) (r : Reg) : Hit := { b, i, r, base := b.at i x, a := b.at i x, key := b.at i x }

theorem hitAt_base_mod {b : Blk} {i x : Nat} (r : Reg) (low : x < 0x1000) : (hitAt b i x r).base % 0x1000 = x := by
  show (0x1000 * (b.page + i) + x) % 0x1000 = x
  rw [Nat.mul_add_mod, Nat.mod_eq_of_lt low]

/-- What lies at an offset of PF0's window, for every origin but a VF (17 R436, R437). -/
theorem State.target_of_page {s : State} {o : Origin} {b : Blk} {i x : Nat} {r : Reg} (own : ∀ n, o ≠ .vf n)
    (page : pageOf (b.page + i) = some (b, i)) (there : s.instThere b i = true) (low : x < 0x1000) (notShaper : ¬(b = .shp ∧ 0xC00 ≤ x))
    (reg : findReg b i x = some (r, x)) : s.target o (b.at i x) = .reg (hitAt b i x r) := by
  have number : b.at i x / 0x1000 = b.page + i := by unfold Blk.at; omega
  have offset : b.at i x % 0x1000 = x := by unfold Blk.at; omega
  have window : ¬0x4000000 ≤ b.at i x := by
    have := (pageOf_bound page).1
    unfold Blk.at
    omega
  have inside : s.inPage b i x 0 = .reg (hitAt b i x r) := by
    unfold State.inPage
    rw [there, reg, if_neg (by simp), if_neg (fun h => notShaper ⟨h.1, h.2.2⟩)]
    simp only [hitAt, Nat.zero_add]
  unfold State.target
  split
  · next n => exact absurd rfl (own n)
  · rw [if_neg window, number, page, offset]
    exact inside

/-- The low bits of a register after a write of its low half are those written. -/
theorem bits_merge {x v hi lo : Nat} (small : v < 2 ^ 32) (order : lo ≤ hi) (within : hi < 32) :
    bits (merge x v (2 ^ 32 - 1)) hi lo = bits v hi lo := by
  have kept : merge x v (2 ^ 32 - 1) = 2 ^ 32 * (x / 2 ^ 32) + v := by
    unfold merge without
    rw [Nat.and_two_pow_sub_one_eq_mod, Nat.and_two_pow_sub_one_eq_mod, Nat.mod_eq_of_lt small]
    omega
  obtain ⟨a, rfl⟩ := Nat.exists_eq_add_of_le order
  obtain ⟨n, sum⟩ : ∃ n, 32 = lo + (a + 1) + n := ⟨32 - (lo + (a + 1)), by omega⟩
  rw [kept]
  unfold bits
  rw [Nat.shiftRight_eq_div_pow, Nat.shiftRight_eq_div_pow, sum, Nat.pow_add, Nat.pow_add, Nat.mul_assoc, Nat.mul_assoc,
    Nat.mul_add_div (Nat.two_pow_pos lo), Nat.add_sub_cancel_left, Nat.mul_assoc, Nat.mul_add_mod]

/-- Is this a register of 4 bytes in which a write starts a command and stores nothing? -/
def Reg.isCommand (r : Reg) : Bool :=
  r.size == 4 && !r.readOnly && r.mask (· == .rwL) == 0 && r.later == 0 && r.now == 0
    && ((r.mask fun a => a != .ro && a != .rc && a != .rwT) &&& (2 ^ 32 - 1)) != 0
    && r.flds.all fun x => decide (x.lo ≤ x.hi) && decide (x.hi < 32)

/-- Such a register at offset `x` of a page, which this origin may write. -/
def commandAt (o : Origin) (b : Blk) (i x : Nat) (r : Reg) : Bool :=
  pageOf (b.page + i) == some (b, i) && decide (x < 0x1000) && decide (x % 4 = 0) && !(b == .shp && decide (0xC00 ≤ x))
    && findReg b i x == some (r, x) && mayWrite o b i x && r.isCommand

/-- A command whose value keeps to its fields is legal (00 R14). -/
theorem Reg.legal_of_command {r : Reg} {v : Nat} (x : Nat) (command : r.isCommand = true) (small : v < 2 ^ 32)
    (reserved : v &&& (2 ^ 32 - 1 - r.mask fun _ => true) = 0) (ranges : ∀ y ∈ r.flds, y.rng.ok (bits v y.hi y.lo) = true) :
    r.legal (2 ^ 32 - 1) v (merge x v (2 ^ 32 - 1)) = true := by
  unfold Reg.isCommand at command
  simp only [Bool.and_eq_true, beq_iff_eq, List.all_eq_true, decide_eq_true_eq] at command
  obtain ⟨⟨⟨⟨⟨⟨size, -⟩, -⟩, -⟩, -⟩, -⟩, fields⟩ := command
  unfold Reg.legal
  rw [size, Nat.and_two_pow_sub_one_eq_mod, Nat.mod_eq_of_lt small, show 8 * 4 = 32 from rfl, reserved]
  simp only [beq_self_eq_true, Bool.true_and, List.all_eq_true]
  intro y hy
  rw [bits_merge small (fields y hy).1 (fields y hy).2, ranges y hy, Bool.or_true]

/-- The write of a command. -/
def commandWrite (o : Origin) (b : Blk) (i x : Nat) (r : Reg) (v : Nat) : RegWrite := { o, h := hitAt b i x r, v }

theorem merge_none (x v : Nat) : merge x v 0 = x := by
  unfold merge without
  rw [Nat.and_zero, Nat.and_zero, Nat.sub_zero, Nat.add_zero]

/-- A command that is written meets its register, and does at once what it does. -/
theorem State.busWrite_of_command {s : State} {o : Origin} {b : Blk} {i x : Nat} {r : Reg} {v : Nat} (ready : s.commandable)
    (own : ∀ n, o ≠ .vf n) (reaches : s.reaches o = true) (there : s.instThere b i = true) (at_ : commandAt o b i x r = true)
    (small : v < 2 ^ 32) (reserved : v &&& (2 ^ 32 - 1 - r.mask fun _ => true) = 0)
    (ranges : ∀ y ∈ r.flds, y.rng.ok (bits v y.hi y.lo) = true) :
    s.busWrite o (b.at i x) false v = s.applyNow (commandWrite o b i x r v) false := by
  unfold commandAt at at_
  simp only [Bool.and_eq_true, beq_iff_eq, decide_eq_true_eq, Bool.not_eq_true', Bool.and_eq_false_iff, beq_eq_false_iff_ne,
    decide_eq_false_iff_not] at at_
  obtain ⟨⟨⟨⟨⟨⟨page, low⟩, aligned⟩, notShaper⟩, reg⟩, may⟩, command⟩ := at_
  have legal := Reg.legal_of_command (s.reg (b.at i x)) command small reserved ranges
  unfold Reg.isCommand at command
  simp only [Bool.and_eq_true, beq_iff_eq, Bool.not_eq_true', bne_iff_ne] at command
  obtain ⟨⟨⟨⟨⟨⟨size, writable⟩, lockable⟩, later⟩, now⟩, some_⟩, -⟩ := command
  have whole : (b.at i x) % 4 = 0 := by unfold Blk.at; omega
  rw [State.busWrite_of_reg ready reaches whole small (State.target_of_page own page there low (Classical.not_and_iff_not_or_not.mpr notShaper) reg) rfl size]
  refine State.regPut_of_allowed (w := commandWrite o b i x r v) ready.1 writable ?_ legal ?_ ?_ ?_
  · show mayWrite o b i ((hitAt b i x r).base % 0x1000) = true
    rw [hitAt_base_mod r low]
    exact may
  · show (_ && (r.mask _ &&& _) != 0) = false
    rw [lockable, Nat.zero_and]
    exact Bool.and_false _
  · show (r.later &&& _) = 0
    rw [later, Nat.zero_and]
  · exact some_

/-- A command does what its register does, and is recorded (15 R407; 17 R446). -/
theorem performs_of_command {c : Instr} {s u : State} {o : Origin} {b : Blk} {i x : Nat} (r : Reg) {v : Nat} (ready : s.commandable)
    (own : ∀ n, o ≠ .vf n) (reaches : s.reaches o = true) (run : exec c s = done (s.busWrite o (b.at i x) false v))
    (there : s.instThere b i = true) (at_ : commandAt o b i x r = true) (body : 0x40 ≤ x) (notMailbox : b ≠ .mbx)
    (loud : (r.flds.all fun x => x.acc == .w1c) = false) (small : v < 2 ^ 32)
    (reserved : v &&& (2 ^ 32 - 1 - r.mask fun _ => true) = 0) (ranges : ∀ y ∈ r.flds, y.rng.ok (bits v y.hi y.lo) = true)
    (ok : s.writeOk (commandWrite o b i x r v) (s.reg (b.at i x)) (s.reg (b.at i x)) = true)
    (effect : State.effect s s (commandWrite o b i x r v) (s.reg (b.at i x)) v = some u) : Performs c s u := by
  have applies := State.busWrite_of_command ready own reaches there at_ small reserved ranges
  unfold commandAt at at_
  simp only [Bool.and_eq_true, decide_eq_true_eq] at at_
  obtain ⟨⟨⟨⟨⟨⟨-, low⟩, -⟩, -⟩, -⟩, -⟩, command⟩ := at_
  unfold Reg.isCommand at command
  simp only [Bool.and_eq_true, beq_iff_eq] at command
  obtain ⟨⟨⟨-, now⟩, -⟩, -⟩ := command
  have mask : (commandWrite o b i x r v).h.r.now &&& (commandWrite o b i x r v).bm = 0 := by
    show r.now &&& _ = 0
    rw [now, Nat.zero_and]
  obtain ⟨a, -, -, -, is⟩ := State.applyNow_of_effect (w := commandWrite o b i x r v) (u := u)
    (by rw [mask, merge_none]; exact ok) (fun h => notMailbox h.1) loud (by
      dsimp only
      rw [if_pos mask, if_neg (by rw [show (commandWrite o b i x r v).h.base % 0x1000 = x from hitAt_base_mod r low]; omega)]
      show State.effect s s _ _ (v &&& (2 ^ 32 - 1)) = some u
      rw [Nat.and_two_pow_sub_one_eq_mod, Nat.mod_eq_of_lt small]
      exact effect)
  exact ⟨a, by rw [run, applies, is]; rfl⟩

theorem State.reaches_pf0 {s : State} (ready : s.commandable) : s.reaches .pf0 = true := by
  obtain ⟨-, stage, rom, -, -⟩ := ready
  unfold State.reaches
  rw [rom, decide_eq_true stage]
  rfl

end Sys2Proof.Machine
end

section
/-! PROOFS. Page headers (17_register_reference.md R440, R442, R443). -/

namespace Sys2Proof.Machine

/-! ### Commits, locks and interrupt bits of a page header (17 R440, R442, R443; 02 R45) -/

theorem mayWrite_pf0_header {b : Blk} {i x : Nat} (header : x < 0x40) : mayWrite .pf0 b i x = true := by
  unfold mayWrite
  simp only [Bool.and_eq_true, Bool.not_eq_true', Bool.and_eq_false_iff, beq_eq_false_iff_ne, ite_true, if_false, Bool.false_eq_true]
  exact ⟨.inr (by omega), .inr (by omega)⟩

/-- The write registers of a page header are commands of every page. -/
theorem commandAt_header {b : Blk} {i x : Nat} {r : Reg} (page : pageOf (b.page + i) = some (b, i)) (header : x < 0x40) (aligned : x % 4 = 0)
    (reg : findReg b i x = some (r, x)) (command : r.isCommand = true) : commandAt .pf0 b i x r = true := by
  unfold commandAt
  rw [page, reg, mayWrite_pf0_header header, command]
  simp [aligned]
  omega

/-- The value of a header register is checked by no rule of its block. -/
theorem State.writeOk_header {s : State} {w : RegWrite} (old full : Nat) (header : w.h.base % 0x1000 < 0x40) : s.writeOk w old full = true := by
  unfold State.writeOk
  generalize w.h.base % 0x1000 = x at *
  dsimp only
  have plumb : x ≠ 0x068 ∧ ¬0x050 ≤ x := by omega
  have words : x ≠ 0x048 ∧ x ≠ 0x800 ∧ x ≠ 0x050 ∧ x ≠ 0x040 ∧ x ≠ 0x044 := by omega
  have rings : x < 0x100 ∧ ¬0x100 ≤ x := by omega
  split <;> simp [plumb, words, rings]

/-- A value is kept within 32 bits. -/
theorem isLt_word (v : W32) : v.toNat < 2 ^ 32 := v.isLt

/-- The effect of a header command, with its record. -/
theorem performs_of_header {c : Instr} {s u : State} {b : Blk} {i x v : Nat} (r : Reg) (ready : s.commandable)
    (page : pageOf (b.page + i) = some (b, i)) (there : s.instThere b i = true) (header : x < 0x40) (aligned : x % 4 = 0)
    (reg : findReg b i x = some (r, x)) (command : r.isCommand = true) (loud : (r.flds.all fun x => x.acc == .w1c) = false)
    (run : exec c s = done (s.busWrite .pf0 (b.at i x) false v)) (small : v < 2 ^ 32)
    (reserved : v &&& (2 ^ 32 - 1 - r.mask fun _ => true) = 0) (ranges : ∀ y ∈ r.flds, y.rng.ok (bits v y.hi y.lo) = true)
    (effect : s.headerWrite (commandWrite .pf0 b i x r v) = some u) : Performs c s u := by
  have low : x < 0x1000 := by omega
  have base : (commandWrite .pf0 b i x r v).h.base % 0x1000 = x := hitAt_base_mod r low
  have applies := State.busWrite_of_command ready (by simp) (State.reaches_pf0 ready) there
    (commandAt_header page header aligned reg command) small reserved ranges
  unfold Reg.isCommand at command
  simp only [Bool.and_eq_true, beq_iff_eq] at command
  obtain ⟨⟨⟨-, now⟩, -⟩, -⟩ := command
  have mask : (commandWrite .pf0 b i x r v).h.r.now &&& (commandWrite .pf0 b i x r v).bm = 0 := by
    show r.now &&& _ = 0
    rw [now, Nat.zero_and]
  obtain ⟨a, -, -, -, is⟩ := State.applyNow_of_effect (w := commandWrite .pf0 b i x r v) (u := u)
    (State.writeOk_header _ _ (by omega)) (fun h => by omega) loud (by
      dsimp only
      rw [if_pos mask, if_pos (by omega)]
      exact effect)
  exact ⟨a, by rw [run, applies, is]; rfl⟩

section
variable (s : State) (b : Blk) (i : Nat) (r : Reg) (v : Nat)

theorem State.headerWrite_commit : s.headerWrite (commandWrite .pf0 b i 0x02C r v) = s.arm (b.page + i) v := by
  unfold State.headerWrite
  rw [show (commandWrite .pf0 b i 0x02C r v).h.base % 0x1000 = 0x02C from hitAt_base_mod r (by decide)]
  rfl

theorem State.headerWrite_lock : s.headerWrite (commandWrite .pf0 b i 0x024 r v) = s.setLock (b.page + i) v := by
  unfold State.headerWrite
  rw [show (commandWrite .pf0 b i 0x024 r v).h.base % 0x1000 = 0x024 from hitAt_base_mod r (by decide)]
  rfl

theorem State.headerWrite_force : s.headerWrite (commandWrite .pf0 b i 0x018 r v) = some (s.irqForce b i v) := by
  unfold State.headerWrite
  rw [show (commandWrite .pf0 b i 0x018 r v).h.base % 0x1000 = 0x018 from hitAt_base_mod r (by decide)]
  rfl

theorem State.headerWrite_clear : s.headerWrite (commandWrite .pf0 b i 0x010 r v) = some (s.irqClear (b.page + i) v) := by
  unfold State.headerWrite
  rw [show (commandWrite .pf0 b i 0x010 r v).h.base % 0x1000 = 0x010 from hitAt_base_mod r (by decide)]
  rfl

end

theorem ranges_of_any {r : Reg} (v : Nat) (any : ∀ y ∈ r.flds, y.rng = .any) : ∀ y ∈ r.flds, y.rng.ok (bits v y.hi y.lo) = true :=
  fun y hy => by rw [any y hy]; rfl

/-- Interrupt bits are numbered from 1 (17 R440). -/
theorem reserved_irqBits {v : W32} (bit : v.getLsbD 0 = false) (acc : Acc) :
    v.toNat &&& (2 ^ 32 - 1 - Reg.mask { off := 0, flds := [f 1 31 acc] } fun _ => true) = 0 := by
  rw [show 2 ^ 32 - 1 - Reg.mask { off := 0, flds := [f 1 31 acc] } (fun _ => true) = 1 from by cases acc <;> decide, Nat.and_one_is_mod]
  rw [BitVec.getLsbD, Nat.testBit_zero, decide_eq_false_iff_not] at bit
  omega

/-- A write that carries only bits of status is not recorded (15 R407). -/
theorem State.applyNow_of_quiet {s u : State} {w : RegWrite} (ok : s.writeOk w (s.reg w.h.key) (merge (s.reg w.h.key) w.new 0) = true)
    (mask : w.h.r.now &&& w.bm = 0) (header : w.h.base % 0x1000 < 0x40) (quiet : w.quiet = true) (effect : s.headerWrite w = some u) :
    s.applyNow w false = u := by
  unfold State.applyNow
  dsimp only
  rw [mask, ok, if_neg (c := w.h.b = .mbx ∧ _) (fun h => by omega), if_pos header]
  simp only [Bool.not_true, Bool.false_eq_true, if_false, if_true]
  rw [effect]
  simp only [quiet, if_true]

/-- Clearing interrupt bits changes their page, and is not recorded (15 R407; 17 R442). -/
theorem irqStatClear_next {s : State} {b : Blk} {i : Nat} {v : W32} (ready : s.commandable) (page : pageOf (b.page + i) = some (b, i))
    (there : s.instThere b i = true) (bit : v.getLsbD 0 = false) :
    exec (.blkIrqStatClear .pf0 (b.page + i) v) s = .next (settle (s.irqClear (b.page + i) v.toNat)) := by
  have applies := State.busWrite_of_command (v := v.toNat) ready (by simp) (State.reaches_pf0 ready) there
    (commandAt_header (r := { off := 0x010, flds := [f 1 31 .w1c] }) page (show 0x010 < 0x40 by decide) (by decide) rfl (by decide)) v.isLt
    (reserved_irqBits bit .w1c) (ranges_of_any _ (by decide))
  have header : (commandWrite .pf0 b i 0x010 { off := 0x010, flds := [f 1 31 .w1c] } v.toNat).h.base % 0x1000 < 0x40 := by
    rw [show (commandWrite .pf0 b i 0x010 { off := 0x010, flds := [f 1 31 .w1c] } v.toNat).h.base % 0x1000 = 0x010 from
      hitAt_base_mod _ (by decide)]
    decide
  have quiet := State.applyNow_of_quiet (s := s) (w := commandWrite .pf0 b i 0x010 { off := 0x010, flds := [f 1 31 .w1c] } v.toNat)
    (State.writeOk_header _ _ header)
    (show Reg.now { off := 0x010, flds := [f 1 31 .w1c] } &&& ((2 ^ 32 - 1) <<< 0) = 0 by decide) header rfl (State.headerWrite_clear ..)
  exact congrArg done (applies.trans quiet)

/-- Settles O39: commits, locks and interrupt bits of a page header. -/
theorem headerCommands : Obligations.HeaderCommands := by
  unfold Obligations.HeaderCommands
  intro s pg b i ready page there
  obtain ⟨-, rfl⟩ := pageOf_bound page
  refine ⟨?_, fun notDust => ?_, fun v bit => ⟨?_, ?_⟩⟩
  · refine performs_of_header (x := 0x2C) (v := 0) (r32 0x02C .wo) ready page there (by decide) (by decide) rfl
      (by decide) (by decide) rfl (by decide) (by decide) (by decide) ?_
    rw [State.headerWrite_commit]
    rfl
  · refine performs_of_header (x := 0x24) (v := 1) { off := 0x024, flds := [f 0 0 .w1s] } ready page there (by decide) (by decide) rfl
      (by decide) (by decide) rfl (by decide) (by decide) (by decide) ?_
    rw [State.headerWrite_lock]
    have other : ¬b.page + i = Blk.dust.page := fun same => by
      rw [same] at page
      exact notDust (Prod.mk.inj (Option.some.inj page)).1.symm
    unfold State.setLock
    rw [if_neg (by decide), if_neg (fun both => other both.1)]
  · rw [irqStatClear_next ready page there bit, State.irqClear, BitVec.ofNat_toNat, BitVec.setWidth_eq]
    rfl
  · refine performs_of_header (x := 0x18) (v := v.toNat) { off := 0x018, flds := [f 1 31 .w1s] } ready page there (by decide) (by decide) rfl
      (by decide) (by decide) rfl v.isLt (reserved_irqBits bit .w1s) (ranges_of_any _ (by decide)) (State.headerWrite_force ..)

end Sys2Proof.Machine
end

section
/-! PROOFS. The commands of the record, health, heartbeat, scheduler and Plumb pages. -/

namespace Sys2Proof.Machine

/-! ### The commands of the record, health, heartbeat, scheduler and Plumb pages -/

section
variable (o : Origin) (b : Blk) (i : Nat) {x : Nat} (r : Reg) (v : Nat)

@[simp] theorem commandWrite_o : (commandWrite o b i x r v).o = o := rfl
@[simp] theorem commandWrite_b : (commandWrite o b i x r v).h.b = b := rfl
@[simp] theorem commandWrite_i : (commandWrite o b i x r v).h.i = i := rfl
theorem commandWrite_base (low : x < 0x1000) : (commandWrite o b i x r v).h.base % 0x1000 = x := hitAt_base_mod r low

end

theorem bits_low {v n : Nat} (hi : Nat) (fits : v < 2 ^ (hi + 1)) : bits (v + 2 ^ (hi + 1) * n) hi 0 = v := by
  unfold bits
  rw [Nat.shiftRight_zero, Nat.sub_zero, Nat.add_mul_mod_self_left, Nat.mod_eq_of_lt fits]

theorem State.reaches_core {s : State} {n : Nat} (ready : s.commandable) (low : n < 16) (online : s.coreOnline n = true) :
    s.reaches (.core n) = true := by
  show (decide (2 ≤ s.boot.stage) && decide (n < 16) && s.coreOnline n) = true
  rw [online, decide_eq_true ready.2.1, decide_eq_true low]
  rfl

/-- EVR_CFG (15 R403). -/
def evrCfg : Reg := { off := 0x040, flds := [f 0 0 .rw, f 8 12 .rw 20 (.span 10 24)] }

theorem evrCfg_fields : ∀ n < 25, 10 ≤ n → ∀ was on : Bool,
    evrCfg.legal (2 ^ 32 - 1) (256 * n + b2n on) (merge (256 * n + b2n was) (256 * n + b2n on) (2 ^ 32 - 1)) = true
    ∧ merge (256 * n + b2n was) (256 * n + b2n on) (evrCfg.now &&& (2 ^ 32 - 1)) = 256 * n + b2n on
    ∧ bitAt ((256 * n + b2n on) &&& (2 ^ 32 - 1)) 0 = on ∧ (256 * n + b2n was) / 2 * 2 + b2n on = 256 * n + b2n on := by decide

/-- EVR_CFG as software writes it: the freeze bit, and the limit in its range (15 R403). -/
theorem freezeWrite_performs {s : State} {n : Nat} {was : Bool} (on : Bool) {c : Instr} (ready : s.commandable) (low : 10 ≤ n) (high : n ≤ 24)
    (holds : s.reg 0x6040 = 256 * n + b2n was) (run : exec c s = freezeWrite .pf0 on s) :
    Performs c s (if on then (s.setReg 0x6040 (256 * n + b2n on)).freeze else (s.setReg 0x6040 (256 * n + b2n on)).unfreeze) := by
  obtain ⟨legal, full, bit, value⟩ := evrCfg_fields n (by omega) low was on
  have small : 256 * n + b2n on < 2 ^ 32 := by cases on <;> simp [b2n] <;> omega
  have written : exec c s = done (s.busWrite .pf0 (Blk.evr.at 0 0x040) false (256 * n + b2n on)) := by
    rw [run, freezeWrite, holds, value]
    rfl
  have target := State.target_of_page (s := s) (o := .pf0) (b := .evr) (i := 0) (x := 0x040) (r := evrCfg) (by simp) (by decide) rfl
    (by decide) (by decide) (by decide)
  have met := State.busWrite_of_reg ready (State.reaches_pf0 ready) (by decide) small target rfl rfl
  let w := commandWrite .pf0 .evr 0 0x040 evrCfg (256 * n + b2n on)
  have base : w.h.base % 0x1000 = 0x040 := commandWrite_base _ _ _ _ _ (by decide)
  have mask : w.h.r.now &&& w.bm = evrCfg.now &&& (2 ^ 32 - 1) := rfl
  have stores : evrCfg.now &&& (2 ^ 32 - 1) ≠ 0 := by decide
  have old : s.reg w.h.key = 256 * n + b2n was := holds
  have new : w.new = 256 * n + b2n on := rfl
  have bm : w.bm = 2 ^ 32 - 1 := rfl
  have put : s.regPut w = s.applyNow w false := by
    refine State.regPut_of_allowed ready.1 (show evrCfg.readOnly = false by decide) (by rw [base]; rfl) (by rw [old, new, bm]; exact legal) ?_
      (show evrCfg.later &&& (2 ^ 32 - 1) = 0 by decide)
      (show (evrCfg.mask fun a => a != .ro && a != .rc && a != .rwT) &&& (2 ^ 32 - 1) ≠ 0 by decide)
    rw [show w.h.r.mask (· == .rwL) = 0 from (by decide : evrCfg.mask (· == .rwL) = 0), Nat.zero_and]
    exact Bool.and_false _
  obtain ⟨a, -, -, -, is⟩ := State.applyNow_of_effect (s := s) (w := w)
    (u := if on then (s.setReg 0x6040 (256 * n + b2n on)).freeze else (s.setReg 0x6040 (256 * n + b2n on)).unfreeze)
    rfl (fun h => absurd (show Blk.evr = .mbx from h.1) (by decide)) (show (evrCfg.flds.all fun x => x.acc == .w1c) = false by decide) (by
      dsimp only
      rw [mask, if_neg stores, base, if_neg (by decide), old, new, bm, full]
      simp only [State.effect, base, show w.h.b = .evr from rfl, if_true]
      rw [bit]
      cases on <;> rfl)
  exact ⟨a, by rw [written, met]; exact congrArg done (put.trans is)⟩

/-- EVR_FLUSH (15 R405). -/
theorem evrFlush_performs {s : State} (ready : s.commandable) : Performs (.evrFlush .pf0) s (s.startFlush none false) :=
  performs_of_command (b := .evr) (i := 0) (x := 0x044) (v := 1) { off := 0x044, flds := [f 0 0 .wo] } ready (by simp)
    (State.reaches_pf0 ready) rfl rfl (by decide) (by decide) (by decide) (by decide) (by decide) (by decide) (by decide) rfl rfl

/-- HLTH_CMD (15 R400). -/
def hlthCmd : Reg := { off := 0x044, flds := [f 0 5 .wo, f 8 9 .wo, f 10 11 .wo 0 (.span 0 1), f 31 31 .wo] }

theorem hlthCmd_fields : ∀ i < 52, ∀ op < 2,
    (i + 256 * 0 + 1024 * op + 2 ^ 31) &&& (2 ^ 32 - 1 - hlthCmd.mask fun _ => true) = 0
    ∧ (∀ y ∈ hlthCmd.flds, y.rng.ok (bits (i + 256 * 0 + 1024 * op + 2 ^ 31) y.hi y.lo) = true)
    ∧ bits (i + 256 * 0 + 1024 * op + 2 ^ 31) 5 0 = i ∧ bits (i + 256 * 0 + 1024 * op + 2 ^ 31) 9 8 = 0
    ∧ bits (i + 256 * 0 + 1024 * op + 2 ^ 31) 11 10 = op := by decide

theorem hlthWrite_performs {c : Instr} {s u : State} {i op : Nat} (ready : s.commandable) (tile : i < 52) (known : op < 2)
    (run : exec c s = hlthWrite .pf0 0 i op s) (does : ∀ idle, hlthCommand s (i + 256 * 0 + 1024 * op + 2 ^ 31) idle = some u) : Performs c s u := by
  obtain ⟨reserved, ranges, -⟩ := hlthCmd_fields i tile op known
  exact performs_of_command (b := .hlth) (i := 0) (x := 0x044) hlthCmd ready (by simp) (State.reaches_pf0 ready) run rfl (by decide)
    (by decide) (by decide) (by decide) (by omega) reserved ranges rfl
    (by simpa [State.effect, commandWrite_base] using does _)

theorem hlthRetire_performs {s : State} {i : Nat} (ready : s.commandable) (tile : i < 52) (present : (s.tile i).role ≠ 4) :
    Performs (.hlthRetire .pf0 i) s (s.updTile i ({ · with retire := true })) := by
  obtain ⟨-, -, unit, kind, op⟩ := hlthCmd_fields i tile 1 (by decide)
  refine hlthWrite_performs (op := 1) ready tile (by decide) rfl fun idle => ?_
  unfold hlthCommand
  dsimp only
  rw [unit, kind, op]
  rw [if_neg (by omega), if_pos rfl, if_pos ⟨rfl, tile, present⟩]

theorem hlthTestNow_performs {s : State} {i : Nat} (ready : s.commandable) (tile : i < 52) (present : (s.tile i).role ≠ 4) :
    Performs (.hlthTestNow .pf0 0 i) s { (s.dueNow i 2) with hlth := { (s.dueNow i 2).hlth with cmd := some (0, i), outcome := 3 } } := by
  obtain ⟨-, -, unit, kind, op⟩ := hlthCmd_fields i tile 0 (by decide)
  refine hlthWrite_performs (op := 0) ready tile (by decide) rfl fun idle => ?_
  unfold hlthCommand
  dsimp only
  rw [unit, kind, op]
  rw [if_neg (by omega), if_neg (by decide), if_pos rfl, if_pos ⟨tile, present⟩]

theorem kick_reserved : ∀ tok < 256, tok &&& (2 ^ 32 - 1 - Reg.mask { off := 0, flds := [f 0 7 .wo] } fun _ => true) = 0 := by decide +kernel

/-- The heartbeat tokens that an island, for the link, and a core kick (16 R425). -/
theorem hbKick_performs {s : State} {tok : Nat} (ready : s.commandable) (byte : tok < 256) :
    Performs (.hbKickLink .island tok) s (s.kick false tok)
      ∧ ∀ n < 16, s.coreOnline n = true → Performs (.hbKickCore (.core n) tok) s (s.kick true tok) := by
  constructor
  · refine performs_of_command (b := .dust) (i := 0) (x := 0x064) { off := 0x064, flds := [f 0 7 .wo] } ready (by simp)
      (show s.reaches .island = true from decide_eq_true ready.2.1) rfl rfl (by decide) (by decide) (by decide) (by decide) (by omega) (kick_reserved tok byte)
      (ranges_of_any _ (by decide)) rfl ?_
    simp [State.effect, commandWrite_base, Nat.mod_eq_of_lt byte]
  · intro n low online
    have there : ∀ n < 16, commandAt (.core n) .dust 0 0x060 { off := 0x060, flds := [f 0 7 .wo] } = true := by decide
    refine performs_of_command (b := .dust) (i := 0) (x := 0x060) { off := 0x060, flds := [f 0 7 .wo] } ready (by simp)
      (State.reaches_core ready low online) rfl rfl (there n low) (by decide) (by decide) (by decide) (by omega) (kick_reserved tok byte)
      (ranges_of_any _ (by decide)) rfl ?_
    simp [State.effect, commandWrite_base, Nat.mod_eq_of_lt byte]

theorem cgCancel_performs {s : State} {g : Nat} (ready : s.commandable) (group : g < 16) : Performs (.cgCancel .pf0 g) s (s.cancelGroup g) := by
  have there : ∀ g < 16, commandAt .pf0 .sch 0 (0x400 + 0x40 * g + 0x24) { off := 0x424, n := 16, stride := 0x40, flds := [f 0 0 .wo] } = true := by
    decide
  refine performs_of_command (b := .sch) (i := 0) (x := 0x400 + 0x40 * g + 0x24) (v := 1) _ ready (by simp)
    (State.reaches_pf0 ready) rfl rfl (there g group) (by omega) (by decide) (by decide) (by decide) (by decide) (by decide) ?_ ?_
  · simp only [State.writeOk, commandWrite_b, commandWrite_base _ _ _ _ _ (show 0x400 + 0x40 * g + 0x24 < 0x1000 by omega), Bool.or_eq_true]
    exact .inl (bne_iff_ne.mpr (by omega))
  · simp only [State.effect, commandWrite_b, commandWrite_base _ _ _ _ _ (show 0x400 + 0x40 * g + 0x24 < 0x1000 by omega)]
    rw [if_neg (by omega), if_neg (by omega), if_pos (by omega), if_pos (by decide), show (0x400 + 0x40 * g + 0x24 - 0x400) / 0x40 = g by omega]

theorem domainResetStart_performs {s u : State} {g : Nat} (ready : s.commandable) (group : g < 16) (starts : s.domStart g = some u) :
    Performs (.domainResetStart .pf0 g) s u := by
  have fields : ∀ g < 16, (g + 2 ^ 31) &&& (2 ^ 32 - 1 - Reg.mask { off := 0x814, flds := [f 0 3 .wo, f 31 31 .wo] } fun _ => true) = 0
      ∧ (g + 2 ^ 31) % 16 = g ∧ bitAt (g + 2 ^ 31) 31 = true := by decide
  obtain ⟨reserved, group_, go⟩ := fields g group
  refine performs_of_command (b := .sch) (i := 0) (x := 0x814) (v := g + 2 ^ 31) { off := 0x814, flds := [f 0 3 .wo, f 31 31 .wo] } ready (by simp)
    (State.reaches_pf0 ready) rfl rfl (by decide) (by decide) (by decide) (by decide) (by omega) reserved (ranges_of_any _ (by decide))
    (by simp [State.writeOk, commandWrite_base]) ?_
  simp only [State.effect, commandWrite_b, commandWrite_base _ _ _ _ _ (show 0x814 < 0x1000 by decide)]
  rw [if_neg (by decide), if_pos trivial, if_pos go, group_, starts]
/-- A write of 8 bytes meets a register of 8 bytes whole (17 R444). -/
theorem State.busWrite_of_wideReg {s : State} {o : Origin} {off v : Nat} {h : Hit} (ready : s.commandable) (noHalf : s.halves = [])
    (reaches : s.reaches o = true) (aligned : off % 8 = 0) (target : s.target o off = .reg h) (size : h.r.size = 8) :
    s.busWrite o off true v = s.regPut { o, h, wide := true, v } := by
  obtain ⟨-, -, -, noneHeld, room⟩ := ready
  have notFull : (decide (1024 ≤ s.recs.audQueue.length) || !s.recs.heldWrites.isEmpty) = false := by
    simp [noneHeld, room]
  have whole : s.dropHalf o h = s := by rw [State.dropHalf, noHalf]; rfl
  have same : { s with halves := [] } = s := by rw [← noHalf]
  unfold State.busWrite
  rw [reaches, notFull]
  simp only [Bool.not_true, Bool.false_and, Bool.false_eq_true, if_false]
  unfold State.regWrite
  simp only [if_true, aligned, ne_eq, not_true_eq_false, if_false, Bool.not_true, Bool.false_eq_true, target, size, whole, noHalf,
    List.filter_nil, same]

theorem State.reg_lt (s : State) {a : Nat} (reset : resetAt a < 2 ^ 64) : s.reg a < 2 ^ 64 := by
  unfold State.reg
  cases s.regs.find a with
  | none => exact reset
  | some v => exact v.isLt

theorem merge_wide {x v : Nat} (old : x < 2 ^ 64) (new : v < 2 ^ 64) : merge x v (2 ^ 64 - 1) = v := by
  unfold merge without
  rw [Nat.and_two_pow_sub_one_eq_mod, Nat.and_two_pow_sub_one_eq_mod, Nat.mod_eq_of_lt old, Nat.mod_eq_of_lt new, Nat.sub_self,
    Nat.zero_add]

/-- A write of 8 bytes of a register whose bits all change at once. -/
theorem performs_of_wideWrite {c : Instr} {s u : State} {b : Blk} {i x : Nat} {r : Reg} {v : W64} (ready : s.commandable) (noHalf : s.halves = [])
    (run : exec c s = done (s.busWrite .pf0 (b.at i x) true v.toNat)) (page : pageOf (b.page + i) = some (b, i))
    (there : s.instThere b i = true) (body : 0x40 ≤ x) (low : x < 0x1000) (aligned : x % 8 = 0) (notShaper : b ≠ .shp) (notMailbox : b ≠ .mbx)
    (reg : findReg b i x = some (r, x)) (size : r.size = 8) (writable : r.readOnly = false) (may : mayWrite .pf0 b i x = true)
    (unlocked : (s.page (b.page + i)).lock = false ∨ r.mask (· == .rwL) = 0) (later : r.later = 0) (now : r.now = 2 ^ 64 - 1)
    (some_ : (r.mask fun a => a != .ro && a != .rc && a != .rwT) = 2 ^ 64 - 1) (loud : (r.flds.all fun x => x.acc == .w1c) = false)
    (whole : (r.mask fun _ => true) = 2 ^ 64 - 1) (any : ∀ y ∈ r.flds, y.rng = .any) (reset : resetAt (b.at i x) < 2 ^ 64)
    (ok : s.writeOk { o := .pf0, h := hitAt b i x r, wide := true, v := v.toNat } (s.reg (b.at i x)) v.toNat = true)
    (effect : State.effect s (s.setReg (b.at i x) v.toNat) { o := .pf0, h := hitAt b i x r, wide := true, v := v.toNat } (s.reg (b.at i x)) v.toNat
      = some u) : Performs c s u := by
  let w : RegWrite := { o := .pf0, h := hitAt b i x r, wide := true, v := v.toNat }
  have base : w.h.base % 0x1000 = x := hitAt_base_mod r low
  have bm : w.bm = 2 ^ 64 - 1 := rfl
  have new : w.new = v.toNat := rfl
  have mask : w.h.r.now &&& w.bm = 2 ^ 64 - 1 := by rw [bm, show w.h.r.now = _ from now]; rfl
  have full : merge (s.reg w.h.key) w.new (2 ^ 64 - 1) = v.toNat := merge_wide (s.reg_lt reset) v.isLt
  have target := State.target_of_page (s := s) (o := .pf0) (by simp) page there low (fun h => notShaper h.1) reg
  have met := State.busWrite_of_wideReg (v := v.toNat) ready noHalf (State.reaches_pf0 ready) (by unfold Blk.at; omega) target size
  have put : s.regPut w = s.applyNow w false := by
    refine State.regPut_of_allowed ready.1 writable (by rw [base]; exact may) ?_ ?_ ?_ ?_
    · show (_ && _) = true
      rw [show w.h.r.mask (fun _ => true) = _ from whole, show w.h.r.size = 8 from size]
      simp only [Nat.sub_self, Nat.and_zero, beq_self_eq_true, Bool.true_and, List.all_eq_true]
      intro y hy
      rw [any y hy]
      simp [Rng.ok]
    · rcases unlocked with free | plain
      · rw [show (s.page (w.h.b.page + w.h.i)).lock = false from free]
        rfl
      · rw [show w.h.r.mask (· == .rwL) = 0 from plain, Nat.zero_and]
        exact Bool.and_false _
    · rw [show w.h.r.later = 0 from later, Nat.zero_and]
    · rw [show (w.h.r.mask fun a => a != .ro && a != .rc && a != .rwT) = _ from some_, bm]
      decide
  obtain ⟨a, -, -, -, is⟩ := State.applyNow_of_effect (s := s) (u := u) (w := w) (by rw [mask, full]; exact ok) (fun h => notMailbox h.1) loud (by
    dsimp only
    rw [mask, if_neg (show ¬w.h.base % 0x1000 < 0x40 by omega), if_neg (by decide), full, bm, new, Nat.and_two_pow_sub_one_eq_mod, Nat.mod_eq_of_lt v.isLt]
    exact effect)
  exact ⟨a, by rw [run, met]; exact congrArg done (put.trans is)⟩

theorem snapshotArm_performs {s : State} {v : W64} (ready : s.commandable) (noHalf : s.halves = []) (ahead : s.tick < v.toNat) :
    Performs (.snapshotArm .pf0 v) s ((s.setReg 0xA800 v.toNat).setReg 0xA810 1) :=
  performs_of_wideWrite (b := .sch) (i := 0) (x := 0x800) (r := r64 0x800 .rw) ready noHalf rfl (by decide) rfl (by decide) (by decide)
    (by decide) (by decide) (by decide) (by decide) rfl (by decide) (by decide) (.inr (by decide)) (by decide) (by decide) (by decide) (by decide)
    (by decide) (by decide) (by decide) (by simp [State.writeOk, hitAt, Blk.at, Blk.page, Blk.code, ahead])
    (by simp [State.effect, hitAt, Blk.at, Blk.page, Blk.code])

theorem plumbLoad_performs {s : State} {v : W64} (ready : s.commandable) (noHalf : s.halves = []) (root : s.plumbRoot = true)
    (free : (s.page 1).lock = false) : Performs (.plumbLoad .pf0 v) s ((s.setReg 0x1068 v.toNat).stepTo v.toNat) :=
  performs_of_wideWrite (b := .plumb) (i := 0) (x := 0x068) (r := r64 0x068 .rwL) ready noHalf rfl (by decide) rfl (by decide) (by decide)
    (by decide) (by decide) (by decide) (by decide) rfl (by decide) (by decide) (.inl free) (by decide) (by decide) (by decide) (by decide)
    (by decide) (by decide) (by decide) (by simp [State.writeOk, hitAt, Blk.at, Blk.page, Blk.code, root])
    (by simp [State.effect, hitAt, Blk.at, Blk.page, Blk.code])

/-- Settles O40: the commands of the record, health, heartbeat, scheduler and Plumb pages. -/
theorem recordAndHealthCommands : Obligations.RecordAndHealthCommands := by
  unfold Obligations.RecordAndHealthCommands
  intro s ready noHalf
  exact ⟨fun n b low high holds => ⟨freezeWrite_performs true ready low high holds rfl, freezeWrite_performs false ready low high holds rfl⟩,
    evrFlush_performs ready,
    fun i tile present => ⟨hlthRetire_performs ready tile present, hlthTestNow_performs ready tile present⟩,
    fun tok byte => hbKick_performs ready byte,
    fun v ahead => snapshotArm_performs ready noHalf ahead,
    fun g group => ⟨cgCancel_performs ready group, fun u starts => domainResetStart_performs ready group starts⟩,
    fun v root free => plumbLoad_performs ready noHalf root free⟩

end Sys2Proof.Machine
end

section
/-! PROOFS. The commands of the translation, transport and key pages. -/

namespace Sys2Proof.Machine

/-!     rw [show 0 + 65536 * fn + 2 ^ 25 * (1 + 2 ^ 5 * b2n n + 2 ^ 6) = 65536 * fn + 2 ^ 25 + 2 ^ 30 * b2n n + 2 ^ 31 by omega]
    exact does
# The commands of the translation, transport and key pages (08 R230, R231; 09 R257, R261 to R264, R268, R271) -/

/-- A value of two parts keeps out of reserved bits where each part does. -/
theorem and_eq_zero_of_parts {a b m k : Nat} (low : a < 2 ^ k) (first : a &&& (m % 2 ^ k) = 0) (second : b &&& (m / 2 ^ k) = 0) :
    (a + 2 ^ k * b) &&& m = 0 := by
  apply Nat.eq_of_testBit_eq
  intro i
  rw [Nat.testBit_and, Nat.zero_testBit, Nat.add_comm, Nat.testBit_two_pow_mul_add _ low]
  split
  · next below =>
    have := congrArg (·.testBit i) first
    simpa [Nat.testBit_and, Nat.testBit_mod_two_pow, below] using this
  · next above =>
    have := congrArg (·.testBit (i - k)) second
    simpa [Nat.testBit_and, Nat.testBit_div_two_pow, Nat.sub_add_cancel (Nat.le_of_not_lt above)] using this

/-- Fields above a part of a value are fields of the other part. -/
theorem bits_high {a b k lo hi : Nat} (low : a < 2 ^ k) (above : k ≤ lo) : bits (a + 2 ^ k * b) hi lo = bits b (hi - k) (lo - k) := by
  obtain ⟨d, rfl⟩ := Nat.exists_eq_add_of_le above
  unfold bits
  rw [Nat.shiftRight_eq_div_pow, Nat.shiftRight_eq_div_pow, Nat.pow_add, ← Nat.div_div_eq_div_mul, Nat.add_mul_div_left _ _ (Nat.two_pow_pos k),
    Nat.div_eq_of_lt low, Nat.zero_add, Nat.add_sub_cancel_left, Nat.sub_sub]

theorem bitAt_high {a b k j : Nat} (low : a < 2 ^ k) (above : k ≤ j) : bitAt (a + 2 ^ k * b) j = bitAt b (j - k) := by
  unfold bitAt
  rw [Nat.add_comm, Nat.testBit_two_pow_mul_add _ low, if_neg (by omega)]

theorem Rng.ok_span {lo hi v : Nat} (low : lo ≤ v) (high : v ≤ hi) : (Rng.span lo hi).ok v = true := by
  show (decide (lo ≤ v) && decide (v ≤ hi)) = true
  rw [decide_eq_true low, decide_eq_true high]
  rfl

/-- XLT_INV_CMD (08 Table 8.6). -/
def xltInvCmd : Reg :=
  { off := 0x050, flds := [f 0 15 .wo, f 16 24 .wo, f 25 26 .wo 0 (.span 0 2), f 30 30 .wo, f 31 31 .wo] }

theorem xltInvCmd_fields : ∀ scope < 3, ∀ n : Bool,
    (scope + 2 ^ 5 * b2n n + 2 ^ 6) &&& ((2 ^ 32 - 1 - xltInvCmd.mask fun _ => true) / 2 ^ 25) = 0
    ∧ bits (scope + 2 ^ 5 * b2n n + 2 ^ 6) 1 0 = scope := by decide

theorem invWrite_performs {c : Instr} {s u : State} {tag fn scope : Nat} {n : Bool} (ready : s.commandable) (tagged : tag < 65536)
    (function : fn < 512) (known : scope < 3) (run : exec c s = invWrite .pf0 fn tag scope n s)
    (does : s.invCommand .pf0 0 (tag + 65536 * fn + 2 ^ 25 * (scope + 2 ^ 5 * b2n n + 2 ^ 6)) = some u) : Performs c s u := by
  have low : tag + 65536 * fn < 2 ^ 25 := by omega
  obtain ⟨reserved, named⟩ := xltInvCmd_fields scope known n
  have value : tag + 2 ^ 16 * fn + 2 ^ 25 * scope + 2 ^ 30 * b2n n + 2 ^ 31 = tag + 65536 * fn + 2 ^ 25 * (scope + 2 ^ 5 * b2n n + 2 ^ 6) := by
    omega
  have written : exec c s = done (s.busWrite .pf0 (Blk.xlt.at 0 0x050) false (tag + 65536 * fn + 2 ^ 25 * (scope + 2 ^ 5 * b2n n + 2 ^ 6))) := by
    rw [run, invWrite, value]
    rfl
  have flag : b2n n ≤ 1 := by cases n <;> decide
  refine performs_of_command xltInvCmd ready (by simp) (State.reaches_pf0 ready) written rfl (by decide) (by decide) (by decide)
    (by decide) (by omega) ?_ ?_ rfl ?_
  · exact and_eq_zero_of_parts low (by rw [show (2 ^ 32 - 1 - xltInvCmd.mask fun _ => true) % 2 ^ 25 = 0 by decide, Nat.and_zero]) reserved
  · have scopes := bits_high (hi := 26) (b := scope + 2 ^ 5 * b2n n + 2 ^ 6) low (Nat.le_refl 25)
    rw [show 26 - 25 = 1 from rfl, show 25 - 25 = 0 from rfl, named] at scopes
    intro y hy
    simp only [xltInvCmd, List.mem_cons, List.not_mem_nil, or_false] at hy
    rcases hy with rfl | rfl | rfl | rfl | rfl
    · rfl
    · rfl
    · exact Rng.ok_span (Nat.zero_le _) (Nat.le_trans (Nat.le_of_eq scopes) (by omega))
    · rfl
    · rfl
  · simp only [State.effect, commandWrite_b, commandWrite_o, commandWrite_base _ _ _ _ _ (show 0x050 < 0x1000 by decide), if_true]
    exact does

/-- PSL_CONN_CMD (09 Table 9.14). -/
def connCmd : Reg := { off := 0x044, flds := [f 0 19 .wo, f 24 26 .wo 0 (.span 0 4), f 31 31 .wo] }

theorem connCmd_fields : ∀ op < 5, (op + 2 ^ 7) &&& ((2 ^ 32 - 1 - connCmd.mask fun _ => true) / 2 ^ 24) = 0
    ∧ bits (op + 2 ^ 7) 2 0 = op ∧ bitAt (op + 2 ^ 7) 7 = true := by decide

theorem connWrite_performs {i : Instr} {s u : State} {c op : Nat} (ready : s.commandable) (number : c < 2 ^ 20) (known : op < 5)
    (run : exec i s = connWrite .pf0 c op s)
    (does : ∀ v, bits v 19 0 = c → bits v 26 24 = op → bitAt v 31 = true → s.connCommand 0 v = some u) : Performs i s u := by
  have low : c < 2 ^ 24 := by omega
  obtain ⟨reserved, named, go⟩ := connCmd_fields op known
  have value : c + 2 ^ 24 * op + 2 ^ 31 = c + 2 ^ 24 * (op + 2 ^ 7) := by omega
  have written : exec i s = done (s.busWrite .pf0 (Blk.psl.at 0 0x044) false (c + 2 ^ 24 * (op + 2 ^ 7))) := by
    rw [run, connWrite, value]
    rfl
  have isOp : bits (c + 2 ^ 24 * (op + 2 ^ 7)) 26 24 = op := (bits_high low (Nat.le_refl 24)).trans named
  refine performs_of_command connCmd ready (by simp) (State.reaches_pf0 ready) written rfl (by decide) (by decide) (by decide)
    (by decide) (by omega) ?_ ?_ rfl ?_
  · exact and_eq_zero_of_parts low (and_eq_zero_of_lt number (by decide)) reserved
  · intro y hy
    simp only [connCmd, List.mem_cons, List.not_mem_nil, or_false] at hy
    rcases hy with rfl | rfl | rfl
    · rfl
    · exact Rng.ok_span (Nat.zero_le _) (Nat.le_trans (Nat.le_of_eq isOp) (by omega))
    · rfl
  · simp only [State.effect, commandWrite_b, commandWrite_o, commandWrite_base _ _ _ _ _ (show 0x044 < 0x1000 by decide), if_true]
    refine does _ ?_ isOp ((bitAt_high low (by decide)).trans go)
    unfold bits
    rw [Nat.shiftRight_zero]
    omega

/-- PSL_MR_INV (09 R261). -/
def mrInvCmd : Reg := { off := 0x060, flds := [f 0 15 .wo, f 31 31 .wo] }

theorem mrInvalidate_performs {s : State} {i : Nat} (ready : s.commandable) (number : i < 65536) (idle : s.psl.mrInv = none) :
    Performs (.mrInvalidate .pf0 i) s (s.mrInvStart i) := by
  have low : i < 2 ^ 31 := by omega
  have value : i + 2 ^ 31 = i + 2 ^ 31 * 1 := by omega
  have reserved : (i + 2 ^ 31) &&& (2 ^ 32 - 1 - mrInvCmd.mask fun _ => true) = 0 := by
    rw [value]
    exact and_eq_zero_of_parts low (and_eq_zero_of_lt (n := 16) (by omega) (by decide)) (by decide)
  have go : bitAt (i + 2 ^ 31) 31 = true := by
    rw [value, bitAt_high low (Nat.le_refl 31)]
    decide
  refine performs_of_command (b := .psl) (i := 0) (x := 0x060) (v := i + 2 ^ 31) mrInvCmd ready (by simp) (State.reaches_pf0 ready) rfl rfl
    (by decide) (by decide) (by decide) (by decide) (by omega) reserved (ranges_of_any _ (by decide)) rfl ?_
  simp only [State.effect, commandWrite_b, commandWrite_base _ _ _ _ _ (show 0x060 < 0x1000 by decide)]
  rw [if_neg (by decide), if_pos trivial, go, if_neg (by decide), if_neg (by rw [idle]; decide), show (i + 2 ^ 31) % 65536 = i by omega]

theorem xltFaultAck_performs {s : State} (ready : s.commandable) : Performs (.xltFaultAck .pf0) s (s.faultAck 0) :=
  performs_of_command (b := .xlt) (i := 0) (x := 0x070) (v := 1) { off := 0x070, flds := [f 0 0 .wo] } ready (by simp)
    (State.reaches_pf0 ready) rfl rfl (by decide) (by decide) (by decide) (by decide) (by decide) (by decide) (by decide) rfl
    (by simp [State.effect, commandWrite_base, winOf, bitAt])

/-- A key's epoch is staged, and the derivation of its key begins (09 R268). -/
theorem sealEpochStage_next {s : State} {n : Nat} (ready : s.commandable) (entry : n < 512) (epoch : W32) :
    exec (.sealEpochStage .pf0 n epoch) s = .next (settle
      ((s.updPage 15 fun g => { g with staged := g.staged ++ [{ org := .pf0, off := 0xF800 + 4 * n, wide := false, val := epoch.toNat }] }).updPsl
        fun p => { p with
          deriving_ := (p.deriving_.filter fun d => d.1 != n) ++ [(n, epoch.toNat, false)]
          keys := p.keys.filter fun k => k.1 != n || k.2 == s.epoch n || k.2 == epoch.toNat })) := by
  have listed : ∀ n < 512, findReg .seal 0 (0x800 + 4 * n) = some ({ r32 0x800 .rwT with n := 512, stride := 4 }, 0x800 + 4 * n) := by
    decide +kernel
  let r : Reg := { r32 0x800 .rwT with n := 512, stride := 4 }
  let w := commandWrite .pf0 .seal 0 (0x800 + 4 * n) r epoch.toNat
  have base : w.h.base % 0x1000 = 0x800 + 4 * n := commandWrite_base _ _ _ _ _ (by omega)
  have target := State.target_of_page (s := s) (o := .pf0) (b := .seal) (i := 0) (by simp) (by decide) rfl (by omega) (by simp)
    (listed n entry)
  have met := State.busWrite_of_reg (v := epoch.toNat) ready (State.reaches_pf0 ready) (by unfold Blk.at; omega) epoch.isLt target rfl rfl
  have put : s.regPut w = s.stage w := by
    unfold State.regPut
    dsimp only
    have legal : w.h.r.legal w.bm w.new (merge (s.reg w.h.key) w.new w.bm) = true := by
      show (_ && _) = true
      rw [show w.h.r.mask (fun _ => true) = 2 ^ 32 - 1 from (by decide : r.mask (fun _ => true) = 2 ^ 32 - 1), show w.h.r.size = 4 from rfl,
        show 2 ^ (8 * 4) - 1 - (2 ^ 32 - 1) = 0 by decide, Nat.and_zero]
      simp [w, r, commandWrite, hitAt, r32, Rng.ok]
    have may : mayWrite w.o w.h.b w.h.i (0x800 + 4 * n) = true := rfl
    have lockable : w.h.r.mask (· == .rwL) = 0 := (by decide : r.mask (· == .rwL) = 0)
    have writable : w.h.r.readOnly = false := (by decide : r.readOnly = false)
    have now : (w.h.r.mask fun a => a != .ro && a != .rc && a != .rwT) = 0 :=
      (by decide : (r.mask fun a => a != .ro && a != .rc && a != .rwT) = 0)
    have later : (w.h.r.later &&& w.bm) != 0 := (by decide : ((r.later &&& (2 ^ 32 - 1)) != 0) = true)
    rw [writable, ready.1, legal, State.deferred_of_finish ready.1, base, may, lockable, now, later]
    simp
  have address : (0xF800 + 4 * n) = Blk.seal.at 0 (0x800 + 4 * n) := by
    show _ = 0x1000 * (15 + 0) + _
    omega
  have staged : s.stage w = (s.updPage 15 fun g => { g with
      staged := g.staged ++ [{ org := .pf0, off := 0xF800 + 4 * n, wide := false, val := epoch.toNat }] }).updPsl fun p => { p with
        deriving_ := (p.deriving_.filter fun d => d.1 != n) ++ [(n, epoch.toNat, false)]
        keys := p.keys.filter fun k => k.1 != n || k.2 == s.epoch n || k.2 == epoch.toNat } := by
    unfold State.stage State.stageEpoch
    rw [base, if_pos ⟨rfl, by omega⟩, RegWrite.addr_of_whole rfl, show (0x800 + 4 * n - 0x800) / 4 = n by omega, address]
    rfl
  show done (s.busWrite .pf0 (0xF800 + 4 * n) false epoch.toNat) = _
  rw [← staged, ← put, address, met]
  rfl

/-- Settles O42: the commands of the translation, transport and key pages. -/
theorem transportCommands : Obligations.TransportCommands := by
  unfold Obligations.TransportCommands
  intro s ready
  refine ⟨fun tag tagged fn function n u => ⟨fun does => ?_, fun does => ?_, fun does => ?_⟩, xltFaultAck_performs ready,
    fun c number => ⟨fun on => ?_, fun used => ⟨fun open_ => ?_, ?_, ?_⟩⟩, fun i number idle => mrInvalidate_performs ready number idle,
    fun n entry epoch => sealEpochStage_next ready entry epoch⟩
  · refine invWrite_performs (scope := 0) ready tagged function (by decide) rfl ?_
    rw [show tag + 65536 * fn + 2 ^ 25 * (0 + 2 ^ 5 * b2n n + 2 ^ 6) = tag + 65536 * fn + 2 ^ 30 * b2n n + 2 ^ 31 by omega]
    exact does
  · refine invWrite_performs (tag := 0) (scope := 1) ready (by decide) function (by decide) rfl ?_
    rw [show 0 + 65536 * fn + 2 ^ 25 * (1 + 2 ^ 5 * b2n n + 2 ^ 6) = 65536 * fn + 2 ^ 25 + 2 ^ 30 * b2n n + 2 ^ 31 by omega]
    exact does
  · refine invWrite_performs (tag := 0) (scope := 2) ready (by decide) function (by decide) rfl ?_
    rw [show 0 + 65536 * fn + 2 ^ 25 * (2 + 2 ^ 5 * b2n n + 2 ^ 6) = 65536 * fn + 2 ^ 26 + 2 ^ 30 * b2n n + 2 ^ 31 by omega]
    exact does
  · refine connWrite_performs (op := 1) ready number (by decide) rfl fun v conn op go => ?_
    unfold State.connCommand
    simp only [conn, op, go, on, Bool.not_true]
    rfl
  · refine connWrite_performs (op := 2) ready number (by decide) rfl fun v conn op go => ?_
    unfold State.connCommand
    simp only [conn, op, go]
    simp [open_]
  · refine connWrite_performs (op := 3) ready number (by decide) rfl fun v conn op go => ?_
    unfold State.connCommand
    simp only [conn, op, go]
    simp [used]
  · refine connWrite_performs (op := 4) ready number (by decide) rfl fun v conn op go => ?_
    unfold State.connCommand
    simp only [conn, op, go]
    simp [used]

end Sys2Proof.Machine
end

section
/-! PROOFS. The commands of the debug and memory pages. -/

namespace Sys2Proof.Machine

/-! ### The commands of the debug and memory pages (17 R458; 04 R121, Table 4.13; 07 R201, R206 to R209) -/

/-- DBG_CTX_CMD (17 R458). -/
def ctxCmd : Reg := { off := 0x044, flds := [f 0 5 .wo, f 6 7 .wo, f 8 9 .wo 0 (.span 0 2), f 31 31 .wo] }

theorem ctxCmd_fields : ∀ e < 48, ∀ x < 4, ∀ op < 3,
    (e + 64 * x + 256 * op + 2 ^ 31) &&& (2 ^ 32 - 1 - ctxCmd.mask fun _ => true) = 0
    ∧ (∀ y ∈ ctxCmd.flds, y.rng.ok (bits (e + 64 * x + 256 * op + 2 ^ 31) y.hi y.lo) = true)
    ∧ bits (e + 64 * x + 256 * op + 2 ^ 31) 5 0 = e ∧ bits (e + 64 * x + 256 * op + 2 ^ 31) 7 6 = x
    ∧ bits (e + 64 * x + 256 * op + 2 ^ 31) 9 8 = op ∧ bitAt (e + 64 * x + 256 * op + 2 ^ 31) 31 = true := by decide

theorem ctxCommand_performs {c : Instr} {s u : State} {e x op : Nat} (ready : s.commandable) (engine : e < 48) (context : x < 4) (known : op < 3)
    (run : exec c s = done (s.busWrite .pf0 (Blk.dbg.at 0 0x044) false (e + 64 * x + 256 * op + 2 ^ 31)))
    (does : ∀ v, bits v 5 0 = e → bits v 7 6 = x → bits v 9 8 = op → bitAt v 31 = true → s.ctxCommand v = some u) : Performs c s u := by
  obtain ⟨reserved, ranges, isE, isX, isOp, go⟩ := ctxCmd_fields e engine x context op known
  refine performs_of_command ctxCmd ready (by simp) (State.reaches_pf0 ready) run rfl (by decide) (by decide) (by decide) (by decide)
    (by omega) reserved ranges rfl ?_
  simp only [State.effect, commandWrite_b, commandWrite_base _ _ _ _ _ (show 0x044 < 0x1000 by decide), if_true]
  exact does _ isE isX isOp go

/-- A command of the debug page for a full/empty word (04 Table 4.13). -/
theorem feCommand_performs {c : Instr} {s u : State} {cmd : Nat} (ready : s.commandable) (known : cmd < 6) (run : exec c s = feWrite .pf0 cmd s)
    (does : s.feCommand .pf0 cmd = some u) : Performs c s u := by
  let r : Reg := { off := 0x204, flds := [f 0 2 .wo 0 (.span 0 5)] }
  have fields : ∀ cmd < 6, cmd &&& (2 ^ 32 - 1 - Reg.mask { off := 0x204, flds := [f 0 2 .wo 0 (.span 0 5)] } fun _ => true) = 0
      ∧ (∀ y ∈ [f 0 2 .wo 0 (.span 0 5)], y.rng.ok (bits cmd y.hi y.lo) = true) ∧ cmd % 8 = cmd := by decide
  obtain ⟨reserved, ranges, code⟩ := fields cmd known
  refine performs_of_command (b := .dbg) (i := 0) (x := 0x204) r ready (by simp) (State.reaches_pf0 ready) run rfl (by decide) (by decide)
    (by decide) (by decide) (by omega) reserved ranges rfl ?_
  simp only [State.effect, commandWrite_b, commandWrite_o, commandWrite_base _ _ _ _ _ (show 0x204 < 0x1000 by decide)]
  rw [if_neg (by decide), if_pos trivial, code, does]

theorem debugCommands : DebugCommands := by
  unfold DebugCommands
  intro s ready
  refine ⟨fun e engine x context => ⟨?_, ?_⟩, fun u => ⟨feCommand_performs ready (by decide) rfl, feCommand_performs ready (by decide) rfl,
    feCommand_performs ready (by decide) rfl, feCommand_performs ready (by decide) rfl, feCommand_performs ready (by decide) rfl,
    feCommand_performs ready (by decide) rfl⟩⟩
  · refine ctxCommand_performs (op := 1) ready engine context (by decide) rfl fun v isE isX isOp go => ?_
    unfold State.ctxCommand
    simp only [isE, isX, isOp, go]
    rw [if_neg (by decide), if_neg (by omega), if_pos trivial]
  · refine ctxCommand_performs (op := 2) ready engine context (by decide) rfl fun v isE isX isOp go => ?_
    unfold State.ctxCommand
    simp only [isE, isX, isOp, go]
    rw [if_neg (by decide), if_neg (by omega), if_neg (by decide)]

/-- HBM_DIE_RETIRE (07 R201). -/
def dieRetire : Reg := { off := 0x048, flds := [f 0 3 .wo, f 31 31 .wo] }

theorem dieRetire_fields : ∀ die < 16, (die + 2 ^ 31) &&& (2 ^ 32 - 1 - dieRetire.mask fun _ => true) = 0
    ∧ bits (die + 2 ^ 31) 3 0 = die ∧ bitAt (die + 2 ^ 31) 31 = true := by decide

theorem hbmDieRetire_performs {s : State} {m die : Nat} (ready : s.commandable) (stack : m < 8) (there : s.siteThere m = true) (low : die < 16)
    (spare : ¬(die = 15 ∧ (s.stack m).spareFor.isSome)) (active : (s.stack m).retired.getLsbD die = false)
    (free : ((s.stack m).pendDie.any (·.1 == die)) = false) :
    Performs (.hbmDieRetire .pf0 m die) s (s.updStack m fun k => { k with pendDie := k.pendDie ++ [(die, 2, s.ticks)] }) := by
  have listed : ∀ m < 8, commandAt .pf0 .hbm m 0x048 dieRetire = true := by decide
  obtain ⟨reserved, isDie, go⟩ := dieRetire_fields die low
  refine performs_of_command (b := .hbm) (i := m) (x := 0x048) dieRetire ready (by simp) (State.reaches_pf0 ready) rfl ?_ (listed m stack)
    (by decide) (by decide) (by decide) (by omega) reserved (ranges_of_any _ (by decide)) ?_ ?_
  · show (m == 8 || s.siteThere m) = true
    rw [there, Bool.or_true]
  · have other : (m == 8) = false := beq_eq_false_iff_ne.mpr (by omega)
    simp [State.writeOk, other]
  · simp only [State.effect, commandWrite_b, commandWrite_i, commandWrite_base _ _ _ _ _ (show 0x048 < 0x1000 by decide)]
    rw [if_neg (by omega), if_pos trivial, State.retireCmd]
    rw [isDie, go, if_neg (by decide), if_neg spare, active, free]
    rfl

/-- HBM_REPAIR_CMD (07 R206). -/
def repairCmd : Reg :=
  { off := 0x04C, flds := [f 0 5 .wo 0 (.span 0 59), f 6 9 .wo, f 10 24 .wo, f 31 31 .wo] }

theorem hbmRepair_performs {s : State} {m pc bank row : Nat} (ready : s.commandable) (stack : m < 8) (there : s.siteThere m = true)
    (channel : pc < 60) (isBank : bank < 16) (isRow : row < 32768) (active : (s.stack m).retired.getLsbD (pc / 4) = false)
    (spare : s.bankRepairs m pc bank < 2) (room : s.mem.repairs.length < 1024) (idle : (s.stack m).repair = none) :
    Performs (.hbmRepairCmd .pf0 m pc bank row) s (s.updStack m ({ · with repair := some { pc, bank, row, stage := 1, tick := s.ticks } })) := by
  have listed : ∀ m < 8, commandAt .pf0 .hbm m 0x04C repairCmd = true := by decide
  have low : pc + 64 * bank < 2 ^ 10 := by omega
  have mid : row < 2 ^ 21 := by omega
  have value : pc + 64 * bank + 1024 * row + 2 ^ 31 = pc + 64 * bank + 2 ^ 10 * (row + 2 ^ 21 * 1) := by omega
  have reserved : (pc + 64 * bank + 1024 * row + 2 ^ 31) &&& (2 ^ 32 - 1 - repairCmd.mask fun _ => true) = 0 := by
    rw [value]
    refine and_eq_zero_of_parts low ?_ (and_eq_zero_of_parts mid (and_eq_zero_of_lt (n := 15) (by omega) (by decide)) (by decide))
    rw [show (2 ^ 32 - 1 - repairCmd.mask fun _ => true) % 2 ^ 10 = 0 by decide, Nat.and_zero]
  have isPc : bits (pc + 64 * bank + 1024 * row + 2 ^ 31) 5 0 = pc := by unfold bits; rw [Nat.shiftRight_zero]; omega
  have bankBits : bits (pc + 64 * bank + 1024 * row + 2 ^ 31) 9 6 = bank := by unfold bits; rw [Nat.shiftRight_eq_div_pow]; omega
  have rowBits : bits (pc + 64 * bank + 1024 * row + 2 ^ 31) 24 10 = row := by unfold bits; rw [Nat.shiftRight_eq_div_pow]; omega
  have go : bitAt (pc + 64 * bank + 1024 * row + 2 ^ 31) 31 = true := by
    rw [value, bitAt_high low (by decide), bitAt_high mid (by decide)]
    decide
  refine performs_of_command (b := .hbm) (i := m) (x := 0x04C) repairCmd ready (by simp) (State.reaches_pf0 ready) rfl ?_ (listed m stack)
    (by decide) (by decide) (by decide) (by omega) reserved ?_ ?_ ?_
  · show (m == 8 || s.siteThere m) = true
    rw [there, Bool.or_true]
  · intro y hy
    simp only [repairCmd, List.mem_cons, List.not_mem_nil, or_false] at hy
    rcases hy with rfl | rfl | rfl | rfl
    · exact Rng.ok_span (Nat.zero_le _) (Nat.le_trans (Nat.le_of_eq isPc) (by omega))
    · rfl
    · rfl
    · rfl
  · have other : (m == 8) = false := beq_eq_false_iff_ne.mpr (by omega)
    simp [State.writeOk, other]
  · simp only [State.effect, commandWrite_b, commandWrite_i, commandWrite_base _ _ _ _ _ (show 0x04C < 0x1000 by decide)]
    rw [if_neg (by omega), if_neg (by decide), if_pos trivial, go, if_pos rfl, isPc, bankBits, rowBits, State.requestRepair]
    dsimp only
    rw [active, if_neg (by decide), if_neg (by omega), if_neg (by omega), idle]
    rfl

/-- HBM_DIAG_CMD (07 Table 7.8). -/
def diagCmd : Reg := { off := 0x050, flds := [f 0 2 .wo 0 (.span 0 4)] }

theorem diagCmd_fields : ∀ cmd < 5, cmd &&& (2 ^ 32 - 1 - diagCmd.mask fun _ => true) = 0
    ∧ (∀ y ∈ diagCmd.flds, y.rng.ok (bits cmd y.hi y.lo) = true) ∧ cmd % 8 = cmd := by decide

theorem diag_performs {c : Instr} {s : State} {cmd : Nat} (ready : s.commandable) (known : cmd < 5) (run : exec c s = diagWriteCmd .pf0 cmd s)
    (allowed : s.diagOk cmd = true) : Performs c s (diagCommand s cmd) := by
  obtain ⟨reserved, ranges, code⟩ := diagCmd_fields cmd known
  refine performs_of_command (b := .hbm) (i := 8) (x := 0x050) diagCmd ready (by simp) (State.reaches_pf0 ready) run rfl (by decide) (by decide)
    (by decide) (by decide) (by omega) reserved ranges (by simp [State.writeOk, commandWrite_base]) ?_
  simp only [State.effect, commandWrite_b, commandWrite_i, commandWrite_base _ _ _ _ _ (show 0x050 < 0x1000 by decide)]
  rw [if_pos trivial, if_pos trivial, code, if_pos allowed]

theorem memoryCommands : MemoryCommands := by
  unfold MemoryCommands
  intro s ready
  exact ⟨fun m stack there => ⟨fun die low spare active free => hbmDieRetire_performs ready stack there low spare active free,
      fun pc channel bank isBank row isRow active spare room idle =>
        hbmRepair_performs ready stack there channel isBank isRow active spare room idle⟩,
    diag_performs ready (by decide) rfl, diag_performs ready (by decide) rfl, diag_performs ready (by decide) rfl,
    diag_performs ready (by decide) rfl rfl⟩

/-- Settles O41: the commands of the debug and memory pages. -/
theorem debugAndMemoryCommands : Obligations.DebugAndMemoryCommands := ⟨debugCommands, memoryCommands⟩

end Sys2Proof.Machine
end

section
/-! PROOFS. A posted index past the bits of its register (14_infrastructure_cores_and_security.md R374). -/

namespace Sys2Proof.Machine

/-! ### A posted index past the bits of its register (14 R374)

Nothing in a state keeps the value of a register of 4 bytes below 2^32. A write of 4 bytes keeps what stands above them. -/

/-- A device in Finish service whose index of posted buffers holds a bit above its 32. -/
def postedHigh : State :=
  { State.reset with
    boot := { State.reset.boot with stage := 4 }
    glb := { service := 2 }
    regs := [(0x1210C, BitVec.ofNat 64 (2 ^ 32))] }

/-- The index of posted buffers after a command. -/
def postedAfter (c : Instr) (s : State) : Nat := match exec c s with
  | .next t => t.reg 0x1210C
  | _ => 0

theorem postedAfter_of_next {c : Instr} {s t : State} (answer : exec c s = .next t) : postedAfter c s = t.reg 0x1210C := by
  rw [postedAfter, answer]

/-- The record of a command leaves the index that the command wrote. -/
theorem postedHigh_recorded (a : Aud) : (settle ((postedHigh.setReg 0x1210C 1).audit a)).reg 0x1210C = 1 := by
  let t := postedHigh.setReg 0x1210C 1
  have kept : (t.inc 0x7058).reg 0x1210C = 1 := by decide
  have outside : (t.inc 0x7058).inInfra (t.reg 0x7040) = false := by decide
  let u := storeAudit t { time := t.plumb.now, entry := a }
  have away : u.inInfra (t.reg 0x7040) = false := outside
  have written : settleAudit t a = u := by
    unfold settleAudit
    exact if_neg fun both => absurd (away.symm.trans ((Bool.and_eq_true _ _).mp both).1) (by decide)
  have empty : u.todo = [] := rfl
  have rounds : settleRounds 64 (t.audit a) = u := by
    show settleRounds 63 (settleAudit t a) = u
    rw [written]
    unfold settleRounds
    rw [if_pos empty]
  unfold settle
  rw [rounds]
  exact kept

/-- Refutes O43: the register keeps bit 32, which the write does not reach; the statement gives it the value written. -/
theorem not_functionCommands : ¬ Obligations.FunctionCommands := by
  unfold Obligations.FunctionCommands
  intro h
  obtain ⟨-, -, -, rings, -⟩ := h postedHigh ⟨rfl, by decide, rfl, rfl, by decide⟩
  obtain ⟨a, answer⟩ := (rings 0 (by decide) 1).1 (by decide)
  have posted := postedAfter_of_next answer
  rw [show (1 : W32).toNat = 1 from rfl, show 0x1210C + 0x20 * 0 = 0x1210C from rfl, postedHigh_recorded] at posted
  exact absurd posted (by decide)

end Sys2Proof.Machine
end

section
/-! PROOFS. Requests to lost stacks, and the steps of the Sander, retirement and row repair (07_hbm_memory.md R199 to R206, R210). -/

namespace Sys2Proof.Machine

/-! ### A read of a lost stack (07 R204, R210)

Where memory keeps its sync region is a register. Where the register file is not in canonical form, counting the line that a lost stack
does not give uncovers a register listed out of order, and the line is one of the sync region when its side table is asked for. -/

/-- Stack 9, the only one of the order, is lost. The register file lists its full counter and, after it and out of order, a partition
without infrastructure whose last 64 MiB are the sync region. -/
def lostStack : State :=
  { State.reset with
    boot := { State.reset.boot with stage := 4 }
    glb := { service := 2 }
    mem := { order := [9] }
    stackTab := [(9, { st := 3 })]
    regs := [(Blk.hbm.at 9 0x068, BitVec.ofNat 64 (2 ^ 64 - 1)), (0x68040, 0x100)] }

/-- The first line of that sync region. -/
def lostLine : Nat := 48 * 2 ^ 30 - 2 ^ 26

/-- How many events have been recorded after a command. -/
def eventsAfter (c : Instr) (s : State) : Nat := match exec c s with
  | .next t => t.recs.prod
  | _ => 0

theorem eventsAfter_of_next {c : Instr} {s t : State} (answer : exec c s = .next t) : eventsAfter c s = t.recs.prod := by
  rw [eventsAfter, answer]

/-- Refutes O44: the side table of the line is lost as well, which is a second event. -/
theorem not_memoryRequests : ¬ Obligations.MemoryRequests := by
  unfold Obligations.MemoryRequests
  intro h
  obtain ⟨-, served⟩ := h lostStack (.engine 0 0) lostLine 9 201064448 [] (by decide) (by decide)
  obtain ⟨-, -, -, line⟩ := served (by decide) (fun _ isCore => Requester.noConfusion isCore)
  have answer := (line (by decide)).2 (by decide)
  exact absurd (eventsAfter_of_next answer) (by decide +kernel)

/-! ### The Sander, retirement and row repair (07 R199 to R202, R204, R206) -/

theorem serveHeld_rebuild {s : State} {m d : Nat} (ns : List Noise) (named : (s.stack m).spareFor = some d) : serveHeld s (.sanderRebuildStep m ns)
    = serveRebuild s m ((s.stack m).rebuildPtr * 6 + (groupsOf d).getD (s.stack m).rebuildGrp 0) ns := by
  unfold serveHeld
  dsimp only
  rw [named]

theorem orHold_eq (s : State) (m lam : Nat) (c : Instr) :
    orHold s m lam c = if (s.stack m).fenced lam then s.updStack m fun k => { k with held := k.held ++ [c] } else serveHeld s c := rfl

/-- Settles O45: each step of the Sander, of retirement and of row repair takes its course. -/
theorem stacksMaintainThemselves : Obligations.StacksMaintainThemselves := by
  unfold Obligations.StacksMaintainThemselves
  intro s m k held
  refine ⟨fun works => ⟨fun lam ns next => ?_, fun left => due_of (by rw [works, decide_eq_true left]; rfl) _, fun d ns spare going => ?_,
    fun d low active free => due_of (by rw [works, decide_eq_true low, active, free]; rfl) _, due_of (by rw [works]; rfl) _⟩,
    fun die cause t l waits past => ?_, fun r repair => ⟨fun asked past => ?_, fun cleared => ?_⟩⟩
  · exact due_of (by rw [works, next]; simp) _
  · have named : k.spareFor = some d := by
      unfold Stack.hasSpare at spare
      rw [Bool.and_eq_true, beq_iff_eq] at spare
      exact spare.1
    intro g lam p
    show execSanderRebuildStep m ns s = _
    unfold execSanderRebuildStep
    dsimp only
    rw [show (s.stack m).spareFor = some d from named]
    refine (due_of (by rw [works, going, spare]; rfl) _).trans ?_
    rw [orHold_eq, serveHeld_rebuild ns named]
    rfl
  · show execDieRetire m none s = _
    unfold execDieRetire
    dsimp only
    rw [show (s.stack m).pendDie = (die, cause, t) :: l from waits]
    exact due_of (decide_eq_true past) _
  · show execRowRepairStart m s = _
    unfold execRowRepairStart
    rw [show (s.stack m).repair = some r from repair]
    exact due_of (by rw [asked, decide_eq_true past]; rfl) _
  · show execRowRepairComplete m s = _
    unfold execRowRepairComplete
    rw [show (s.stack m).repair = some r from repair]
    dsimp only
    generalize List.range 64 = columns
    exact due_of (by rw [cleared]; rfl) _

end Sys2Proof.Machine
end

section
/-! PROOFS. Walks, sweeps, invalidations and host translations (08_address_translation.md R225 to R236). -/

namespace Sys2Proof.Machine

/-! ### Walks, sweeps, invalidations and host translations (08 R225 to R236) -/

theorem dueMem_of {cause : Bool} (h : cause = true) {s t : State} (free : s.meetsNoFence t) : dueMem s cause t = .next (settle t) :=
  due_of (by rw [h, show t.mem.stalled = s.mem.stalled from free]; simp) t

/-- Asking for pages queues misses and requests to the host, and changes nothing else (08 R228, R235). -/
def AskStep (s t : State) : Prop := t = { s with xlt := { s.xlt with misses := t.xlt.misses, ats := t.xlt.ats } }

theorem State.askPage_askStep (s : State) (w : Want) : AskStep s (s.askPage w) := by
  unfold State.askPage
  split
  · dsimp only
    split <;> rfl
  · split <;> rfl

theorem AskStep.trans {s t u : State} (h : AskStep s t) (k : AskStep t u) : AskStep s u := by
  unfold AskStep at *
  rw [k, h]

theorem State.askPages_askStep (s : State) : AskStep s s.askPages := by
  unfold State.askPages
  generalize s.xlt.waits.flatMap (·.left) = l
  induction l generalizing s with
  | nil => rfl
  | cons w l ih => exact (s.askPage_askStep w).trans (ih _)

/-- The sweep of a set ages entries of the caches and counts those that it drops (08 R225, R229). -/
def AgeStep (s t : State) : Prop :=
  t = { s with regs := t.regs, xlt := { s.xlt with cache := t.xlt.cache, walk := t.xlt.walk, fnCnt := t.xlt.fnCnt } }

theorem AgeStep.trans {s t u : State} (h : AgeStep s t) (k : AgeStep t u) : AgeStep s u := by
  unfold AgeStep at *
  rw [k, h]

theorem State.xltCount_ageStep (s : State) (f i : Nat) : AgeStep s (s.xltCount f i) := by
  unfold State.xltCount
  rw [s.inc_eq]
  rfl

theorem State.ageXlt_ageStep (s : State) (amax k : Nat) : AgeStep s (s.ageXlt amax k) := by
  unfold State.ageXlt
  split
  · rfl
  · split
    · exact AgeStep.trans (t := s.xltPut k none) rfl (State.xltCount_ageStep ..)
    · rfl

theorem State.ageWalk_ageStep (s : State) (amax k : Nat) : AgeStep s (s.ageWalk amax k) := by
  unfold State.ageWalk
  split
  · rfl
  · dsimp only
    split
    · exact AgeStep.trans (t := s.updXlt fun x => { x with walk := x.walk.set none k none }) rfl (State.xltCount_ageStep ..)
    · rfl

theorem AgeStep.foldl {f : State → Nat → State} (hf : ∀ s i, AgeStep s (f s i)) (l : List Nat) (s : State) : AgeStep s (l.foldl f s) := by
  induction l generalizing s with
  | nil => rfl
  | cons i l ih => exact (hf s i).trans (ih _)

theorem walkersServeMisses : WalkersServeMisses := by
  unfold WalkersServeMisses
  intro s w limit x period
  refine ⟨fun f m turn oldest low free => ?_, fun m walks => ⟨fun inTime => ?_, fun late => ?_⟩, fun low spread => ?_⟩
  · let t := s.updXlt fun x => { x with
      misses := x.misses.erase m, walkers := x.walkers.set none w (some { m with since := s.ticks }), turn := (f + 1) % 512 }
    have runs : exec (.walkStart w) s = .next (settle t.askPages) := by
      show execWalkStart w s = _
      unfold execWalkStart
      rw [turn]
      dsimp only
      rw [show s.xlt.misses.find? (fun y => y.fn == f) = some m from oldest]
      exact due_of (by rw [decide_eq_true low, show s.xlt.walkers.get none w = none from free]; rfl) _
    have asked := t.askPages_askStep
    refine ⟨runs, _, runs, ?_, ?_, ?_, ?_⟩
    · rw [settle_xlt, asked]
      exact Tab.get_set_self_ne _ _ _ _ (Option.some_ne_none _)
    · rw [settle_xlt, asked]
      rfl
    · rw [settle_ctxs, asked]
      rfl
    · rw [settle_tileMem, asked]
      rfl
  · intro p u free
    show execWalkComplete w s = _
    unfold execWalkComplete
    rw [show s.xlt.walkers.get none w = some m from walks]
    exact dueMem_of (decide_eq_true inTime) free
  · intro u free
    show execWalkTimeout w s = _
    unfold execWalkTimeout
    rw [show s.xlt.walkers.get none w = some m from walks]
    exact dueMem_of (decide_eq_true late) free
  · let t := s.updXlt fun y => { y with
      sweepPtr := (x.sweepPtr + 1) % 4096, sweepFrom := if x.sweepPtr = 4095 then y.sweepFrom + period else y.sweepFrom }
    have answer : ∃ u, exec (.xltSweepVisit x.sweepPtr) s = .next (settle u) ∧ AgeStep t u := by
      refine ⟨_, due_of (by rw [beq_self_eq_true, decide_eq_true spread]; rfl) _, ?_⟩
      change AgeStep t (if s.fld (Blk.xlt.at 0 0x040) 6 4 = 0 then t else
        if x.sweepPtr % 8 = 0 then (List.range 8).foldl (fun s' i => s'.ageWalk (s.fld (Blk.xlt.at 0 0x040) 6 4) (x.sweepPtr + i))
          ((List.range 8).foldl (fun s' i => s'.ageXlt (s.fld (Blk.xlt.at 0 0x040) 6 4) (8 * x.sweepPtr + i)) t)
        else (List.range 8).foldl (fun s' i => s'.ageXlt (s.fld (Blk.xlt.at 0 0x040) 6 4) (8 * x.sweepPtr + i)) t)
      generalize List.range 8 = entries
      have aged := AgeStep.foldl (fun s' i => State.ageXlt_ageStep s' (s.fld (Blk.xlt.at 0 0x040) 6 4) (8 * x.sweepPtr + i)) entries t
      by_cases off : s.fld (Blk.xlt.at 0 0x040) 6 4 = 0
      · rw [if_pos off]
        rfl
      · rw [if_neg off]
        by_cases walks : x.sweepPtr % 8 = 0
        · rw [if_pos walks]
          exact aged.trans (AgeStep.foldl (fun s' i => State.ageWalk_ageStep s' _ _) entries _)
        · rw [if_neg walks]
          exact aged
    obtain ⟨u, runs, aged⟩ := answer
    refine ⟨_, runs, ?_, ?_, ?_⟩
    · rw [settle_xlt, aged]
      rfl
    · rw [settle_xlt, aged]
      rfl
    · rw [settle_xlt, aged]
      rfl

theorem invalidationsEnd : InvalidationsEnd := by
  unfold InvalidationsEnd
  intro s fn
  refine ⟨?_, fun va r asked => ?_, rfl, fun x waits read => ?_⟩
  · intro c busy reads jobs
    have answer : ∃ u, exec (.invComplete fn) s = .next (settle u)
        ∧ u.xlt = { s.xlt with inv := s.xlt.inv.upd {} fn ({ · with busy := false, awaits := [], jobs := [] }) } := by
      have cause : (c.busy && (c.awaits.all fun x => !(s.conn x.1).live.any fun m => m.1 == x.2)
          && c.jobs.all fun x => !(s.wq x.1).jobs.any fun j => j.entry == x.2 && j.stage == 2) = true := by
        rw [busy, Bool.true_and, Bool.and_eq_true, List.all_eq_true, List.all_eq_true]
        exact ⟨fun x hx => by rw [reads x hx]; rfl, fun x hx => by rw [jobs x hx]; rfl⟩
      refine ⟨_, due_of cause _, ?_⟩
      split
      · rw [(State.notify_recStep ..).1]
        rfl
      · rfl
    obtain ⟨u, runs, after⟩ := answer
    exact ⟨_, runs, (settle_xlt u).trans after⟩
  · intro served done_
    have run : ∀ {xlated log2 ok rd wr}, exec (.atsCompletion fn va xlated log2 ok rd wr) s = dueMem s (decide (12 ≤ log2))
        (let s := s.atsDone fn r.page
         if !ok || (!rd && !wr) then s.serve fn none r.page (.fault 0xC false) else
           let a := 4096 * r.page
           let b := xlated - xlated % 2 ^ log2 + a % 2 ^ log2
           (s.xltFill (newEnt fn none (atsClass log2) a b rd wr)).serve fn none r.page (.host b rd wr)) := by
      intro xlated log2 ok rd wr
      show execAtsCompletion fn va xlated log2 ok rd wr s = _
      unfold execAtsCompletion
      rw [asked]
    refine ⟨fun xlated log2 ok rd wr size refused free => ?_, fun xlated log2 rd wr size allowed => ?_, fun late free => ?_⟩
    · have no : (!ok || (!rd && !wr)) = true := by
        rcases refused with rfl | none_
        · rfl
        · rw [← Bool.not_or, none_, Bool.not_false, Bool.or_true]
      rw [run]
      dsimp only
      rw [if_pos no]
      exact dueMem_of (decide_eq_true size) free
    · intro a pa u free
      have yes : ¬(!true || (!rd && !wr)) = true := by rw [← Bool.not_or, allowed]; decide
      rw [run]
      dsimp only
      rw [if_neg yes]
      exact dueMem_of (decide_eq_true size) free
    · show execAtsTimeout fn va s = _
      unfold execAtsTimeout
      rw [asked]
      exact dueMem_of (decide_eq_true late) free
  · show execAtsInvComplete fn s = _
    unfold execAtsInvComplete
    rw [waits]
    exact due_of (by rw [List.all_eq_true]; intro y hy; rw [read y hy]; rfl) _

/-- Settles O47: walks, aging, invalidations and host translations begin and end. -/
theorem translationRuns : Obligations.TranslationRuns := ⟨walkersServeMisses, invalidationsEnd⟩

end Sys2Proof.Machine
end

section
/-! PROOFS. Frames of connection opcodes (09_phisal_wire_and_connections.md R246, R247; 10_phisal_delivery_and_congestion.md R295, R297). -/

namespace Sys2Proof.Machine

/-! ### Frames of connection opcodes (09 R246, R247, Table 9.8; 10 R295, R297; 07 R206) -/

/-- Every frame of a connection opcode arrives in the same way. -/
theorem exec_of_pkt {i : Instr} {op : Nat} {p : Pkt} (s : State) (frame : pktOf i = some (op, p)) (notMark : op ≠ 0x20) (notAnswer : op ≠ 0x21) :
    exec i s = arriving i op p s := by
  unfold pktOf at frame
  split at frame <;> cases frame
  case h_8.refl => exact absurd rfl notMark
  case h_9.refl => exact absurd rfl notAnswer
  all_goals rfl

/-- Settles O48: a frame of a connection opcode meets its context, waits for the fill, is dropped, or goes to the cores. -/
theorem packetsMeetTheirContext : Obligations.PacketsMeetTheirContext := by
  unfold Obligations.PacketsMeetTheirContext
  intro s i op p frame notMark notAnswer running
  have answer : exec i s = .next (settle (s.phisalArrive i op p)) := by
    rw [exec_of_pkt s frame notMark notAnswer]
    exact due_of (bne_iff_ne.mpr running) _
  refine ⟨fun other => ?_, fun ours t => ⟨fun dropped => ?_, fun q passed => ?_⟩⟩
  · rw [answer, State.phisalArrive, other]
    rfl
  · rw [answer, State.phisalArrive, ours, dropped]
    rfl
  · intro c v u
    rw [answer, State.phisalArrive, ours, passed]
    rfl

end Sys2Proof.Machine
end

section
/-! PROOFS. Sending, timers, fills and aging of connections (09_phisal_wire_and_connections.md, 10_phisal_delivery_and_congestion.md). -/

namespace Sys2Proof.Machine

/-! ### Sending, timers, fills and aging of connections (09 R257, R262, R263, R268; 10 R272 to R276, R285 to R289, R295 to R297) -/

/-- A connection's record once it has gone back to its oldest unacknowledged packet at a tick (10 R273). -/
def Conn.wentBack (tick : Nat) (x : Conn) : Conn :=
  { x with round := x.round + 1, nextPsn := x.una, gapTimer := false, gbn := true, rtoTick := tick % 65536, busy := [] }

/-- Going back, while tries are left, adds to a counter and changes the record of one connection only. -/
theorem State.goBackN_of_round (s : State) {c : Nat} (left : (s.conn c).round + 1 ≤ (s.conn c).retryMax) :
    s.goBackN c = (s.inc (Blk.cc.at 0 0x198)).updConn c (Conn.wentBack s.tick) := by
  unfold State.goBackN
  exact if_neg (Nat.not_lt.mpr left)

@[simp] theorem State.inc_conns (s : State) (a n : Nat) : (s.inc a n).conns = s.conns := by rw [State.inc_eq s a n]

/-- What a connection's record holds after a change to something other than its empty value. -/
theorem State.conn_updConn (s : State) {c : Nat} {g : Conn → Conn} (full : g (s.conn c) ≠ {}) : (s.updConn c g).conn c = g (s.conn c) :=
  Tab.get_set_self_ne s.conns {} c (g (s.conn c)) full

/-- What the connection's record holds after it went back. -/
theorem State.conn_goBackN (s : State) {c : Nat} (left : (s.conn c).round + 1 ≤ (s.conn c).retryMax) :
    (s.goBackN c).conn c = (s.conn c).wentBack s.tick := by
  have counted (a n) : (s.inc a n).conn c = s.conn c := by rw [State.conn, State.inc_conns]; rfl
  rw [s.goBackN_of_round left, State.conn_updConn, counted]
  intro empty
  have flag : (Conn.wentBack s.tick ((s.inc (Blk.cc.at 0 0x198)).conn c)).gbn = ({} : Conn).gbn := congrArg Conn.gbn empty
  cases flag

@[simp] theorem State.inc_psl (s : State) (a n : Nat) : (s.inc a n).psl = s.psl := by rw [State.inc_eq s a n]

@[simp] theorem State.deriveKey_psl (s : State) : s.deriveKey.psl = s.psl := by
  simp only [State.deriveKey, State.cmacRun, State.inc_psl]

/-- Settles O49: sending, timers, fills and aging of connections. -/
theorem connectionsRun : Obligations.ConnectionsRun := by
  unfold Obligations.ConnectionsRun
  intro s c x
  refine ⟨fun t sends => ⟨fun here u again => ?_, fun absent noFill => ?_⟩, fun here => ⟨fun gap => ?_, fun late => ⟨?_, fun left => ?_⟩, fun late => ?_⟩,
    fun b k m t waits sent message again credit => ?_, fun y bad fill => ?_, fun opening late => ⟨fun few => ?_, fun many => ?_⟩,
    fun t close closing late => ?_, fun slice set way empty => ?_, ?_, fun i ws inv done => ?_, fun n d next => ?_⟩
  · show execPacketSend c s = _
    rw [execPacketSend, sends]
    dsimp only
    rw [if_pos here, again]
    rfl
  · show execPacketSend c s = _
    rw [execPacketSend, sends]
    dsimp only
    rw [absent]
    exact due_of (by rw [noFill]; rfl) _
  · exact due_of (by rw [here, gap]; rfl) _
  · exact due_of (by rw [here, late]; rfl) _
  · refine ⟨_, due_of (by rw [here, late]; rfl) _, ?_⟩
    have conn : (settle (s.goBackN c)).conn c = (s.conn c).wentBack s.tick := by
      rw [State.conn, settle_conns]
      exact s.conn_goBackN left
    dsimp only
    rw [conn, settle_tileMem, s.goBackN_of_round left]
    exact ⟨rfl, rfl, rfl, rfl, rfl, rfl, by rw [State.inc_eq s (Blk.cc.at 0 0x198)]; rfl⟩
  · exact due_of (by rw [here, late]; rfl) _
  · show execBusyResend c s = _
    simp only [execBusyResend]
    rw [show (s.conn c).busy.find? _ = _ from waits]
    dsimp only
    rw [show (s.conn c).sent.find? _ = _ from sent]
    dsimp only
    rw [show (s.conn c).message k.msg = _ from message]
    dsimp only
    rw [show s.sendOne c (k.psn + (s.conn c).round + 1) m k true = _ from again]
    exact due_of (decide_eq_true credit) _
  · intro p drop
    have answer : exec (.ctxFillComplete c bad) s = execCtxFillComplete c bad s := rfl
    rw [answer, execCtxFillComplete, fill]
    dsimp only
    refine ⟨fun closed => ?_, fun live spoilt => ?_, fun live sound room => ?_⟩
    · rw [if_pos closed]
      rfl
    · rw [if_neg live, if_pos spoilt]
      rfl
    · rw [if_neg live, sound, if_neg Bool.false_ne_true, if_pos room]
      rfl
  · exact due_of (by simp only [x] at opening late few; simp [opening, late, few]) _
  · exact due_of (by simp only [x] at opening late many; simp [opening, late, many]) _
  · show execClosingTimeout c s = _
    simp only [execClosingTimeout]
    rw [show (s.conn c).closeTick = _ from close]
    exact due_of (by simp only [x] at closing; simp [closing, late]) _
  · show execCtxSweepVisit slice set way s = _
    rw [execCtxSweepVisit]
    dsimp only
    rw [empty]
    rfl
  · intro slice set way e k r period held gap late reorder pinned ages new
    have answer : exec (.ctxSweepVisit slice set way) s = execCtxSweepVisit slice set way s := rfl
    have asked : ((s.conn e.conn).pinned || decide (bits r 6 4 = 0) || decide (e.aged = period)) = false := by
      rw [pinned, decide_eq_false ages, decide_eq_false new]; rfl
    simp only [Answers, answer, execCtxSweepVisit]
    rw [held]
    simp only [gap, late, reorder, Bool.or_self, Bool.false_eq_true, if_false]
    rw [show ((s.conn e.conn).pinned || decide (bits (s.reg (Blk.ctx.at 0 0x040)) 6 4 = 0) || decide (e.aged = _)) = false from asked,
      if_neg Bool.false_ne_true]
    refine ⟨fun young => ⟨_, if_neg (Nat.not_le.mpr young), ?_, settle_conns _⟩, fun old => if_pos old⟩
    show (settle _).psl.cache.get none k = _
    rw [settle_psl]
    refine (Tab.get_set_self_ne _ _ _ _ ?_).trans ?_ <;> rw [held]
    · exact Option.some_ne_none _
    · rfl
  · refine ⟨settle (s.updPsl ({ · with mrInv := none })), ?_, settle_psl _, settle_conns _⟩
    show execMrInvComplete s = _
    rw [execMrInvComplete, inv]
    exact due_of (by simpa using done) _
  · refine ⟨settle (s.deriveKey.updPsl fun p => { p with
      keys := p.keys ++ [(n, d.2.1)], deriving_ := if d.2.2 then p.deriving_ else p.deriving_.filter (· != d) }), ?_, ?_⟩
    · show execKeyDerivationComplete n s = _
      rw [execKeyDerivationComplete, next]
      rfl
    · dsimp only
      rw [settle_psl, ← s.deriveKey_psl]
      rfl

end Sys2Proof.Machine
end

section
/-! PROOFS. Ports: frames, pauses and links (11_ethernet_ports.md R300 to R319). -/

namespace Sys2Proof.Machine

/-! ### Ports: frames, pauses and links (11 R300 to R319; 12 R324) -/

@[simp] theorem State.inc_ports (s : State) (a n : Nat) : (s.inc a n).ports = s.ports := by rw [State.inc_eq s a n]

theorem State.port_of_ports {s t : State} (same : t.ports = s.ports) (q : Nat) : t.port q = s.port q := congrArg (fun x : Tab Port => x.get {} q) same

theorem State.prio_of_ports {s t : State} (same : t.ports = s.ports) (q p : Nat) : t.prio q p = s.prio q p :=
  congrArg (fun x : Port => x.rxPart.get {} p) (State.port_of_ports same q)

@[simp] theorem State.inc_port (s : State) (a n q : Nat) : (s.inc a n).port q = s.port q := State.port_of_ports (s.inc_ports a n) q

@[simp] theorem State.inc_prio (s : State) (a n q p : Nat) : (s.inc a n).prio q p = s.prio q p := State.prio_of_ports (s.inc_ports a n) q p

@[simp] theorem settle_port (s : State) (q : Nat) : (settle s).port q = s.port q := State.port_of_ports (settle_ports s) q

@[simp] theorem settle_prio (s : State) (q p : Nat) : (settle s).prio q p = s.prio q p := State.prio_of_ports (settle_ports s) q p

@[simp] theorem State.event_prio (s : State) (e : Ev) (q p : Nat) : (s.event e).prio q p = s.prio q p := rfl

/-- What a port holds after a change to something other than its empty value. -/
theorem State.port_updPort (s : State) {q : Nat} {g : Port → Port} (full : g (s.port q) ≠ {}) : (s.updPort q g).port q = g (s.port q) :=
  Tab.get_set_self_ne s.ports {} q (g (s.port q)) full

/-- A port with a priority that is not empty is not empty. -/
theorem Port.ne_of_prio {x : Port} {p : Nat} (held : x.rxPart.get {} p ≠ {}) : x ≠ {} := by
  rintro rfl
  exact held rfl

/-- What a priority holds after a change to something other than its empty value. -/
theorem State.prio_updPrio (s : State) {q p : Nat} {g : Prio → Prio} (full : g (s.prio q p) ≠ {}) :
    (s.updPrio q p g).prio q p = g (s.prio q p) := by
  have set : ((s.port q).rxPart.upd {} p g).get {} p = g (s.prio q p) := Tab.get_set_self_ne (s.port q).rxPart {} p (g (s.prio q p)) full
  rw [State.prio, State.updPrio, State.port_updPort]
  · exact set
  · exact Port.ne_of_prio (p := p) (set ▸ full)

/-- A change to a port that keeps its receive parts keeps the priority that holds something. -/
theorem State.prio_updPort (s : State) {q p : Nat} {g : Port → Port} (keeps : ∀ x, (g x).rxPart = x.rxPart) (held : s.prio q p ≠ {}) :
    (s.updPort q g).prio q p = s.prio q p := by
  rw [State.prio, State.port_updPort, keeps]
  · rfl
  · exact Port.ne_of_prio (p := p) (by rw [keeps]; exact held)

theorem State.prio_sendPfc (s : State) {q p : Nat} (k n : Nat) (held : s.prio q p ≠ {}) : (s.sendPfc q k n).prio q p = s.prio q p := by
  unfold State.sendPfc
  split
  · rfl
  · have queued := s.prio_updPort (g := fun x => { x with
      tx := x.tx.takeWhile (·.pfc.isSome) ++ [{ prio := k, bytes := 64, pfc := some (k, n), at_ := s.plumb.now }]
        ++ x.tx.dropWhile (·.pfc.isSome) }) (fun _ => rfl) held
    refine (State.prio_updPort _ (fun x => ?_) (queued ▸ held)).trans queued
    split <;> rfl

@[simp] theorem State.sendPfc_conns (s : State) (q k n : Nat) : (s.sendPfc q k n).conns = s.conns := by
  unfold State.sendPfc
  split <;> rfl

@[simp] theorem State.sendPfc_tileMem (s : State) (q k n : Nat) : (s.sendPfc q k n).tileMem = s.tileMem := by
  unfold State.sendPfc
  split <;> rfl

@[simp] theorem State.pausePartner_conns (s : State) (q p : Nat) : (s.pausePartner q p).conns = s.conns := State.sendPfc_conns s q p (s.quanta q)

@[simp] theorem State.pausePartner_tileMem (s : State) (q p : Nat) : (s.pausePartner q p).tileMem = s.tileMem :=
  State.sendPfc_tileMem s q p (s.quanta q)

theorem State.prio_pausePartner_rx (s : State) {q p : Nat} (held : s.prio q p ≠ {}) :
    ((s.pausePartner q p).prio q p).rx = (s.prio q p).rx := by
  have sent := s.prio_sendPfc p (s.quanta q) held
  rw [State.pausePartner, State.prio_updPrio, sent]
  intro empty
  cases show true = false from congrArg Prio.ours empty

/-- `t` differs from `s` in its registers at most. -/
def CountStep (s t : State) : Prop := ∃ r, t = { s with regs := r }

theorem CountStep.inc {s t : State} (h : CountStep s t) (a n : Nat) : CountStep s (t.inc a n) := by
  obtain ⟨r, rfl⟩ := h
  exact ⟨_, State.inc_eq _ a n⟩

theorem CountStep.foldl {β : Type} {f : State → β → State} (step : ∀ s t x, CountStep s t → CountStep s (f t x)) (l : List β) {s t : State}
    (h : CountStep s t) : CountStep s (l.foldl f t) := by
  induction l generalizing t with
  | nil => exact h
  | cons x l ih => exact ih (step s t x h)

/-- A counter that is added to under a condition only. -/
theorem CountStep.inc_if {s t : State} (h : CountStep s t) (c : Prop) [Decidable c] (a n : Nat) : CountStep s (if c then t.inc a n else t) := by
  split
  · exact h.inc a n
  · exact h

/-- What a frame's codewords do: counters, and one event a tick for those that RS-FEC gave up (11 R300). -/
theorem State.fecSeen_eq (s : State) (q : Nat) (f : EthFrame) : ∃ t, CountStep s t ∧
    s.fecSeen q f = if f.fecUe = 0 ∨ (s.port q).ueTick = some s.ticks then t
      else (t.updPort q ({ · with ueTick := some s.ticks })).event { blk := .pcs, inst := q, num := 1 } := by
  unfold State.fecSeen
  extract_lets a b
  have first : CountStep s a := (CountStep.inc ⟨s.regs, rfl⟩ _ _).inc _ _
  have counted : CountStep s b := CountStep.foldl (fun s t e h => h.inc_if _ _ _) _ first
  refine ⟨b, counted, ?_⟩
  obtain ⟨r, same⟩ := counted
  rw [same]
  rfl

theorem State.fecSeen_ports (s : State) {q : Nat} {f : EthFrame} (given : 0 < f.fecUe) (new : (s.port q).ueTick ≠ some s.ticks) :
    (s.fecSeen q f).ports = (s.updPort q ({ · with ueTick := some s.ticks })).ports := by
  obtain ⟨t, ⟨r, rfl⟩, seen⟩ := s.fecSeen_eq q f
  rw [seen, if_neg (by simp [new, Nat.ne_of_gt given])]
  rfl

@[simp] theorem State.fecSeen_conns (s : State) (q : Nat) (f : EthFrame) : (s.fecSeen q f).conns = s.conns := by
  obtain ⟨t, ⟨r, rfl⟩, seen⟩ := s.fecSeen_eq q f
  rw [seen]
  split <;> rfl

@[simp] theorem State.fecSeen_tileMem (s : State) (q : Nat) (f : EthFrame) : (s.fecSeen q f).tileMem = s.tileMem := by
  obtain ⟨t, ⟨r, rfl⟩, seen⟩ := s.fecSeen_eq q f
  rw [seen]
  split <;> rfl

/-- Codewords that are counted leave what every priority of the port waits for. -/
theorem State.prio_fecSeen (s : State) (q p : Nat) (f : EthFrame) : (s.fecSeen q f).prio q p = s.prio q p := by
  obtain ⟨t, ⟨r, rfl⟩, seen⟩ := s.fecSeen_eq q f
  rw [seen]
  split
  · rfl
  · rw [State.event_prio, State.prio, State.port_updPort]
    · rfl
    · intro empty
      cases show some s.ticks = none from congrArg Port.ueTick empty

/-- A frame that no rule drops joins the part of its priority. -/
theorem State.answers_frameReceive (s : State) {q : Nat} {f : EthFrame} (on : s.rxOn q = true) (kept : s.dropClass q f = none) :
    Answers (.frameReceive q f) s fun t =>
      (t.prio q (s.rxPrio q f)).rx = (s.prio q (s.rxPrio q f)).rx ++ [f] ∧ t.conns = s.conns ∧ t.tileMem = s.tileMem := by
  refine ⟨_, due_of on _, ?_⟩
  simp only [kept]
  generalize s.rxPrio q f = p
  generalize joins : ((s.fecSeen q f).updPrio q p fun x => { x with rx := x.rx ++ [f] }) = t
  have joined : t.prio q p = { s.prio q p with rx := (s.prio q p).rx ++ [f] } := by
    rw [← joins, State.prio_updPrio, State.prio_fecSeen]
    intro empty
    exact List.append_ne_nil_of_right_ne_nil _ (List.cons_ne_nil f []) (congrArg Prio.rx empty)
  have conns : t.conns = s.conns := by rw [← joins]; exact s.fecSeen_conns q f
  have stores : t.tileMem = s.tileMem := by rw [← joins]; exact s.fecSeen_tileMem q f
  have held : t.prio q p ≠ {} := by
    rw [joined]
    intro empty
    exact List.append_ne_nil_of_right_ne_nil _ (List.cons_ne_nil f []) (congrArg Prio.rx empty)
  split
  · rw [settle_prio, settle_conns, settle_tileMem, t.prio_pausePartner_rx held, joined, State.pausePartner_conns, State.pausePartner_tileMem]
    exact ⟨rfl, conns, stores⟩
  · rw [settle_prio, settle_conns, settle_tileMem, joined]
    exact ⟨rfl, conns, stores⟩

theorem eq_of_lt_eight {n : Nat} (low : n < 8) : n = 0 ∨ n = 1 ∨ n = 2 ∨ n = 3 ∨ n = 4 ∨ n = 5 ∨ n = 6 ∨ n = 7 := by omega

/-- A PFC frame that names one priority pauses that one only. -/
theorem State.pfc_single (s : State) {p : Nat} (low : p < 8) (q n : Nat) (short : n < 65536) :
    (List.range 8).foldl (fun t k => if bitAt (2 ^ p) k then t.pauseFor q k ((List.replicate p 0 ++ [n]).getD k 0 % 65536) else t) s
      = s.pauseFor q p n := by
  have word : n % 65536 = n := Nat.mod_eq_of_lt short
  rcases eq_of_lt_eight low with rfl | rfl | rfl | rfl | rfl | rfl | rfl | rfl <;> exact congrArg (s.pauseFor q _) word

theorem Prio.ne_of_ours {x : Prio} (ours : x.ours = true) : x ≠ {} := by
  rintro rfl
  cases ours

theorem State.prio_ne_of_paused {s : State} {q p : Nat} (paused : s.paused q p = true) : s.prio q p ≠ {} := by
  intro empty
  rw [State.paused, empty] at paused
  cases paused

/-- What a pause of some quanta leaves of its priority. -/
theorem State.prio_pauseFor (s : State) (q p : Nat) {n : Nat} (some_ : n ≠ 0) :
    (s.pauseFor q p n).tileMem = s.tileMem
      ∧ ((s.pauseFor q p n).prio q p).until_ = some (s.plumb.now + (512 * n + modeRate (s.port q).mode - 1) / modeRate (s.port q).mode)
      ∧ ((s.pauseFor q p n).prio q p).rx = (s.prio q p).rx ∧ ((s.pauseFor q p n).prio q p).stalled = (s.prio q p).stalled := by
  rw [State.pauseFor, if_neg some_, State.prio_updPrio, State.inc_prio]
  · exact ⟨by rw [State.inc_eq s (macReg q (0x200 + 8 * p))]; rfl, rfl, rfl, rfl⟩
  · intro empty
    cases show some _ = none from congrArg Prio.until_ empty

/-- The frames of a priority are dropped, but for those that pause. -/
def State.dropPaused (s : State) (q p : Nat) : State := s.updPort q fun y => { y with tx := y.tx.filter fun f => f.pfc.isSome || f.prio != p }

/-- After that the priority is marked stalled. -/
def State.stallPaused (s : State) (q p : Nat) : State := (s.dropPaused q p).updPrio q p ({ · with stalled := true })

/-- The watchdog drops the frames of a priority that was paused too long, and marks it stalled. -/
theorem State.answers_pauseWatchdog (s : State) {q p : Nat} (paused : s.paused q p = true) (calm : (s.prio q p).stalled = false)
    (late : (s.prio q p).pausedAt.getD s.plumb.now + s.wdogNs q ≤ s.plumb.now) :
    Answers (.pauseWatchdog q p) s fun t => (t.prio q p) = { s.prio q p with stalled := true }
      ∧ (t.port q).tx = ((s.port q).tx.filter fun f => f.pfc.isSome || f.prio != p) ∧ exec (.pauseWatchdog q p) t = .fault .notDue := by
  have held := State.prio_ne_of_paused paused
  have kept : (s.dropPaused q p).prio q p = s.prio q p := s.prio_updPort (fun _ => rfl) held
  have stalls : (s.stallPaused q p).prio q p = { s.prio q p with stalled := true } := by
    rw [State.stallPaused, State.prio_updPrio, kept]
    intro empty
    cases show true = false from congrArg Prio.stalled empty
  have queue : ((s.stallPaused q p).port q).tx = (s.port q).tx.filter fun f => f.pfc.isSome || f.prio != p := by
    have full : (s.dropPaused q p).port q = { s.port q with tx := (s.port q).tx.filter fun f => f.pfc.isSome || f.prio != p } := by
      rw [State.dropPaused, State.port_updPort]
      exact Port.ne_of_prio (p := p) held
    rw [State.stallPaused, State.updPrio, State.port_updPort, full]
    refine Port.ne_of_prio (p := p) ?_
    rw [Tab.upd, Tab.get_set_self_ne]
    all_goals
      intro empty
      cases show true = false from congrArg Prio.stalled empty
  refine ⟨_, due_of (by rw [paused, calm, decide_eq_true late]; rfl) _, ?_, ?_, ?_⟩
  · rw [settle_prio, State.event_prio, State.inc_prio, State.inc_prio]
    exact stalls
  · rw [settle_port]
    exact ((State.inc_port ..).trans (State.inc_port ..) ▸ queue : _)
  · refine if_neg ?_
    unfold State.stallPaused State.dropPaused at stalls
    rw [settle_prio, State.event_prio, State.inc_prio, State.inc_prio, stalls]
    simp
/-- Ports receive, deliver, pause and send as their rules say. -/
theorem framesPass : FramesPass := by
  intro s q p x now
  refine ⟨fun f on => ⟨fun passed => ?_, fun c dropped counted => ?_, fun given new => ⟨s.fecSeen_ports given new, s.fecSeen_conns q f, s.fecSeen_tileMem q f⟩,
      s.answers_frameReceive on⟩, fun f rest front notLldp room => ?_, fun ours on late full => ?_, fun ours late => ?_,
    fun on low n some_ short => ?_, fun t until_ past => ?_, fun paused calm late => ?_, fun stalled free late => ?_,
    fun t up sound awake next => ?_, fun f l up sound awake queued pfc => ?_⟩
  · refine (due_of on _).trans ?_
    simp only [passed]
  · refine (due_of on _).trans ?_
    obtain ⟨c, rfl⟩ := Nat.exists_eq_add_of_lt counted
    simp only [dropped]
  · intro a b c
    have answer : exec (.frameDeliver q p) s = execFrameDeliver q p s := rfl
    rw [answer, execFrameDeliver, show (s.prio q p).rx = _ from front]
    refine (due_of ?_ _).trans ?_
    · cases phisal : f.phisal
      · rfl
      · exact room phisal
    · simp only [notLldp, Bool.false_eq_true, if_false]
      rfl
  · have sent := s.prio_sendPfc p (s.quanta q) (Prio.ne_of_ours ours)
    refine ⟨_, due_of (by rw [show (s.prio q p).ours = true from ours, on, decide_eq_true late, decide_eq_true full]; rfl) _, ?_,
      (settle_conns _).trans (s.sendPfc_conns ..)⟩
    rw [settle_prio, State.prio_updPrio, sent]
    rw [sent]
    exact Prio.ne_of_ours ours
  · have sent := s.prio_sendPfc p 0 (Prio.ne_of_ours ours)
    refine ⟨_, due_of (by rw [show (s.prio q p).ours = true from ours, decide_eq_true late]; rfl) _, ?_,
      (settle_conns _).trans (s.sendPfc_conns ..)⟩
    rw [settle_prio, State.event_prio, State.prio_updPrio, sent]
    intro empty
    cases show true = false from congrArg Prio.limit empty
  · refine ⟨_, due_of on _, ?_⟩
    dsimp only
    rw [s.pfc_single low q n short, settle_prio, settle_tileMem]
    exact s.prio_pauseFor q p (Nat.ne_of_gt some_)
  · have answer : exec (.pauseExpiry q p) s = execPauseExpiry q p s := rfl
    rw [answer, execPauseExpiry, show (s.prio q p).until_ = _ from until_]
    exact due_of (decide_eq_true past) _
  · exact s.answers_pauseWatchdog paused calm late
  · exact due_of (by rw [show (s.prio q p).stalled = true from stalled, free, decide_eq_true (show _ ≤ _ from late)]; rfl) _
  · have answer : exec (.frameTransmit q) s = execFrameTransmit q s := rfl
    rw [answer, execFrameTransmit, if_pos (by rw [up, sound, awake]; rfl), next]
    rfl
  · have answer : exec (.frameTransmit q) s = execFrameTransmit q s := rfl
    have first : (s.port q).tx.find? (·.pfc.isSome) = some f := by
      rw [queued]
      exact List.find?_cons_of_pos (Option.isSome_iff_ne_none.mpr pfc)
    have next : s.nextFrame q = some (s.startFrame q f) := by
      unfold State.nextFrame
      simp only [first]
    rw [answer, execFrameTransmit, if_pos (by rw [up, sound, awake]; rfl), next]
    rfl

/-- Cutting a frame off leaves a port that holds something else as it was but for that frame. -/
theorem State.port_cutFrame (s : State) {q : Nat} (held : (s.port q).link ≠ 0) : (s.cutFrame q).port q = { s.port q with cur := none } := by
  unfold State.cutFrame
  split
  case h_1 t f now =>
    have cut := s.port_updPort (q := q) (g := ({ · with cur := none })) fun empty => held (congrArg Port.link empty)
    dsimp only
    split
    · rw [State.inc_port, cut]
    · exact cut
  case h_2 idle => rw [← idle]

theorem State.updPort_congr (s : State) {q : Nat} {g h : Port → Port} (same : g (s.port q) = h (s.port q)) : s.updPort q g = s.updPort q h :=
  congrArg (fun x => { s with ports := s.ports.set {} q x }) same

/-- Links change as their rules say. -/
theorem linksChange : LinksChange := by
  intro s q x now
  refine ⟨fun on => ⟨fun there sound => ?_, fun fault up => ?_, fun down notUp => ?_, fun bounce sound late => ?_⟩, fun up fault late => ?_,
    fun holding late => ?_, fun up enabled able agreed awake idle free late => ?_, fun t wakes asleep past => ?_, fun up w short => ?_,
    fun on able => ⟨fun awake => ?_, fun asleep => ?_⟩, fun there other one => ?_⟩
  · refine ⟨_, due_of (by rw [on, bne_iff_ne.mpr there, show (s.port q).fault = false from sound]; rfl) _, ?_⟩
    have falls : (settle ((s.cutFrame q).updPort q fun x => { x with fault := true, faultAt := s.plumb.now, link := if x.link = 1 then 0 else x.link })).port q
        = { x with fault := true, faultAt := now, link := if x.link = 1 then 0 else x.link, cur := none } := by
      rw [settle_port, State.port_updPort, s.port_cutFrame there]
      intro empty
      cases show true = false from congrArg Port.fault empty
    dsimp only
    rw [falls]
    exact ⟨rfl, rfl, rfl, rfl, rfl⟩
  · refine (due_of (by rw [on, show (s.port q).fault = true from fault]; rfl) _).trans ?_
    exact congrArg (fun t => Host.Outcome.next (settle t)) (s.updPort_congr (if_pos up))
  · refine ⟨_, due_of (by rw [on, down]; rfl) _, ?_, settle_conns _⟩
    rw [settle_port, State.port_updPort]
    · exact if_neg notUp
    · rw [if_neg notUp]
      intro empty
      cases show 1 = 0 from congrArg Port.link empty
  · exact due_of (by rw [on, show (s.port q).link = 1 from bounce, show (s.port q).fault = false from sound, decide_eq_true late]; rfl) _
  · exact due_of (by rw [show (s.port q).link = 2 from up, show (s.port q).fault = true from fault, decide_eq_true late]; rfl) _
  · exact due_of (by rw [show (s.port q).holding = true from holding, decide_eq_true late]; rfl) _
  · refine ⟨_, due_of (by rw [up, enabled, show (s.port q).lpiDef = true from able, show (s.port q).lpiDone = true from agreed,
      show (s.port q).lpiTx = false from awake, show (s.port q).tx = [] from idle, show (s.port q).cur = none from free, decide_eq_true late]; rfl) _,
      ?_, (settle_conns _).trans (s.inc_conns ..)⟩
    rw [settle_port, State.port_updPort, State.inc_port]
    intro empty
    cases show true = false from congrArg Port.lpiTx empty
  · have answer : exec (.lpiWake q) s = execLpiWake q s := rfl
    rw [answer, execLpiWake, show (s.port q).wakeAt = some t from wakes]
    exact due_of (by rw [show (s.port q).lpiTx = true from asleep, decide_eq_true past]; rfl) _
  · refine ⟨_, due_of (beq_iff_eq.mpr up) _, ?_⟩
    dsimp only
    rw [settle_port, State.port_updPort, Nat.mod_eq_of_lt short]
    intro empty
    cases show true = false from congrArg Port.lpiDone empty
  · refine ⟨_, due_of on _, ?_⟩
    dsimp only
    rw [if_neg (by simp [show (s.port q).lpiDef = true from able, show (s.port q).lpiRx = false from awake]), if_pos rfl, settle_port,
      State.port_updPort, State.inc_port]
    intro empty
    cases show true = false from congrArg Port.lpiRx empty
  · refine (due_of on _).trans ?_
    rw [if_neg (by simp [show (s.port q).lpiDef = true from able, show (s.port q).lpiRx = true from asleep]), if_neg Bool.false_ne_true]
  · refine (due_of (by rw [there, bne_iff_ne.mpr other]; rfl) _).trans ?_
    rw [if_neg (by rw [one]; exact Bool.false_ne_true)]

/-- Settles O50: ports receive, deliver, pause, send and change their links as their rules say. -/
theorem portsRun : Obligations.PortsRun := ⟨framesPass, linksChange⟩

end Sys2Proof.Machine
end

section
/-! PROOFS. Resets of functions and controllers, mailboxes and the core cluster (13_host_functions_and_rings.md, 14_infrastructure_cores_and_security.md). -/

namespace Sys2Proof.Machine

/-! ### Resets of functions and controllers, mailboxes and the core cluster (13 R338, R358, R363; 14 R368 to R375) -/

@[simp] theorem State.inc_cores (s : State) (a n : Nat) : (s.inc a n).cores = s.cores := by rw [State.inc_eq s a n]

/-! #### Functions -/

theorem State.disableVf_of_off {s : State} {f : Nat} (off : (s.fn f).st = 0) : s.disableVf f = s := if_pos off

/-- Where no function but PF0 is active, disabling each changes nothing. -/
theorem State.foldl_disableVf {s : State} (off : ∀ i, (s.fn i).st = 0 ∨ i = 0) (l : List Nat) :
    l.foldl (fun s i => s.disableVf (i + 1)) s = s := by
  induction l with
  | nil => rfl
  | cons i l ih => rw [List.foldl_cons, State.disableVf_of_off ((off (i + 1)).resolve_right (Nat.succ_ne_zero i)), ih]

theorem State.flr_of_off {s : State} {f : Nat} (off : ¬((s.fn f).st = 1 ∨ (s.fn f).st = 2)) : s.flr f = s := if_neg off

theorem State.flr_of_on {s : State} {f : Nat} (vf : f ≠ 0) (on : (s.fn f).st = 1 ∨ (s.fn f).st = 2) : s.flr f = (s.flrStart f).arbEnter := by
  unfold State.flr
  simp only [if_neg vf, if_pos on, List.foldl_cons, List.foldl_nil]

/-! #### Mailboxes -/

theorem State.box_of_mbx {s t : State} (same : t.mbx = s.mbx) (b : Nat) : t.box b = s.box b := congrArg (fun x : Tab Mbx => x.get {} b) same

@[simp] theorem settle_box (s : State) (b : Nat) : (settle s).box b = s.box b := State.box_of_mbx (settle_mbx s) b

@[simp] theorem mbxRec_box (b fn peer what seq : Nat) (s : State) (k : Nat) : (mbxRec b fn peer what seq s).box k = s.box k := by
  unfold mbxRec State.notify
  split
  · rfl
  · split <;> rfl

/-- What a box holds after a change to something other than its empty value. -/
theorem State.box_updBox (s : State) {b : Nat} {g : Mbx → Mbx} (full : g (s.box b) ≠ {}) : (s.updBox b g).box b = g (s.box b) :=
  Tab.get_set_self_ne s.mbx {} b (g (s.box b)) full

/-- A message without a tag is in the receiver's box. -/
theorem State.box_mbxDeliver (s : State) {b : Nat} (plain : (s.box b).control = false) : ((s.mbxDeliver b).box b).full = true
    ∧ ((s.mbxDeliver b).box b).sent = false ∧ ((s.mbxDeliver b).box b).verified = false ∧ ((s.mbxDeliver b).box b).inSeq = (s.box b).seq
    ∧ ((s.mbxDeliver b).box b).busy = (s.box b).busy := by
  unfold State.mbxDeliver State.mbxMessage
  simp only [plain, Bool.false_eq_true, if_false, if_true, mbxRec_box]
  rw [State.box_updBox]
  · exact ⟨rfl, rfl, by rw [plain]; rfl, rfl, rfl⟩
  · intro empty
    cases show true = false from congrArg Mbx.full empty

/-! #### Lines of the core cluster -/

theorem ownOrder_mod (p : Nat) (reqs : List Nat) : ownOrder (p % 16) reqs = ownOrder p reqs := by
  simp only [ownOrder, Nat.mod_add_mod]

/-- One requester is served alone. -/
theorem ownOrder_single {a : Nat} (p : Nat) (core : a < 16) : ownOrder p [a] = [a] := by
  have turns : ∀ p < 16, ∀ a < 16, ownOrder p [a] = [a] := by decide
  rw [← ownOrder_mod, turns _ (Nat.mod_lt p (by decide)) a core]

/-- Two requesters are served in rotation from the pointer on. -/
theorem ownOrder_pair : ∀ p < 16, ∀ b < 16, ∀ a < b, ownOrder p [a, b] = if a < p ∧ p ≤ b then [b, a] else [a, b] := by decide

@[simp] theorem State.ownLine_mem (s : State) (line : Nat) (ord : List Nat) : (s.ownLine line ord).mem = s.mem := by
  unfold State.ownLine
  split
  · rw [State.inc_eq s]
    rfl
  · rfl

/-- What the requesters of a line do, where the error that the cache reports is one that the line's state allows. -/
theorem exec_ownershipRequest {s : State} {line : Nat} {reqs : List Nat} {err : CacheErr} (asked : reqs ≠ [])
    (online : ∀ n ∈ reqs, n < 16 ∧ s.coreOnline n = true) (may : (s.cores.dir.get {} line).mayErr err = true)
    (free : s.meetsNoFence (if (s.cacheErr line err).2 = true then
      (s.cacheErr line err).1.ownLine line (ownOrder (s.cores.ptr.get 0 (homeSlice line)) reqs) else (s.cacheErr line err).1)) :
    exec (.ownershipRequest line reqs err) s = .next (settle (if (s.cacheErr line err).2 = true then
      (s.cacheErr line err).1.ownLine line (ownOrder (s.cores.ptr.get 0 (homeSlice line)) reqs) else (s.cacheErr line err).1)) := by
  have cause : (!reqs.isEmpty && reqs.all fun n => decide (n < 16) && s.coreOnline n) = true := by
    simpa [asked] using online
  exact dueMem_of (by rw [cause, may]; rfl) free

/-- A line without an uncorrectable word goes to the requesters. -/
theorem exec_ownershipRequest_none {s : State} {line : Nat} {reqs : List Nat} (asked : reqs ≠ []) (online : ∀ n ∈ reqs, n < 16 ∧ s.coreOnline n = true) :
    exec (.ownershipRequest line reqs .none) s
      = .next (settle (s.ownLine line (ownOrder (s.cores.ptr.get 0 (homeSlice line)) reqs))) :=
  exec_ownershipRequest asked online rfl (congrArg MemMap.stalled (s.ownLine_mem line _))

/-- The line with the requesters that it goes to in turn. -/
theorem State.ownLine_cores_single (s : State) (line a : Nat) :
    (s.ownLine line [a]).cores = { s.cores with dir := s.cores.dir.set {} line { modified := true, sharers := 1#16 <<< a } } := rfl

theorem State.ownLine_cores_pair (s : State) (line a b : Nat) : (s.ownLine line [a, b]).cores = { s.cores with
    ptr := s.cores.ptr.set 0 (homeSlice line) ((a + 1) % 16), dir := s.cores.dir.set {} line { modified := true, sharers := 1#16 <<< b } } := by
  show State.cores (State.updCores _ _) = _
  rw [State.inc_eq s (Blk.core.at 0 0x058)]
  rfl

/-! #### The neighbour cache -/

/-- Entries of the neighbour cache age one by one: nothing else changes. -/
theorem State.foldl_nb (l : List Nat) {f : State → Nat → State} (step : ∀ s i, ∃ nb, f s i = s.updCores ({ · with nb })) (s : State) :
    ∃ nb, l.foldl f s = s.updCores ({ · with nb }) := by
  induction l generalizing s with
  | nil => exact ⟨s.cores.nb, rfl⟩
  | cons i l ih =>
    obtain ⟨a, once⟩ := step s i
    obtain ⟨b, rest⟩ := ih (f s i)
    refine ⟨b, ?_⟩
    rw [List.foldl_cons, rest, once]
    rfl

/-- What a visit of the sweep does to a set (14 R375). -/
def State.nbSwept (s : State) (set : Nat) : State :=
  let period := 2 ^ s.fld (Blk.core.at 0 0x040) 19 16
  let amax := s.fld (Blk.core.at 0 0x040) 22 20
  let s := s.updCores fun c => { c with
    nbSweep := (set + 1) % 256, nbFrom := if set = 255 then c.nbFrom + period else c.nbFrom }
  if amax = 0 then s else
    (List.range 4).foldl (fun s i => match s.cores.nb.get none (4 * set + i) with
      | none => s
      | some e => s.updCores fun c => { c with
          nb := c.nb.set none (4 * set + i) (if amax ≤ e.age then none else some { e with age := e.age + 1 }) }) s

theorem State.nbSweep_eq (s : State) (set : Nat) : ∃ nb, s.nbSwept set = { s with cores := { s.cores with
    nb, nbSweep := (set + 1) % 256, nbFrom := if set = 255 then s.cores.nbFrom + 2 ^ s.fld (Blk.core.at 0 0x040) 19 16 else s.cores.nbFrom } } := by
  unfold State.nbSwept
  dsimp only
  split
  · exact ⟨s.cores.nb, rfl⟩
  · refine State.foldl_nb _ (fun t i => ?_) _
    split
    · exact ⟨t.cores.nb, rfl⟩
    · exact ⟨_, rfl⟩

/-- Settles O52: resets of functions and controllers, mailboxes, ownership of lines and the neighbour cache. -/
theorem functionsMailboxesAndCores : Obligations.FunctionsMailboxesAndCores := by
  unfold Obligations.FunctionsMailboxesAndCores
  intro s f
  refine ⟨fun off enabled => ?_, fun vf on => ?_, fun t began resetting past => ?_, rfl, fun off => ?_, fun off n => ?_, fun ctl low => due_of (decide_eq_true low) _,
    fun low high from_ => ?_, ?_, ?_, ?_, ?_⟩
  · exact congrArg (fun t => Host.Outcome.next (settle t)) (State.flr_of_off (not_or.mpr ⟨off, enabled⟩))
  · exact congrArg (fun t => Host.Outcome.next (settle t)) (State.flr_of_on vf on)
  · have answer : exec (.flrBound f) s = execFlrBound f s := rfl
    rw [answer, execFlrBound, began]
    exact due_of (by rw [resetting, decide_eq_true past]; rfl) _
  · exact congrArg (fun t => Host.Outcome.next (settle t)) (if_pos off)
  · exact congrArg (fun t => Host.Outcome.next (settle t)) (State.foldl_disableVf off _)
  · intro b m
    refine ⟨fun sent => ?_, fun busy waits late => ?_⟩
    · have cause : (decide (1 ≤ f) && decide (f < 512) && (s.box b).sent) = true := by rw [decide_eq_true low, decide_eq_true high, sent]; rfl
      have answer : exec (.mbxDeliver f from_) s = .next (settle (s.mbxDeliver b)) := due_of cause _
      refine ⟨answer, fun plain => ⟨_, answer, ?_⟩⟩
      dsimp only
      rw [settle_box]
      exact s.box_mbxDeliver plain
    · have cause : (decide (1 ≤ f) && decide (f < 512) && (s.box b).busy && !(s.box b).timedOut
          && decide ((s.box b).sendTick + s.fld (Blk.mbx.at f 0x048) 15 0 ≤ s.ticks)) = true := by
        rw [decide_eq_true low, decide_eq_true high, show (s.box b).busy = true from busy, show (s.box b).timedOut = false from waits, decide_eq_true late]
        rfl
      have box : (settle (mbxRec b (mbxSides b).1 (mbxSides b).2 3 m.seq (s.updBox b ({ · with timedOut := true })))).box b
          = { m with timedOut := true } := by
        rw [settle_box, mbxRec_box, State.box_updBox]
        intro empty
        cases show true = false from congrArg Mbx.timedOut empty
      refine ⟨_, due_of cause _, box, if_neg ?_⟩
      rw [box]
      simp
  · intro line a core online owned old
    have only : ∀ n ∈ [a], n < 16 ∧ s.coreOnline n = true := by simpa using ⟨core, online⟩
    have order := ownOrder_single (s.cores.ptr.get 0 (homeSlice line)) core
    refine ⟨⟨_, exec_ownershipRequest_none (List.cons_ne_nil a []) only, ?_⟩, ?_, fun clean => ?_, fun modified data whole => ?_⟩
    · refine (settle_cores _).trans ?_
      rw [order, State.ownLine_cores_single]
    · refine (exec_ownershipRequest (List.cons_ne_nil a []) only rfl ?_).trans (by rw [order]; rfl)
      refine congrArg MemMap.stalled ((State.ownLine_mem _ line _).trans ?_)
      rw [State.cacheErr, State.inc_eq s]
    · intro p free
      have kind : (s.cacheErr line .clean).2 = (p.2.kind == 0) := rfl
      refine (exec_ownershipRequest (List.cons_ne_nil a []) only (by rw [DirEnt.mayErr, clean]; rfl) ?_).trans ?_
      · rw [order, kind]
        refine Eq.trans ?_ free
        split
        · exact congrArg MemMap.stalled (State.ownLine_mem _ line _)
        · rfl
      · rw [order, kind]
        simp only [beq_iff_eq]
        rfl
    · intro at_ u free
      exact exec_ownershipRequest (List.cons_ne_nil a []) only (by rw [DirEnt.mayErr, modified, whole]; rfl) free
  · intro line a b less core onlineA onlineB p first pointer
    have both : ∀ n ∈ [a, b], n < 16 ∧ s.coreOnline n = true := by simpa using ⟨⟨Nat.lt_trans less core, onlineA⟩, core, onlineB⟩
    refine ⟨_, exec_ownershipRequest_none (List.cons_ne_nil a [b]) both, ?_⟩
    refine (settle_cores _).trans ?_
    rw [ownOrder_pair p pointer b core a less]
    by_cases turned : a < p ∧ p ≤ b
    · have chosen : first = b := if_pos turned
      rw [if_pos turned, State.ownLine_cores_pair, chosen, if_neg (Nat.ne_of_gt less)]
    · have chosen : first = a := if_neg turned
      rw [if_neg turned, State.ownLine_cores_pair, chosen, if_pos rfl]
  · intro n core asked present
    refine ⟨_, due_of (by rw [decide_eq_true core, asked, present]; rfl) _, ?_⟩
    refine ⟨congrArg Cores.offline (settle_cores _), ?_, fun x listed => ?_, settle_ctxs _⟩
    · rw [State.coreOnline, settle_cores]
      exact Bool.and_eq_false_imp.mpr fun _ => by simp [State.event, State.push, State.updCores, core]
    · rw [settle_cores] at listed
      obtain ⟨y, -, kept⟩ := List.mem_filterMap.mp listed
      dsimp only at kept
      split at kept
      · cases kept
      · cases kept
        simp [core]
  · intro period low past
    refine ⟨_, due_of (by rw [decide_eq_true low, decide_eq_true past, beq_self_eq_true]; rfl) _, ?_⟩
    obtain ⟨nb, swept⟩ := s.nbSweep_eq s.cores.nbSweep
    have same : settle (s.nbSwept s.cores.nbSweep) = settle { s with cores := { s.cores with
        nb, nbSweep := (s.cores.nbSweep + 1) % 256, nbFrom := if s.cores.nbSweep = 255 then s.cores.nbFrom + period else s.cores.nbFrom } } :=
      congrArg settle swept
    dsimp only
    refine same.symm ▸ ⟨?_, ?_, ?_, settle_conns _⟩ <;> rw [settle_cores]

end Sys2Proof.Machine
end

section
/-! PROOFS. Work queues, event queues and the host links (12_arbitration_shaping_and_isolation.md R322; 13_host_functions_and_rings.md R340 to R362). -/

namespace Sys2Proof.Machine

/-! ### Work queues, event queues and the host links (12 R322; 13 R340 to R356) -/

/-- A descriptor of the right opcode runs, or ends with status privilege. -/
theorem descriptorRuns_of_wdExec {c : Instr} {op q n : Nat} {run : State → Job → State} {s : State} (answer : exec c s = wdExec op q n s run) :
    DescriptorRuns c op q n run s := by
  intro j issued same t u free
  rw [answer, wdExec, issued]
  exact dueMem_of (beq_iff_eq.mpr same) free

/-- A descriptor's effect may be written in another way that gives the same state. -/
theorem DescriptorRuns.congr {c : Instr} {op q n : Nat} {f g : State → Job → State} {s : State} (h : DescriptorRuns c op q n f s)
    (same : ∀ t j, f t j = g t j) : DescriptorRuns c op q n g s := by
  rwa [show g = f from funext fun t => funext fun j => (same t j).symm]

/-- A range of a table has an entry. -/
theorem tableRange_ne_nil (d : Desc) (size : Nat) : tableRange d size ≠ some [] := by
  unfold tableRange
  dsimp only
  split
  case isTrue range =>
    intro empty
    have none_ : bits d.o8 63 32 = 0 := by simpa using empty
    exact absurd range.1 (by rw [none_]; decide)
  case isFalse => exact nofun

/-- The work descriptors and table commands run as their rows of Table 13.5 say. -/
theorem descriptorsRun : DescriptorsRun := by
  intro s q n src bad
  refine ⟨descriptorRuns_of_wdExec rfl, descriptorRuns_of_wdExec rfl, descriptorRuns_of_wdExec rfl, descriptorRuns_of_wdExec rfl,
    descriptorRuns_of_wdExec rfl, descriptorRuns_of_wdExec rfl, descriptorRuns_of_wdExec rfl, ?_, descriptorRuns_of_wdExec rfl, ?_⟩
  · have runs : exec (.wqDisable q n) s = execWqDisable q n s := rfl
    unfold execWqDisable at runs
    refine (descriptorRuns_of_wdExec runs).congr fun t j => ?_
    dsimp only
    cases range : tableRange j.d 65536 with
    | none => rfl
    | some es =>
      cases es with
      | nil => exact absurd range (tableRange_ne_nil j.d 65536)
      | cons x xs => rfl
  · have runs : exec (.fnRemove q n) s = execFnRemove q n s := rfl
    unfold execFnRemove at runs
    refine (descriptorRuns_of_wdExec runs).congr fun t j => ?_
    dsimp only
    cases range : tableRange j.d 512 with
    | none => rfl
    | some es =>
      cases es with
      | nil => exact absurd range (tableRange_ne_nil j.d 512)
      | cons x xs => rfl

/-- Doorbells, fetches, completions, messages and reads over PCIe act as their rules say. -/
theorem ringsRun : RingsRun := by
  intro s
  refine ⟨fun t grant => ?_, fun fn slot v => ⟨fun absent => ?_, fun q queue takes => ?_, fun q e count found takes => ?_⟩, ?_, ?_, ?_, ?_, ?_, ?_⟩
  · have answer : exec .descriptorIssue s = execDescriptorIssue s := rfl
    rw [answer, execDescriptorIssue, grant]
    rfl
  · have answers : exec (.wqDoorbell fn slot v) s = execWqDoorbell fn slot v s ∧ exec (.cqConsumerWrite fn slot v) s = execCqConsumerWrite fn slot v s :=
      ⟨rfl, rfl⟩
    rw [answers.1, answers.2, execWqDoorbell, execCqConsumerWrite, absent]
    exact ⟨rfl, rfl⟩
  · have answers : exec (.wqDoorbell fn slot v) s = execWqDoorbell fn slot v s ∧ exec (.cqConsumerWrite fn slot v) s = execCqConsumerWrite fn slot v s :=
      ⟨rfl, rfl⟩
    intro w
    rw [answers.1, answers.2, execWqDoorbell, execCqConsumerWrite, queue]
    dsimp only
    refine ⟨by rw [if_pos takes]; rfl, fun runs moves free => ?_⟩
    rw [if_neg (by simp [takes, show (s.wq q).st = 1 from runs, show v.toNat ≠ (s.wq q).p from moves]), free]
    exact (apply_ite (fun t => done t) _ _ _).symm
  · have answer (arm) : exec (.evqDoorbell fn slot count arm) s = execEvqDoorbell fn slot count arm s := rfl
    rw [answer, answer, execEvqDoorbell, execEvqDoorbell, found]
    dsimp only
    simp only [takes, Bool.not_true, Bool.not_false, Bool.false_eq_true, if_false, if_true]
    exact ⟨rfl, rfl⟩
  · intro q host w noReplay noRecord may released free
    have answer : exec (.descriptorFetch q host) s = execDescriptorFetch q host s := rfl
    rw [answer, execDescriptorFetch, show s.rpFn (s.wq q).cfg.owner 2 = none from noReplay, show s.rpFn (s.wq q).cfg.owner 1 = none from noRecord]
    exact dueMem_of (by rw [show s.canFetch (s.wq q) = true from may, bne_iff_ne.mpr released]; rfl) free
  · intro q j w finished silent t
    have answer : exec (.descriptorComplete q j.entry) s = execDescriptorComplete q j.entry s := rfl
    rw [answer, execDescriptorComplete, show (s.wq q).jobs.find? _ = some j from finished]
    exact due_of (beq_self_eq_true j.entry) _
  · intro v x t valid owes takes moderate
    have calm : (match x.lastMsg with
        | some t => decide (t + 1000 * x.moderation ≤ s.plumb.now)
        | none => true) = true := by
      split
      case h_1 last sent => exact decide_eq_true (moderate last sent)
      case h_2 => rfl
    exact due_of (by rw [show (s.evqs.get {} v).valid = true from valid, show (s.evqs.get {} v).msgDue = true from owes, takes]; exact calm) _
  · intro fn v takes low t
    exact due_of (by rw [takes, decide_eq_true low]; rfl) _
  · intro ctl tag data bad rest t
    have answers : exec (.pcieCompletion ctl tag data bad) s = execPcieCompletion ctl tag data bad s
      ∧ exec (.completionTimeout ctl tag) s = execCompletionTimeout ctl tag s := ⟨rfl, rfl⟩
    refine ⟨fun absent low => ?_, fun r asked => ⟨fun whole => ?_, fun late => ?_⟩⟩
    · rw [answers.1, execPcieCompletion, absent]
      exact due_of (decide_eq_true low) _
    · intro u free
      rw [answers.1, execPcieCompletion, asked]
      exact dueMem_of (by simpa using whole) free
    · rw [answers.2, execCompletionTimeout, asked]
      exact due_of (decide_eq_true late) _
  · intro ctl addr len data xl root some_ short c
    have cause : (s.rootPort ctl && decide (1 ≤ len) && decide (len ≤ 4096)) = true := by
      rw [root, decide_eq_true some_, decide_eq_true short]
      rfl
    refine ⟨fun refused => ?_, fun plain works => ?_⟩
    · have refusal : (!bitAt (s.rpWord ctl) 31 || xl) = true := by
        rcases refused with asks | off
        · rw [asks, Bool.or_true]
        · rw [off]; rfl
      refine (dueMem_of cause ?_).trans ?_
      · rw [if_pos refusal]
        split <;> rw [State.inc_eq s (Blk.pcie.at ctl 0x070)] <;> rfl
      · rw [if_pos refusal]
    · intro u free
      have served : (!bitAt (s.rpWord ctl) 31 || xl) = false := by rw [plain, works]; rfl
      refine (dueMem_of cause ?_).trans ?_
      · rw [served]
        exact free
      · rw [served]
        rfl

/-- Settles O51: descriptors, doorbells, fetches, completions, messages and reads over PCIe. -/
theorem queuesRun : Obligations.QueuesRun := ⟨descriptorsRun, ringsRun⟩

end Sys2Proof.Machine
end

section
/-! PROOFS. Freezes, flushes and held writes (15_reliability_and_records.md R403 to R408). -/

namespace Sys2Proof.Machine

/-! ### Freezes, flushes and held writes (15 R403 to R405, R408) -/

/-! #### Writing records neither freezes nor thaws the ring -/

@[simp] theorem State.inc_recs (s : State) (a n : Nat) : (s.inc a n).recs = s.recs := by rw [State.inc_eq s a n]

@[simp] theorem State.notify_recs (s : State) (f : Nat) (r : EvqRec) : (s.notify f r).recs = s.recs := by
  unfold State.notify
  split
  · rfl
  · split <;> rfl

@[simp] theorem State.memWrite_recs (s : State) (rq off : Nat) (d : List Byte) (fe : Option Bool) : (s.memWrite rq off d fe).1.recs = s.recs := by
  rw [(State.memWrite_memStep ..).1]

@[simp] theorem storeEvent_frozen (s : State) (e : Ev) : (storeEvent s e).recs.frozen = s.recs.frozen := by
  unfold storeEvent
  dsimp only
  split
  · split <;> simp [State.startFlush]
  · split <;> split <;> simp [State.startFlush]

@[simp] theorem settleOne_frozen (s : State) (t : Todo) : (settleOne s t).recs.frozen = s.recs.frozen := by
  cases t with
  | event e =>
    show (settleEvent s e).recs.frozen = _
    unfold settleEvent
    dsimp only
    rw [storeEvent_frozen]
    split
    · rw [State.notify_recs]
      rfl
    · rfl
  | audit a =>
    show (settleAudit s a).recs.frozen = _
    have stored : (storeAudit s { time := s.plumb.now, entry := a }).recs.frozen = s.recs.frozen := by
      simp [storeAudit]
    unfold settleAudit
    dsimp only
    split
    · rw [State.memWrite_recs, stored]
    · exact stored
  | evq q r =>
    show (settleEvq s q r).recs.frozen = _
    unfold settleEvq
    dsimp only
    split
    · rfl
    · split
      · exact congrArg Recs.frozen (State.inc_recs ..)
      · split
        · rw [State.memWrite_recs]
        · rfl

@[simp] theorem settle_frozen (s : State) : (settle s).recs.frozen = s.recs.frozen := by
  have round (s : State) : (settleRound s).recs.frozen = s.recs.frozen :=
    State.foldl_eq_of_step_eq (fun t : State => t.recs.frozen) settleOne settleOne_frozen _ _
  have rounds (n : Nat) (s : State) : (settleRounds n s).recs.frozen = s.recs.frozen := by
    induction n generalizing s with
    | zero => rfl
    | succ n ih =>
      unfold settleRounds
      split
      · rfl
      · rw [ih, round]
  exact rounds 64 s

/-! #### What a flush has read of the ring -/

/-- The ring, the place to which it is flushed and what was rolled out are the same. -/
def SameRoll (s t : State) : Prop :=
  t.recs.ring = s.recs.ring ∧ t.recs.flushIdx = s.recs.flushIdx ∧ t.recs.flushTo = s.recs.flushTo ∧ t.recs.rollProd = s.recs.rollProd

theorem SameRoll.of_recs {s t : State} (same : t.recs = s.recs) : SameRoll s t := by rw [SameRoll, same]; exact ⟨rfl, rfl, rfl, rfl⟩

theorem SameRoll.trans {s t u : State} (h : SameRoll s t) (k : SameRoll t u) : SameRoll s u := by
  obtain ⟨a, b, c, d⟩ := h
  obtain ⟨a', b', c', d'⟩ := k
  exact ⟨a'.trans a, b'.trans b, c'.trans c, d'.trans d⟩

theorem SameRoll.between {s t : State} (h : SameRoll s t) :
    t.recs.between t.recs.flushIdx (max t.recs.flushTo t.recs.flushIdx) = s.recs.between s.recs.flushIdx (max s.recs.flushTo s.recs.flushIdx) := by
  obtain ⟨ring, idx, upto, -⟩ := h
  simp only [Recs.between, ring, idx, upto]

@[simp] theorem State.useKey_recs (s : State) (name : Nat) : (s.useKey name).recs = s.recs := by
  unfold State.useKey
  split
  · rfl
  · simp only [State.deriveKey, State.cmacRun, State.inc_recs]

theorem State.fillFirst_sameRoll (s : State) (left : Nat) : SameRoll s (s.fillFirst left).1 := by
  unfold State.fillFirst
  dsimp only
  split <;> exact ⟨rfl, rfl, rfl, rfl⟩

theorem State.audDrain_sameRoll (s : State) (n : Nat) : SameRoll s (s.audDrain n) := by
  unfold State.audDrain
  extract_lets q a b
  split
  · exact .of_recs rfl
  · have counted : b.recs = s.recs := by rw [State.inc_recs, State.inc_recs, State.useKey_recs]
    clear_value b
    exact SameRoll.trans (.of_recs counted) ⟨rfl, rfl, rfl, rfl⟩

/-- No flush runs, and `n` records have been rolled out. -/
def Rolled (n : Nat) (t : State) : Prop := t.recs.flushing = false ∧ t.recs.rollProd = n

/-- A flush that ends has rolled out what it covered. -/
theorem State.flushDone_rolled (s : State) :
    Rolled (s.recs.rollProd + (s.recs.between s.recs.flushIdx (max s.recs.flushTo s.recs.flushIdx)).length) s.flushDone := by
  have first := s.fillFirst_sameRoll (if s.recs.flushPower = true then powerGroups else 2 ^ 32)
  unfold State.flushDone
  extract_lets power
  split
  rename_i t a filled
  extract_lets u r rs room n tagged lost v w x
  have roll : SameRoll s u := by
    refine SameRoll.trans (t := t) (by rwa [filled] at first) ?_
    show SameRoll t (if power = true then t.audDrain 1024 else t)
    split
    · exact t.audDrain_sameRoll 1024
    · exact .of_recs rfl
  have read : rs.length = (s.recs.between s.recs.flushIdx (max s.recs.flushTo s.recs.flushIdx)).length :=
    List.length_reverse.trans (congrArg List.length roll.between)
  have before : v.recs.rollProd = s.recs.rollProd := by
    rw [State.inc_recs, State.useKey_recs]
    exact roll.2.2.2
  clear_value rs n tagged lost v
  have counted : w.recs = _ := State.inc_recs _ 0x6080 1
  have after : Rolled (s.recs.rollProd + (s.recs.between s.recs.flushIdx (max s.recs.flushTo s.recs.flushIdx)).length) w := by
    rw [Rolled, counted, ← read, ← before]
    exact ⟨rfl, rfl⟩
  split <;> exact after

/-- Freezes, flushes and held register writes end as their rules say. -/
theorem recordsFlush : RecordsFlush := by
  intro s
  refine ⟨fun frozen late => ?_, fun flushing => ⟨due_of flushing _, s.flushDone_rolled.1, s.flushDone_rolled.2⟩, fun us held room => ?_⟩
  · have thawed : (settle (((s.unfreeze.setReg 0x6040 (s.reg 0x6040 / 2 * 2)).audit
        { org := .island, kind := 0, sec := true, addr := 0x6040, old := s.reg 0x6040, new := s.reg 0x6040 / 2 * 2 }).event
        { blk := .evr, num := 1, p0 := s.recs.freezeCount })).recs.frozen = false := settle_frozen _
    refine ⟨_, due_of (by rw [frozen, decide_eq_true late]; rfl) _, thawed, if_neg ?_⟩
    rw [thawed]
    exact Bool.false_ne_true
  · exact due_of (by simp [held, room]) _

end Sys2Proof.Machine
end

section
/-! PROOFS. Power, temperature and heartbeats (16_bringup_power_and_management.md R417 to R425). -/

namespace Sys2Proof.Machine

theorem State.foldl_dust {β : Type} {f : State → β → State} (hf : ∀ s x, (f s x).dust = s.dust) (l : List β) (s : State) :
    (l.foldl f s).dust = s.dust := foldl_eq_of_step_eq State.dust f hf l s

@[simp] theorem State.inc_dust (s : State) (a n) : (s.inc a n).dust = s.dust := by
  rw [(State.inc_memStep ..).1]

@[simp] theorem State.memRead_dust (s : State) (rq off n) : (s.memRead rq off n).1.dust = s.dust := by
  rw [(State.memRead_memStep ..).1]

@[simp] theorem State.memWrite_dust (s : State) (rq off d fe) : (s.memWrite rq off d fe).1.dust = s.dust := by
  rw [(State.memWrite_memStep ..).1]

@[simp] theorem State.pldm_dust (s : State) (e) : (s.pldm e).dust = s.dust := by
  unfold State.pldm
  grind only [State.inc_dust, State.event_dust]

@[simp] theorem State.updPrio_dust (s : State) (q p g) : (s.updPrio q p g).dust = s.dust := by
  unfold State.updPrio
  grind only [State.updPort_dust]

@[simp] theorem State.wakePort_dust (s : State) (q) : (s.wakePort q).dust = s.dust := by
  unfold State.wakePort
  grind only [State.updPort_dust]

@[simp] theorem State.enterStream_dust (s : State) (q p fn) : (s.enterStream q p fn).dust = s.dust := by
  unfold State.enterStream
  grind only [State.updPrio_dust]

@[simp] theorem State.offer_dust (s : State) (q f) : (s.offer q f).1.dust = s.dust := by
  unfold State.offer
  grind only [State.inc_dust, State.updPort_dust, State.wakePort_dust, State.enterStream_dust]

@[simp] theorem State.corePump_dust (q n : Nat) (s : State) : (State.corePump q n s).dust = s.dust := by
  induction n generalizing s with
  | zero => rfl
  | succ n ih =>
    unfold State.corePump
    grind only [State.memRead_dust, State.memWrite_dust, State.setReg_dust, State.offer_dust]

@[simp] theorem State.coreSend_dust (s : State) : s.coreSend.dust = s.dust := by
  unfold State.coreSend
  induction List.range 16 generalizing s with
  | nil => rfl
  | cons h l ih => rw [List.foldl_cons, ih, State.corePump_dust]

@[simp] theorem State.discardHeld_dust (s : State) (q) : (s.discardHeld q).dust = s.dust := by
  unfold State.discardHeld
  grind only [State.inc_dust, State.updPort_dust]

@[simp] theorem State.holdPort_dust (s : State) (q) : (s.holdPort q).dust = s.dust := by
  unfold State.holdPort
  grind only [State.updPort_dust, State.discardHeld_dust]

@[simp] theorem State.silencePorts_dust (s : State) : s.silencePorts.dust = s.dust := by
  unfold State.silencePorts
  grind only [State.foldl_dust, State.updPort_dust, State.holdPort_dust]

@[simp] theorem State.unsilencePort_dust (s : State) (q) : (s.unsilencePort q).dust = s.dust := by
  unfold State.unsilencePort
  grind only [State.updPort_dust]

/-! ### Power, temperature and heartbeats (16 R417 to R425) -/

@[simp] theorem State.inc_pwr (s : State) (a n : Nat) : (s.inc a n).pwr = s.pwr := by rw [State.inc_eq s a n]
@[simp] theorem State.inc_thm (s : State) (a n : Nat) : (s.inc a n).thm = s.thm := by rw [State.inc_eq s a n]

@[simp] theorem State.auditDev_pwr (s : State) (a old new : Nat) (sec : Bool) : (s.auditDev a old new sec).pwr = s.pwr := by
  unfold State.auditDev
  split <;> rfl
@[simp] theorem State.auditDev_thm (s : State) (a old new : Nat) (sec : Bool) : (s.auditDev a old new sec).thm = s.thm := by
  unfold State.auditDev
  split <;> rfl

@[simp] theorem State.pwrAudited_pwr (s : State) (g : State → State) : (s.pwrAudited g).pwr = (g s).pwr := State.auditDev_pwr ..
@[simp] theorem State.pwrAudited_thm (s : State) (g : State → State) : (s.pwrAudited g).thm = (g s).thm := State.auditDev_thm ..

/-! #### Power samples -/

/-- A sample within the limit enters the window. -/
theorem State.answers_powerSample_within (s : State) {eng rest : Nat} (on : 2 ≤ s.boot.stage) (fits : eng + rest ≤ s.powerLimit) (free : s.pwr.clamp = false) :
    Answers (.powerSample eng rest) s fun t => t.pwr = s.pwr.sample eng rest ∧ t.thm = s.thm ∧ t.ctxs = s.ctxs := by
  refine ⟨settle (s.updPwr (·.sample eng rest)), (due_of (decide_eq_true on) _).trans ?_, settle_pwr _, settle_thm _, settle_ctxs _⟩
  dsimp only
  have within : ¬(s.updPwr (·.sample eng rest)).powerLimit < eng + rest := Nat.not_lt.mpr fits
  have calm : ¬(s.updPwr (·.sample eng rest)).pwr.clamp = true := Bool.not_eq_true _ ▸ free
  rw [if_neg within, if_neg calm]

/-- What is the same after the clamp acted for a sample. -/
def Clamped (s : State) (eng rest : Nat) (t : State) : Prop :=
  t.pwr.clamp = true ∧ t.pwr.duty = min s.pwr.duty (clampDuty s.dutyNow eng rest s.powerLimit) ∧ t.pwr.plan = s.pwr.plan ∧ t.thm = s.thm

theorem Clamped.of_same {s t u : State} {eng rest : Nat} (h : Clamped s eng rest t) (pwr : u.pwr.clamp = t.pwr.clamp ∧ u.pwr.duty = t.pwr.duty ∧ u.pwr.plan = t.pwr.plan)
    (thm : u.thm = t.thm) : Clamped s eng rest u := by
  obtain ⟨clamp, duty, plan, temp⟩ := h
  exact ⟨pwr.1.trans clamp, pwr.2.1.trans duty, pwr.2.2.trans plan, thm.trans temp⟩

/-- One above it clamps. -/
theorem State.answers_powerSample_above (s : State) {eng rest : Nat} (on : 2 ≤ s.boot.stage) (above : s.powerLimit < eng + rest) :
    Answers (.powerSample eng rest) s (Clamped s eng rest) := by
  let c := (s.updPwr (·.sample eng rest)).pwrAudited fun t => t.updPwr fun p =>
    { p with clamp := true, duty := min p.duty (clampDuty s.dutyNow eng rest s.powerLimit) }
  let d := if (!(s.updPwr (·.sample eng rest)).pwr.clamp) = true then (c.inc 0x2058).event { blk := .pwr, num := 2 } else c
  have clamps : Clamped s eng rest c := by
    rw [Clamped, State.pwrAudited_pwr, State.pwrAudited_thm]
    exact ⟨rfl, rfl, rfl, rfl⟩
  have reported : d.pwr = c.pwr ∧ d.thm = c.thm := by
    show State.pwr (ite _ _ _) = _ ∧ State.thm (ite _ _ _) = _
    split
    · exact ⟨State.inc_pwr .., State.inc_thm ..⟩
    · exact ⟨rfl, rfl⟩
  have on_ : d.pwr.clamp = true := reported.1 ▸ clamps.1
  refine ⟨settle ((d.inc 0x2060 ((d.pwr.clampNs + 100) / 1000)).updPwr ({ · with clampNs := (d.pwr.clampNs + 100) % 1000 })),
    (due_of (decide_eq_true on) _).trans ?_, clamps.of_same ?_ ?_⟩
  · dsimp only
    rw [if_pos (show (s.updPwr (·.sample eng rest)).powerLimit < eng + rest from above)]
    exact congrArg (fun t => Host.Outcome.next (settle t)) (if_pos on_)
  · rw [settle_pwr]
    have same : (d.inc 0x2060 ((d.pwr.clampNs + 100) / 1000)).pwr = c.pwr := (State.inc_pwr ..).trans reported.1
    rw [← same]
    exact ⟨rfl, rfl, rfl⟩
  · rw [settle_thm]
    exact (State.inc_thm ..).trans reported.2

/-! #### Temperature -/

@[simp] theorem State.pldm_thm (s : State) (e : PldmEv) : (s.pldm e).thm = s.thm := by
  unfold State.pldm
  grind only [State.inc_thm, State.event_thm]

@[simp] theorem State.pldm_tileMem (s : State) (e : PldmEv) : (s.pldm e).tileMem = s.tileMem := by
  unfold State.pldm
  grind only [State.inc_tileMem, State.event_tileMem]

/-- The readings of the sensors and the bytes of the tiles are the same. -/
def SameReadings (s t : State) : Prop := t.thm.sens = s.thm.sens ∧ t.tileMem = s.tileMem

theorem SameReadings.trans {s t u : State} (h : SameReadings s t) (k : SameReadings t u) : SameReadings s u := ⟨k.1.trans h.1, k.2.trans h.2⟩

theorem SameReadings.ite {s t : State} {c : Prop} [Decidable c] (h : SameReadings s t) : SameReadings s (if c then t else s) := by
  split
  · exact h
  · exact ⟨rfl, rfl⟩

theorem SameReadings.event {s t : State} (h : SameReadings s t) (e : Ev) : SameReadings s (t.event e) := h

theorem SameReadings.pldm {s t : State} (h : SameReadings s t) (e : PldmEv) : SameReadings s (t.pldm e) := by
  rw [SameReadings, State.pldm_thm, State.pldm_tileMem]
  exact h

/-- What the temperature does to the machine keeps the readings. -/
theorem State.thermal_sameReadings (s : State) : SameReadings s s.thermal := by
  unfold State.thermal
  split
  · exact ⟨rfl, rfl⟩
  · extract_lets row was a b c d e
    have first : SameReadings s a := ⟨rfl, rfl⟩
    have second : SameReadings a b := SameReadings.ite ⟨rfl, rfl⟩
    have third : SameReadings b c := by
      refine SameReadings.ite (SameReadings.event ⟨?_, State.pwrAudited_tileMem _ rfl⟩ _)
      rw [State.pwrAudited_thm]
      rfl
    have fourth : SameReadings c d := SameReadings.ite (SameReadings.pldm ⟨rfl, rfl⟩ _)
    have trips : SameReadings d e := SameReadings.pldm (SameReadings.event ⟨rfl, rfl⟩ _) _
    refine (((first.trans second).trans third).trans fourth).trans (SameReadings.ite (trips.trans ?_))
    exact ⟨rfl, rfl⟩

/-- Is a reading implausible after the last one (16 R419)? -/
def Sensor.doubts (x : Sensor) (q : Int) : Bool :=
  decide (q < -160) || decide (600 < q) || match x.q with
    | some p => decide (40 < (q - p).natAbs)
    | none => false

theorem Sensor.doubts_eq_false {x : Sensor} {q : Int} (low : -160 ≤ q) (high : q ≤ 600) (near : ∀ p, x.q = some p → (q - p).natAbs ≤ 40) :
    x.doubts q = false := by
  rw [Sensor.doubts, decide_eq_false (Int.not_lt.mpr low), decide_eq_false (Int.not_lt.mpr high)]
  split
  case h_1 p last => exact decide_eq_false (Nat.not_lt.mpr (near p last))
  case h_2 => rfl

theorem Sensor.doubts_eq_true {x : Sensor} {q : Int} (odd : q < -160 ∨ 600 < q ∨ ∃ p, x.q = some p ∧ 40 < (q - p).natAbs) :
    x.doubts q = true := by
  rcases odd with low | high | ⟨p, last, far⟩
  · rw [Sensor.doubts, decide_eq_true low]
    rfl
  · rw [Sensor.doubts, decide_eq_true high, Bool.or_true]
    rfl
  · rw [Sensor.doubts, last]
    exact (congrArg _ (decide_eq_true far)).trans (Bool.or_true _)

/-- A plausible reading is the sensor's. -/
theorem State.answers_thermalReading_good (s : State) {n : Nat} {q : Int} (there : s.sensorThere n = true) (on : 1 ≤ s.boot.stage)
    (good : (s.thm.sens.get {} n).doubts q = false) : Answers (.thermalReading n q) s fun t =>
      t.thm.sens.get {} n = { s.thm.sens.get {} n with q := some q, bad := 0, at_ := s.plumb.now } ∧ t.tileMem = s.tileMem := by
  let read := s.updThm fun t => { t with sens := t.sens.upd {} n fun x => { x with q := some q, bad := 0, at_ := s.plumb.now } }
  have kept := read.thermal_sameReadings
  refine ⟨settle read.thermal, (due_of (by rw [there, decide_eq_true on]; rfl) _).trans ?_, ?_, (settle_tileMem _).trans kept.2⟩
  · exact congrArg (fun t => Host.Outcome.next (settle t)) (if_neg (fun bad => Bool.false_ne_true (good.symm.trans bad)))
  · rw [settle_thm, kept.1]
    let y : Sensor := { s.thm.sens.get {} n with q := some q, bad := 0, at_ := s.plumb.now }
    refine Tab.get_set_self_ne s.thm.sens {} n y fun empty => ?_
    cases show some q = none from congrArg Sensor.q empty

/-- One that is not counts against the sensor. -/
theorem State.answers_thermalReading_bad (s : State) {n : Nat} {q : Int} (there : s.sensorThere n = true) (on : 1 ≤ s.boot.stage)
    (bad : (s.thm.sens.get {} n).doubts q = true) : Answers (.thermalReading n q) s fun t =>
      let x := s.thm.sens.get {} n
      t.thm.sens.get {} n = { x with bad := x.bad + 1, failed := x.failed || decide (2 ≤ x.bad), at_ := s.plumb.now } := by
  have kept := (s.badReading n).thermal_sameReadings
  refine ⟨settle (s.badReading n).thermal, (due_of (by rw [there, decide_eq_true on]; rfl) _).trans ?_, ?_⟩
  · exact congrArg (fun t => Host.Outcome.next (settle t)) (if_pos bad)
  · have counted : (s.badReading n).thm.sens = s.thm.sens.upd {} n fun x =>
        { x with bad := x.bad + 1, failed := x.failed || decide (2 ≤ x.bad), at_ := s.plumb.now } := by
      unfold State.badReading
      dsimp only
      split <;> rfl
    dsimp only
    rw [settle_thm, kept.1, counted]
    refine Tab.get_set_self_ne s.thm.sens {} n _ fun empty => ?_
    cases show _ + 1 = 0 from congrArg Sensor.bad empty

/-! #### Heartbeats -/

/-- What a missed heartbeat makes of the page (16 R425). -/
def Dust.missed (d : Dust) (core : Bool) (now : Nat) : Dust :=
  let e := if core then { d with coreMiss := true } else { d with linkMiss := true }
  if !d.silent then { e with silent := true, since := now, period := now, linkIn := false, coreIn := false, run := 0 } else e

theorem Dust.missed_silent (d : Dust) (core : Bool) (now : Nat) : (d.missed core now).silent = true := by
  unfold Dust.missed
  cases d.silent <;> cases core <;> simp

theorem Dust.missed_flag (d : Dust) (core : Bool) (now : Nat) :
    (if core then (d.missed core now).coreMiss else (d.missed core now).linkMiss) = true := by
  unfold Dust.missed
  cases core <;> cases d.silent <;> rfl

/-- A source that is marked is not missed again. -/
theorem State.hbDue_of_flag {s : State} {core : Bool} (flag : (if core then s.dust.coreMiss else s.dust.linkMiss) = true) : s.hbDue core = false := by
  cases core
  · rw [State.hbDue, show s.dust.linkMiss = true from flag]
    simp
  · rw [State.hbDue, show s.dust.coreMiss = true from flag]
    simp

/-- A missed heartbeat marks its source and silences the ports. -/
theorem State.exec_heartbeatMiss (s : State) {core : Bool} (late : s.hbDue core = true) : ∃ u,
    exec (.heartbeatMiss core) s = .next (settle u) ∧ u.dust = s.dust.missed core s.plumb.now := by
  refine ⟨_, due_of late _, ?_⟩
  have reported (d : Dust) (b : Nat) : (((({ s with dust := d }.inc 0x4078).event { blk := .dust, num := 1 }).pldm { what := 3, p0 := b })).dust = d :=
    (State.pldm_dust ..).trans (by rw [State.event_dust, State.inc_dust])
  dsimp only
  split
  case isTrue new =>
    rw [State.silencePorts_dust, State.inc_dust]
    exact (reported _ _).trans (if_pos new).symm
  case isFalse old => exact (reported _ _).trans (if_neg old).symm

/-- Power, temperature and heartbeats run as their rules say. -/
theorem powerAndHeartbeats : PowerAndHeartbeats := by
  intro s
  refine ⟨fun eng rest on => ⟨s.answers_powerSample_within on, s.answers_powerSample_above on⟩, fun n q there on => ⟨fun low high near =>
      s.answers_thermalReading_good there on (Sensor.doubts_eq_false low high near), fun odd =>
      s.answers_thermalReading_bad there on (Sensor.doubts_eq_true odd)⟩,
    fun q hot => ⟨fun on high calm => ?_, fun on low calm room => ?_, fun held cool => ?_⟩, fun m temp there on => due_of (by rw [there, decide_eq_true on]; rfl) _,
    fun core late => ?_, fun silent quiet => ?_⟩
  · have answer : exec .thermalCapStep s = execThermalCapStep s := rfl
    have falls : (decide (400 ≤ q) && (match s.thm.fell with
        | some f => decide (f + 8 ≤ s.ticks)
        | none => true)) = true := by
      rw [decide_eq_true high]
      split
      case h_1 f last => exact decide_eq_true (calm f last)
      case h_2 => rfl
    rw [Answers, answer, execThermalCapStep, hot]
    refine ⟨_, due_of (Bool.and_eq_true_iff.mpr ⟨decide_eq_true on, Bool.or_eq_true_iff.mpr (.inl falls)⟩) _, ?_⟩
    rw [settle_thm, State.pwrAudited_thm]
    exact if_pos falls
  · have answer : exec .thermalCapStep s = execThermalCapStep s := rfl
    have rises : (decide (q < 388) && decide (s.thm.rose + 64 ≤ s.ticks) && (decide (0 < s.thm.cap) || decide (s.thm.duty < 16))) = true := by
      rw [decide_eq_true low, decide_eq_true calm]
      simpa using room
    have holds (b : Bool) : ¬(decide (400 ≤ q) && b) = true := by
      rw [decide_eq_false (by omega)]
      exact Bool.false_ne_true
    rw [Answers, answer, execThermalCapStep, hot]
    refine ⟨_, due_of (Bool.and_eq_true_iff.mpr ⟨decide_eq_true on, Bool.or_eq_true_iff.mpr (.inr rises)⟩) _, ?_⟩
    rw [settle_thm, State.pwrAudited_thm]
    exact if_neg (holds _)
  · have answer : exec .thermalTripRecover s = execThermalTripRecover s := rfl
    refine ⟨settle (s.updThm ({ · with hold := false, row := 0 })), ?_, settle_thm _⟩
    rw [answer, execThermalTripRecover, hot]
    exact due_of (by rw [held, decide_eq_true cool]; rfl) _
  · obtain ⟨u, answer, dust⟩ := s.exec_heartbeatMiss late
    have marked : (settle u).dust = s.dust.missed core s.plumb.now := (settle_dust u).trans dust
    have flag : (if core then (settle u).dust.coreMiss else (settle u).dust.linkMiss) = true := marked ▸ Dust.missed_flag ..
    exact ⟨_, answer, marked ▸ Dust.missed_silent .., flag, if_neg (Bool.not_eq_true _ ▸ State.hbDue_of_flag flag)⟩
  · refine ⟨_, due_of (by rw [silent, decide_eq_true quiet]; rfl) _, ?_⟩
    dsimp only
    have ended (d : Dust) : (({ s with dust := d }.event { blk := .dust, num := 2 }).pldm { what := 3, p0 := 2 }).dust = d := State.pldm_dust ..
    rw [settle_dust]
    split
    · exact ended _
    · rw [State.coreSend_dust, State.foldl_dust fun t q => State.unsilencePort_dust t q]
      exact ended _

end Sys2Proof.Machine
end

section
/-! PROOFS. Tests, retirement and Stipple checks of tiles (15_reliability_and_records.md R390 to R398). -/

namespace Sys2Proof.Machine

theorem State.foldl_tiles {β : Type} {f : State → β → State} (hf : ∀ s x, (f s x).tiles = s.tiles) (l : List β) (s : State) :
    (l.foldl f s).tiles = s.tiles := foldl_eq_of_step_eq State.tiles f hf l s

@[simp] theorem State.endWait_tiles (s : State) (k) : (s.endWait k).tiles = s.tiles := by
  unfold State.endWait
  grind only [State.foldl_tiles, State.updCtx_tiles]

@[simp] theorem State.leaveCtx_tiles (s : State) (k) : (s.leaveCtx k).tiles = s.tiles := by
  unfold State.leaveCtx
  grind only [State.updCtx_tiles, State.endWait_tiles]

@[simp] theorem State.switchOut_tiles (s : State) (e) : (s.switchOut e).tiles = s.tiles := by
  unfold State.switchOut
  grind only [State.foldl_tiles, State.updEng_tiles, State.leaveCtx_tiles]

@[simp] theorem State.endWait_engs (s : State) (k) : (s.endWait k).engs = s.engs := by
  unfold State.endWait
  grind only [State.foldl_engs, State.updCtx_engs]

@[simp] theorem State.leaveCtx_engs (s : State) (k) : (s.leaveCtx k).engs = s.engs := by
  unfold State.leaveCtx
  grind only [State.updCtx_engs, State.endWait_engs]

@[simp] theorem State.endWait_tileMem (s : State) (k) : (s.endWait k).tileMem = s.tileMem := by
  unfold State.endWait
  grind only [State.foldl_tileMem, State.updCtx_tileMem]

@[simp] theorem State.leaveCtx_tileMem (s : State) (k) : (s.leaveCtx k).tileMem = s.tileMem := by
  unfold State.leaveCtx
  grind only [State.updCtx_tileMem, State.endWait_tileMem]

@[simp] theorem State.switchOut_tileMem (s : State) (e) : (s.switchOut e).tileMem = s.tileMem := by
  unfold State.switchOut
  grind only [State.foldl_tileMem, State.updEng_tileMem, State.leaveCtx_tileMem]

/-! ### Tests, retirement and Stipple checks of tiles (15 R390 to R398; 01 Table 1.10) -/

/-- An audit record is put among what is to be written, and nothing else happens. -/
theorem State.auditDev_eq (s : State) (a old new : Nat) (sec : Bool) : ∃ todo, s.auditDev a old new sec = { s with todo } := by
  unfold State.auditDev
  split
  · exact ⟨s.todo, rfl⟩
  · exact ⟨_, rfl⟩

/-- A change that is audited is the change, with audit records to be written. -/
theorem State.audited_eq (s : State) (t : Nat) (e : Option Nat) (g : State → State) : ∃ todo, s.audited t e g = { g s with todo } := by
  unfold State.audited
  obtain ⟨a, tile⟩ := (g s).auditDev_eq (Blk.hlth.at 0 (0x100 + 4 * t)) (s.tileWord t) ((g s).tileWord t) false
  dsimp only
  rw [tile]
  split
  case h_1 e =>
    obtain ⟨b, eng⟩ := State.auditDev_eq { g s with todo := a } (Blk.eng.at e 0x040) (s.engMap e) (State.engMap { g s with todo := a } e) false
    exact ⟨b, eng⟩
  case h_2 => exact ⟨a, rfl⟩

@[simp] theorem State.audited_tiles (s : State) (t : Nat) (e : Option Nat) (g : State → State) : (s.audited t e g).tiles = (g s).tiles := by
  obtain ⟨todo, same⟩ := s.audited_eq t e g
  rw [same]
@[simp] theorem State.audited_engs (s : State) (t : Nat) (e : Option Nat) (g : State → State) : (s.audited t e g).engs = (g s).engs := by
  obtain ⟨todo, same⟩ := s.audited_eq t e g
  rw [same]
@[simp] theorem State.audited_ctxs_eq (s : State) (t : Nat) (e : Option Nat) (g : State → State) : (s.audited t e g).ctxs = (g s).ctxs := by
  obtain ⟨todo, same⟩ := s.audited_eq t e g
  rw [same]
@[simp] theorem State.audited_tileMem_eq (s : State) (t : Nat) (e : Option Nat) (g : State → State) : (s.audited t e g).tileMem = (g s).tileMem := by
  obtain ⟨todo, same⟩ := s.audited_eq t e g
  rw [same]

theorem State.tile_of_tiles {s t : State} (same : t.tiles = s.tiles) (n : Nat) : t.tile n = s.tile n := congrArg (fun x : Tab Tile => x.get {} n) same

@[simp] theorem settle_tile (s : State) (n : Nat) : (settle s).tile n = s.tile n := State.tile_of_tiles (settle_tiles s) n
@[simp] theorem settle_eng (s : State) (e : Nat) : (settle s).eng e = s.eng e := State.eng_of_engs (settle_engs s) e
@[simp] theorem State.audited_tile (s : State) (t : Nat) (e : Option Nat) (g : State → State) (n : Nat) : (s.audited t e g).tile n = (g s).tile n :=
  State.tile_of_tiles (s.audited_tiles t e g) n
@[simp] theorem State.inc_tile (s : State) (a n t : Nat) : (s.inc a n).tile t = s.tile t := State.tile_of_tiles (by rw [State.inc_eq s a n]) t
@[simp] theorem State.hlthEvent_tile (s : State) (num p0 p1 p2 t : Nat) : (s.hlthEvent num p0 p1 p2).tile t = s.tile t := rfl

/-- What the tiles hold after a change to one of them. -/
theorem State.tile_updTile {s : State} (form : Tab.wf ({} : Tile) s.tiles = true) (t n : Nat) (g : Tile → Tile) :
    (s.updTile t g).tile n = if n = t then g (s.tile t) else s.tile n := Tab.get_upd s.tiles {} t n g form

theorem State.tile_updTile_self {s : State} (form : Tab.wf ({} : Tile) s.tiles = true) (t : Nat) (g : Tile → Tile) :
    (s.updTile t g).tile t = g (s.tile t) := (State.tile_updTile form t t g).trans (if_pos rfl)

/-- An observed tile leaves observation. -/
theorem State.answers_observationEnd {s : State} {t : Nat} (low : t < 52) (form : Tab.wf ({} : Tile) s.tiles = true) (seen : (s.tile t).observing = true)
    (late : (s.tile t).obsFrom + 86400 * s.fld (Blk.hlth.at 0 0x040) 11 8 ≤ s.glb.opSec) : Answers (.observationEnd t) s fun u =>
      u.tile t = { s.tile t with observing := false, loci := [] } ∧ ∀ j, j ≠ t → u.tile j = s.tile j := by
  refine ⟨_, due_of (by rw [decide_eq_true low, seen, decide_eq_true late]; rfl) _, ?_⟩
  have tiles (j : Nat) : (settle ((s.audited t none (·.updTile t ({ · with observing := false, loci := [] }))).hlthEvent 3 t)).tile j
      = (s.updTile t ({ · with observing := false, loci := [] })).tile j := by
    rw [settle_tile, State.hlthEvent_tile, State.audited_tile]
  exact ⟨(tiles t).trans (State.tile_updTile_self form t _), fun j other => (tiles j).trans ((State.tile_updTile form t j _).trans (if_neg other))⟩

/-- A test falls due once. -/
theorem State.answers_testDue {s : State} {t : Nat} (low : t < 52) (form : Tab.wf ({} : Tile) s.tiles = true) (past : (s.tile t).due ≤ s.glb.opSec)
    (new : (s.tile t).dueNow = none) (free : (s.tile t).role ≠ 2) (kept : (s.tile t).role ≠ 4) : Answers (.testDue t) s fun u =>
      u.tile t = { s.tile t with dueNow := some (0, s.ticks) } ∧ exec (.testDue t) u = .fault .notDue := by
  have marks : s.dueNow t 0 = (s.updTile t ({ · with dueNow := some (0, s.ticks) })).hlthEvent 4 t 0 := if_neg (by simp [new, free, kept])
  have tile : (settle (s.dueNow t 0)).tile t = { s.tile t with dueNow := some (0, s.ticks) } := by
    rw [settle_tile, marks, State.hlthEvent_tile]
    exact State.tile_updTile_self form t _
  refine ⟨_, due_of (by simp [low, past, new, free, kept]) _, tile, if_neg ?_⟩
  rw [tile]
  simp

/-- A test of a spare starts. -/
theorem State.answers_testStart {s : State} {t : Nat} (low : t < 52) (form : Tab.wf ({} : Tile) s.tiles = true) (may : s.canTest t = true)
    (few : s.testsNow < s.fld (Blk.hlth.at 0 0x040) 14 12) (first : ((List.range 52).all fun u => !(s.canTest u && s.testBefore u t)) = true)
    (spare : (s.tile t).role = 1) : Answers (.testStart t) s fun u =>
      u.tile t = { s.tile t with role := 2, testTick := s.ticks, dueNow := none, inPlace := false } := by
  refine ⟨_, due_of (by rw [decide_eq_true low, may, decide_eq_true few, first]; rfl) _, ?_⟩
  dsimp only
  rw [if_pos (show ((s.inc (Blk.hlth.at 0 0x068)).tile t).role = 1 by rw [State.inc_tile]; exact spare), settle_tile, State.audited_tile,
    State.tile_updTile_self (by rw [State.inc_eq s]; exact form), State.inc_tile]
  rw [State.inc_eq s]
  rfl

/-- What a switch out of its contexts leaves of the engine. -/
theorem State.switchOut_engs (s : State) (e : Nat) :
    (s.switchOut e).engs = s.engs.upd {} e ({ · with interval := none, switching := none, ovr := false }) := by
  unfold State.switchOut
  have changes (t : State) (g : Eng → Eng) : (t.updEng e g).engs = t.engs.upd {} e g := rfl
  rw [changes, State.foldl_engs fun t x => State.leaveCtx_engs ..]

/-- A test that was deferred too long runs in place. -/
theorem State.answers_testDeferTimeout {s : State} {t c since e : Nat} (form : Tab.wf ({} : Tile) s.tiles = true) (forms : Tab.wf ({} : Eng) s.engs = true)
    (due_ : (s.tile t).dueNow = some (c, since)) (on : s.engineOn t = some e) (late : since + 1000000 ≤ s.ticks) (working : (s.tile t).role = 0)
    (stays : (s.eng e).migrTo = none) : Answers (.testDeferTimeout t) s fun u =>
      u.tile t = { s.tile t with role := 2, testTick := s.ticks, dueNow := none, inPlace := true }
        ∧ (u.eng e).underTest = true ∧ (u.eng e).interval = none ∧ u.tileMem = s.tileMem := by
  have answer : exec (.testDeferTimeout t) s = execTestDeferTimeout t s := rfl
  rw [Answers, answer, execTestDeferTimeout, due_, on]
  refine ⟨_, due_of (by rw [decide_eq_true late, working, stays]; rfl) _, ?_⟩
  obtain ⟨b, reports⟩ : ∃ b : State, b = ((s.inc (Blk.hlth.at 0 0x078)).inc (Blk.hlth.at 0 0x068)).hlthEvent 5 t
      (((s.inc (Blk.hlth.at 0 0x078)).inc (Blk.hlth.at 0 0x068)).ticks - since) := ⟨_, rfl⟩
  obtain ⟨r, l, same⟩ : ∃ r l, b = { s with regs := r, todo := l } := by
    rw [reports, State.inc_eq (s.inc (Blk.hlth.at 0 0x078)), State.inc_eq s]
    exact ⟨_, _, rfl⟩
  dsimp only
  rw [← reports, settle_tile, settle_eng, settle_tileMem, State.audited_tile, State.eng_of_engs (State.audited_engs ..), State.audited_tileMem_eq]
  have tiles : ((b.switchOut e).updEng e ({ · with underTest := true })).tiles = s.tiles := by
    rw [State.updEng_tiles, State.switchOut_tiles, same]
  have eng : (((b.switchOut e).updEng e ({ · with underTest := true })).eng e) = { s.eng e with interval := none, switching := none, ovr := false, underTest := true } := by
    have left : (b.switchOut e).eng e = { s.eng e with interval := none, switching := none, ovr := false } := by
      rw [State.eng, State.switchOut_engs, same, Tab.get_upd _ _ _ _ _ forms, if_pos rfl]
      rfl
    refine (State.eng_updEng _ e e _ fun empty => ?_).trans ?_
    · cases show true = false from congrArg Eng.underTest empty
    · rw [if_pos rfl, left]
  refine ⟨?_, ?_, ?_, ?_⟩
  · rw [State.tile_updTile_self (by rw [tiles]; exact form), State.tile_of_tiles tiles, same]
    rfl
  · rw [State.eng_of_engs (State.updTile_engs ..), eng]
  · rw [State.eng_of_engs (State.updTile_engs ..), eng]
  · rw [State.updTile_tileMem, State.updEng_tileMem, State.switchOut_tileMem, same]

@[simp] theorem State.cmdDone_tiles (s : State) (kind i o : Nat) : (s.cmdDone kind i o).tiles = s.tiles := by
  unfold State.cmdDone
  split <;> rfl

@[simp] theorem State.cmdDone_tests (s : State) (kind i o : Nat) : (s.cmdDone kind i o).hlth.tests = s.hlth.tests := by
  unfold State.cmdDone
  split <;> rfl

@[simp] theorem State.inc_hlth (s : State) (a n : Nat) : (s.inc a n).hlth = s.hlth := by rw [State.inc_eq s a n]
@[simp] theorem State.inc_tiles (s : State) (a n : Nat) : (s.inc a n).tiles = s.tiles := by rw [State.inc_eq s a n]

/-- A test of a tile that passes puts it back to its work. -/
theorem State.answers_testComplete_pass {s : State} {t : Nat} (low : t < 52) (form : Tab.wf ({} : Tile) s.tiles = true) (locus : Nat)
    (tested : (s.tile t).role = 2) (done_ : (s.tile t).testTick + 64 ≤ s.ticks) : Answers (.testComplete 0 t true locus) s fun u =>
      u.tile t = { s.tile t with role := if (s.tile t).inPlace then 0 else 1, inPlace := false, due := s.glb.opSec + s.testEvery (s.tile t) } := by
  have answer : exec (.testComplete 0 t true locus) s = execTestComplete 0 t true locus s := rfl
  rw [Answers, answer, execTestComplete]
  simp only [if_true]
  refine ⟨_, due_of (by simp [low, tested, done_]) _, ?_⟩
  rw [settle_tile, State.hlthEvent_tile, State.tile_of_tiles (State.cmdDone_tiles ..), State.audited_tile]
  split
  · rw [State.tile_of_tiles (State.updEng_tiles ..)]
    exact State.tile_updTile_self form t _
  · exact State.tile_updTile_self form t _

/-- A test of another unit leaves the list. -/
theorem State.answers_testComplete_unit {s : State} {kind i n : Nat} (unit : kind ≠ 0) (listed : (kind, i, n) ∈ s.hlth.tests) (done_ : n + 64 ≤ s.ticks)
    (pass : Bool) (locus : Nat) : Answers (.testComplete kind i pass locus) s fun u =>
      (u.hlth.tests.any fun y => y.1 == kind && y.2.1 == i) = false ∧ u.tiles = s.tiles := by
  have answer : exec (.testComplete kind i pass locus) s = execTestComplete kind i pass locus s := rfl
  rw [Answers, answer, execTestComplete]
  simp only [if_neg unit]
  have cause : (s.hlth.tests.any fun x => x.1 == kind && x.2.1 == i && decide (x.2.2 + 64 ≤ s.ticks)) = true :=
    List.any_eq_true.mpr ⟨_, listed, by simp [done_]⟩
  have cleared : (s.hlth.tests.filter fun x => !(x.1 == kind && x.2.1 == i)).any (fun y => y.1 == kind && y.2.1 == i) = false := by
    rw [List.any_eq_false]
    intro y kept
    have other := (List.mem_filter.mp kept).2
    rw [Bool.not_eq_true'] at other
    rw [other]
    exact Bool.false_ne_true
  have reported (u : State) : (if pass = true then (u.cmdDone kind i (b2n !pass)).hlthEvent 6 (i + 256 * kind)
      else ((u.cmdDone kind i (b2n !pass)).inc (Blk.hlth.at 0 0x070)).hlthEvent 7 (i + 256 * kind) locus).hlth.tests = u.hlth.tests
      ∧ (if pass = true then (u.cmdDone kind i (b2n !pass)).hlthEvent 6 (i + 256 * kind)
      else ((u.cmdDone kind i (b2n !pass)).inc (Blk.hlth.at 0 0x070)).hlthEvent 7 (i + 256 * kind) locus).tiles = u.tiles := by
    split
    · exact ⟨State.cmdDone_tests .., State.cmdDone_tiles ..⟩
    · exact ⟨(congrArg Hlth.tests (State.inc_hlth ..)).trans (State.cmdDone_tests ..), (State.inc_tiles ..).trans (State.cmdDone_tiles ..)⟩
  refine ⟨_, due_of cause _, ?_, ?_⟩
  · rw [settle_hlth, (reported _).1]
    refine Eq.trans (congrArg (List.any · _) ?_) cleared
    split <;> split <;> rfl
  · rw [settle_tiles, (reported _).2]
    split <;> split <;> rfl

theorem firstIdx_congr {n : Nat} {p q : Nat → Bool} (same : ∀ i, p i = q i) : firstIdx n p = firstIdx n q := congrArg (firstIdx n) (funext same)

/-- What `firstIdx` finds satisfies the predicate. -/
theorem firstIdx_sat {n i : Nat} {p : Nat → Bool} (found : firstIdx n p = some i) : p i = true := List.find?_some found

/-- A free spare is a spare. -/
theorem State.role_of_freeSpare {s : State} {v : Nat} (spare : s.freeSpare = some v) : (s.tile v).role = 1 := by
  unfold State.freeSpare at spare
  split at spare
  case h_1 t free =>
    cases spare
    simpa using (Bool.and_eq_true_iff.mp (firstIdx_sat free)).1
  case h_2 => simpa using firstIdx_sat spare

/-- A change that keeps which tiles are spares keeps the free spare. -/
theorem State.freeSpare_congr {s t : State} (role : ∀ j, ((t.tile j).role == 1) = ((s.tile j).role == 1))
    (seen : ∀ j, (s.tile j).role = 1 → (t.tile j).observing = (s.tile j).observing) : t.freeSpare = s.freeSpare := by
  have free (j : Nat) : ((t.tile j).role == 1 && !(t.tile j).observing) = ((s.tile j).role == 1 && !(s.tile j).observing) := by
    rw [role]
    cases spare : (s.tile j).role == 1
    · rfl
    · rw [seen j (beq_iff_eq.mp spare)]
  rw [State.freeSpare, State.freeSpare, firstIdx_congr role, firstIdx_congr free]

/-- A tile without an engine retires. -/
theorem State.answers_tileRetire_free {s : State} {t : Nat} (low : t < 52) (form : Tab.wf ({} : Tile) s.tiles = true) (asked : (s.tile t).retire = true)
    (kept : (s.tile t).role ≠ 4) (free : s.engineOn t = none) : Answers (.tileRetire t) s fun u =>
      u.tile t = { s.tile t with role := 4, retire := false, dueNow := none } := by
  refine ⟨_, due_of (by rw [decide_eq_true low, asked, bne_iff_ne.mpr kept]; rfl) _, ?_⟩
  dsimp only
  rw [settle_tile, State.hlthEvent_tile, State.audited_tile, free]
  exact State.tile_updTile_self form t _

/-- A tile that retires gives its engine to the free spare. -/
theorem State.answers_tileRetire_engine {s : State} {t e v : Nat} (low : t < 52) (form : Tab.wf ({} : Tile) s.tiles = true) (asked : (s.tile t).retire = true)
    (working : (s.tile t).role = 0) (on : s.engineOn t = some e) (spare : s.freeSpare = some v) : Answers (.tileRetire t) s fun u =>
      (u.tile t).role = 4 ∧ (u.tile v).role = 0 ∧ (u.eng e).migrTo = some v ∧ u.ctxs = s.ctxs := by
  have other : t ≠ v := by
    rintro rfl
    exact absurd ((State.role_of_freeSpare spare).symm.trans working) (by decide)
  obtain ⟨a, retires⟩ : ∃ a : State, a = s.updTile t ({ · with role := 4, retire := false, dueNow := none }) := ⟨_, rfl⟩
  have moves : a.leaveTile e true = a.migrate e v := by
    have same : a.freeSpare = some v := by
      rw [← spare]
      refine State.freeSpare_congr (fun j => ?_) (fun j spare_ => ?_) <;> rw [retires, State.tile_updTile form]
      · split
        case isTrue here => rw [here, working]; rfl
        case isFalse => rfl
      · rw [if_neg]
        rintro rfl
        exact absurd (spare_.symm.trans working) (by decide)
    rw [State.leaveTile, same]
  obtain ⟨b, first⟩ := a.audited_eq v (some e) fun u => (u.updEng e ({ · with migrTo := some v })).updTile v ({ · with role := 0 })
  obtain ⟨c, second⟩ := s.audited_eq t (some e) fun u => (u.updTile t ({ · with role := 4, retire := false, dueNow := none })).leaveTile e true
  have after : (s.audited t (some e) fun u => (u.updTile t ({ · with role := 4, retire := false, dueNow := none })).leaveTile e true)
      = { (a.updEng e ({ · with migrTo := some v })).updTile v ({ · with role := 0 }) with todo := c } := by
    rw [second, ← retires, moves, State.migrate, first]
  have answer : exec (.tileRetire t) s = .next (settle (State.hlthEvent { (a.updEng e ({ · with migrTo := some v })).updTile v ({ · with role := 0 })
      with todo := c } 8 t e)) := by
    rw [← after]
    refine (due_of (by rw [decide_eq_true low, asked, working]; rfl) _).trans ?_
    simp only [on]
    rfl
  have tiles : (a.updEng e ({ · with migrTo := some v })).tiles = s.tiles.upd {} t ({ · with role := 4, retire := false, dueNow := none }) := by
    rw [State.updEng_tiles, retires]
    rfl
  have forms : Tab.wf ({} : Tile) (a.updEng e ({ · with migrTo := some v })).tiles = true := tiles ▸ Tab.upd_wf _ _ _ _ form
  refine ⟨_, answer, ?_, ?_, ?_, ?_⟩
  · rw [settle_tile, State.hlthEvent_tile]
    show (((a.updEng e ({ · with migrTo := some v })).updTile v ({ · with role := 0 })).tile t).role = 4
    rw [State.tile_updTile forms, if_neg other, State.tile_of_tiles (State.updEng_tiles ..), retires, State.tile_updTile_self form]
  · rw [settle_tile, State.hlthEvent_tile]
    show (((a.updEng e ({ · with migrTo := some v })).updTile v ({ · with role := 0 })).tile v).role = 0
    rw [State.tile_updTile_self forms]
  · rw [settle_eng]
    show ((a.updEng e ({ · with migrTo := some v })).eng e).migrTo = some v
    rw [State.eng_updEng, if_pos rfl]
    intro empty
    cases show some v = none from congrArg Eng.migrTo empty
  · rw [settle_ctxs, retires]
    rfl

/-! #### Stipple checks -/

/-- A slice that differs waits for a second checker (15 R391). -/
def State.stipDiffers (s : State) (e k : Nat) (c : Check) : State :=
  let u := s.inc (Blk.stip.at 0 0x060)
  match u.checker (u.tileOf e) with
  | some n => (u.updTile n ({ · with role := 3 })).setCheck k (some { c with second := some n })
  | none => u.setCheck k (some { c with missing := some u.ticks })

/-- A sampled slice is compared, where every execution passed its Scrim check. -/
theorem exec_stippleCompare {s : State} {e y : Nat} {c : Check} (held : s.checkOf (4 * e + y) = some c) (first : c.second = none) (found : c.missing = none)
    (finished : c.mirror.final.isSome = true) (equal : Bool) (sc : Scrim) :
    let k := 4 * e + y
    let v := s.scrimBookings c.checker k sc
    ((c.scrimBad || !s.scrimPassed sc) = true → exec (.stippleCompare e y equal sc) s = .next (settle (v.setCheck k none)))
    ∧ (c.scrimBad = false → s.scrimPassed sc = true →
      exec (.stippleCompare e y true sc) s = .next (settle ((v.inc (Blk.stip.at 0 0x058)).setCheck k none))
      ∧ exec (.stippleCompare e y false sc) s = .next (settle (v.stipDiffers e k c))) := by
  intro k v
  have answer (equal) : exec (.stippleCompare e y equal sc) s = execStippleCompare e y equal sc s := rfl
  have cause : (c.second.isNone && c.missing.isNone && c.mirror.final.isSome) = true := by rw [first, found, finished]; rfl
  refine ⟨fun failed => ?_, fun clean passed => ⟨?_, ?_⟩⟩
  · rw [answer, execStippleCompare, held]
    refine (due_of cause _).trans ?_
    have bad : (!(!c.scrimBad && s.scrimPassed sc)) = true := by
      rw [← failed]
      cases c.scrimBad <;> rfl
    rw [if_pos bad]
  all_goals
    rw [answer, execStippleCompare, held]
    refine (due_of cause _).trans ?_
    dsimp only
    rw [if_neg (by rw [clean, passed]; exact Bool.false_ne_true)]
    rfl

/-- A slice that differed is compared again with the answer of another checker. -/
theorem exec_stippleSecondCheck {s : State} {e y n : Nat} {c : Check} (held : s.checkOf (4 * e + y) = some c) (second : c.second = some n) (b : Bool) (sc : Scrim) :
    let k := 4 * e + y
    let u := s.scrimBookings n k sc
    (s.scrimPassed sc = true →
      exec (.stippleSecondCheck e y true b sc) s = .next (settle (((u.stipEvent 2 c).book c.checker k 5 locusChecksum).setCheck k none))
      ∧ exec (.stippleSecondCheck e y false true sc) s = .next (settle
          (((u.stipEvent 1 c).book (s.tileOf e) k 5 locusChecksum).setCheck k none))
      ∧ exec (.stippleSecondCheck e y false false sc) s = .next (settle (u.stipUndecided c)))
    ∧ (s.scrimPassed sc = false → ∀ a, exec (.stippleSecondCheck e y a b sc) s = .next (settle (u.stipUndecided c))) := by
  intro k u
  have answer (a b) : exec (.stippleSecondCheck e y a b sc) s = execStippleSecondCheck e y a b sc s := rfl
  have same : { c with second := some n } = c := by rw [← second]
  refine ⟨fun passed => ⟨?_, ?_, ?_⟩, fun failed a => ?_⟩
  all_goals
    rw [answer, execStippleSecondCheck, held]
    dsimp only
    rw [second]
    dsimp only
    rw [same]
  · rw [passed]
    rfl
  · rw [passed]
    rfl
  · rw [passed]
    rfl
  · rw [failed]
    rfl

/-- Tiles are tested, retire and are checked as their rules say. -/
theorem tilesAreTested : TilesAreTested := by
  intro s t low form forms x
  refine ⟨State.answers_observationEnd low form, State.answers_testDue low form, State.answers_testStart low form,
    fun c since e due_ on late working stays => State.answers_testDeferTimeout form forms due_ on late working stays,
    fun locus => State.answers_testComplete_pass low form locus,
    fun kind i n unit listed done_ pass locus => State.answers_testComplete_unit unit listed done_ pass locus,
    State.answers_tileRetire_free low form, fun e v asked working on spare => State.answers_tileRetire_engine low form asked working on spare,
    fun e y c => ?_⟩
  intro k held
  refine ⟨fun first found finished equal sc => exec_stippleCompare held first found finished equal sc,
      fun n second b sc => exec_stippleSecondCheck held second b sc, fun since first missing late => ?_⟩
  have answer : exec (.stippleUndecidedTimeout e y) s = execStippleUndecidedTimeout e y s := rfl
  rw [answer, execStippleUndecidedTimeout, show s.checkOf (4 * e + y) = some c from held]
  dsimp only
  rw [missing]
  exact due_of (by rw [first, decide_eq_true late]; rfl) _

/-- Settles O53: tests and checks of tiles, records, power, temperature and heartbeats. -/
theorem healthRecordsAndPower : Obligations.HealthRecordsAndPower := ⟨tilesAreTested, recordsFlush, powerAndHeartbeats⟩

end Sys2Proof.Machine
end

section
/-! PROOFS. Which stacks serve, through accesses and records (07_hbm_memory.md R187; 15_reliability_and_records.md R402). -/

namespace Sys2Proof.Machine

/-! ### Accesses to memory keep which stacks serve (07 R187; 08 R216) -/

/-- The stacks that make the memory are the same, and every stack that is in some state stays in it. -/
def SeatStep (s t : State) : Prop := t.mem.order = s.mem.order ∧ ∀ m, (s.stack m).st ≠ 0 → (t.stack m).st = (s.stack m).st

theorem SeatStep.refl (s : State) : SeatStep s s := ⟨rfl, fun _ _ => rfl⟩

theorem SeatStep.trans {s t u : State} (h : SeatStep s t) (k : SeatStep t u) : SeatStep s u :=
  ⟨k.1.trans h.1, fun m on => (k.2 m (by rwa [h.2 m on])).trans (h.2 m on)⟩

theorem SeatStep.of_same {s t : State} (tab : t.stackTab = s.stackTab) (order : t.mem.order = s.mem.order) : SeatStep s t :=
  ⟨order, fun m _ => congrArg (fun x : Tab Stack => (x.get {} m).st) tab⟩

theorem SeatStep.ite {s t u : State} {c : Prop} [Decidable c] (h : SeatStep s t) (k : SeatStep s u) : SeatStep s (if c then t else u) := by
  split
  · exact h
  · exact k

theorem SeatStep.foldl {β : Type} (f : State → β → State) (h : ∀ s x, SeatStep s (f s x)) : ∀ (l : List β) (s : State), SeatStep s (l.foldl f s)
  | [], s => .refl s
  | x :: l, s => (h s x).trans (SeatStep.foldl f h l (f s x))

theorem SeatStep.foldlFst {β γ : Type} (f : State × γ → β → State × γ) (h : ∀ a x, SeatStep a.1 (f a x).1) :
    ∀ (l : List β) (a : State × γ), SeatStep a.1 (l.foldl f a).1
  | [], a => .refl a.1
  | x :: l, a => (h a x).trans (SeatStep.foldlFst f h l (f a x))

theorem State.inc_seatStep (s : State) (a n : Nat) : SeatStep s (s.inc a n) := by
  rw [State.inc_eq s a n]
  exact .of_same rfl rfl

theorem SeatStep.event {s t : State} (h : SeatStep s t) (e : Ev) : SeatStep s (t.event e) := h

/-- A change of a stack that keeps its state. -/
theorem State.updStack_seatStep (s : State) (m : Nat) {g : Stack → Stack} (keeps : ∀ x, (g x).st = x.st) : SeatStep s (s.updStack m g) := by
  refine ⟨rfl, fun k on => ?_⟩
  have held : s.stackTab.get {} k ≠ {} := fun empty => on (congrArg Stack.st empty)
  by_cases here : k = m
  · subst here
    refine congrArg Stack.st (Tab.get_set_self_ne s.stackTab {} k (g (s.stack k)) fun empty => on ?_) |>.trans (keeps _)
    rw [← keeps, empty]
  · exact congrArg Stack.st (Tab.get_set_other (g (s.stack m)) held here)

theorem State.useNoc_seatStep (s : State) (a b : Nat) : SeatStep s (s.useNoc a b) := by
  unfold State.useNoc
  split <;> exact .of_same rfl rfl

theorem Stack.markInit_st (x : Stack) (c : Nat) : (x.markInit c).st = x.st := by
  unfold Stack.markInit
  split <;> rfl

theorem State.initChunk_seatStep (s : State) (m c : Nat) : SeatStep s (s.initChunk m c) := by
  unfold State.initChunk
  split
  · exact .refl s
  · dsimp only
    have marked : SeatStep s (s.updStack m (·.markInit c)) := State.updStack_seatStep s m fun x => x.markInit_st c
    split
    · exact marked.event _
    · exact marked

theorem State.storeLine_seatStep (s : State) (m lam : Nat) (pos : List (List Byte)) : SeatStep s (s.storeLine m lam pos) := by
  unfold State.storeLine
  refine SeatStep.foldl _ (fun t p => ?_) _ _
  split <;> exact .of_same rfl rfl

theorem State.storeData_seatStep (s : State) (m lam : Nat) (d : List Byte) (p : Bool) : SeatStep s (s.storeData m lam d p) :=
  State.storeLine_seatStep ..

theorem State.rollWindow_seatStep (s : State) (m : Nat) : SeatStep s (s.rollWindow m) := by
  unfold State.rollWindow
  dsimp only
  split
  · exact .refl s
  · exact State.updStack_seatStep s m fun x => rfl

theorem State.requestRepair_seatStep (s : State) (m pc bank row : Nat) : SeatStep s (s.requestRepair m pc bank row) := by
  have refused (out : Nat) (e : Ev) : SeatStep s ((s.updStack m ({ · with repairOut := out })).event e) :=
    SeatStep.event (State.updStack_seatStep s m (g := ({ · with repairOut := out })) fun x => rfl) e
  unfold State.requestRepair
  dsimp only
  split
  · exact refused ..
  · split
    · exact refused ..
    · split
      · exact refused ..
      · split
        · exact refused ..
        · exact State.updStack_seatStep s m fun x => rfl

theorem State.countDie_seatStep (s : State) (m die : Nat) : SeatStep s (s.countDie m die) := by
  unfold State.countDie
  dsimp only
  split
  · refine SeatStep.event (SeatStep.trans (State.updStack_seatStep s m ?_) (State.updStack_seatStep _ m ?_)) _ <;> exact fun x => rfl
  · exact State.updStack_seatStep s m fun x => rfl

theorem State.countRow_seatStep (s : State) (m q pc : Nat) : SeatStep s (s.countRow m q pc) := by
  unfold State.countRow
  dsimp only
  split
  · exact .refl s
  · split
    · refine SeatStep.trans (State.updStack_seatStep s m ?_) (State.requestRepair_seatStep ..)
      exact fun x => rfl
    · exact State.updStack_seatStep s m fun x => rfl

theorem State.countFix_seatStep (s : State) (m lam p pc : Nat) : SeatStep s (s.countFix m lam p pc) :=
  (((State.inc_seatStep ..).trans (State.inc_seatStep ..)).trans (State.countDie_seatStep ..)).trans (State.countRow_seatStep ..)

theorem State.freshUe_seatStep (s : State) (m lam rq : Nat) : SeatStep s (s.freshUe m lam rq) :=
  (State.inc_seatStep ..).event _

theorem State.noteUnchecked_seatStep (s : State) (m : Nat) (u : Bool) : SeatStep s (s.noteUnchecked m u) :=
  .ite (State.inc_seatStep ..) (.refl s)

theorem State.fixLine_seatStep (s : State) (m lam : Nat) (fs : List Nat) (pos : List (List Byte)) : SeatStep s (s.fixLine m lam fs pos) := by
  have counted : SeatStep s (fs.foldl (fun t p => match (s.stack m).readPc (lam % 6) (lam / 6) p with
      | some pc => t.countFix m lam p pc
      | none => t) s) := by
    refine SeatStep.foldl _ (fun t p => ?_) _ _
    split
    · exact State.countFix_seatStep ..
    · exact .refl t
  unfold State.fixLine
  dsimp only
  split
  · exact counted
  · exact counted.trans (State.storeLine_seatStep ..)

theorem State.decodeLine_seatStep (s : State) (m lam rq : Nat) (raw : List (Option (List Byte))) : SeatStep s (s.decodeLine m lam rq raw).1 := by
  unfold State.decodeLine
  dsimp only
  split
  · exact (State.noteUnchecked_seatStep ..).trans (State.inc_seatStep ..)
  · split
    · exact ((State.noteUnchecked_seatStep ..).trans (State.storeData_seatStep ..)).trans (State.freshUe_seatStep ..)
    · exact (State.noteUnchecked_seatStep ..).trans (State.fixLine_seatStep ..)

theorem State.readLine_seatStep (s : State) (m lam rq : Nat) : SeatStep s (s.readLine m lam rq).1 := by
  unfold State.readLine
  split
  · exact State.freshUe_seatStep ..
  · split
    · exact .refl s
    · exact (State.rollWindow_seatStep s m).trans (State.decodeLine_seatStep ..)

theorem State.writeLine_seatStep (s : State) (off m lam rq : Nat) (d : List Byte) (p : Bool) : SeatStep s (s.writeLine off m lam rq d p).1 := by
  unfold State.writeLine
  split
  · exact State.freshUe_seatStep ..
  · dsimp only
    refine (State.initChunk_seatStep s m (lam / 8192)).trans ?_
    split
    · exact (State.storeLine_seatStep ..).trans (.of_same rfl rfl)
    · exact State.storeLine_seatStep ..

theorem State.writeParts_seatStep (s : State) (off m lam rq : Nat) (ps : List (Nat × List Byte)) :
    SeatStep s (s.writeParts off m lam rq ps).1 := by
  unfold State.writeParts
  split
  · exact State.writeLine_seatStep ..
  · dsimp only
    refine ((State.readLine_seatStep s m lam rq).trans (State.inc_seatStep _ (Blk.hbm.at m 0x070) 1)).trans ?_
    split
    · exact State.writeLine_seatStep ..
    · exact .refl _

theorem State.meetBank_seatStep (s : State) (m lam : Nat) : SeatStep s (s.meetBank m lam) := .ite (.of_same rfl rfl) (.refl s)

theorem State.readSideAt_seatStep (s : State) (line rq : Nat) : SeatStep s (s.readSideAt line rq).1 := by
  unfold State.readSideAt
  split
  · exact .refl s
  · split
    · exact .refl s
    · next m lam _ =>
      have read := State.readLine_seatStep s m lam rq
      dsimp only
      split
      · exact read
      · split
        all_goals
          refine (read.trans (State.updStack_seatStep _ m ?_)).trans (State.storeData_seatStep ..)
          exact fun x => rfl

theorem State.readSide_seatStep (s : State) (line rq : Nat) : SeatStep s (s.readSide line rq).1 := by
  unfold State.readSide
  refine SeatStep.trans ?_ (State.readSideAt_seatStep ..)
  split
  · exact State.meetBank_seatStep ..
  · exact .refl s

theorem State.setSide_seatStep (s : State) (w n rq : Nat) (v : Bool) : SeatStep s (s.setSide w n rq v) := by
  unfold State.setSide
  dsimp only
  split
  · exact .refl s
  · refine (State.readSide_seatStep s (s.sideLine w) rq).trans ?_
    split
    · exact .refl _
    · exact State.storeData_seatStep ..

theorem State.clearSide_seatStep (s : State) (w n : Nat) : SeatStep s (s.clearSide w n) := by
  unfold State.clearSide
  dsimp only
  split
  · exact .refl s
  · exact State.updStack_seatStep s _ fun x => rfl

theorem State.nocMem_seatStep (s : State) (src off n : Nat) : SeatStep s (s.nocMem src off n) := by
  unfold State.nocMem
  refine SeatStep.foldl _ (fun t x => ?_) _ _
  split
  · exact (State.useNoc_seatStep ..).trans (State.useNoc_seatStep ..)
  · exact .refl t

theorem State.putPart_seatStep (s : State) (line m lam rq a : Nat) (d : List Byte) (p : Bool) : SeatStep s (s.putPart line m lam rq a d p).1 := by
  unfold State.putPart
  split
  · exact State.writeLine_seatStep ..
  · exact State.writeParts_seatStep ..

theorem State.putWords_seatStep (s : State) (line m lam rq : Nat) (parts : List (Nat × List Byte)) (p : Bool) (fe : Option Bool) :
    SeatStep s (s.putWords line m lam rq parts p fe).1 := by
  have read := State.readSide_seatStep s (s.sideLine (s.syncWord line)) rq
  unfold State.putWords
  dsimp only
  generalize s.readSide (s.sideLine (s.syncWord line)) rq = r at read ⊢
  have wrote : SeatStep s (if p = true then r.1.writeLine line m lam rq (overlay (zeros 256) parts) true
      else r.1.writeParts line m lam rq parts).1 := by
    split
    · exact read.trans (State.writeLine_seatStep ..)
    · exact read.trans (State.writeParts_seatStep ..)
  split
  · exact read.trans (State.freshUe_seatStep ..)
  · generalize (if p = true then r.1.writeLine line m lam rq (overlay (zeros 256) parts) true
      else r.1.writeParts line m lam rq parts) = w at wrote ⊢
    split
    · refine wrote.trans (SeatStep.foldl _ (fun t x => ?_) _ _)
      split
      · exact (State.clearSide_seatStep ..).trans (State.setSide_seatStep ..)
      · exact State.clearSide_seatStep ..
    · exact wrote

theorem State.writePiece_seatStep (s : State) (rq line a : Nat) (d : List Byte) (p : Bool) (fe : Option Bool) :
    SeatStep s (s.writePiece rq line a d p fe).1 := by
  unfold State.writePiece
  split
  · exact .refl s
  · dsimp only
    split
    · split
      · exact State.meetBank_seatStep ..
      · exact (State.meetBank_seatStep ..).trans (State.putWords_seatStep ..)
    · exact (State.meetBank_seatStep ..).trans (State.putPart_seatStep ..)

/-- A write of protected memory keeps which stacks serve. -/
theorem State.memWrite_seatStep (s : State) (rq off : Nat) (d : List Byte) (fe : Option Bool) : SeatStep s (s.memWrite rq off d fe).1 := by
  unfold State.memWrite
  dsimp only
  refine SeatStep.trans (.ite (.refl s) (State.nocMem_seatStep ..)) (SeatStep.foldlFst _ (fun a x => ?_) _ _)
  exact State.writePiece_seatStep ..

/-! ### Writing records keeps which stacks serve, and ends no flush (15 R402, R404) -/

theorem State.notify_seatStep (s : State) (f : Nat) (r : EvqRec) : SeatStep s (s.notify f r) := by
  unfold State.notify
  split
  · exact .refl s
  · exact .ite (.of_same rfl rfl) (.refl s)

theorem storeEvent_seatStep (s : State) (e : Ev) : SeatStep s (storeEvent s e) := by
  have started (t : State) (h : SeatStep s t) (at_ : Option Nat) : SeatStep s (if e.isFault = true then t.startFlush at_ false else t) := .ite h h
  unfold storeEvent
  dsimp only
  split
  · refine started _ ?_ _
    exact (State.inc_seatStep s 0x6078 1).trans (.of_same rfl rfl)
  · refine started _ ?_ _
    have counted : SeatStep s (if decide (65536 ≤ s.recs.prod - s.recs.flushIdx) = true then (s.inc 0x6068).inc 0x6070 else s.inc 0x6068) :=
      .ite ((State.inc_seatStep ..).trans (State.inc_seatStep ..)) (State.inc_seatStep ..)
    exact counted.trans (.of_same rfl rfl)

theorem settleOne_seatStep (s : State) (t : Todo) : SeatStep s (settleOne s t) := by
  cases t with
  | event e =>
    show SeatStep s (settleEvent s e)
    unfold settleEvent
    dsimp only
    refine SeatStep.trans ?_ (storeEvent_seatStep ..)
    split
    · exact SeatStep.trans (t := s.updPage _ _) (.of_same rfl rfl) (State.notify_seatStep ..)
    · exact .of_same rfl rfl
  | audit a =>
    show SeatStep s (settleAudit s a)
    have stored (r : AudRec) : SeatStep s (storeAudit s r) := (State.inc_seatStep s 0x7058 1).trans (.of_same rfl rfl)
    unfold settleAudit
    dsimp only
    split
    · exact (stored _).trans (State.memWrite_seatStep ..)
    · exact stored _
  | evq q r =>
    show SeatStep s (settleEvq s q r)
    unfold settleEvq
    dsimp only
    split
    · exact .refl s
    · split
      · exact SeatStep.trans (t := { s with evqs := _ }) (.of_same rfl rfl) ((State.inc_seatStep ..).event _)
      · split
        · exact SeatStep.trans (t := { s with evqs := _ }) (.of_same rfl rfl) (State.memWrite_seatStep ..)
        · exact .of_same rfl rfl

theorem settle_seatStep (s : State) : SeatStep s (settle s) := by
  have round (s : State) : SeatStep s (settleRound s) :=
    SeatStep.trans (t := { s with todo := [] }) (.of_same rfl rfl) (SeatStep.foldl _ settleOne_seatStep _ _)
  have rounds (n : Nat) (s : State) : SeatStep s (settleRounds n s) := by
    induction n generalizing s with
    | zero => exact .refl s
    | succ n ih => exact SeatStep.ite (.refl s) ((round s).trans (ih _))
  exact (rounds 64 s).trans (.of_same rfl rfl)

end Sys2Proof.Machine
end

section
/-! PROOFS. Resets, the boot sequence, trial boots, supplies and links (16_bringup_power_and_management.md R410 to R434; 18_package_and_electrical.md R466 to R473). -/

namespace Sys2Proof.Machine

theorem State.foldl_glb {β : Type} {f : State → β → State} (hf : ∀ s x, (f s x).glb = s.glb) (l : List β) (s : State) :
    (l.foldl f s).glb = s.glb := foldl_eq_of_step_eq State.glb f hf l s

@[simp] theorem State.inc_glb (s : State) (a n) : (s.inc a n).glb = s.glb := by
  rw [(State.inc_memStep ..).1]

@[simp] theorem State.auditWrite_glb (s : State) (o a old v wide kind) : (s.auditWrite o a old v wide kind).glb = s.glb := by
  unfold State.auditWrite
  grind only [State.audit_glb]

@[simp] theorem State.auditDev_glb (s : State) (a old new sec) : (s.auditDev a old new sec).glb = s.glb := by
  rw [(State.auditDev_recStep ..).1]

@[simp] theorem State.cmacRun_glb (s : State) (n) : (s.cmacRun n).glb = s.glb := by
  unfold State.cmacRun
  grind only [State.inc_glb]

@[simp] theorem State.deriveKey_glb (s : State) : s.deriveKey.glb = s.glb := by
  unfold State.deriveKey
  grind only [State.inc_glb, State.cmacRun_glb]

@[simp] theorem State.useKey_glb (s : State) (name) : (s.useKey name).glb = s.glb := by
  unfold State.useKey
  grind only [State.deriveKey_glb]

@[simp] theorem State.audDrain_glb (s : State) (n) : (s.audDrain n).glb = s.glb := by
  unfold State.audDrain
  grind only [State.inc_glb, State.useKey_glb, State.updRecs_glb]

@[simp] theorem State.imageRun_glb (s : State) (kind img) : (s.imageRun kind img).glb = s.glb := by
  unfold State.imageRun
  grind only [State.foldl_glb, State.inc_glb, State.cmacRun_glb, State.useKey_glb]

@[simp] theorem State.verifyRun_glb (s : State) (bank kind ok) : (s.verifyRun bank kind ok).glb = s.glb := by
  unfold State.verifyRun
  grind only [State.foldl_glb, State.inc_glb, State.cmacRun_glb, State.useKey_glb, State.imageRun_glb]

@[simp] theorem State.setMac_glb (s : State) (q v) : (s.setMac q v).glb = s.glb := by
  unfold State.setMac
  grind only [State.setReg_glb, State.auditDev_glb]

@[simp] theorem State.inc_nv (s : State) (a n) : (s.inc a n).nv = s.nv := by
  rw [(State.inc_memStep ..).1]

@[simp] theorem State.cmacRun_nv (s : State) (n) : (s.cmacRun n).nv = s.nv := by
  unfold State.cmacRun
  grind only [State.inc_nv]

@[simp] theorem State.deriveKey_nv (s : State) : s.deriveKey.nv = s.nv := by
  unfold State.deriveKey
  grind only [State.inc_nv, State.cmacRun_nv]

@[simp] theorem State.useKey_nv (s : State) (name) : (s.useKey name).nv = s.nv := by
  unfold State.useKey
  grind only [State.deriveKey_nv]

@[simp] theorem State.audDrain_nv (s : State) (n) : (s.audDrain n).nv = s.nv := by
  unfold State.audDrain
  grind only [State.inc_nv, State.useKey_nv, State.updRecs_nv]

@[simp] theorem State.inc_pending (s : State) (a n) : (s.inc a n).pending = s.pending := by
  rw [(State.inc_memStep ..).1]

@[simp] theorem State.cmacRun_pending (s : State) (n) : (s.cmacRun n).pending = s.pending := by
  unfold State.cmacRun
  grind only [State.inc_pending]

@[simp] theorem State.deriveKey_pending (s : State) : s.deriveKey.pending = s.pending := by
  unfold State.deriveKey
  grind only [State.inc_pending, State.cmacRun_pending]

@[simp] theorem State.useKey_pending (s : State) (name) : (s.useKey name).pending = s.pending := by
  unfold State.useKey
  grind only [State.deriveKey_pending]

@[simp] theorem State.audDrain_pending (s : State) (n) : (s.audDrain n).pending = s.pending := by
  unfold State.audDrain
  grind only [State.inc_pending, State.useKey_pending, State.updRecs_pending]

@[simp] theorem State.auditDev_boot (s : State) (a old new sec) : (s.auditDev a old new sec).boot = s.boot := by
  rw [(State.auditDev_recStep ..).1]

theorem State.audited_boot (s : State) (t e) {g : State → State} (h : (g s).boot = s.boot) : (s.audited t e g).boot = s.boot := by
  unfold State.audited
  grind only [State.auditDev_boot]

@[simp] theorem State.hlthEvent_boot (s : State) (num p0 p1 p2) : (s.hlthEvent num p0 p1 p2).boot = s.boot := by
  unfold State.hlthEvent
  grind only [State.event_boot]

@[simp] theorem State.placeEngine_boot (s : State) (failed e) : (s.placeEngine failed e).boot = s.boot := by
  unfold State.placeEngine
  grind only [State.updEng_boot, State.updTile_boot, State.audited_boot, State.hlthEvent_boot]

/-! ### Resets, the boot sequence, trial boots, supplies and links (16 R410 to R413, R430 to R434; 18 R466 to R473) -/

/-! #### What the steps of the boot sequence share -/

/-- `t` differs from `s` in registers, pages, platform events and what is to be written at most. -/
def NoticeStep (s t : State) : Prop := t = { s with regs := t.regs, pages := t.pages, todo := t.todo, mgmt := t.mgmt }

theorem NoticeStep.refl (s : State) : NoticeStep s s := rfl

theorem NoticeStep.trans {s t u : State} (h : NoticeStep s t) (k : NoticeStep t u) : NoticeStep s u := by
  unfold NoticeStep at *
  rw [k, h]

theorem NoticeStep.event {s t : State} (h : NoticeStep s t) (e : Ev) : NoticeStep s (t.event e) := h.trans rfl

theorem NoticeStep.inc {s t : State} (h : NoticeStep s t) (a n : Nat) : NoticeStep s (t.inc a n) := by
  rw [State.inc_eq t a n]
  exact h.trans rfl

theorem NoticeStep.pldm {s t : State} (h : NoticeStep s t) (e : PldmEv) : NoticeStep s (t.pldm e) := by
  unfold State.pldm
  split
  · exact h.trans rfl
  · exact (h.inc (Blk.mgmt.at 0 0x048) 1).trans rfl

theorem NoticeStep.ite {s t u : State} {c : Prop} [Decidable c] (h : NoticeStep s t) (k : NoticeStep s u) : NoticeStep s (if c then t else u) := by
  split
  · exact h
  · exact k

theorem NoticeStep.foldl {β : Type} {f : State → β → State} (step : ∀ t x, NoticeStep t (f t x)) (l : List β) (s : State) : NoticeStep s (l.foldl f s) := by
  induction l generalizing s with
  | nil => exact .refl s
  | cons x l ih => exact (step s x).trans (ih (f s x))

theorem State.lockPage_noticeStep (s : State) (pg : Nat) : NoticeStep s (s.lockPage pg) := .ite (.refl s) rfl

theorem State.setMac_noticeStep (s : State) (q v : Nat) : NoticeStep s (s.setMac q v) := by
  unfold State.setMac State.auditDev
  exact .ite rfl rfl

theorem State.bootMode_noticeStep (s : State) (q : Nat) : NoticeStep s (s.bootMode q) := State.setMac_noticeStep ..

theorem NoticeStep.seat {s t : State} (h : NoticeStep s t) : SeatStep s t := by
  rw [NoticeStep] at h
  rw [h]
  exact .of_same rfl rfl

/-! #### Resets -/

/-- Power that returns begins a new power cycle. -/
theorem State.answers_powerOn (s : State) : Answers .powerOn s fun t =>
    t.boot.stage = 1 ∧ t.boot.cause = 0 ∧ t.glb.service = 0 ∧ t.glb.cycles = s.glb.cycles + 1 ∧ t.nv = s.nv := by
  refine ⟨_, rfl, ?_⟩
  dsimp only
  rw [settle_boot, settle_glb, settle_nv]
  exact ⟨rfl, rfl, rfl, rfl, rfl⟩

/-- A reset that begins holds the device in reset. -/
theorem State.answers_devrstNAssert (s : State) {c : Nat} (s0 s1 s2 : Nat) (on : 2 ≤ s.boot.stage) (cause : c = 1 ∨ c = 2) : Answers (.devrstNAssert c) s fun t =>
    t.boot.stage = 1 ∧ t.boot.cause = c ∧ t.glb.service = 0 ∧ t.nv = s.nv ∧ t.tileMem = s.tileMem
      ∧ (t.recs.flushing = true → exec (.resetRelease s0 s1 s2) t = .fault .notDue) := by
  refine ⟨settle (s.beginReset c), due_of (by simpa [on] using cause) _, ?_⟩
  dsimp only
  rw [settle_boot, settle_glb, settle_nv, settle_tileMem]
  refine ⟨rfl, rfl, rfl, rfl, rfl, fun flushing => if_neg ?_⟩
  rw [flushing]
  simp

theorem majority_self (v : Nat) : majority v v v = v := by simp [majority]

/-- The device at the release of a reset, with its straps (16 R410, 18 R470). -/
def State.released (s : State) (v : Nat) : State := s.cleared.updBoot fun b => { b with
  stage := 2, cause := s.boot.cause, powerUp := false, releaseAt := s.opTime
  primerPort := if decide (s.portCount ≤ bits v 4 0) = true then 0 else bits v 4 0
  primerMed := if (bits v 6 5 == 3) = true then 0 else bits v 6 5, smbAddr := 0x58 + bits v 9 7
  bpos := if decide (bits v 15 13 < bits v 12 10) = true then 0 else bits v 12 10
  bsize := if decide (bits v 15 13 < bits v 12 10) = true then 0 else bits v 15 13 }

theorem State.released_glb (s : State) (v : Nat) : (s.released v).glb.service = 0 := rfl

theorem State.released_nv (s : State) (v : Nat) : (s.released v).nv = s.nv := s.audDrain_nv 1024

theorem State.released_pending (s : State) (v : Nat) : (s.released v).pending = s.pending := s.audDrain_pending 1024

/-- A release from reset whose straps agree is that state, with what it reports. -/
theorem State.exec_resetRelease (s : State) (v : Nat) (held : s.boot.stage = 1) (flushed : s.recs.flushing = false) (cool : s.thm.hold = false) :
    ∃ t, exec (.resetRelease v v v) s = .next (settle t) ∧ NoticeStep (s.released v) t := by
  refine ⟨_, due_of (by rw [held, flushed, cool]; rfl) _, ?_⟩
  simp only [majority_self]
  have power : NoticeStep (s.released v) (if (s.boot.cause == 0) = true then (s.released v).event { blk := .glb, num := 3, p0 := 0 } else s.released v) :=
    .ite rfl (.refl _)
  have straps (b : Bool) := power.trans (NoticeStep.ite (c := b = true) ((NoticeStep.refl _).event { blk := .glb, num := 4 }) (.refl _))
  exact (straps _).trans (NoticeStep.ite ((NoticeStep.refl _).inc 0x6088 s.recs.untagged) (.refl _))

/-- What the release of a reset keeps is in force after it. -/
theorem State.answers_resetRelease (s : State) {v : Nat} (held : s.boot.stage = 1) (flushed : s.recs.flushing = false) (cool : s.thm.hold = false) :
    Answers (.resetRelease v v v) s fun t =>
      t.boot.stage = 2 ∧ t.boot.cause = s.boot.cause ∧ t.glb.service = 0 ∧ t.nv = s.nv ∧ t.tileMem = [] ∧ t.ctxs = [] ∧ t.conns = [] ∧ t.wqs = []
        ∧ t.plumb.now = 0 ∧ t.pending = s.pending
        ∧ t.boot.primerPort = (if bits v 4 0 < s.portCount then bits v 4 0 else 0) ∧ t.boot.smbAddr = 0x58 + bits v 9 7 := by
  obtain ⟨t, answer, noticed⟩ := s.exec_resetRelease v held flushed cool
  refine ⟨_, answer, ?_⟩
  dsimp only
  rw [settle_boot, settle_glb, settle_nv, settle_tileMem, settle_ctxs, settle_conns, settle_wqs, settle_plumb, settle_pending]
  rw [NoticeStep] at noticed
  rw [noticed]
  refine ⟨rfl, rfl, rfl, s.released_nv v, rfl, rfl, rfl, rfl, rfl, s.released_pending v, ?_, rfl⟩
  show (if decide (s.portCount ≤ bits v 4 0) = true then 0 else bits v 4 0) = _
  by_cases there : bits v 4 0 < s.portCount
  · rw [if_neg (by simpa using there), if_pos there]
  · rw [if_pos (by simpa using there), if_neg there]

/-- A supply that fails holds the device in reset. -/
theorem State.supplyReset_boot (s : State) : s.supplyReset.boot.stage = 1 ∧ s.supplyReset.boot.cause = 0 ∧ s.supplyReset.glb.service = 0 := ⟨rfl, rfl, rfl⟩

/-- A flush that runs is not ended by writing records. -/
theorem storeEvent_flushing {s : State} (runs : s.recs.flushing = true) (e : Ev) : (storeEvent s e).recs.flushing = true := by
  unfold storeEvent
  dsimp only
  split
  · split <;> simp [State.startFlush, runs]
  · split <;> split <;> simp [State.startFlush, runs]

theorem settleOne_flushing {s : State} (runs : s.recs.flushing = true) (t : Todo) : (settleOne s t).recs.flushing = true := by
  cases t with
  | event e =>
    show (settleEvent s e).recs.flushing = true
    unfold settleEvent
    refine storeEvent_flushing ?_ e
    split
    · rw [State.notify_recs]
      exact runs
    · exact runs
  | audit a =>
    show (settleAudit s a).recs.flushing = true
    have stored : (storeAudit s { time := s.plumb.now, entry := a }).recs.flushing = true := by
      simp [storeAudit, runs]
    unfold settleAudit
    dsimp only
    split
    · rw [State.memWrite_recs, stored]
    · exact stored
  | evq q r =>
    show (settleEvq s q r).recs.flushing = true
    unfold settleEvq
    dsimp only
    split
    · exact runs
    · split
      · exact (congrArg Recs.flushing (State.inc_recs ..)).trans runs
      · split
        · rw [State.memWrite_recs]
          exact runs
        · exact runs

theorem settle_flushing {s : State} (runs : s.recs.flushing = true) : (settle s).recs.flushing = true := by
  have round {s : State} (runs : s.recs.flushing = true) : (settleRound s).recs.flushing = true := by
    have all (l : List Todo) (s : State) (runs : s.recs.flushing = true) : (l.foldl settleOne s).recs.flushing = true := by
      induction l generalizing s with
      | nil => exact runs
      | cons x l ih => exact ih _ (settleOne_flushing runs x)
    exact all _ _ runs
  have rounds (n : Nat) (s : State) (runs : s.recs.flushing = true) : (settleRounds n s).recs.flushing = true := by
    induction n generalizing s with
    | zero => exact runs
    | succ n ih =>
      unfold settleRounds
      split
      · exact runs
      · exact ih _ (round runs)
  exact rounds 64 s runs

/-- What a warning of power failure starts. -/
theorem State.powerFail_noticeStep (s : State) : NoticeStep ((s.event { blk := .mgmt, num := 1 }).startFlush none true) s.powerFail :=
  (NoticeStep.refl _).pldm _

/-- Power that fails is warned of once, and what the records hold is flushed. -/
theorem State.answers_pwrfailWarning (s : State) (on : 2 ≤ s.boot.stage) (calm : s.boot.warning = false) : Answers .pwrfailWarning s fun t =>
    t.boot = { s.boot with warning := true } ∧ t.recs.flushing = true := by
  have warned : s.powerFail.boot = s.boot ∧ s.powerFail.recs.flushing = true := by
    rw [s.powerFail_noticeStep]
    exact ⟨rfl, rfl⟩
  refine ⟨_, due_of (by rw [decide_eq_true on, calm]; rfl) _, (settle_boot _).trans ?_, settle_flushing warned.2⟩
  exact congrArg (fun b : Boot => { b with warning := true }) warned.1

/-! #### Images -/

/-- Both images of a kind fail: the ROM goes on alone, or the image is held. -/
theorem State.answers_imageVerify_fail (s : State) {kind ver : Nat} (asks : s.verifies kind = true) (first : s.agrees s.firstBank kind ver false = true)
    (other : s.agrees (1 - s.firstBank) kind ver false = true) : Answers (.imageVerifyComplete kind ver false false) s fun t =>
      t.boot.running = s.boot.running ∧ (kind = 1 → t.boot.romOnly = true)
        ∧ (kind ≠ 1 → t.glb.heldImage = some kind ∧ t.glb.service = s.glb.service) := by
  have cause : (s.verifies kind && s.agrees s.firstBank kind ver false && (false || s.agrees (1 - s.firstBank) kind ver false)) = true := by
    rw [asks, first, other]; rfl
  let u := s.verifyRun s.firstBank kind false
  let v := (u.verifyRun (1 - s.firstBank) kind false).updBoot fun b => { b with trialBad := b.trialBad || u.glb.trial }
  have running : v.boot.running = s.boot.running := by
    show (State.boot (State.verifyRun _ _ _ _)).running = _
    rw [State.verifyRun_boot, State.verifyRun_boot]
  have service : v.glb.service = s.glb.service := congrArg Glb.service ((State.verifyRun_glb ..).trans (State.verifyRun_glb ..))
  by_cases island : kind = 1
  · have answer : exec (.imageVerifyComplete kind ver false false) s = .next (settle (v.updBoot ({ · with romOnly := true }))) :=
      (due_of cause _).trans (congrArg (fun t => Host.Outcome.next (settle t)) (if_pos island))
    exact ⟨_, answer, (congrArg Boot.running (settle_boot _)).trans running, fun _ => congrArg Boot.romOnly (settle_boot _), fun no => absurd island no⟩
  · have answer : exec (.imageVerifyComplete kind ver false false) s
        = .next (settle ({ v with glb := { v.glb with heldImage := some kind } }.pldm { what := 7, p0 := kind })) :=
      (due_of cause _).trans (congrArg (fun t => Host.Outcome.next (settle t)) (if_neg island))
    have told := (NoticeStep.refl { v with glb := { v.glb with heldImage := some kind } }).pldm { what := 7, p0 := kind }
    refine ⟨_, answer, ?_, fun yes => absurd yes island, fun _ => ?_⟩
    · rw [settle_boot, told]
      exact running
    · rw [settle_glb, told]
      exact ⟨rfl, service⟩

/-! ### Primer and Finish service, trials and links (16 R411 to R413, R430 to R434; 07 R187; 08 R216) -/

/-! #### The stacks that make the memory -/

/-- A stack that trained serves; one that `bad` names is marked failed (07 R187). -/
def State.seated (bad : List (Nat × Nat)) (s : State) (m : Nat) : State :=
  match bad.find? (·.1 == m) with
  | none => s.updStack m ({ · with st := 2, half := true })
  | some (_, c) => (s.updStack m ({ · with st := 3, half := true })).event { blk := .hbm, inst := m, num := 5, p0 := c }

/-- The state of the stack after that. -/
def seatOf (bad : List (Nat × Nat)) (m : Nat) : Nat := if bad.any fun x => x.1 == m then 3 else 2

theorem Stack.ne_of_st {x : Stack} (on : x.st ≠ 0) : x ≠ {} := fun empty => on (congrArg Stack.st empty)

theorem State.stack_updStack (s : State) (m n : Nat) {g : Stack → Stack} (full : g (s.stack m) ≠ {}) :
    (s.updStack m g).stack n = if n = m then g (s.stack m) else s.stack n := Tab.get_set_of_ne s.stackTab m n full

/-- Seating a stack changes the table of stacks and reports at most. -/
theorem State.seated_eq (bad : List (Nat × Nat)) (s : State) (m : Nat) :
    s.seated bad m = { s with stackTab := (s.seated bad m).stackTab, todo := (s.seated bad m).todo } := by
  unfold State.seated
  split <;> rfl

theorem State.stack_seated_self (bad : List (Nat × Nat)) (s : State) (m : Nat) : ((s.seated bad m).stack m).st = seatOf bad m := by
  unfold State.seated
  rw [seatOf, ← List.isSome_find?]
  cases bad.find? (·.1 == m) with
  | none =>
    show ((s.updStack m ({ · with st := 2, half := true })).stack m).st = 2
    rw [State.stack_updStack, if_pos rfl]
    exact Stack.ne_of_st (show 2 ≠ 0 by decide)
  | some x =>
    show ((s.updStack m ({ · with st := 3, half := true })).stack m).st = 3
    rw [State.stack_updStack, if_pos rfl]
    exact Stack.ne_of_st (show 3 ≠ 0 by decide)

theorem State.stack_seated_other (bad : List (Nat × Nat)) (s : State) {m n : Nat} (other : n ≠ m) : (s.seated bad m).stack n = s.stack n := by
  unfold State.seated
  cases bad.find? (·.1 == m) with
  | none =>
    show (s.updStack m ({ · with st := 2, half := true })).stack n = s.stack n
    rw [State.stack_updStack, if_neg other]
    exact Stack.ne_of_st (show 2 ≠ 0 by decide)
  | some x =>
    show (s.updStack m ({ · with st := 3, half := true })).stack n = s.stack n
    rw [State.stack_updStack, if_neg other]
    exact Stack.ne_of_st (show 3 ≠ 0 by decide)

theorem State.foldl_seated_eq (bad : List (Nat × Nat)) (ms : List Nat) (s : State) :
    ∃ a b, ms.foldl (State.seated bad) s = { s with stackTab := a, todo := b } := by
  induction ms generalizing s with
  | nil => exact ⟨s.stackTab, s.todo, rfl⟩
  | cons m ms ih =>
    obtain ⟨a, b, rest⟩ := ih (s.seated bad m)
    refine ⟨a, b, ?_⟩
    rw [List.foldl_cons, rest, s.seated_eq bad m]

/-- Every stack of the list is seated. -/
theorem State.stack_foldl_seated (bad : List (Nat × Nat)) {ms : List Nat} {m : Nat} (listed : m ∈ ms) (s : State) :
    ((ms.foldl (State.seated bad) s).stack m).st = seatOf bad m := by
  have keeps (ms : List Nat) (s : State) (seat : (s.stack m).st = seatOf bad m) : ((ms.foldl (State.seated bad) s).stack m).st = seatOf bad m := by
    induction ms generalizing s with
    | nil => exact seat
    | cons k ms ih =>
      refine ih _ ?_
      by_cases here : m = k
      · subst here
        exact s.stack_seated_self bad m
      · rw [s.stack_seated_other bad here, seat]
  induction ms generalizing s with
  | nil => cases listed
  | cons k ms ih =>
    rcases List.mem_cons.mp listed with rfl | later
    · exact keeps ms _ (s.stack_seated_self bad m)
    · exact ih later _

/-- What Primer service does after the stacks are seated. -/
def State.primed (s : State) : State :=
  let s := if (s.page Blk.dust.page).lock then s else
    ((s.lockPage Blk.dust.page).event { blk := .dust, num := 3 }).pldm { what := 3, p0 := 3 }
  let s := lockedPages.foldl State.lockPage s
  let q := s.boot.primerPort
  let s := s.setMac q (setBits (setBits (s.reg (macReg q 0x040)) 2 0 1) 4 3 s.boot.primerMed)
  let s := { s with dust := { s.dust with linkArmed := true, linkAt := s.plumb.now }, glb := { s.glb with service := 1 } }
  ((s.updBoot ({ · with stage := 3 })).event { blk := .glb, num := 1 }).pldm { what := 1, p0 := 1 }

/-- The link's heartbeat is armed and the service has begun. -/
def State.primer (s : State) : State :=
  { s with dust := { s.dust with linkArmed := true, linkAt := s.plumb.now }, glb := { s.glb with service := 1 }, boot := { s.boot with stage := 3 } }

theorem NoticeStep.primer {s t : State} (h : NoticeStep s t) : NoticeStep s.primer t.primer := by
  rw [NoticeStep] at *
  rw [h]
  rfl

/-- But for notices, that is all. -/
theorem State.primed_noticeStep (s : State) : NoticeStep s.primer s.primed := by
  unfold State.primed
  extract_lets a b q c
  have locked : NoticeStep s a := .ite (.refl s) (((s.lockPage_noticeStep _).event _).pldm _)
  have set_ : NoticeStep s c := (locked.trans (NoticeStep.foldl State.lockPage_noticeStep _ _)).trans (State.setMac_noticeStep ..)
  clear_value c
  exact (set_.primer.event _).pldm _

theorem State.site_lt {s : State} {m : Nat} (there : s.siteThere m = true) : m < 8 := by
  have inside := of_decide_eq_true there
  split at inside
  · exact inside
  · split at inside <;> omega

/-- The stacks that are on the package and not yet in service. -/
def State.waitingStacks (s : State) : List Nat := (List.range 8).filter fun m => s.siteThere m && (s.stack m).st == 0

/-- They are seated, and those that trained make the memory, in their order. -/
def State.stacksSeated (s : State) (bad : List (Nat × Nat)) : State :=
  let u := s.waitingStacks.foldl (State.seated bad) s
  { u with mem := { u.mem with order := s.waitingStacks.filter fun m => !bad.any (·.1 == m) } }

theorem State.exec_primerServiceStart (s : State) (bad : List (Nat × Nat)) (held : s.boot.stage = 2) (runs : s.boot.runs 1 = true) :
    exec (.primerServiceStart bad) s = .next (settle (s.stacksSeated bad).primed) := by
  refine (due_of (by rw [held, runs]; rfl) _).trans ?_
  unfold State.primed State.stacksSeated State.waitingStacks
  generalize lockedPages = pages
  generalize List.range 8 = sites
  rfl

/-- Primer service starts with the stacks that trained. -/
theorem State.answers_primerServiceStart (s : State) (bad : List (Nat × Nat)) (held : s.boot.stage = 2) (runs : s.boot.runs 1 = true) :
    Answers (.primerServiceStart bad) s fun t =>
      t.mem.order = (List.range 8).filter (fun m => s.siteThere m && (s.stack m).st == 0 && !bad.any fun x => x.1 == m)
        ∧ (∀ m, s.siteThere m = true → (s.stack m).st = 0 → (t.stack m).st = if bad.any fun x => x.1 == m then 3 else 2)
        ∧ t.boot.stage = 3 ∧ t.glb.service = 1 ∧ t.dust.linkArmed = true ∧ t.dust.linkAt = s.plumb.now ∧ t.nv = s.nv := by
  have noticed : NoticeStep (s.stacksSeated bad).primer (s.stacksSeated bad).primed := (s.stacksSeated bad).primed_noticeStep
  have seated : SeatStep (s.stacksSeated bad).primer (settle (s.stacksSeated bad).primed) := noticed.seat.trans (settle_seatStep _)
  obtain ⟨a, b, same⟩ := State.foldl_seated_eq bad s.waitingStacks s
  refine ⟨_, s.exec_primerServiceStart bad held runs, seated.1.trans ?_, fun m there idle => ?_, ?_⟩
  · show s.waitingStacks.filter _ = _
    rw [State.waitingStacks, List.filter_filter]
    exact List.filter_congr fun m _ => Bool.and_comm _ _
  · have listed : m ∈ s.waitingStacks := by
      simp [State.waitingStacks, there, idle, State.site_lt there]
    have seat : ((s.stacksSeated bad).primer.stack m).st = seatOf bad m := State.stack_foldl_seated bad listed s
    rw [seated.2 m, seat]
    · rfl
    · rw [seat, seatOf]
      split <;> decide
  · rw [settle_boot, settle_glb, settle_dust, settle_nv, noticed]
    refine ⟨rfl, rfl, rfl, ?_, ?_⟩
    · show (s.waitingStacks.foldl (State.seated bad) s).plumb.now = _
      rw [same]
    · show (s.waitingStacks.foldl (State.seated bad) s).nv = _
      rw [same]

/-! #### The steps of Primer service -/

theorem State.foldl_placeEngine_boot (failed l : List Nat) (s : State) : (l.foldl (fun s e => s.placeEngine failed e) s).boot = s.boot :=
  State.foldl_eq_of_step_eq State.boot _ (fun _ _ => State.placeEngine_boot ..) l s

/-- Where every engine passed, its self-test has ended. -/
theorem State.answers_engineSelfTestComplete (s : State) (held : s.boot.stage = 3) (runs : s.boot.runs 4 = true) (new : s.boot.selfTested = false) :
    Answers (.engineSelfTestComplete []) s fun t => t.boot = { s.boot with selfTested := true } := by
  refine ⟨_, due_of (by rw [held, runs, new]; rfl) _, (settle_boot _).trans ?_⟩
  generalize List.range 48 = engines
  exact congrArg (fun b : Boot => { b with selfTested := true }) (s.foldl_placeEngine_boot [] engines)

/-- A port's calibration ends, well or not. -/
theorem State.answers_portCalibrationComplete (s : State) {q : Nat} (ok : Bool) (held : s.boot.stage = 3) (runs : s.boot.runs 3 = true)
    (asks : s.calibrates q = true) (new : (s.boot.calibrated.any fun x => x.1 == q) = false) : Answers (.portCalibrationComplete q ok) s fun t =>
      t.boot = { s.boot with calibrated := s.boot.calibrated ++ [(q, ok)] } ∧ (ok = false → (t.port q).failed = true) := by
  refine ⟨_, due_of (by rw [held, runs, asks, new]; rfl) _, ?_⟩
  cases ok with
  | true => exact ⟨settle_boot _, fun no => Bool.noConfusion no⟩
  | false =>
    refine ⟨settle_boot _, fun _ => ?_⟩
    rw [settle_port]
    refine congrArg Port.failed (State.port_updPort (q := q) (g := ({ · with failed := true })) _ fun empty => ?_)
    cases show true = false from congrArg Port.failed empty

/-- A stack's training ends, well or not. -/
theorem State.answers_stackRetrainComplete (s : State) {m : Nat} (ok : Bool) (held : s.boot.stage = 3) (there : s.siteThere m = true)
    (serves : (s.stack m).st = 2) (half : (s.stack m).half = true) : Answers (.stackRetrainComplete m ok) s fun t =>
      t.boot = { s.boot with retrained := s.boot.retrained ++ [m] } := by
  refine ⟨_, due_of (by rw [held, there, serves, half]; rfl) _, (settle_boot _).trans ?_⟩
  rw [State.auditDev_boot]
  split <;> rfl

/-- Finish service starts when every step has ended. -/
theorem State.answers_finishServiceStart (s : State) (held : s.boot.stage = 3) (primer : s.glb.service = 1) (ended : s.bootEnded = true) :
    Answers .finishServiceStart s fun t => t.glb.service = 2 ∧ t.boot.stage = 4 := by
  refine ⟨_, due_of (by rw [held, primer, ended]; rfl) _, ?_⟩
  extract_lets u staged g v w x
  dsimp only
  have modes : NoticeStep v w := NoticeStep.foldl (fun t q => .ite (.refl t) (t.bootMode_noticeStep q)) _ v
  have told : NoticeStep x ((x.event { blk := .glb, num := 1 }).pldm { what := 1, p0 := 2 }) := ((NoticeStep.refl x).event _).pldm _
  rw [settle_boot, settle_glb, told]
  refine ⟨?_, rfl⟩
  show w.glb.service = 2
  rw [modes]

/-! #### Trials -/

/-- A trial that is confirmed makes its bank the active one, once. -/
theorem State.answers_trialConfirm (s : State) (finish : s.glb.service = 2) (trial : s.glb.trial = true) (clean : s.boot.trialClean = true)
    (good : s.boot.trialBad = false) (late : s.boot.finishAt + 60000000000 ≤ s.opTime) : Answers .trialConfirm s fun t =>
      t.nv.active = 1 - s.nv.active ∧ t.nv.trial = false ∧ t.glb.trial = false ∧ exec .trialConfirm t = .fault .notDue := by
  let u : State := { s.updNv fun n => { n with active := 1 - n.active, trial := false, raise := s.boot.running.map fun x => (x.1, x.2.2) } with
    glb := { s.glb with trial := false }, boot := { s.boot with confirmed := true } }
  have told : NoticeStep u ((u.event { blk := .glb, num := 7 }).pldm { what := 6, p0 := 1 }) := ((NoticeStep.refl u).event _).pldm _
  have ended : (settle ((u.event { blk := .glb, num := 7 }).pldm { what := 6, p0 := 1 })).glb = { s.glb with trial := false } := by
    rw [settle_glb, told]
  have bank : (settle ((u.event { blk := .glb, num := 7 }).pldm { what := 6, p0 := 1 })).nv = u.nv := by
    rw [settle_nv, told]
  refine ⟨settle ((u.event { blk := .glb, num := 7 }).pldm { what := 6, p0 := 1 }),
    due_of (by rw [finish, trial, clean, good, decide_eq_true late]; rfl) _, congrArg Nv.active bank, congrArg Nv.trial bank, congrArg Glb.trial ended,
    if_neg ?_⟩
  rw [ended]
  simp

/-- A trial that fails resets the device to boot the bank before it. -/
theorem State.answers_trialFail (s : State) (on : 2 ≤ s.boot.stage) (trial : s.glb.trial = true) (fails : s.boot.trialBad || !s.boot.trialClean) :
    Answers .trialFail s fun t => t.nv = { s.nv with trial := false } ∧ t.boot.stage = 1 ∧ t.boot.cause = 5 := by
  have cause : (decide (2 ≤ s.boot.stage) && s.glb.trial && (s.boot.trialBad || !s.boot.trialClean || s.glb.service == 3
      || (s.boot.stage != 4 && decide (s.boot.releaseAt + 15000000000 ≤ s.opTime)))) = true := by
    rw [decide_eq_true on, trial, show (s.boot.trialBad || !s.boot.trialClean) = true from fails]
    rfl
  have told : NoticeStep (s.updNv ({ · with trial := false })) (((s.updNv ({ · with trial := false })).event { blk := .glb, num := 7 }).pldm { what := 6, p0 := 0 }) :=
    ((NoticeStep.refl _).event _).pldm _
  refine ⟨_, due_of cause _, (settle_nv _).trans ?_, congrArg Boot.stage (settle_boot _), congrArg Boot.cause (settle_boot _)⟩
  exact (congrArg State.nv told).trans rfl

/-- Settles O54: resets, the boot sequence, trial boots, supplies and links. -/
theorem bootSequence : Obligations.BootSequence := by
  unfold Obligations.BootSequence
  intro s b
  refine ⟨s.answers_powerOn, fun c s0 s1 s2 on cause => s.answers_devrstNAssert s0 s1 s2 on cause, fun v held flushed cool => s.answers_resetRelease held flushed cool,
    fun held runs bad => s.answers_primerServiceStart bad held runs, fun kind ver other asks first => exec_imageVerifyComplete_of_pass asks first other,
    fun kind ver asks first other => s.answers_imageVerify_fail asks first other,
    fun held => ⟨s.answers_engineSelfTestComplete held, fun q ok runs asks new => s.answers_portCalibrationComplete ok held runs asks new,
      fun m there serves half ok => s.answers_stackRetrainComplete ok held there serves half, s.answers_finishServiceStart held⟩,
    s.answers_trialConfirm, s.answers_trialFail,
    fun on => ⟨⟨settle s.supplyReset, due_of (decide_eq_true on) _, ?_⟩, ⟨_, due_of (decide_eq_true on) _, ?_⟩, s.answers_pwrfailWarning on,
      fun warned => ⟨_, due_of (by rw [decide_eq_true on, show s.boot.warning = true from warned]; rfl) _, settle_boot _⟩⟩,
    fun c low up => ?_, fun c speed width flit low s1 s6 w1 w16 on runs main => ?_,
    fun off => ⟨_, due_of (by rw [off]; rfl) _, settle_dbgPort _⟩, fun on => ⟨_, due_of on _, settle_dbgPort _⟩, rfl⟩
  · dsimp only
    rw [settle_boot, settle_glb]
    exact s.supplyReset_boot
  · dsimp only
    rw [settle_boot]
    exact ⟨rfl, rfl⟩
  · refine (due_of (by rw [decide_eq_true low, up]; rfl) _).trans ?_
    exact congrArg (fun t => Host.Outcome.next (settle t)) (if_pos up)
  · have main_ : (c == 0 || s.glb.service == 2) = true := by simpa using main
    exact due_of (by rw [decide_eq_true low, decide_eq_true s1, decide_eq_true s6, decide_eq_true w1, decide_eq_true w16, decide_eq_true on, runs, main_]; rfl) _

end Sys2Proof.Machine
end
